-- ==== Sys2Proof/Word.lean ====
section
/-! DEFINITION. The word types of the KZ-9 (R4, R7). Arithmetic on them is Lean's own BitVec arithmetic. -/

namespace Sys2Proof

/-- A byte of memory. -/
abbrev Byte := BitVec 8

/-- A lane register, predicate word, lane mask or instruction word (R7, R20). -/
abbrev Word := BitVec 32

/-- A uniform register, system register, virtual address or meridian time (R7, R286, R316). -/
abbrev DWord := BitVec 64

end Sys2Proof
end

