-- ==== Sys2Proof/Syntax.lean ====
section
/-! DEFINITION. The instructions of the KZ-9: one constructor for each row of the opcode table. The first 308 rows are
instruction words of the set Fletur (R20, R39, R42); the last rows, and `endlRemoteStop`, are the device's own steps, which
no word encodes (95_what_each_step_holds.md) and whose arguments say where or with which outside data they happen. -/

namespace Sys2Proof

/-- Fields of the lane formats LR, LL and LG (R23): guard, W, D, A, and the field B, O6 or S of bits [7:2]. -/
structure LaneR where
  g : BitVec 4
  w : Bool
  d : BitVec 6
  a : BitVec 6
  b : BitVec 6
  deriving DecidableEq, Repr

/-- Fields of the lane format LI (R23), with the whole of I8. -/
structure LaneI where
  g : BitVec 4
  w : Bool
  d : BitVec 6
  a : BitVec 6
  i : BitVec 8
  deriving DecidableEq, Repr

/-- Fields of lane OP 12 (R166): the kind is the constructor, `n` is I8[4:0]. -/
structure LaneSh where
  g : BitVec 4
  w : Bool
  d : BitVec 6
  a : BitVec 6
  n : BitVec 5
  deriving DecidableEq, Repr

/-- Fields of the uniform format UR (R26). -/
structure UniR where
  g : BitVec 4
  d : BitVec 6
  a : BitVec 6
  b : BitVec 6
  deriving DecidableEq, Repr

/-- Fields of the uniform format UI (R26). -/
structure UniI where
  g : BitVec 4
  d : BitVec 6
  i : BitVec 15
  deriving DecidableEq, Repr

/-- Fields of the uniform format UB (R26). -/
structure UniB where
  g : BitVec 4
  o : BitVec 21
  deriving DecidableEq, Repr

/-- Fields of the uniform format UL (R26): `c` is bits [9:0], a count, or an s register in [9:4] and zero below. -/
structure UniL where
  g : BitVec 4
  level : BitVec 2
  len : BitVec 8
  c : BitVec 10
  deriving DecidableEq, Repr

/-- A host access through the control window (R430, R431): its offset, which is 0x8_0000 or more in the aperture, its size, and
the bytes of a write. -/
structure ApertureReq where
  off : Nat
  size : Nat
  write : Option (List Byte)
  deriving DecidableEq, Repr

/-- What the boot ROM and the self-test find at a power-up or reset (R427, R434, R441): facts of the module, not of a program. -/
structure BootFacts where
  testOk : Bool
  /-- Compute core and the mask of the nominal column banks that self-test finds faulty. -/
  faulty : List (Nat × BitVec 32)
  /-- The memory map's list of base and length, where a pseudo-channel is retired. -/
  memMap : List (Nat × Nat)
  deriving DecidableEq, Repr

/-- What another device of the pod makes of this one: a transfer (R374 to R378), an access to a line of this device's memory, whose
`raddr` is then its physical address (R304, R318, R324), or what it tells of stores made elsewhere (R333). -/
structure InboundReq where
  /-- 0 PUT, 1 GET, 2 PUTC, 3 ATOMR (R375); 4 line fill or UC read, 5 store, 6 atomic, of a frame that the other device maps REMOTE (R332:
  `aop` 0 ADD, 1 MAX, 2 MIN, 3 EXCH, 4 AND, 5 OR, 6 XOR, 7 ADDF, 8 CAS with the compare value before the new one in `data`); 7 a store of
  another member of the replica set, at its place in the sequence; 8 every other replica has applied this device's store number `len`;
  9 a store was performed at `raddr` of device `rctr`'s memory; 10 the writes of the inbound transfer number `len` have returned (this
  device's own step). -/
  kind : Nat
  asid : BitVec 16
  raddr : DWord
  len : Nat
  data : List Byte
  rctr : BitVec 12
  rinc : BitVec 32
  aop : BitVec 4
  opnd : DWord
  cmpv : DWord
  deriving DecidableEq, Repr

/-- What the target of a transfer answers (R374, R378, R380): a status code, its cause, how many bytes it wrote, and the bytes
of a GET or the old value. -/
structure FabricResp where
  code : Nat
  cause : Nat
  written : Nat
  data : List Byte
  deriving DecidableEq, Repr

/-- What the other participants of a collective present when they meet (R391, R398): whether all agree, whether all are
reachable, and whether one of them has aborted. -/
structure MeetResp where
  agree : Bool
  reachable : Bool
  aborted : Bool
  deriving DecidableEq, Repr

/-- The other participants' contributions to one chunk (R393), as rank and bytes, or an abort of one of them (R398). -/
structure ChunkResp where
  aborted : Bool
  contrib : List (Nat × List Byte)
  deriving DecidableEq, Repr

/-- One constructor for each row of the opcode table. -/
inductive Instr where
  /-- IADD (R161). -/
  | iadd (f : LaneR)
  /-- IADDS (R161). -/
  | iadds (f : LaneR)
  /-- IADDD (R161). -/
  | iaddd (f : LaneR)
  /-- ISUB (R161). -/
  | isub (f : LaneR)
  /-- ISUBS (R161). -/
  | isubs (f : LaneR)
  /-- ISUBD (R161). -/
  | isubd (f : LaneR)
  /-- IMUL (R161). -/
  | imul (f : LaneR)
  /-- IMULH (R161). -/
  | imulh (f : LaneR)
  /-- IMULHU (R161). -/
  | imulhu (f : LaneR)
  /-- IMULW (R161). -/
  | imulw (f : LaneR)
  /-- IMAD (R161). -/
  | imad (f : LaneR)
  /-- IMADW (R161). -/
  | imadw (f : LaneR)
  /-- IDOT4 (R161). -/
  | idot4 (f : LaneR)
  /-- IMIN (R161). -/
  | imin (f : LaneR)
  /-- IMINU (R161). -/
  | iminu (f : LaneR)
  /-- IMAX (R161). -/
  | imax (f : LaneR)
  /-- IMAXU (R161). -/
  | imaxu (f : LaneR)
  /-- AND (R161). -/
  | andL (f : LaneR)
  /-- OR (R161). -/
  | orL (f : LaneR)
  /-- XOR (R161). -/
  | xorL (f : LaneR)
  /-- ANDN (R161). -/
  | andn (f : LaneR)
  /-- SHL (R161). -/
  | shl (f : LaneR)
  /-- SHR (R161). -/
  | shr (f : LaneR)
  /-- SAR (R161). -/
  | sar (f : LaneR)
  /-- ROTL (R161). -/
  | rotl (f : LaneR)
  /-- POPC (R161). -/
  | popc (f : LaneR)
  /-- CLZ (R161). -/
  | clz (f : LaneR)
  /-- BREV (R161). -/
  | brev (f : LaneR)
  /-- IABS (R161). -/
  | iabs (f : LaneR)
  /-- BFX (R162). -/
  | bfx (f : LaneR)
  /-- BFXS (R162). -/
  | bfxs (f : LaneR)
  /-- BFI (R162). -/
  | bfi (f : LaneR)
  /-- ICMP_EQ (R163). -/
  | icmpEq (f : LaneR)
  /-- ICMP_NE (R163). -/
  | icmpNe (f : LaneR)
  /-- ICMP_LT (R163). -/
  | icmpLt (f : LaneR)
  /-- ICMP_LE (R163). -/
  | icmpLe (f : LaneR)
  /-- ICMPU_LT (R163). -/
  | icmpuLt (f : LaneR)
  /-- ICMPU_LE (R163). -/
  | icmpuLe (f : LaneR)
  /-- ICMPU_GT (R163). -/
  | icmpuGt (f : LaneR)
  /-- ICMPU_GE (R163). -/
  | icmpuGe (f : LaneR)
  /-- PAND (R164). -/
  | pand (f : LaneR)
  /-- POR (R164). -/
  | por (f : LaneR)
  /-- PXOR (R164). -/
  | pxor (f : LaneR)
  /-- PNAND (R164). -/
  | pnand (f : LaneR)
  /-- PMOVR (R164). -/
  | pmovr (f : LaneR)
  /-- PMOVW (R164). -/
  | pmovw (f : LaneR)
  /-- PBIT (R164). -/
  | pbit (f : LaneR)
  /-- MOV (R165). -/
  | mov (f : LaneR)
  /-- MOVS (R165). -/
  | movs (f : LaneR)
  /-- SELF (R59). -/
  | selfIx (f : LaneR)
  /-- LANEID (R165). -/
  | laneid (f : LaneR)
  /-- SELP (R167). -/
  | selp (f : LaneI)
  /-- IADDI (R166). -/
  | iaddi (f : LaneI)
  /-- MOVI (R166). -/
  | movi (f : LaneI)
  /-- SHLI (R166). -/
  | shli (f : LaneSh)
  /-- SHRI (R166). -/
  | shri (f : LaneSh)
  /-- SARI (R166). -/
  | sari (f : LaneSh)
  /-- ROTLI (R166). -/
  | rotli (f : LaneSh)
  /-- ANDI (R166). -/
  | andi (f : LaneI)
  /-- NBL (R176). -/
  | nbl (f : LaneR)
  /-- NBR (R176). -/
  | nbr (f : LaneR)
  /-- NBLB (R176). -/
  | nblb (f : LaneR)
  /-- NBRB (R176). -/
  | nbrb (f : LaneR)
  /-- SHFL_IDX (R172). -/
  | shflIdx (f : LaneR)
  /-- SHFL_XOR (R172). -/
  | shflXor (f : LaneR)
  /-- SHFL_UP (R172). -/
  | shflUp (f : LaneR)
  /-- SHFL_DN (R172). -/
  | shflDn (f : LaneR)
  /-- BALLOT (R173). -/
  | ballot (f : LaneR)
  /-- ANY (R173). -/
  | anyP (f : LaneR)
  /-- ALL (R173). -/
  | allP (f : LaneR)
  /-- ELECT (R173). -/
  | elect (f : LaneR)
  /-- LRED_IADD (R174). -/
  | lredIadd (f : LaneR)
  /-- LRED_IMAX (R174). -/
  | lredImax (f : LaneR)
  /-- LRED_FADD (R205). -/
  | lredFadd (f : LaneR)
  /-- LRED_FMAX (R205). -/
  | lredFmax (f : LaneR)
  /-- LSCAN_IADD_EX (R174). -/
  | lscanIaddEx (f : LaneR)
  /-- LSCAN_IADD_IN (R174). -/
  | lscanIaddIn (f : LaneR)
  /-- LSCAN_FADD_EX (R205). -/
  | lscanFaddEx (f : LaneR)
  /-- LSCAN_FADD_IN (R205). -/
  | lscanFaddIn (f : LaneR)
  /-- FADD (R200). -/
  | fadd (f : LaneR) (rm : BitVec 2)
  /-- FSUB (R200). -/
  | fsub (f : LaneR) (rm : BitVec 2)
  /-- FMUL (R200). -/
  | fmul (f : LaneR) (rm : BitVec 2)
  /-- FFMA (R200). -/
  | ffma (f : LaneR) (rm : BitVec 2)
  /-- FMIN (R201). -/
  | fmin (f : LaneR)
  /-- FMAX (R201). -/
  | fmax (f : LaneR)
  /-- FMINN (R201). -/
  | fminn (f : LaneR)
  /-- FMAXN (R201). -/
  | fmaxn (f : LaneR)
  /-- FCMP_EQ (R202). -/
  | fcmpEq (f : LaneR)
  /-- FCMP_LT (R202). -/
  | fcmpLt (f : LaneR)
  /-- FCMP_LE (R202). -/
  | fcmpLe (f : LaneR)
  /-- FCMP_UN (R202). -/
  | fcmpUn (f : LaneR)
  /-- FABS (R203). -/
  | fabs (f : LaneR)
  /-- FNEG (R203). -/
  | fneg (f : LaneR)
  /-- FRINT (R203). -/
  | frint (f : LaneR)
  /-- FCLASS (R203). -/
  | fclass (f : LaneR)
  /-- FRCP (R204). -/
  | frcp (f : LaneR)
  /-- FRSQ (R204). -/
  | frsq (f : LaneR)
  /-- FEX2 (R204). -/
  | fex2 (f : LaneR)
  /-- FLG2 (R204). -/
  | flg2 (f : LaneR)
  /-- HADD2 (R206). -/
  | hadd2 (f : LaneR)
  /-- HMUL2 (R206). -/
  | hmul2 (f : LaneR)
  /-- HFMA2 (R206). -/
  | hfma2 (f : LaneR)
  /-- HMAX2 (R206). -/
  | hmax2 (f : LaneR)
  /-- F2BF (R207). -/
  | f2bf (f : LaneR)
  /-- BF2F (R207). -/
  | bf2f (f : LaneR)
  /-- F2I (R208). -/
  | f2i (f : LaneR)
  /-- I2F (R207). -/
  | i2f (f : LaneR)
  /-- F2IZ (R208). -/
  | f2iz (f : LaneR)
  /-- U2F (R207). -/
  | u2f (f : LaneR)
  /-- F2UZ (R208). -/
  | f2uz (f : LaneR)
  /-- BSCALE (R209). -/
  | bscale (f : LaneR)
  /-- BSQ (R210). -/
  | bsq (f : LaneR)
  /-- BSQE (R210). -/
  | bsqe (f : LaneR)
  /-- BSDQ (R211). -/
  | bsdq (f : LaneR)
  /-- CBX_B8 (R218). -/
  | cbxB8 (f : LaneR)
  /-- CBX_N4 (R218). -/
  | cbxN4 (f : LaneR)
  /-- XFFMA (R219). -/
  | xffma (f : LaneR) (k : BitVec 2)
  /-- XFMUL (R219). -/
  | xfmul (f : LaneR) (k : BitVec 2)
  /-- MFRAG (R255). -/
  | mfrag (f : LaneR)
  /-- MFRAGA (R255). -/
  | mfraga (f : LaneR)
  /-- MFRAGX (R255). -/
  | mfragx (f : LaneR)
  /-- RMOD (R257). -/
  | rmod (f : LaneR)
  /-- RREC (R258). -/
  | rrec (f : LaneR)
  /-- RCHK (R258). -/
  | rchk (f : LaneR)
  /-- RMAD_C0_3 (R257). -/
  | rmadC03 (f : LaneR) (c : BitVec 2)
  /-- RMAD_C4_5 (R257). -/
  | rmadC45 (f : LaneR) (c : BitVec 1)
  /-- LDL (R282). -/
  | ldl (f : LaneR) (sz : BitVec 2)
  /-- STL (R282). -/
  | stl (f : LaneR) (sz : BitVec 2)
  /-- LDLV (R282). -/
  | ldlv (f : LaneR) (sz : BitVec 2)
  /-- STLV (R282). -/
  | stlv (f : LaneR) (sz : BitVec 2)
  /-- ATL_ADD (R283). -/
  | atlAdd (f : LaneR)
  /-- ATL_MAX (R283). -/
  | atlMax (f : LaneR)
  /-- ATL_MIN (R283). -/
  | atlMin (f : LaneR)
  /-- ATL_EXCH (R283). -/
  | atlExch (f : LaneR)
  /-- CASL (R283). -/
  | casl (f : LaneR) (z : BitVec 1)
  /-- LD (R310). -/
  | ld (f : LaneR) (sz : BitVec 2)
  /-- ST (R310). -/
  | st (f : LaneR) (sz : BitVec 2)
  /-- LDA (R338). -/
  | lda (f : LaneR) (fo : BitVec 2)
  /-- STR (R338). -/
  | str (f : LaneR) (fo : BitVec 2)
  /-- ATOM_ADD (R339). -/
  | atomAdd (f : LaneR)
  /-- ATOM_MAX (R339). -/
  | atomMax (f : LaneR)
  /-- ATOM_MIN (R339). -/
  | atomMin (f : LaneR)
  /-- ATOM_EXCH (R339). -/
  | atomExch (f : LaneR)
  /-- ATOMB_AND (R339). -/
  | atombAnd (f : LaneR)
  /-- ATOMB_OR (R339). -/
  | atombOr (f : LaneR)
  /-- ATOMB_XOR (R339). -/
  | atombXor (f : LaneR)
  /-- ATOMB_ADDF (R339). -/
  | atombAddf (f : LaneR)
  /-- CAS_W (R340). -/
  | casW (f : LaneR)
  /-- CAS_D (R340). -/
  | casD (f : LaneR)
  /-- CAS_Q (R340). -/
  | casQ (f : LaneR)
  /-- CAS_Q_AR (R340). -/
  | casQAr (f : LaneR)
  /-- UNOP (R42). -/
  | unop
  /-- UADD (R168). -/
  | uadd (f : UniR)
  /-- USUB (R168). -/
  | usub (f : UniR)
  /-- UMUL (R168). -/
  | umul (f : UniR)
  /-- UMULH (R168). -/
  | umulh (f : UniR)
  /-- UMULHU (R168). -/
  | umulhu (f : UniR)
  /-- UMIN (R168). -/
  | umin (f : UniR)
  /-- UMAX (R168). -/
  | umax (f : UniR)
  /-- UMINU (R168). -/
  | uminu (f : UniR)
  /-- UAND (R168). -/
  | uand (f : UniR)
  /-- UOR (R168). -/
  | uor (f : UniR)
  /-- UXOR (R168). -/
  | uxor (f : UniR)
  /-- UANDN (R168). -/
  | uandn (f : UniR)
  /-- USHL (R168). -/
  | ushl (f : UniR)
  /-- USHR (R168). -/
  | ushr (f : UniR)
  /-- USAR (R168). -/
  | usar (f : UniR)
  /-- UROTL (R168). -/
  | urotl (f : UniR)
  /-- UADDI (R169). -/
  | uaddi (f : UniI)
  /-- ULI (R169). -/
  | uli (f : UniI)
  /-- ULIH (R169). -/
  | ulih (f : UniI)
  /-- UCMP_EQ (R170). -/
  | ucmpEq (f : UniR)
  /-- UCMP_NE (R170). -/
  | ucmpNe (f : UniR)
  /-- UCMP_LT (R170). -/
  | ucmpLt (f : UniR)
  /-- UCMP_LE (R170). -/
  | ucmpLe (f : UniR)
  /-- UCMP_LTU (R170). -/
  | ucmpLtu (f : UniR)
  /-- UCMP_LEU (R170). -/
  | ucmpLeu (f : UniR)
  /-- KAND (R170). -/
  | kand (f : UniR)
  /-- KOR (R170). -/
  | kor (f : UniR)
  /-- KXOR (R170). -/
  | kxor (f : UniR)
  /-- KNOT (R170). -/
  | knot (f : UniR)
  /-- KANY (R170). -/
  | kany (f : UniR)
  /-- KALL (R170). -/
  | kall (f : UniR)
  /-- KNONE (R170). -/
  | knone (f : UniR)
  /-- UMOV (R170). -/
  | umov (f : UniR)
  /-- UFIRST (R170). -/
  | ufirst (f : UniR)
  /-- UACTIVE (R170). -/
  | uactive (f : UniR)
  /-- UCOUNT (R170). -/
  | ucount (f : UniR)
  /-- ULEA (R168). -/
  | ulea (f : UniR) (n : BitVec 3)
  /-- USREAD (R179). -/
  | usread (f : UniI)
  /-- USWRITE (R179). -/
  | uswrite (f : UniI)
  /-- BRA (R134). -/
  | bra (f : UniB)
  /-- BRD (R135). -/
  | brd (f : UniB)
  /-- CALL (R143). -/
  | call (f : UniB)
  /-- RET (R143). -/
  | ret (f : UniR)
  /-- BRX (R143). -/
  | brx (f : UniR)
  /-- CALLX (R143). -/
  | callx (f : UniR)
  /-- ENROL (R140). -/
  | enrol (f : UniR)
  /-- ENROL_MASK (R140). -/
  | enrolMask (f : UniR)
  /-- REJOIN (R141). -/
  | rejoin (f : UniR)
  /-- STRIKE (R140). -/
  | strike (f : UniR)
  /-- LOOP_IMM (R144). -/
  | loopImm (f : UniL)
  /-- LOOP_REG (R144). -/
  | loopReg (f : UniL)
  /-- LBRK (R146). -/
  | lbrk (g : BitVec 4) (level : BitVec 2)
  /-- BAR (R150). -/
  | bar (f : UniR)
  /-- ARRIVE (R150). -/
  | arrive (f : UniR)
  /-- AWAIT (R150). -/
  | await (f : UniR)
  /-- ARRWAIT (R150). -/
  | arrwait (f : UniR)
  /-- SSTEP (R400). -/
  | sstep (f : UniR)
  /-- SSTEP_POD (R400). -/
  | sstepPod (f : UniR)
  /-- NAP_UNTIL (R153). -/
  | napUntil (f : UniR)
  /-- NAP_WAKE (R153). -/
  | napWake (f : UniR)
  /-- NAP_CYC (R153). -/
  | napCyc (f : UniR)
  /-- WAKE (R154). -/
  | wake (f : UniR)
  /-- SPAWN (R65). -/
  | spawn (f : UniR)
  /-- SPAWNF (R65). -/
  | spawnf (f : UniR)
  /-- FREEZE (R71). -/
  | freeze (f : UniR)
  /-- FREEZEN (R85). -/
  | freezen (f : UniR)
  /-- NEST (R83). -/
  | nest (f : UniR)
  /-- END (R89). -/
  | endU (f : UniR)
  /-- ENDL (R89). -/
  | endl (f : UniR)
  /-- ENDL_REMOTE_STOP (R89). -/
  | endlRemoteStop (gid : Nat) (lane : Nat)
  /-- LAUNCH (R104). -/
  | launch (f : UniR)
  /-- LAUNCH_TRY (R104). -/
  | launchTry (f : UniR)
  /-- LWAIT (R108). -/
  | lwait (f : UniR)
  /-- LWAIT_POLL (R108). -/
  | lwaitPoll (f : UniR)
  /-- YIELD (R124). -/
  | yield (f : UniR)
  /-- CURF (R123). -/
  | curf (f : UniR)
  /-- STATID (R197). -/
  | statid (f : UniR)
  /-- TILE (R240). -/
  | tile (f : UniR)
  /-- TILE_L (R240). -/
  | tileL (f : UniR)
  /-- TWAIT (R244). -/
  | twait (f : UniR)
  /-- TWAIT_POLL (R244). -/
  | twaitPoll (f : UniR)
  /-- TDRAIN_FP32 (R247). -/
  | tdrainFp32 (f : UniR)
  /-- TDRAIN_BF16 (R247). -/
  | tdrainBf16 (f : UniR)
  /-- TDRAIN_ACC (R247). -/
  | tdrainAcc (f : UniR)
  /-- TDRAIN_I64 (R247). -/
  | tdrainI64 (f : UniR)
  /-- TDRAIN_PLANES (R247). -/
  | tdrainPlanes (f : UniR)
  /-- TZERO (R243). -/
  | tzero (f : UniR)
  /-- MODSET (R227). -/
  | modset (f : UniR)
  /-- MODSET_READ (R227). -/
  | modsetRead (f : UniR)
  /-- MODSET_DEFAULT (R227). -/
  | modsetDefault (f : UniR)
  /-- CTNRD (R261). -/
  | ctnrd (f : UniR)
  /-- CTNRD_INJECT (R262). -/
  | ctnrdInject (f : UniR)
  /-- CTNRD_CLR (R261). -/
  | ctnrdClr (f : UniR)
  /-- CBALLOC (R215). -/
  | cballoc (f : UniR)
  /-- CBALLOC_FREE (R215). -/
  | cballocFree (f : UniR)
  /-- CBFENCE (R215). -/
  | cbfence (f : UniR)
  /-- CBLD (R216). -/
  | cbld (f : UniR) (k : BitVec 2)
  /-- CBW (R217). -/
  | cbw (g : BitVec 4) (d : BitVec 6) (bank : BitVec 3) (e : BitVec 8) (h : BitVec 1)
  /-- CBR (R217). -/
  | cbr (g : BitVec 4) (d : BitVec 6) (e : BitVec 8) (h : BitVec 1) (bank : BitVec 3)
  /-- PIN (R272). -/
  | pin (f : UniR)
  /-- UNPIN (R272). -/
  | unpin (f : UniR)
  /-- STASH (R276). -/
  | stash (f : UniR)
  /-- STASH_WB (R276). -/
  | stashWb (f : UniR)
  /-- STASH_UNMAP (R276). -/
  | stashUnmap (f : UniR)
  /-- STASH_DISCARD (R276). -/
  | stashDiscard (f : UniR)
  /-- COLINFO (R280). -/
  | colinfo (f : UniR)
  /-- FENCE_T (R343). -/
  | fenceT (f : UniR)
  /-- FENCE_D (R343). -/
  | fenceD (f : UniR)
  /-- FENCE_P (R343). -/
  | fenceP (f : UniR)
  /-- FENCE_SC (R343). -/
  | fenceSc (f : UniR)
  /-- FENCE_ACQ (R343). -/
  | fenceAcq (f : UniR)
  /-- FENCE_ENG (R343). -/
  | fenceEng (f : UniR)
  /-- PREF2 (R312). -/
  | pref2 (f : UniR)
  /-- PREF1 (R312). -/
  | pref1 (f : UniR)
  /-- EVICT1 (R312). -/
  | evict1 (f : UniR)
  /-- WBL2 (R312). -/
  | wbl2 (f : UniR)
  /-- PLQ (R313). -/
  | plq (f : UniR)
  /-- PLINV (R313). -/
  | plinv (f : UniR)
  /-- TLBI (R314). -/
  | tlbi (f : UniR)
  /-- TLBI_VA (R314). -/
  | tlbiVa (f : UniR)
  /-- TLBI_ALL (R314). -/
  | tlbiAll (f : UniR)
  /-- COPY_PLAIN (R351). -/
  | copyPlain (f : UniR)
  /-- COPY_SB12 (R351). -/
  | copySb12 (f : UniR)
  /-- COPY_RP16 (R351). -/
  | copyRp16 (f : UniR)
  /-- COPY_BF16 (R351). -/
  | copyBf16 (f : UniR)
  /-- COPY_GATHER (R351). -/
  | copyGather (f : UniR)
  /-- COPY_DRAIN (R422). -/
  | copyDrain (f : UniR)
  /-- CWAIT (R354). -/
  | cwait (f : UniR)
  /-- CWAIT_POLL (R354). -/
  | cwaitPoll (f : UniR)
  /-- CWAIT_CANCEL (R354). -/
  | cwaitCancel (f : UniR)
  /-- SLUICE_EXCL (R360). -/
  | sluiceExcl (f : UniR)
  /-- SLUICE_WRITE (R360). -/
  | sluiceWrite (f : UniR)
  /-- SLUICE_SNAP (R360). -/
  | sluiceSnap (f : UniR)
  /-- SLUICE_UNLOCK (R360). -/
  | sluiceUnlock (f : UniR)
  /-- BRINE (R368). -/
  | brine (f : UniR)
  /-- BWAIT (R369). -/
  | bwait (f : UniR)
  /-- BWAIT_POLL (R369). -/
  | bwaitPoll (f : UniR)
  /-- BTBL (R365). -/
  | btbl (f : UniR)
  /-- PUT (R377). -/
  | putX (f : UniR)
  /-- GET (R377). -/
  | getX (f : UniR)
  /-- PUTC (R377). -/
  | putc (f : UniR)
  /-- ATOMR (R377). -/
  | atomr (f : UniR)
  /-- TSEND (R386). -/
  | tsend (f : UniR)
  /-- TSEND_CANCEL (R386). -/
  | tsendCancel (f : UniR)
  /-- CTRRD (R384). -/
  | ctrrd (f : UniR)
  /-- CTRSET (R384). -/
  | ctrset (f : UniR)
  /-- CTRWAIT (R384). -/
  | ctrwait (f : UniR)
  /-- CTRADD (R384). -/
  | ctradd (f : UniR)
  /-- COLL (R392). -/
  | coll (f : UniR)
  /-- COLL_WAIT (R392). -/
  | collWait (f : UniR)
  /-- COLL_POLL (R392). -/
  | collPoll (f : UniR)
  /-- COLL_ABORT (R398). -/
  | collAbort (f : UniR)
  /-- TRAP (R412). -/
  | trapI (f : UniR)
  /-- TRESUME (R410). -/
  | tresume (f : UniR)
  /-- SAVE (R411). -/
  | saveBlk (f : UniR)
  /-- RESTORE (R411). -/
  | restoreBlk (f : UniR)
  /-- HOSTSIG (R413). -/
  | hostsig (f : UniR)
  /-- TRAP_BACKOFF_EXPIRY (R404). -/
  | trapBackoffExpiry (gid : Nat) (lane : Nat)
  /-- COALESCER_CLOSE (R405). -/
  | coalescerClose (rec : Nat)
  /-- TRAP_QUEUE_WRITE (R406). -/
  | trapQueueWrite (rec : Nat)
  /-- SERVICE_FAULT_POST (R414). -/
  | serviceFaultPost
  /-- HOST_PROGRAM_START (R93). -/
  | hostProgramStart (slot : Nat) (v : DWord)
  /-- HOST_PROGRAM_ABORT (R94). -/
  | hostProgramAbort (slot : Nat) (v : DWord)
  /-- SERVICE_TEAM_START (R433). -/
  | serviceTeamStart (v : DWord)
  /-- REGISTER_WRITE (R431). -/
  | registerWrite (off : Nat) (v : DWord)
  /-- APERTURE_ACCESS (R431). -/
  | apertureAccess (a : ApertureReq)
  /-- FEAT_ACCEPT_WRITE (R440). -/
  | featAcceptWrite (v : DWord)
  /-- CURFEW_WIN_WRITE (R122). -/
  | curfewWinWrite (v : DWord)
  /-- LEASE_L1_WRITE (R323). -/
  | leaseL1Write (v : DWord)
  /-- PWR_CAP_WRITE (R443). -/
  | pwrCapWrite (v : DWord)
  /-- ZONE_REQ_WRITE (R306). -/
  | zoneReqWrite (v : DWord)
  /-- TQ_BASE_WRITE (R406). -/
  | tqBaseWrite (v : DWord)
  /-- HSIG_TAIL_WRITE (R433). -/
  | hsigTailWrite (v : DWord)
  /-- ERR_SUM_CTL_WRITE (R432). -/
  | errSumCtlWrite (v : DWord)
  /-- MER_CTL_WRITE (R444). -/
  | merCtlWrite (v : DWord)
  /-- ATT_CTL_START (R437). -/
  | attCtlStart (v : DWord)
  /-- ATTESTATION_COMPLETE (R437). -/
  | attestationComplete
  /-- FW_UPD_START (R435). -/
  | fwUpdStart (v : DWord)
  /-- FW_UPDATE_COMPLETE (R435). -/
  | fwUpdateComplete
  /-- WARM_RESET (R432). -/
  | warmReset
  /-- POWER_UP (R434). -/
  | powerUp (b : BootFacts)
  /-- POWER_LOSS (R429). -/
  | powerLoss
  /-- THERMAL_TRIP (R443). -/
  | thermalTrip
  /-- CLOCK_THROTTLE (R443). -/
  | clockThrottle (cycles : Nat)
  /-- MERIDIAN_LOCK (R444). -/
  | meridianLock (ns : Nat)
  /-- MERIDIAN_LOCK_LOSS (R444). -/
  | meridianLockLoss
  /-- QUEUE_PAIR_SETUP (R373). -/
  | queuePairSetup (pod : Nat)
  /-- INBOUND_FABRIC_REQUEST (R378). -/
  | inboundFabricRequest (r : InboundReq)
  /-- RED_CONTRIBUTION (R388). -/
  | redContribution (store : Nat)
  /-- REPLICA_STORE (R333). -/
  | replicaStore (store : Nat)
  /-- SCHEDULER_PASS (R115). -/
  | schedulerPass
  /-- CURFEW_WINDOW_CLOSE (R125). -/
  | curfewWindowClose (team : Nat)
  /-- TEAM_SAVE (R126). -/
  | teamSave (team : Nat)
  /-- LAUNCH_LATE (R111). -/
  | launchLate (entry : Nat)
  /-- LAUNCH_COMPLETION (R113). -/
  | launchCompletion (entry : Nat)
  /-- BIN_TIMER_EXPIRY (R63). -/
  | binTimerExpiry (core : Nat) (bin : Nat)
  /-- BIN_GROUP_FORMATION (R63). -/
  | binGroupFormation (core : Nat) (bin : Nat)
  /-- PARKED_ROW_RETRY (R77). -/
  | parkedRowRetry (gid : Nat) (lane : Nat)
  /-- BRD_SLOT_TIMEOUT (R137). -/
  | brdSlotTimeout (gid : Nat) (lane : Nat)
  /-- NAP_UNTIL_EXPIRY (R153). -/
  | napUntilExpiry (gid : Nat) (lane : Nat)
  /-- NAP_CYCLE_EXPIRY (R153). -/
  | napCycleExpiry (gid : Nat) (lane : Nat)
  /-- STORE_AT_L2 (R298). -/
  | storeAtL2 (store : Nat)
  /-- STORE_APPLICATION (R324). -/
  | storeApplication (store : Nat)
  /-- STORE_TIME_RETURN (R325). -/
  | storeTimeReturn (store : Nat)
  /-- STORE_FAILURE_RETURN (R299). -/
  | storeFailureReturn (store : Nat)
  /-- PAGE_TABLE_WALK (R296). -/
  | pageTableWalk (core : Nat) (asid : Nat) (va : DWord)
  /-- LINE_FILL (R324). -/
  | lineFill (core : Nat) (asid : Nat) (va : DWord)
  /-- LEASE_EXPIRY (R323). -/
  | leaseExpiry (core : Nat) (asid : Nat) (va : DWord)
  /-- ZONE_COMPRESSION (R307). -/
  | zoneCompression
  /-- CBLD_COMPLETE (R216). -/
  | cbldComplete (core : Nat) (bank : Nat)
  /-- TILE_OPERATION_START (R241). -/
  | tileOperationStart (core : Nat)
  /-- TILE_OPERATION_COMPLETE (R244). -/
  | tileOperationComplete (core : Nat)
  /-- TZERO_RUN (R243). -/
  | tzeroRun (core : Nat)
  /-- CTN_INJECTION_RUN (R262). -/
  | ctnInjectionRun (core : Nat)
  /-- DRAIN_RUN (R248). -/
  | drainRun (core : Nat)
  /-- DRAIN_COMPLETE (R252). -/
  | drainComplete (core : Nat)
  /-- FRAGMENT_COMPLETE (R255). -/
  | fragmentComplete (gid : Nat)
  /-- COPY_OPERATION_START (R352). -/
  | copyOperationStart (engine : Nat)
  /-- COPY_OPERATION_COMPLETE (R352). -/
  | copyOperationComplete (engine : Nat)
  /-- BRINE_JOB_START (R367). -/
  | brineJobStart (brineLane : Nat)
  /-- BRINE_JOB_COMPLETE (R369). -/
  | brineJobComplete (brineLane : Nat)
  /-- TRANSFER_COMPLETE (R378). -/
  | transferComplete (entry : Nat) (r : FabricResp)
  /-- TRIGGERED_TRANSFER_START (R387). -/
  | triggeredTransferStart (slot : Nat)
  /-- COLLECTIVE_MEET (R391). -/
  | collectiveMeet (entry : Nat) (r : MeetResp)
  /-- COLLECTIVE_CHUNK_REDUCE (R393). -/
  | collectiveChunkReduce (entry : Nat) (chunk : Nat) (r : ChunkResp)
  /-- COLLECTIVE_COMPLETE (R393). -/
  | collectiveComplete (entry : Nat)
  /-- PARTICIPANT_UNREACHABLE (R398). -/
  | participantUnreachable (entry : Nat)
  /-- SUPERSTEP_COMPLETE (R400): how many other devices have reported under the tag, and the count of the first report, 0 for none. -/
  | superstepComplete (entry : Nat) (others : Nat) (first : Nat)
  /-- FABRIC_PORT_DOWN (R371). -/
  | fabricPortDown (port : Nat)
  /-- FABRIC_PORT_UP (R444). -/
  | fabricPortUp (port : Nat)
  /-- PEER_STORE_PERFORM (R284). -/
  | peerStorePerform (store : Nat)
  deriving DecidableEq, Repr

end Sys2Proof
end

