-- ==== Sys2Proof/WellFormed.lean ====
section
/-! DEFINITION. Which instruction terms name an instruction word that the KZ-9 does not refuse as ILLEGAL on its own
(R24, R25, R27, R28, R34, R36, R39, R40, R42): register kinds, unused fields, guards and the W bit. What depends on the
machine's state (features, window, service core, mode, latches) is checked by the meanings (R35). -/

namespace Sys2Proof

/-- Operand kinds of the lane and uniform sets (R25, R28, R39, R40, R42). -/
inductive FieldKind where
  | dst | src | srcA | any | pair | pred | zero | vreg | kdst | ksrc | jreg | acc | bank | bar | rmask
  | below (n : Nat) | mult (n max : Nat)
  deriving DecidableEq, Repr

/-- Does a six-bit field hold a legal value for the kind? -/
def FieldKind.ok (k : FieldKind) (x : BitVec 6) : Bool :=
  match k with
  | .dst | .src | .vreg => decide (x.toNat < 60)
  | .srcA | .any => true
  | .pair => decide (x.toNat < 60) && decide (x.toNat % 2 = 0)
  | .pred => decide (x.toNat < 32)
  | .zero => x == 0
  | .kdst => decide (x.toNat < 7)
  | .ksrc | .jreg | .bank => decide (x.toNat < 8)
  | .acc => decide (x.toNat < 4)
  | .bar => decide (x.toNat < 16)
  | .rmask => decide (0 < x.toNat) && decide (x.toNat < 16)
  | .below n => decide (x.toNat < n)
  | .mult n m => decide (x.toNat % n = 0) && decide (x.toNat ≤ m)

/-- What W means (R34): a push of class A, the AND of a compare, or nothing. -/
inductive WKind where
  | push | anded | off
  deriving DecidableEq, Repr

/-- G = 0b1111 is ILLEGAL as a guard (R24, R27). -/
def guardOk (g : BitVec 4) : Bool := g != 15

/-- G[2:0] = 7 is ILLEGAL where G is a selector: SELP and BRD (R24, R27). -/
def selectorOk (g : BitVec 4) : Bool := g != 15 && g != 7

/-- R34: W = 1 of a pushing instruction needs D = 0; elsewhere W = 1 is ILLEGAL, compares apart. -/
def WKind.ok (k : WKind) (w : Bool) (d : BitVec 6) : Bool :=
  match k with
  | .push => !w || d == 0
  | .anded => true
  | .off => !w

def LaneR.ok (f : LaneR) (w : WKind) (d a b : FieldKind) : Bool :=
  guardOk f.g && w.ok f.w f.d && d.ok f.d && a.ok f.a && b.ok f.b

/-- LI forms (R166): all push, A is a class A source or unused. -/
def LaneI.ok (f : LaneI) (guard : BitVec 4 → Bool) (usesA : Bool) : Bool :=
  guard f.g && WKind.push.ok f.w f.d && FieldKind.dst.ok f.d && (usesA || f.a == 0)

def LaneSh.ok (f : LaneSh) : Bool :=
  guardOk f.g && WKind.push.ok f.w f.d && FieldKind.dst.ok f.d

def UniR.ok (f : UniR) (d a b : FieldKind) : Bool :=
  guardOk f.g && d.ok f.d && a.ok f.a && b.ok f.b

/-- The register groups `[x, x+n)` and `[y, y+m)` do not overlap (R254). -/
def apart (x : BitVec 6) (n : Nat) (y : BitVec 6) (m : Nat) : Bool :=
  decide (x.toNat + n ≤ y.toNat) || decide (y.toNat + m ≤ x.toNat)

/-- Well-formed instructions, with the limits of each form's operands (R25, R34, R254, R281); the device's own steps have no encoding and are
always well formed. -/
def Instr.wf (i : Instr) : Bool :=
  match i with
  | .iadd f => f.ok .push .dst .srcA .srcA
  | .iadds f => f.ok .push .dst .srcA .srcA
  | .iaddd f => f.ok .push .pair .pair .pair
  | .isub f => f.ok .push .dst .srcA .srcA
  | .isubs f => f.ok .push .dst .srcA .srcA
  | .isubd f => f.ok .push .pair .pair .pair
  | .imul f => f.ok .push .dst .srcA .srcA
  | .imulh f => f.ok .push .dst .srcA .srcA
  | .imulhu f => f.ok .push .dst .srcA .srcA
  | .imulw f => f.ok .push .pair .srcA .srcA
  | .imad f => f.ok .push .dst .srcA .srcA
  | .imadw f => f.ok .push .pair .srcA .srcA
  | .idot4 f => f.ok .push .dst .srcA .srcA
  | .imin f => f.ok .push .dst .srcA .srcA
  | .iminu f => f.ok .push .dst .srcA .srcA
  | .imax f => f.ok .push .dst .srcA .srcA
  | .imaxu f => f.ok .push .dst .srcA .srcA
  | .andL f => f.ok .push .dst .srcA .srcA
  | .orL f => f.ok .push .dst .srcA .srcA
  | .xorL f => f.ok .push .dst .srcA .srcA
  | .andn f => f.ok .push .dst .srcA .srcA
  | .shl f => f.ok .push .dst .srcA .srcA
  | .shr f => f.ok .push .dst .srcA .srcA
  | .sar f => f.ok .push .dst .srcA .srcA
  | .rotl f => f.ok .push .dst .srcA .srcA
  | .popc f => f.ok .push .dst .srcA .zero
  | .clz f => f.ok .push .dst .srcA .zero
  | .brev f => f.ok .push .dst .srcA .zero
  | .iabs f => f.ok .push .dst .srcA .zero
  | .bfx f => f.ok .push .dst .srcA .srcA
  | .bfxs f => f.ok .push .dst .srcA .srcA
  | .bfi f => f.ok .push .dst .srcA .srcA
  | .icmpEq f => f.ok .anded .pred .srcA .srcA
  | .icmpNe f => f.ok .anded .pred .srcA .srcA
  | .icmpLt f => f.ok .anded .pred .srcA .srcA
  | .icmpLe f => f.ok .anded .pred .srcA .srcA
  | .icmpuLt f => f.ok .anded .pred .srcA .srcA
  | .icmpuLe f => f.ok .anded .pred .srcA .srcA
  | .icmpuGt f => f.ok .anded .pred .srcA .srcA
  | .icmpuGe f => f.ok .anded .pred .srcA .srcA
  | .pand f => f.ok .off .pred .pred .pred
  | .por f => f.ok .off .pred .pred .pred
  | .pxor f => f.ok .off .pred .pred .pred
  | .pnand f => f.ok .off .pred .pred .pred
  | .pmovr f => f.ok .off .dst .zero .zero
  | .pmovw f => f.ok .off .zero .srcA .zero
  | .pbit f => f.ok .off .pred .srcA (.below 32)
  | .mov f => f.ok .push .dst .srcA .zero
  | .movs f => f.ok .push .dst .any (.below 2)
  | .selfIx f => f.ok .push .dst (.below 8) .zero
  | .laneid f => f.ok .push .dst .zero .zero
  | .selp f => f.ok selectorOk true
  | .iaddi f => f.ok guardOk true
  | .movi f => f.ok guardOk false
  | .shli f => f.ok
  | .shri f => f.ok
  | .sari f => f.ok
  | .rotli f => f.ok
  | .andi f => f.ok guardOk true
  | .nbl f => f.ok .off .dst .src .zero
  | .nbr f => f.ok .off .dst .src .zero
  | .nblb f => f.ok .off .dst .src .src
  | .nbrb f => f.ok .off .dst .src .src
  | .shflIdx f => f.ok .off .dst .src .src
  | .shflXor f => f.ok .off .dst .src .src
  | .shflUp f => f.ok .off .dst .src .src
  | .shflDn f => f.ok .off .dst .src .src
  | .ballot f => f.ok .off .dst .pred .zero
  | .anyP f => f.ok .off .pred .pred .zero
  | .allP f => f.ok .off .pred .pred .zero
  | .elect f => f.ok .off .pred .zero .zero
  | .lredIadd f => f.ok .off .dst .src .zero
  | .lredImax f => f.ok .off .dst .src .zero
  | .lredFadd f => f.ok .off .dst .src .zero
  | .lredFmax f => f.ok .off .dst .src .zero
  | .lscanIaddEx f => f.ok .off .dst .src .zero
  | .lscanIaddIn f => f.ok .off .dst .src .zero
  | .lscanFaddEx f => f.ok .off .dst .src .zero
  | .lscanFaddIn f => f.ok .off .dst .src .zero
  | .fadd f _ => f.ok .push .dst .srcA .srcA
  | .fsub f _ => f.ok .push .dst .srcA .srcA
  | .fmul f _ => f.ok .push .dst .srcA .srcA
  | .ffma f _ => f.ok .push .dst .srcA .srcA
  | .fmin f => f.ok .push .dst .srcA .srcA
  | .fmax f => f.ok .push .dst .srcA .srcA
  | .fminn f => f.ok .push .dst .srcA .srcA
  | .fmaxn f => f.ok .push .dst .srcA .srcA
  | .fcmpEq f => f.ok .anded .pred .srcA .srcA
  | .fcmpLt f => f.ok .anded .pred .srcA .srcA
  | .fcmpLe f => f.ok .anded .pred .srcA .srcA
  | .fcmpUn f => f.ok .anded .pred .srcA .srcA
  | .fabs f => f.ok .push .dst .srcA .zero
  | .fneg f => f.ok .push .dst .srcA .zero
  | .frint f => f.ok .push .dst .srcA .zero
  | .fclass f => f.ok .push .dst .srcA .zero
  | .frcp f => f.ok .off .dst .src .zero
  | .frsq f => f.ok .off .dst .src .zero
  | .fex2 f => f.ok .off .dst .src .zero
  | .flg2 f => f.ok .off .dst .src .zero
  | .hadd2 f => f.ok .push .dst .srcA .srcA
  | .hmul2 f => f.ok .push .dst .srcA .srcA
  | .hfma2 f => f.ok .push .dst .srcA .srcA
  | .hmax2 f => f.ok .push .dst .srcA .srcA
  | .f2bf f => f.ok .push .dst .srcA .zero
  | .bf2f f => f.ok .push .dst .srcA .zero
  | .f2i f => f.ok .push .dst .srcA .zero
  | .i2f f => f.ok .push .dst .srcA .zero
  | .f2iz f => f.ok .push .dst .srcA .zero
  | .u2f f => f.ok .push .dst .srcA .zero
  | .f2uz f => f.ok .push .dst .srcA .zero
  | .bscale f => f.ok .push .dst .srcA .srcA
  | .bsq f => f.ok .push .dst .srcA .srcA
  | .bsqe f => f.ok .push .dst .srcA .srcA
  | .bsdq f => f.ok .push .dst .srcA .srcA
  | .cbxB8 f => f.ok .off .dst .src .any
  | .cbxN4 f => f.ok .off .dst .src .any
  | .xffma f _ => f.ok .off .dst .src .src
  | .xfmul f _ => f.ok .off .dst .src .src
  | .mfrag f => f.ok .off (.mult 8 48) (.mult 4 48) (.mult 4 48) && apart f.d 8 f.a 12 && apart f.d 8 f.b 12
  | .mfraga f => f.ok .off (.mult 8 48) (.mult 4 48) (.mult 4 48) && apart f.d 8 f.a 12 && apart f.d 8 f.b 12
  | .mfragx f => f.ok .off (.mult 8 48) (.mult 4 48) .src && apart f.d 8 f.a 12 && apart f.d 8 f.b 1
  | .rmod f => f.ok .off .dst .src .src
  | .rrec f => f.ok .off .pair (.below 58) .src
  | .rchk f => f.ok .off .dst (.below 58) .src
  | .rmadC03 f _ => f.ok .off .dst .src .src
  | .rmadC45 f _ => f.ok .off .dst .src .src
  | .ldl f sz => f.ok .off (if sz = 3 then .pair else .dst) .src .any
  | .stl f sz => f.ok .off (if sz = 3 then .pair else .dst) .src .any
  | .ldlv f sz => sz != 3 && f.ok .off (if sz = 0 then .mult 2 58 else if sz = 1 then .mult 4 56 else .mult 8 48) .src .any
  | .stlv f sz => sz != 3 && f.ok .off (if sz = 0 then .mult 2 58 else if sz = 1 then .mult 4 56 else .mult 8 48) .src .any
  | .atlAdd f => f.ok .off .dst .src .src
  | .atlMax f => f.ok .off .dst .src .src
  | .atlMin f => f.ok .off .dst .src .src
  | .atlExch f => f.ok .off .dst .src .src
  | .casl f z => f.ok .off (if z = 1 then .pair else .dst) .src (if z = 1 then .pair else .src)
  | .ld f sz => f.ok .off (if sz = 3 then .pair else .dst) .src .any
  | .st f sz => f.ok .off (if sz = 3 then .pair else .dst) .src .any
  | .lda f k => f.ok .off (if k = 3 then .pair else .dst) .src .any
  | .str f k => f.ok .off (if k = 3 then .pair else .dst) .src .any
  | .atomAdd f => f.ok .off .dst .src .any
  | .atomMax f => f.ok .off .dst .src .any
  | .atomMin f => f.ok .off .dst .src .any
  | .atomExch f => f.ok .off .dst .src .any
  | .atombAnd f => f.ok .off .dst .src .any
  | .atombOr f => f.ok .off .dst .src .any
  | .atombXor f => f.ok .off .dst .src .any
  | .atombAddf f => f.ok .off .dst .src .any
  | .casW f => f.ok .off .pair .src .any
  | .casD f => f.ok .off (.mult 4 56) .src .any
  | .casQ f => f.ok .off (.mult 8 48) .src .any
  | .casQAr f => f.ok .off (.mult 8 48) .src .any
  | .unop => true
  | .uadd f => f.ok .any .any .any
  | .usub f => f.ok .any .any .any
  | .umul f => f.ok .any .any .any
  | .umulh f => f.ok .any .any .any
  | .umulhu f => f.ok .any .any .any
  | .umin f => f.ok .any .any .any
  | .umax f => f.ok .any .any .any
  | .uminu f => f.ok .any .any .any
  | .uand f => f.ok .any .any .any
  | .uor f => f.ok .any .any .any
  | .uxor f => f.ok .any .any .any
  | .uandn f => f.ok .any .any .any
  | .ushl f => f.ok .any .any .any
  | .ushr f => f.ok .any .any .any
  | .usar f => f.ok .any .any .any
  | .urotl f => f.ok .any .any .any
  | .uaddi f => guardOk f.g
  | .uli f => guardOk f.g
  | .ulih f => guardOk f.g
  | .ucmpEq f => f.ok .kdst .any .any
  | .ucmpNe f => f.ok .kdst .any .any
  | .ucmpLt f => f.ok .kdst .any .any
  | .ucmpLe f => f.ok .kdst .any .any
  | .ucmpLtu f => f.ok .kdst .any .any
  | .ucmpLeu f => f.ok .kdst .any .any
  | .kand f => f.ok .kdst .ksrc .ksrc
  | .kor f => f.ok .kdst .ksrc .ksrc
  | .kxor f => f.ok .kdst .ksrc .ksrc
  | .knot f => f.ok .kdst .ksrc .zero
  | .kany f => f.ok .kdst .pred .zero
  | .kall f => f.ok .kdst .pred .zero
  | .knone f => f.ok .kdst .pred .zero
  | .umov f => f.ok .any .any .zero
  | .ufirst f => f.ok .any .vreg .zero
  | .uactive f => f.ok .any .zero .zero
  | .ucount f => f.ok .any .zero .zero
  | .ulea f _ => f.ok .any .any .any
  | .usread f => guardOk f.g && f.i.extractLsb' 12 3 == 0
  | .uswrite f => guardOk f.g && f.i.extractLsb' 12 3 == 0
  | .bra f => guardOk f.g
  | .brd f => selectorOk f.g
  | .call f => guardOk f.g
  | .ret f => f.ok .zero .zero .zero
  | .brx f => f.ok .zero .any .zero
  | .callx f => f.ok .zero .any .zero
  | .enrol f => f.ok .jreg .zero .zero
  | .enrolMask f => f.ok .jreg .any .zero
  | .rejoin f => f.ok .jreg .zero .zero
  | .strike f => f.ok .jreg .zero .zero
  | .loopImm f => guardOk f.g && f.level != 3
  | .loopReg f => guardOk f.g && f.level != 3 && f.c.extractLsb' 0 4 == 0
  | .lbrk g level => guardOk g && level != 3
  | .bar f => f.ok .zero .bar .zero
  | .arrive f => f.ok .any .bar .rmask
  | .await f => f.ok .any .bar .zero
  | .arrwait f => f.ok .any .bar .rmask
  | .sstep f => f.ok .zero .zero .zero
  | .sstepPod f => f.ok .zero .any .zero
  | .napUntil f => f.ok .zero .any .zero
  | .napWake f => f.ok .zero .zero .zero
  | .napCyc f => f.ok .zero .any .zero
  | .wake f => f.ok .zero .any .zero
  | .spawn f => f.ok .any .any .any
  | .spawnf f => f.ok .any .any .any
  | .freeze f => f.ok .zero .zero .zero
  | .freezen f => f.ok .zero .any .zero
  | .nest f => f.ok .zero .any .any
  | .endU f => f.ok .zero .zero .zero
  | .endl f => f.ok .zero .zero .zero
  | .endlRemoteStop _ _ => true
  | .launch f => f.ok .any .any .zero
  | .launchTry f => f.ok .any .any .zero
  | .lwait f => f.ok .any .any .zero
  | .lwaitPoll f => f.ok .any .any .zero
  | .yield f => f.ok .any .any .any
  | .curf f => f.ok .kdst .zero .zero
  | .statid f => f.ok .zero .any .zero
  | .tile f => f.ok .any .any .zero
  | .tileL f => f.ok .any .any .zero
  | .twait f => f.ok .any .any .zero
  | .twaitPoll f => f.ok .any .any .zero
  | .tdrainFp32 f => f.ok .any .any .acc
  | .tdrainBf16 f => f.ok .any .any .acc
  | .tdrainAcc f => f.ok .any .any .acc
  | .tdrainI64 f => f.ok .any .any .acc
  | .tdrainPlanes f => f.ok .any .any .acc
  | .tzero f => f.ok .zero .acc .zero
  | .modset f => f.ok .any .any .zero
  | .modsetRead f => f.ok .any .any .zero
  | .modsetDefault f => f.ok .any .zero .zero
  | .ctnrd f => f.ok .any .zero .zero
  | .ctnrdInject f => f.ok .zero .any .zero
  | .ctnrdClr f => f.ok .any .zero .zero
  | .cballoc f => f.ok .any .bank .any
  | .cballocFree f => f.ok .zero .bank .zero
  | .cbfence f => f.ok .zero .zero .zero
  | .cbld f _ => f.ok .any .any .bank
  | .cbw g _ _ _ _ => guardOk g
  | .cbr g _ _ _ _ => guardOk g
  | .pin f => f.ok .any .any .zero
  | .unpin f => f.ok .zero .any .zero
  | .stash f => f.ok .any .any .any
  | .stashWb f => f.ok .zero .any .zero
  | .stashUnmap f => f.ok .zero .any .zero
  | .stashDiscard f => f.ok .zero .any .zero
  | .colinfo f => f.ok .any .any .zero
  | .fenceT f => f.ok .zero .zero .zero
  | .fenceD f => f.ok .zero .zero .zero
  | .fenceP f => f.ok .zero .zero .zero
  | .fenceSc f => f.ok .zero .zero .zero
  | .fenceAcq f => f.ok .zero .zero .zero
  | .fenceEng f => f.ok .zero .zero .zero
  | .pref2 f => f.ok .zero .any .any
  | .pref1 f => f.ok .zero .any .any
  | .evict1 f => f.ok .zero .any .any
  | .wbl2 f => f.ok .zero .any .any
  | .plq f => f.ok .any .any .zero
  | .plinv f => f.ok .zero .any .any
  | .tlbi f => f.ok .zero .any .zero
  | .tlbiVa f => f.ok .zero .any .any
  | .tlbiAll f => f.ok .zero .zero .zero
  | .copyPlain f => f.ok .any .any .zero
  | .copySb12 f => f.ok .any .any .zero
  | .copyRp16 f => f.ok .any .any .zero
  | .copyBf16 f => f.ok .any .any .zero
  | .copyGather f => f.ok .any .any .zero
  | .copyDrain f => f.ok .any .any .zero
  | .cwait f => f.ok .any .any .zero
  | .cwaitPoll f => f.ok .any .any .zero
  | .cwaitCancel f => f.ok .any .any .zero
  | .sluiceExcl f => f.ok .any .any .any
  | .sluiceWrite f => f.ok .any .any .any
  | .sluiceSnap f => f.ok .any .any .any
  | .sluiceUnlock f => f.ok .zero .any .zero
  | .brine f => f.ok .any .any .any
  | .bwait f => f.ok .any .any .zero
  | .bwaitPoll f => f.ok .any .any .zero
  | .btbl f => f.ok .any .any .any
  | .putX f => f.ok .any .any .zero
  | .getX f => f.ok .any .any .zero
  | .putc f => f.ok .any .any .zero
  | .atomr f => f.ok .any .any .zero
  | .tsend f => f.ok .any .any .zero
  | .tsendCancel f => f.ok .any .any .zero
  | .ctrrd f => f.ok .any .any .zero
  | .ctrset f => f.ok .zero .any .any
  | .ctrwait f => f.ok .any .any .any
  | .ctradd f => f.ok .any .any .any
  | .coll f => f.ok .any .any .zero
  | .collWait f => f.ok .any .any .zero
  | .collPoll f => f.ok .any .any .zero
  | .collAbort f => f.ok .any .any .zero
  | .trapI f => f.ok .zero .any .zero
  | .tresume f => f.ok .any .any .any
  | .saveBlk f => f.ok .any .any .any
  | .restoreBlk f => f.ok .any .any .any
  | .hostsig f => f.ok .zero .any .zero
  | .trapBackoffExpiry _ _ => true
  | .coalescerClose _ => true
  | .trapQueueWrite _ => true
  | .serviceFaultPost => true
  | .hostProgramStart _ _ => true
  | .hostProgramAbort _ _ => true
  | .serviceTeamStart _ => true
  | .registerWrite _ _ => true
  | .apertureAccess _ => true
  | .featAcceptWrite _ => true
  | .curfewWinWrite _ => true
  | .leaseL1Write _ => true
  | .pwrCapWrite _ => true
  | .zoneReqWrite _ => true
  | .tqBaseWrite _ => true
  | .hsigTailWrite _ => true
  | .errSumCtlWrite _ => true
  | .merCtlWrite _ => true
  | .attCtlStart _ => true
  | .attestationComplete => true
  | .fwUpdStart _ => true
  | .fwUpdateComplete => true
  | .warmReset => true
  | .powerUp _ => true
  | .powerLoss => true
  | .thermalTrip => true
  | .clockThrottle _ => true
  | .meridianLock _ => true
  | .meridianLockLoss => true
  | .queuePairSetup _ => true
  | .inboundFabricRequest _ => true
  | .redContribution _ => true
  | .replicaStore _ => true
  | .schedulerPass => true
  | .curfewWindowClose _ => true
  | .teamSave _ => true
  | .launchLate _ => true
  | .launchCompletion _ => true
  | .binTimerExpiry _ _ => true
  | .binGroupFormation _ _ => true
  | .parkedRowRetry _ _ => true
  | .brdSlotTimeout _ _ => true
  | .napUntilExpiry _ _ => true
  | .napCycleExpiry _ _ => true
  | .storeAtL2 _ => true
  | .storeApplication _ => true
  | .storeTimeReturn _ => true
  | .storeFailureReturn _ => true
  | .pageTableWalk _ _ _ => true
  | .lineFill _ _ _ => true
  | .leaseExpiry _ _ _ => true
  | .zoneCompression => true
  | .cbldComplete _ _ => true
  | .tileOperationStart _ => true
  | .tileOperationComplete _ => true
  | .tzeroRun _ => true
  | .ctnInjectionRun _ => true
  | .drainRun _ => true
  | .drainComplete _ => true
  | .fragmentComplete _ => true
  | .copyOperationStart _ => true
  | .copyOperationComplete _ => true
  | .brineJobStart _ => true
  | .brineJobComplete _ => true
  | .transferComplete _ _ => true
  | .triggeredTransferStart _ => true
  | .collectiveMeet _ _ => true
  | .collectiveChunkReduce _ _ _ => true
  | .collectiveComplete _ => true
  | .participantUnreachable _ => true
  | .superstepComplete _ _ _ => true
  | .fabricPortDown _ => true
  | .fabricPortUp _ => true
  | .peerStorePerform _ => true

end Sys2Proof
end

