-- ==== Sys2Proof/Decode.lean ====
section
/-! DEFINITION. Decoding of instruction words (R20, R23, R26, R35, R36, R39, R42), total on every word and on any bytes, and
the encoder. Bits are taken by position as R23 and R26 give them. (The compiler's runtime cannot build this many
constructors, so the definitions are compiled by nobody; the kernel evaluates them.) -/

namespace Sys2Proof

noncomputable section

/-- Why a word is no instruction; each is fate ILLEGAL (R36). -/
inductive DecodeError where
  /-- 0x0000_0000 or 0xFFFF_FFFF. -/
  | reservedWord
  /-- An OP or F value that the opcode tables do not assign. -/
  | unassigned
  /-- A field value outside R24, R25, R27, R28, R34 or R40, or a non-zero unused field. -/
  | badField
  /-- Fewer than four bytes. -/
  | truncated
  deriving DecidableEq, Repr

/-- Bit 31: 1 for the uniform set (R20). -/
def isUniformWord (w : Word) : Bool := w.getLsbD 31

def opOf (w : Word) : BitVec 6 := w.extractLsb' 25 6
def f2Of (w : Word) : BitVec 2 := w.extractLsb' 0 2
def f3Of (w : Word) : BitVec 3 := w.extractLsb' 0 3

def laneR (w : Word) : LaneR :=
  ⟨w.extractLsb' 21 4, w.getLsbD 20, w.extractLsb' 14 6, w.extractLsb' 8 6, w.extractLsb' 2 6⟩

def laneI (w : Word) : LaneI :=
  ⟨w.extractLsb' 21 4, w.getLsbD 20, w.extractLsb' 14 6, w.extractLsb' 8 6, w.extractLsb' 0 8⟩

def laneSh (w : Word) : LaneSh :=
  ⟨w.extractLsb' 21 4, w.getLsbD 20, w.extractLsb' 14 6, w.extractLsb' 8 6, w.extractLsb' 0 5⟩

def uniR (w : Word) : UniR :=
  ⟨w.extractLsb' 21 4, w.extractLsb' 15 6, w.extractLsb' 9 6, w.extractLsb' 3 6⟩

def uniI (w : Word) : UniI := ⟨w.extractLsb' 21 4, w.extractLsb' 15 6, w.extractLsb' 0 15⟩

def uniB (w : Word) : UniB := ⟨w.extractLsb' 21 4, w.extractLsb' 0 21⟩

def uniL (w : Word) : UniL := ⟨w.extractLsb' 21 4, w.extractLsb' 19 2, w.extractLsb' 11 8, w.extractLsb' 0 10⟩

/-- One of four forms by F[1:0]. -/
def sel4 (f : BitVec 2) (x0 x1 x2 x3 : Option Instr) : Option Instr :=
  match f.toNat with
  | 0 => x0
  | 1 => x1
  | 2 => x2
  | _ => x3

/-- One of eight forms by F[2:0]. -/
def sel8 (f : BitVec 3) (x0 x1 x2 x3 x4 x5 x6 x7 : Option Instr) : Option Instr :=
  match f.toNat with
  | 0 => x0
  | 1 => x1
  | 2 => x2
  | 3 => x3
  | 4 => x4
  | 5 => x5
  | 6 => x6
  | _ => x7

/-- The lane set by OP (R39); OPs 30 to 35 are the local memory forms of R281, whose sizes and operations F gives. -/
def laneForm (op : Nat) (w : Word) : Option Instr :=
  let r := laneR w
  let i := laneI w
  let s := laneSh w
  match op with
  | 0x01 => sel4 (f2Of w) (some (.iadd r)) (some (.iadds r)) (some (.iaddd r)) none
  | 0x02 => sel4 (f2Of w) (some (.isub r)) (some (.isubs r)) (some (.isubd r)) none
  | 0x03 => sel4 (f2Of w) (some (.imul r)) (some (.imulh r)) (some (.imulhu r)) (some (.imulw r))
  | 0x04 => sel4 (f2Of w) (some (.imad r)) (some (.imadw r)) (some (.idot4 r)) none
  | 0x05 => sel4 (f2Of w) (some (.imin r)) (some (.iminu r)) (some (.imax r)) (some (.imaxu r))
  | 0x06 => sel4 (f2Of w) (some (.andL r)) (some (.orL r)) (some (.xorL r)) (some (.andn r))
  | 0x07 => sel4 (f2Of w) (some (.shl r)) (some (.shr r)) (some (.sar r)) (some (.rotl r))
  | 0x08 => sel4 (f2Of w) (some (.popc r)) (some (.clz r)) (some (.brev r)) (some (.iabs r))
  | 0x09 => sel4 (f2Of w) (some (.bfx r)) (some (.bfxs r)) (some (.bfi r)) none
  | 0x0A => sel4 (f2Of w) (some (.icmpEq r)) (some (.icmpNe r)) (some (.icmpLt r)) (some (.icmpLe r))
  | 0x0B => sel4 (f2Of w) (some (.icmpuLt r)) (some (.icmpuLe r)) (some (.icmpuGt r)) (some (.icmpuGe r))
  | 0x0C => sel4 (f2Of w) (some (.pand r)) (some (.por r)) (some (.pxor r)) (some (.pnand r))
  | 0x0D => sel4 (f2Of w) (some (.pmovr r)) (some (.pmovw r)) (some (.pbit r)) none
  | 0x0E => sel4 (f2Of w) (some (.mov r)) (some (.movs r)) (some (.selfIx r)) (some (.laneid r))
  | 0x0F => some (.selp i)
  | 0x10 => some (.iaddi i)
  | 0x11 => some (.movi i)
  | 0x12 => sel8 (w.extractLsb' 5 3) (some (.shli s)) (some (.shri s)) (some (.sari s)) (some (.rotli s)) none none none none
  | 0x13 => some (.andi i)
  | 0x14 => sel4 (f2Of w) (some (.nbl r)) (some (.nbr r)) (some (.nblb r)) (some (.nbrb r))
  | 0x15 => sel4 (f2Of w) (some (.shflIdx r)) (some (.shflXor r)) (some (.shflUp r)) (some (.shflDn r))
  | 0x16 => sel4 (f2Of w) (some (.ballot r)) (some (.anyP r)) (some (.allP r)) (some (.elect r))
  | 0x17 => sel4 (f2Of w) (some (.lredIadd r)) (some (.lredImax r)) (some (.lredFadd r)) (some (.lredFmax r))
  | 0x18 => sel4 (f2Of w) (some (.lscanIaddEx r)) (some (.lscanIaddIn r)) (some (.lscanFaddEx r)) (some (.lscanFaddIn r))
  | 0x19 => some (.fadd r (f2Of w))
  | 0x1A => some (.fsub r (f2Of w))
  | 0x1B => some (.fmul r (f2Of w))
  | 0x1C => some (.ffma r (f2Of w))
  | 0x1D => sel4 (f2Of w) (some (.fmin r)) (some (.fmax r)) (some (.fminn r)) (some (.fmaxn r))
  | 0x1E => sel4 (f2Of w) (some (.fcmpEq r)) (some (.fcmpLt r)) (some (.fcmpLe r)) (some (.fcmpUn r))
  | 0x1F => sel4 (f2Of w) (some (.fabs r)) (some (.fneg r)) (some (.frint r)) (some (.fclass r))
  | 0x20 => sel4 (f2Of w) (some (.frcp r)) (some (.frsq r)) (some (.fex2 r)) (some (.flg2 r))
  | 0x21 => sel4 (f2Of w) (some (.hadd2 r)) (some (.hmul2 r)) (some (.hfma2 r)) (some (.hmax2 r))
  | 0x22 => sel4 (f2Of w) (some (.f2bf r)) (some (.bf2f r)) (some (.f2i r)) (some (.i2f r))
  | 0x23 => sel4 (f2Of w) (some (.f2iz r)) (some (.u2f r)) (some (.f2uz r)) none
  | 0x24 => sel4 (f2Of w) (some (.bscale r)) (some (.bsq r)) (some (.bsqe r)) (some (.bsdq r))
  | 0x25 => sel4 (f2Of w) (some (.cbxB8 r)) (some (.cbxN4 r)) none none
  | 0x26 => some (.xffma r (f2Of w))
  | 0x27 => some (.xfmul r (f2Of w))
  | 0x28 => sel4 (f2Of w) (some (.mfrag r)) (some (.mfraga r)) (some (.mfragx r)) none
  | 0x29 => sel4 (f2Of w) (some (.rmod r)) (some (.rrec r)) (some (.rchk r)) none
  | 0x2A => some (.rmadC03 r (f2Of w))
  | 0x2B => if w.getLsbD 1 then none else some (.rmadC45 r (w.extractLsb' 0 1))
  | 0x30 => some (.ldl r (f2Of w))
  | 0x31 => some (.stl r (f2Of w))
  | 0x32 => some (.ldlv r (f2Of w))
  | 0x33 => some (.stlv r (f2Of w))
  | 0x34 => sel4 (f2Of w) (some (.atlAdd r)) (some (.atlMax r)) (some (.atlMin r)) (some (.atlExch r))
  | 0x35 => if w.getLsbD 1 then none else some (.casl r (w.extractLsb' 0 1))
  | 0x38 => some (.ld r (f2Of w))
  | 0x39 => some (.st r (f2Of w))
  | 0x3A => some (.lda r (f2Of w))
  | 0x3B => some (.str r (f2Of w))
  | 0x3C => sel4 (f2Of w) (some (.atomAdd r)) (some (.atomMax r)) (some (.atomMin r)) (some (.atomExch r))
  | 0x3D => sel4 (f2Of w) (some (.atombAnd r)) (some (.atombOr r)) (some (.atombXor r)) (some (.atombAddf r))
  | 0x3E => sel4 (f2Of w) (some (.casW r)) (some (.casD r)) (some (.casQ r)) (some (.casQAr r))
  | _ => none

/-- The uniform set by OP (R42). -/
def uniformForm (op : Nat) (w : Word) : Option Instr :=
  let r := uniR w
  match op with
  | 0x00 => if w = 0x80000000#32 then some .unop else none
  | 0x01 => sel8 (f3Of w) (some (.uadd r)) (some (.usub r)) (some (.umul r)) (some (.umulh r)) (some (.umulhu r)) (some (.umin r)) (some (.umax r)) (some (.uminu r))
  | 0x02 => sel8 (f3Of w) (some (.uand r)) (some (.uor r)) (some (.uxor r)) (some (.uandn r)) (some (.ushl r)) (some (.ushr r)) (some (.usar r)) (some (.urotl r))
  | 0x03 => some (.uaddi (uniI w))
  | 0x04 => some (.uli (uniI w))
  | 0x05 => some (.ulih (uniI w))
  | 0x06 => sel8 (f3Of w) (some (.ucmpEq r)) (some (.ucmpNe r)) (some (.ucmpLt r)) (some (.ucmpLe r)) (some (.ucmpLtu r)) (some (.ucmpLeu r)) none none
  | 0x07 => sel8 (f3Of w) (some (.kand r)) (some (.kor r)) (some (.kxor r)) (some (.knot r)) (some (.kany r)) (some (.kall r)) (some (.knone r)) none
  | 0x08 => sel8 (f3Of w) (some (.umov r)) (some (.ufirst r)) (some (.uactive r)) (some (.ucount r)) none none none none
  | 0x09 => some (.ulea r (f3Of w))
  | 0x0A => some (.usread (uniI w))
  | 0x0B => some (.uswrite (uniI w))
  | 0x0C => some (.bra (uniB w))
  | 0x0D => some (.brd (uniB w))
  | 0x0E => some (.call (uniB w))
  | 0x0F => sel8 (f3Of w) (some (.ret r)) (some (.brx r)) (some (.callx r)) none none none none none
  | 0x10 => sel8 (f3Of w) (some (.enrol r)) (some (.enrolMask r)) none none none none none none
  | 0x11 => sel8 (f3Of w) (some (.rejoin r)) none none none none none none none
  | 0x12 => sel8 (f3Of w) (some (.strike r)) none none none none none none none
  | 0x13 => if w.getLsbD 10 then some (.loopImm (uniL w)) else some (.loopReg (uniL w))
  | 0x14 => if w.extractLsb' 2 19 = 0 then some (.lbrk r.g (f2Of w)) else none
  | 0x15 => sel8 (f3Of w) (some (.bar r)) (some (.arrive r)) (some (.await r)) (some (.arrwait r)) none none none none
  | 0x16 => sel8 (f3Of w) (some (.sstep r)) (some (.sstepPod r)) none none none none none none
  | 0x17 => sel8 (f3Of w) (some (.napUntil r)) (some (.napWake r)) (some (.napCyc r)) (some (.wake r)) none none none none
  | 0x18 => sel8 (f3Of w) (some (.spawn r)) (some (.spawnf r)) none none none none none none
  | 0x19 => sel8 (f3Of w) (some (.freeze r)) (some (.freezen r)) none none none none none none
  | 0x1A => sel8 (f3Of w) (some (.nest r)) none none none none none none none
  | 0x1B => sel8 (f3Of w) (some (.endU r)) (some (.endl r)) none none none none none none
  | 0x1C => sel8 (f3Of w) (some (.launch r)) (some (.launchTry r)) none none none none none none
  | 0x1D => sel8 (f3Of w) (some (.lwait r)) (some (.lwaitPoll r)) none none none none none none
  | 0x1E => sel8 (f3Of w) (some (.yield r)) (some (.curf r)) none none none none none none
  | 0x1F => sel8 (f3Of w) (some (.statid r)) none none none none none none none
  | 0x20 => sel8 (f3Of w) (some (.tile r)) (some (.tileL r)) none none none none none none
  | 0x21 => sel8 (f3Of w) (some (.twait r)) (some (.twaitPoll r)) none none none none none none
  | 0x22 => sel8 (f3Of w) (some (.tdrainFp32 r)) (some (.tdrainBf16 r)) (some (.tdrainAcc r)) (some (.tdrainI64 r)) (some (.tdrainPlanes r)) none none none
  | 0x23 => sel8 (f3Of w) (some (.tzero r)) none none none none none none none
  | 0x24 => sel8 (f3Of w) (some (.modset r)) (some (.modsetRead r)) (some (.modsetDefault r)) none none none none none
  | 0x25 => sel8 (f3Of w) (some (.ctnrd r)) (some (.ctnrdInject r)) (some (.ctnrdClr r)) none none none none none
  | 0x28 => sel8 (f3Of w) (some (.cballoc r)) (some (.cballocFree r)) (some (.cbfence r)) none none none none none
  | 0x29 => if w.getLsbD 2 then none else some (.cbld r (f2Of w))
  | 0x2A => if w.extractLsb' 1 3 = 0 then some (.cbw r.g r.d (w.extractLsb' 12 3) (w.extractLsb' 4 8) (w.extractLsb' 0 1)) else none
  | 0x2B => if w.extractLsb' 12 3 = 0 then some (.cbr r.g r.d (w.extractLsb' 4 8) (w.extractLsb' 3 1) (f3Of w)) else none
  | 0x2C => sel8 (f3Of w) (some (.pin r)) (some (.unpin r)) none none none none none none
  | 0x2D => sel8 (f3Of w) (some (.stash r)) (some (.stashWb r)) (some (.stashUnmap r)) (some (.stashDiscard r)) none none none none
  | 0x2E => sel8 (f3Of w) (some (.colinfo r)) none none none none none none none
  | 0x30 => sel8 (f3Of w) (some (.fenceT r)) (some (.fenceD r)) (some (.fenceP r)) (some (.fenceSc r)) (some (.fenceAcq r)) (some (.fenceEng r)) none none
  | 0x31 => sel8 (f3Of w) (some (.pref2 r)) (some (.pref1 r)) (some (.evict1 r)) (some (.wbl2 r)) none none none none
  | 0x32 => sel8 (f3Of w) (some (.plq r)) (some (.plinv r)) none none none none none none
  | 0x33 => sel8 (f3Of w) (some (.tlbi r)) (some (.tlbiVa r)) (some (.tlbiAll r)) none none none none none
  | 0x34 => sel8 (f3Of w) (some (.copyPlain r)) (some (.copySb12 r)) (some (.copyRp16 r)) (some (.copyBf16 r)) (some (.copyGather r)) (some (.copyDrain r)) none none
  | 0x35 => sel8 (f3Of w) (some (.cwait r)) (some (.cwaitPoll r)) (some (.cwaitCancel r)) none none none none none
  | 0x36 => sel8 (f3Of w) (some (.sluiceExcl r)) (some (.sluiceWrite r)) (some (.sluiceSnap r)) (some (.sluiceUnlock r)) none none none none
  | 0x37 => sel8 (f3Of w) (some (.brine r)) none none none none none none none
  | 0x38 => sel8 (f3Of w) (some (.bwait r)) (some (.bwaitPoll r)) none none none none none none
  | 0x39 => sel8 (f3Of w) (some (.btbl r)) none none none none none none none
  | 0x3A => sel8 (f3Of w) (some (.putX r)) (some (.getX r)) (some (.putc r)) (some (.atomr r)) none none none none
  | 0x3B => sel8 (f3Of w) (some (.tsend r)) (some (.tsendCancel r)) none none none none none none
  | 0x3C => sel8 (f3Of w) (some (.ctrrd r)) (some (.ctrset r)) (some (.ctrwait r)) (some (.ctradd r)) none none none none
  | 0x3D => sel8 (f3Of w) (some (.coll r)) (some (.collWait r)) (some (.collPoll r)) (some (.collAbort r)) none none none none
  | 0x3E => sel8 (f3Of w) (some (.trapI r)) (some (.tresume r)) (some (.saveBlk r)) (some (.restoreBlk r)) (some (.hostsig r)) none none none
  | _ => none

/-- The instruction a word's OP and F name, before the field checks of R35. -/
def decodeRaw (w : Word) : Option Instr :=
  if isUniformWord w then uniformForm (opOf w).toNat w else laneForm (opOf w).toNat w

-- DESIGN CHOICE: notes/assumptions/93
/-- R35, R36: an instruction, or the reason the word is ILLEGAL. -/
def decode (w : Word) : Except DecodeError Instr :=
  if w = 0 ∨ w = 0xFFFFFFFF#32 then .error .reservedWord
  else
    match decodeRaw w with
    | none => .error .unassigned
    | some i => if i.wf then .ok i else .error .badField

/-- Four little-endian bytes as a word (R5, R20). -/
def wordOfBytes (b0 b1 b2 b3 : Byte) : Word := b3 ++ b2 ++ b1 ++ b0

/-- The bytes of a word, lowest address first (R5, R20). -/
def bytesOfWord (w : Word) : List Byte :=
  [w.extractLsb' 0 8, w.extractLsb' 8 8, w.extractLsb' 16 8, w.extractLsb' 24 8]

/-- Decoding of a byte string: the instruction of its first word and the bytes after it. -/
def decodeBytes (bs : List Byte) : Except DecodeError (Instr × List Byte) :=
  match bs with
  | b0 :: b1 :: b2 :: b3 :: rest =>
    match decode (wordOfBytes b0 b1 b2 b3) with
    | .ok i => .ok (i, rest)
    | .error e => .error e
  | _ => .error .truncated

/-- The host's view of the decoder: the row's bits numbered from the word's bit 0, zero above `nbits`. -/
def decodeTableWord (nbits w : Nat) : Option Instr :=
  match decodeBytes (bytesOfWord (BitVec.ofNat 32 (w % 2 ^ nbits))) with
  | .ok (i, _) => some i
  | .error _ => none

/-! ### The encoder, from the same tables -/

def bit (b : Bool) : BitVec 1 := if b then 1 else 0

/-- LR, LL and LG (R23). -/
def packR (op : BitVec 6) (f : LaneR) (c : BitVec 2) : Word :=
  0#1 ++ op ++ f.g ++ bit f.w ++ f.d ++ f.a ++ f.b ++ c

/-- LI (R23). -/
def packI (op : BitVec 6) (f : LaneI) : Word := 0#1 ++ op ++ f.g ++ bit f.w ++ f.d ++ f.a ++ f.i

/-- OP 12 (R166). -/
def packSh (kind : BitVec 3) (f : LaneSh) : Word := 0#1 ++ 0x12#6 ++ f.g ++ bit f.w ++ f.d ++ f.a ++ kind ++ f.n

/-- UR (R26). -/
def packU (op : BitVec 6) (f : UniR) (c : BitVec 3) : Word := 1#1 ++ op ++ f.g ++ f.d ++ f.a ++ f.b ++ c

/-- UI (R26). -/
def packUI (op : BitVec 6) (f : UniI) : Word := 1#1 ++ op ++ f.g ++ f.d ++ f.i

/-- UB (R26). -/
def packUB (op : BitVec 6) (f : UniB) : Word := 1#1 ++ op ++ f.g ++ f.o

/-- UL (R26): bit 10 chooses the immediate count. -/
def packUL (imm : BitVec 1) (f : UniL) : Word := 1#1 ++ 0x13#6 ++ f.g ++ f.level ++ f.len ++ imm ++ f.c

/-- The word of an instruction; the device's own steps have none. -/
def encode (i : Instr) : Option Word :=
  match i with
  | .iadd f => some (packR 0x01#6 f 0)
  | .iadds f => some (packR 0x01#6 f 1)
  | .iaddd f => some (packR 0x01#6 f 2)
  | .isub f => some (packR 0x02#6 f 0)
  | .isubs f => some (packR 0x02#6 f 1)
  | .isubd f => some (packR 0x02#6 f 2)
  | .imul f => some (packR 0x03#6 f 0)
  | .imulh f => some (packR 0x03#6 f 1)
  | .imulhu f => some (packR 0x03#6 f 2)
  | .imulw f => some (packR 0x03#6 f 3)
  | .imad f => some (packR 0x04#6 f 0)
  | .imadw f => some (packR 0x04#6 f 1)
  | .idot4 f => some (packR 0x04#6 f 2)
  | .imin f => some (packR 0x05#6 f 0)
  | .iminu f => some (packR 0x05#6 f 1)
  | .imax f => some (packR 0x05#6 f 2)
  | .imaxu f => some (packR 0x05#6 f 3)
  | .andL f => some (packR 0x06#6 f 0)
  | .orL f => some (packR 0x06#6 f 1)
  | .xorL f => some (packR 0x06#6 f 2)
  | .andn f => some (packR 0x06#6 f 3)
  | .shl f => some (packR 0x07#6 f 0)
  | .shr f => some (packR 0x07#6 f 1)
  | .sar f => some (packR 0x07#6 f 2)
  | .rotl f => some (packR 0x07#6 f 3)
  | .popc f => some (packR 0x08#6 f 0)
  | .clz f => some (packR 0x08#6 f 1)
  | .brev f => some (packR 0x08#6 f 2)
  | .iabs f => some (packR 0x08#6 f 3)
  | .bfx f => some (packR 0x09#6 f 0)
  | .bfxs f => some (packR 0x09#6 f 1)
  | .bfi f => some (packR 0x09#6 f 2)
  | .icmpEq f => some (packR 0x0A#6 f 0)
  | .icmpNe f => some (packR 0x0A#6 f 1)
  | .icmpLt f => some (packR 0x0A#6 f 2)
  | .icmpLe f => some (packR 0x0A#6 f 3)
  | .icmpuLt f => some (packR 0x0B#6 f 0)
  | .icmpuLe f => some (packR 0x0B#6 f 1)
  | .icmpuGt f => some (packR 0x0B#6 f 2)
  | .icmpuGe f => some (packR 0x0B#6 f 3)
  | .pand f => some (packR 0x0C#6 f 0)
  | .por f => some (packR 0x0C#6 f 1)
  | .pxor f => some (packR 0x0C#6 f 2)
  | .pnand f => some (packR 0x0C#6 f 3)
  | .pmovr f => some (packR 0x0D#6 f 0)
  | .pmovw f => some (packR 0x0D#6 f 1)
  | .pbit f => some (packR 0x0D#6 f 2)
  | .mov f => some (packR 0x0E#6 f 0)
  | .movs f => some (packR 0x0E#6 f 1)
  | .selfIx f => some (packR 0x0E#6 f 2)
  | .laneid f => some (packR 0x0E#6 f 3)
  | .selp f => some (packI 0x0F#6 f)
  | .iaddi f => some (packI 0x10#6 f)
  | .movi f => some (packI 0x11#6 f)
  | .shli f => some (packSh 0 f)
  | .shri f => some (packSh 1 f)
  | .sari f => some (packSh 2 f)
  | .rotli f => some (packSh 3 f)
  | .andi f => some (packI 0x13#6 f)
  | .nbl f => some (packR 0x14#6 f 0)
  | .nbr f => some (packR 0x14#6 f 1)
  | .nblb f => some (packR 0x14#6 f 2)
  | .nbrb f => some (packR 0x14#6 f 3)
  | .shflIdx f => some (packR 0x15#6 f 0)
  | .shflXor f => some (packR 0x15#6 f 1)
  | .shflUp f => some (packR 0x15#6 f 2)
  | .shflDn f => some (packR 0x15#6 f 3)
  | .ballot f => some (packR 0x16#6 f 0)
  | .anyP f => some (packR 0x16#6 f 1)
  | .allP f => some (packR 0x16#6 f 2)
  | .elect f => some (packR 0x16#6 f 3)
  | .lredIadd f => some (packR 0x17#6 f 0)
  | .lredImax f => some (packR 0x17#6 f 1)
  | .lredFadd f => some (packR 0x17#6 f 2)
  | .lredFmax f => some (packR 0x17#6 f 3)
  | .lscanIaddEx f => some (packR 0x18#6 f 0)
  | .lscanIaddIn f => some (packR 0x18#6 f 1)
  | .lscanFaddEx f => some (packR 0x18#6 f 2)
  | .lscanFaddIn f => some (packR 0x18#6 f 3)
  | .fadd f x => some (packR 0x19#6 f x)
  | .fsub f x => some (packR 0x1A#6 f x)
  | .fmul f x => some (packR 0x1B#6 f x)
  | .ffma f x => some (packR 0x1C#6 f x)
  | .fmin f => some (packR 0x1D#6 f 0)
  | .fmax f => some (packR 0x1D#6 f 1)
  | .fminn f => some (packR 0x1D#6 f 2)
  | .fmaxn f => some (packR 0x1D#6 f 3)
  | .fcmpEq f => some (packR 0x1E#6 f 0)
  | .fcmpLt f => some (packR 0x1E#6 f 1)
  | .fcmpLe f => some (packR 0x1E#6 f 2)
  | .fcmpUn f => some (packR 0x1E#6 f 3)
  | .fabs f => some (packR 0x1F#6 f 0)
  | .fneg f => some (packR 0x1F#6 f 1)
  | .frint f => some (packR 0x1F#6 f 2)
  | .fclass f => some (packR 0x1F#6 f 3)
  | .frcp f => some (packR 0x20#6 f 0)
  | .frsq f => some (packR 0x20#6 f 1)
  | .fex2 f => some (packR 0x20#6 f 2)
  | .flg2 f => some (packR 0x20#6 f 3)
  | .hadd2 f => some (packR 0x21#6 f 0)
  | .hmul2 f => some (packR 0x21#6 f 1)
  | .hfma2 f => some (packR 0x21#6 f 2)
  | .hmax2 f => some (packR 0x21#6 f 3)
  | .f2bf f => some (packR 0x22#6 f 0)
  | .bf2f f => some (packR 0x22#6 f 1)
  | .f2i f => some (packR 0x22#6 f 2)
  | .i2f f => some (packR 0x22#6 f 3)
  | .f2iz f => some (packR 0x23#6 f 0)
  | .u2f f => some (packR 0x23#6 f 1)
  | .f2uz f => some (packR 0x23#6 f 2)
  | .bscale f => some (packR 0x24#6 f 0)
  | .bsq f => some (packR 0x24#6 f 1)
  | .bsqe f => some (packR 0x24#6 f 2)
  | .bsdq f => some (packR 0x24#6 f 3)
  | .cbxB8 f => some (packR 0x25#6 f 0)
  | .cbxN4 f => some (packR 0x25#6 f 1)
  | .xffma f x => some (packR 0x26#6 f x)
  | .xfmul f x => some (packR 0x27#6 f x)
  | .mfrag f => some (packR 0x28#6 f 0)
  | .mfraga f => some (packR 0x28#6 f 1)
  | .mfragx f => some (packR 0x28#6 f 2)
  | .rmod f => some (packR 0x29#6 f 0)
  | .rrec f => some (packR 0x29#6 f 1)
  | .rchk f => some (packR 0x29#6 f 2)
  | .rmadC03 f x => some (packR 0x2A#6 f x)
  | .rmadC45 f x => some (packR 0x2B#6 f (0#1 ++ x))
  | .ldl f x => some (packR 0x30#6 f x)
  | .stl f x => some (packR 0x31#6 f x)
  | .ldlv f x => some (packR 0x32#6 f x)
  | .stlv f x => some (packR 0x33#6 f x)
  | .atlAdd f => some (packR 0x34#6 f 0)
  | .atlMax f => some (packR 0x34#6 f 1)
  | .atlMin f => some (packR 0x34#6 f 2)
  | .atlExch f => some (packR 0x34#6 f 3)
  | .casl f x => some (packR 0x35#6 f (0#1 ++ x))
  | .ld f x => some (packR 0x38#6 f x)
  | .st f x => some (packR 0x39#6 f x)
  | .lda f x => some (packR 0x3A#6 f x)
  | .str f x => some (packR 0x3B#6 f x)
  | .atomAdd f => some (packR 0x3C#6 f 0)
  | .atomMax f => some (packR 0x3C#6 f 1)
  | .atomMin f => some (packR 0x3C#6 f 2)
  | .atomExch f => some (packR 0x3C#6 f 3)
  | .atombAnd f => some (packR 0x3D#6 f 0)
  | .atombOr f => some (packR 0x3D#6 f 1)
  | .atombXor f => some (packR 0x3D#6 f 2)
  | .atombAddf f => some (packR 0x3D#6 f 3)
  | .casW f => some (packR 0x3E#6 f 0)
  | .casD f => some (packR 0x3E#6 f 1)
  | .casQ f => some (packR 0x3E#6 f 2)
  | .casQAr f => some (packR 0x3E#6 f 3)
  | .unop => some 0x80000000#32
  | .uadd f => some (packU 0x01#6 f 0)
  | .usub f => some (packU 0x01#6 f 1)
  | .umul f => some (packU 0x01#6 f 2)
  | .umulh f => some (packU 0x01#6 f 3)
  | .umulhu f => some (packU 0x01#6 f 4)
  | .umin f => some (packU 0x01#6 f 5)
  | .umax f => some (packU 0x01#6 f 6)
  | .uminu f => some (packU 0x01#6 f 7)
  | .uand f => some (packU 0x02#6 f 0)
  | .uor f => some (packU 0x02#6 f 1)
  | .uxor f => some (packU 0x02#6 f 2)
  | .uandn f => some (packU 0x02#6 f 3)
  | .ushl f => some (packU 0x02#6 f 4)
  | .ushr f => some (packU 0x02#6 f 5)
  | .usar f => some (packU 0x02#6 f 6)
  | .urotl f => some (packU 0x02#6 f 7)
  | .uaddi f => some (packUI 0x03#6 f)
  | .uli f => some (packUI 0x04#6 f)
  | .ulih f => some (packUI 0x05#6 f)
  | .ucmpEq f => some (packU 0x06#6 f 0)
  | .ucmpNe f => some (packU 0x06#6 f 1)
  | .ucmpLt f => some (packU 0x06#6 f 2)
  | .ucmpLe f => some (packU 0x06#6 f 3)
  | .ucmpLtu f => some (packU 0x06#6 f 4)
  | .ucmpLeu f => some (packU 0x06#6 f 5)
  | .kand f => some (packU 0x07#6 f 0)
  | .kor f => some (packU 0x07#6 f 1)
  | .kxor f => some (packU 0x07#6 f 2)
  | .knot f => some (packU 0x07#6 f 3)
  | .kany f => some (packU 0x07#6 f 4)
  | .kall f => some (packU 0x07#6 f 5)
  | .knone f => some (packU 0x07#6 f 6)
  | .umov f => some (packU 0x08#6 f 0)
  | .ufirst f => some (packU 0x08#6 f 1)
  | .uactive f => some (packU 0x08#6 f 2)
  | .ucount f => some (packU 0x08#6 f 3)
  | .ulea f x => some (packU 0x09#6 f x)
  | .usread f => some (packUI 0x0A#6 f)
  | .uswrite f => some (packUI 0x0B#6 f)
  | .bra f => some (packUB 0x0C#6 f)
  | .brd f => some (packUB 0x0D#6 f)
  | .call f => some (packUB 0x0E#6 f)
  | .ret f => some (packU 0x0F#6 f 0)
  | .brx f => some (packU 0x0F#6 f 1)
  | .callx f => some (packU 0x0F#6 f 2)
  | .enrol f => some (packU 0x10#6 f 0)
  | .enrolMask f => some (packU 0x10#6 f 1)
  | .rejoin f => some (packU 0x11#6 f 0)
  | .strike f => some (packU 0x12#6 f 0)
  | .loopImm f => some (packUL 1 f)
  | .loopReg f => some (packUL 0 f)
  | .lbrk g l => some (1#1 ++ 0x14#6 ++ g ++ 0#19 ++ l)
  | .bar f => some (packU 0x15#6 f 0)
  | .arrive f => some (packU 0x15#6 f 1)
  | .await f => some (packU 0x15#6 f 2)
  | .arrwait f => some (packU 0x15#6 f 3)
  | .sstep f => some (packU 0x16#6 f 0)
  | .sstepPod f => some (packU 0x16#6 f 1)
  | .napUntil f => some (packU 0x17#6 f 0)
  | .napWake f => some (packU 0x17#6 f 1)
  | .napCyc f => some (packU 0x17#6 f 2)
  | .wake f => some (packU 0x17#6 f 3)
  | .spawn f => some (packU 0x18#6 f 0)
  | .spawnf f => some (packU 0x18#6 f 1)
  | .freeze f => some (packU 0x19#6 f 0)
  | .freezen f => some (packU 0x19#6 f 1)
  | .nest f => some (packU 0x1A#6 f 0)
  | .endU f => some (packU 0x1B#6 f 0)
  | .endl f => some (packU 0x1B#6 f 1)
  | .endlRemoteStop _ _ => none
  | .launch f => some (packU 0x1C#6 f 0)
  | .launchTry f => some (packU 0x1C#6 f 1)
  | .lwait f => some (packU 0x1D#6 f 0)
  | .lwaitPoll f => some (packU 0x1D#6 f 1)
  | .yield f => some (packU 0x1E#6 f 0)
  | .curf f => some (packU 0x1E#6 f 1)
  | .statid f => some (packU 0x1F#6 f 0)
  | .tile f => some (packU 0x20#6 f 0)
  | .tileL f => some (packU 0x20#6 f 1)
  | .twait f => some (packU 0x21#6 f 0)
  | .twaitPoll f => some (packU 0x21#6 f 1)
  | .tdrainFp32 f => some (packU 0x22#6 f 0)
  | .tdrainBf16 f => some (packU 0x22#6 f 1)
  | .tdrainAcc f => some (packU 0x22#6 f 2)
  | .tdrainI64 f => some (packU 0x22#6 f 3)
  | .tdrainPlanes f => some (packU 0x22#6 f 4)
  | .tzero f => some (packU 0x23#6 f 0)
  | .modset f => some (packU 0x24#6 f 0)
  | .modsetRead f => some (packU 0x24#6 f 1)
  | .modsetDefault f => some (packU 0x24#6 f 2)
  | .ctnrd f => some (packU 0x25#6 f 0)
  | .ctnrdInject f => some (packU 0x25#6 f 1)
  | .ctnrdClr f => some (packU 0x25#6 f 2)
  | .cballoc f => some (packU 0x28#6 f 0)
  | .cballocFree f => some (packU 0x28#6 f 1)
  | .cbfence f => some (packU 0x28#6 f 2)
  | .cbld f x => some (packU 0x29#6 f (0#1 ++ x))
  | .cbw g d k e h => some (1#1 ++ 0x2A#6 ++ g ++ d ++ k ++ e ++ 0#3 ++ h)
  | .cbr g d e h k => some (1#1 ++ 0x2B#6 ++ g ++ d ++ 0#3 ++ e ++ h ++ k)
  | .pin f => some (packU 0x2C#6 f 0)
  | .unpin f => some (packU 0x2C#6 f 1)
  | .stash f => some (packU 0x2D#6 f 0)
  | .stashWb f => some (packU 0x2D#6 f 1)
  | .stashUnmap f => some (packU 0x2D#6 f 2)
  | .stashDiscard f => some (packU 0x2D#6 f 3)
  | .colinfo f => some (packU 0x2E#6 f 0)
  | .fenceT f => some (packU 0x30#6 f 0)
  | .fenceD f => some (packU 0x30#6 f 1)
  | .fenceP f => some (packU 0x30#6 f 2)
  | .fenceSc f => some (packU 0x30#6 f 3)
  | .fenceAcq f => some (packU 0x30#6 f 4)
  | .fenceEng f => some (packU 0x30#6 f 5)
  | .pref2 f => some (packU 0x31#6 f 0)
  | .pref1 f => some (packU 0x31#6 f 1)
  | .evict1 f => some (packU 0x31#6 f 2)
  | .wbl2 f => some (packU 0x31#6 f 3)
  | .plq f => some (packU 0x32#6 f 0)
  | .plinv f => some (packU 0x32#6 f 1)
  | .tlbi f => some (packU 0x33#6 f 0)
  | .tlbiVa f => some (packU 0x33#6 f 1)
  | .tlbiAll f => some (packU 0x33#6 f 2)
  | .copyPlain f => some (packU 0x34#6 f 0)
  | .copySb12 f => some (packU 0x34#6 f 1)
  | .copyRp16 f => some (packU 0x34#6 f 2)
  | .copyBf16 f => some (packU 0x34#6 f 3)
  | .copyGather f => some (packU 0x34#6 f 4)
  | .copyDrain f => some (packU 0x34#6 f 5)
  | .cwait f => some (packU 0x35#6 f 0)
  | .cwaitPoll f => some (packU 0x35#6 f 1)
  | .cwaitCancel f => some (packU 0x35#6 f 2)
  | .sluiceExcl f => some (packU 0x36#6 f 0)
  | .sluiceWrite f => some (packU 0x36#6 f 1)
  | .sluiceSnap f => some (packU 0x36#6 f 2)
  | .sluiceUnlock f => some (packU 0x36#6 f 3)
  | .brine f => some (packU 0x37#6 f 0)
  | .bwait f => some (packU 0x38#6 f 0)
  | .bwaitPoll f => some (packU 0x38#6 f 1)
  | .btbl f => some (packU 0x39#6 f 0)
  | .putX f => some (packU 0x3A#6 f 0)
  | .getX f => some (packU 0x3A#6 f 1)
  | .putc f => some (packU 0x3A#6 f 2)
  | .atomr f => some (packU 0x3A#6 f 3)
  | .tsend f => some (packU 0x3B#6 f 0)
  | .tsendCancel f => some (packU 0x3B#6 f 1)
  | .ctrrd f => some (packU 0x3C#6 f 0)
  | .ctrset f => some (packU 0x3C#6 f 1)
  | .ctrwait f => some (packU 0x3C#6 f 2)
  | .ctradd f => some (packU 0x3C#6 f 3)
  | .coll f => some (packU 0x3D#6 f 0)
  | .collWait f => some (packU 0x3D#6 f 1)
  | .collPoll f => some (packU 0x3D#6 f 2)
  | .collAbort f => some (packU 0x3D#6 f 3)
  | .trapI f => some (packU 0x3E#6 f 0)
  | .tresume f => some (packU 0x3E#6 f 1)
  | .saveBlk f => some (packU 0x3E#6 f 2)
  | .restoreBlk f => some (packU 0x3E#6 f 3)
  | .hostsig f => some (packU 0x3E#6 f 4)
  | .trapBackoffExpiry _ _ => none
  | .coalescerClose _ => none
  | .trapQueueWrite _ => none
  | .serviceFaultPost => none
  | .hostProgramStart _ _ => none
  | .hostProgramAbort _ _ => none
  | .serviceTeamStart _ => none
  | .registerWrite _ _ => none
  | .apertureAccess _ => none
  | .featAcceptWrite _ => none
  | .curfewWinWrite _ => none
  | .leaseL1Write _ => none
  | .pwrCapWrite _ => none
  | .zoneReqWrite _ => none
  | .tqBaseWrite _ => none
  | .hsigTailWrite _ => none
  | .errSumCtlWrite _ => none
  | .merCtlWrite _ => none
  | .attCtlStart _ => none
  | .attestationComplete => none
  | .fwUpdStart _ => none
  | .fwUpdateComplete => none
  | .warmReset => none
  | .powerUp _ => none
  | .powerLoss => none
  | .thermalTrip => none
  | .clockThrottle _ => none
  | .meridianLock _ => none
  | .meridianLockLoss => none
  | .queuePairSetup _ => none
  | .inboundFabricRequest _ => none
  | .redContribution _ => none
  | .replicaStore _ => none
  | .schedulerPass => none
  | .curfewWindowClose _ => none
  | .teamSave _ => none
  | .launchLate _ => none
  | .launchCompletion _ => none
  | .binTimerExpiry _ _ => none
  | .binGroupFormation _ _ => none
  | .parkedRowRetry _ _ => none
  | .brdSlotTimeout _ _ => none
  | .napUntilExpiry _ _ => none
  | .napCycleExpiry _ _ => none
  | .storeAtL2 _ => none
  | .storeApplication _ => none
  | .storeTimeReturn _ => none
  | .storeFailureReturn _ => none
  | .pageTableWalk _ _ _ => none
  | .lineFill _ _ _ => none
  | .leaseExpiry _ _ _ => none
  | .zoneCompression => none
  | .cbldComplete _ _ => none
  | .tileOperationStart _ => none
  | .tileOperationComplete _ => none
  | .tzeroRun _ => none
  | .ctnInjectionRun _ => none
  | .drainRun _ => none
  | .drainComplete _ => none
  | .fragmentComplete _ => none
  | .copyOperationStart _ => none
  | .copyOperationComplete _ => none
  | .brineJobStart _ => none
  | .brineJobComplete _ => none
  | .transferComplete _ _ => none
  | .triggeredTransferStart _ => none
  | .collectiveMeet _ _ => none
  | .collectiveChunkReduce _ _ _ => none
  | .collectiveComplete _ => none
  | .participantUnreachable _ => none
  | .superstepComplete _ _ _ => none
  | .fabricPortDown _ => none
  | .fabricPortUp _ => none
  | .peerStorePerform _ => none

end

end Sys2Proof
end

