-- ==== Sys2Proof/Config.lean ====
section
/-! DEFINITION. What the spec fixes for every KZ-9 as constants, and the free values: results the spec leaves open, each an
opaque constant without a body, so that nothing can be proved about the value it takes (notes/assumptions 2, 4, 20 to 29). -/

namespace Sys2Proof.Config

/-! ### Free values -/

-- DESIGN CHOICE: notes/assumptions/2
/-- A byte that the spec does not state, for the n-th time one is needed (the counter `State.fresh`). -/
opaque freeByte : Nat → Byte
-- DESIGN CHOICE: notes/assumptions/4
/-- What a byte of another device's memory holds until this device stores to it; key `device * 2^52 + physical`. -/
opaque remoteByte : Nat → Byte
-- DESIGN CHOICE: notes/assumptions/27
/-- What a byte of a physical hole (an address with no memory behind it) reads as. -/
opaque holeByte : Nat → Byte
-- DESIGN CHOICE: notes/assumptions/20
/-- The approximate functions of R204, a fixed function of the operand's bits. -/
opaque approxRcp : Word → Word
opaque approxRsq : Word → Word
opaque approxEx2 : Word → Word
opaque approxLg2 : Word → Word
-- DESIGN CHOICE: notes/assumptions/21
/-- 16 bytes of serial number, and the certificate chain with its length in bytes (R431, R436). -/
opaque serialByte : Nat → Byte
opaque certByte : Nat → Byte
opaque certLen : Nat
-- DESIGN CHOICE: notes/assumptions/22
/-- The digest of the body of a firmware image, and the identity key's signature over the bytes of a report, byte by byte (R439). -/
opaque imageDigest : List Byte → Nat → Byte
opaque signatureByte : List Byte → Nat → Byte
-- DESIGN CHOICE: notes/assumptions/23
/-- The compressed image of a page, by page contents index (R307): its layout is not architectural. -/
opaque zoneImageUnits : Nat → Nat
-- DESIGN CHOICE: notes/assumptions/24
/-- Module power in watts and the hottest die in degrees, at a meridian time (R432). -/
opaque powerWatts : Nat → BitVec 16
opaque hottestDie : Nat → BitVec 8
-- DESIGN CHOICE: notes/assumptions/87
/-- The L2 slice of a line of an address space (R296): the mapping is not architectural. -/
opaque sliceOf : Nat → Nat → Nat
-- DESIGN CHOICE: notes/assumptions/25
/-- Whether a firmware image passes the checks of its key and signature, the version it carries (R434), and whether flash can be
written at an update, by the update's number (R435). -/
opaque imageSigned : List Byte → Bool
opaque imageSvn : List Byte → BitVec 32
opaque flashWritable : Nat → Bool
/-- The HBM pseudo-channel that holds a 512 KiB frame, by the frame's number (R431, R441). -/
opaque channelOf : Nat → Nat
/-- Core cycles that a lowered clock runs from a meridian time on (R443). -/
opaque lowClock : Nat → Nat
/-- Nanoseconds that pass beside those a meridian counts at its reduced rate, from a meridian time on (R444). -/
opaque meridianSlip : Nat → Nat
-- DESIGN CHOICE: notes/assumptions/26
/-- Whether the identity key passes its integrity check at a report (R437), by the report's number. -/
opaque identityOk : Nat → Bool

/-! ### Constants of the spec -/

def laneRegs : Nat := 92160            -- R13
def groupSlots : Nat := 48             -- R14
def teamSlots : Nat := 16              -- R19
def binsPerCore : Nat := 16            -- R62
def launchEntries : Nat := 256         -- R19
def tmplEntries : Nat := 64            -- R68
def imageSlots : Nat := 8              -- R80
def lateEntries : Nat := 64            -- R299, per issue slot
def tileQueueLen : Nat := 16           -- R241
def copyQueueLen : Nat := 64           -- R345
def brineLanes : Nat := 32             -- R363
def brineQueueLen : Nat := 16          -- R363
def sluiceEntries : Nat := 128         -- R356
def teamSluice : Nat := 8              -- R360
def transferEntries : Nat := 2048      -- R379
def collEntries : Nat := 64            -- R379
def chunkBuffers : Nat := 1536         -- R19, 96 MiB in 64 KiB chunks
def tsendSlots : Nat := 1024           -- R385
def permits : Nat := 4                 -- R404
def coalescers : Nat := 16             -- R405
def ringSlots : Nat := 1024            -- R406
def noticeSlots : Nat := 4096          -- R305
def poolSlots : Nat := 4096            -- R306
def skewDev : Nat := 4                 -- R317, sigma D
def skewPod : Nat := 80                -- R317, sigma P
def podLease : Nat := 2048             -- R324
def plbEntries : Nat := 1024           -- R293
def tlbEntries : Nat := 8192           -- R296, per controller
def l2Lines : Nat := 1572864           -- R1, R2: 192 MiB of uncompressed lines
def wayBytes : Nat := 0xC000           -- R267
def segBase : Nat := 0x0C0000
def segBytes : Nat := 0x8000
def colBase : Nat := 0x140000
def colBytes : Nat := 0x10000
def colEnd : Nat := 0x340000
def hbmBytes : Nat := 0x6000000000     -- R431
def firmwareBase : Nat := 0x5F80000000 -- R431
def crystBase : Nat := 0x000FFF0000000000 -- R419
def crystBytes : Nat := 0x100000000
def regionLines : Nat := 262144        -- R419, N
def maxVa : Nat := 0x80000000000000    -- 2^55, R286
def computeCores : Nat := 256
def granule : Nat := 65536             -- R127
def featAll : DWord := 0x1F            -- R440

end Sys2Proof.Config
end

