-- ==== Sys2Proof/Machine/Bits.lean ====
section
/-! DEFINITION. Bit-field, byte-order and lane-mask helpers (R4, R5, R10). -/

namespace Sys2Proof.Machine

/-- `Bits(x, hi, lo)` (R10). -/
def bitsN (x hi lo : Nat) : Nat := x / 2 ^ lo % 2 ^ (hi + 1 - lo)

/-- Bit `i` of a number. -/
def bitN (x i : Nat) : Bool := decide (x / 2 ^ i % 2 = 1)

/-- The number that a little-endian byte sequence stands for (R5). -/
def leNat : List Byte → Nat
  | [] => 0
  | b :: bs => b.toNat + 256 * leNat bs

/-- The `n` bytes of `x`, lowest first (R5). -/
def natLe : Nat → Nat → List Byte
  | 0, _ => []
  | n + 1, x => BitVec.ofNat 8 x :: natLe n (x / 256)

/-- Bytes `[off, off + n)` of a record. -/
def slice (bs : List Byte) (off n : Nat) : List Byte := (bs.drop off).take n

/-- The little-endian field of `n` bytes at `off` of a record. -/
def fieldN (bs : List Byte) (off n : Nat) : Nat := leNat (slice bs off n)

/-- The lanes of a mask, ascending. -/
def lanesOf (m : Word) : List Nat := (List.range 32).filter fun l => m.getLsbD l

/-- The mask of the lanes that satisfy `p`. -/
def maskOf128 (p : Nat → Bool) : BitVec 128 := BitVec.ofNat 128 ((List.range 128).foldl (fun a l => if p l then a + 2 ^ l else a) 0)
def maskOf (p : Nat → Bool) : Word := BitVec.ofNat 32 ((List.range 32).foldl (fun a l => if p l then a + 2 ^ l else a) 0)

/-- Number of 1 bits among the low `n` of `x`. -/
def popN : Nat → Nat → Nat
  | 0, _ => 0
  | n + 1, x => x % 2 + popN n (x / 2)

/-- The lowest lane of a mask; 32 when it is empty. -/
def lowestLane (m : Word) : Nat := ((lanesOf m).head?).getD 32

/-- A signed number clamped to `[lo, hi]` (R10). -/
def satI (x lo hi : Int) : Int := if x < lo then lo else if hi < x then hi else x

/-- `Mod(x, m)`: the remainder in 0 to m - 1 (R10). -/
def modI (x : Int) (m : Nat) : Nat := (x.emod (m : Int)).toNat

/-- The low `n` bits of an integer. -/
def ofI (n : Nat) (x : Int) : BitVec n := BitVec.ofInt n x

/-- Floor of the base-2 logarithm, by at most `fuel` halvings; 0 for 0. -/
def log2Fuel : Nat → Nat → Nat
  | 0, _ => 0
  | f + 1, x => if x < 2 then 0 else log2Fuel f (x / 2) + 1

/-- CRC-32C, reflected (R367). -/
def crcBits : Nat → Nat → Nat
  | 0, c => c
  | n + 1, c => crcBits n (if c % 2 = 1 then Nat.xor (c / 2) 0x82F63B78 else c / 2)
def crc32c (bs : List Byte) : Nat := Nat.xor (bs.foldl (fun c b => crcBits 8 (Nat.xor c b.toNat)) 0xFFFFFFFF) 0xFFFFFFFF

/-- Bytes as a multiple of `a`, rounded up. -/
def roundUp (x a : Nat) : Nat := (x + a - 1) / a * a

/-- Do `[a, a + n)` and `[b, b + m)` share an address? -/
def overlap (a n b m : Nat) : Bool := decide (a < b + m) && decide (b < a + n) && n != 0 && m != 0

/-- Replace the element at `i`. -/
def putAt {α : Type} (l : List α) (i : Nat) (x : α) : List α := l.set i x

/-- The first of `n` numbers from `lo` upward that `p` accepts. -/
def firstFrom (p : Nat → Bool) (lo : Nat) : Nat → Option Nat
  | 0 => none
  | n + 1 => if p lo then some lo else firstFrom p (lo + 1) n

/-- Number of the first `n` numbers that `p` accepts. -/
def countBelow (p : Nat → Bool) (n : Nat) : Nat := ((List.range n).filter p).length

end Sys2Proof.Machine
end

