-- ==== Sys2Proof/Machine/NMap.lean ====
section
/-! DEFINITION. Sparse maps from numbers to values as lists in one canonical form: keys strictly rising, and no entry that
holds the default an absent key reads as. Equal maps are equal data. -/

namespace Sys2Proof.Machine

abbrev NMap (β : Type) := List (Nat × β)

/-- The value at `k`, the default `d` where the map lists nothing. -/
def NMap.get {β : Type} (d : β) (k : Nat) : NMap β → β
  | [] => d
  | (a, b) :: m => if a = k then b else NMap.get d k m

/-- The map without key `k`. -/
def NMap.erase {β : Type} (k : Nat) : NMap β → NMap β
  | [] => []
  | (a, b) :: m => if a = k then NMap.erase k m else (a, b) :: NMap.erase k m

/-- Put an entry before the first greater key. -/
def NMap.insert {β : Type} (k : Nat) (v : β) : NMap β → NMap β
  | [] => [(k, v)]
  | (a, b) :: m => if k < a then (k, v) :: (a, b) :: m else (a, b) :: NMap.insert k v m

/-- Put `v` at `k`, keeping the canonical form of default `d`. -/
def NMap.set {β : Type} [DecidableEq β] (d : β) (k : Nat) (v : β) (m : NMap β) : NMap β :=
  if v = d then NMap.erase k m else NMap.insert k v (NMap.erase k m)

/-- Canonical form of default `d`: keys strictly rising and no default listed. -/
def NMap.wf {β : Type} [DecidableEq β] (d : β) : NMap β → Bool
  | [] => true
  | [(_, b)] => !decide (b = d)
  | (a, b) :: (a', b') :: m => !decide (b = d) && decide (a < a') && NMap.wf d ((a', b') :: m)

/-- Drop every key of `[lo, lo + n)`. -/
def NMap.clear {β : Type} (lo n : Nat) : NMap β → NMap β
  | [] => []
  | (a, b) :: m => if lo ≤ a && a < lo + n then NMap.clear lo n m else (a, b) :: NMap.clear lo n m

/-- The map of `f` over the keys below `n`. -/
def NMap.tab {β : Type} [DecidableEq β] (d : β) (n : Nat) (f : Nat → β) : NMap β :=
  (List.range n).filterMap fun k => if f k = d then none else some (k, f k)

end Sys2Proof.Machine
end

