-- ==== Sys2Proof/Machine/State.lean ====
section
/-! DEFINITION. Everything the spec gives the KZ-9 to hold, as plain data, and its value at reset (INVENTORY.md, State). -/

namespace Sys2Proof.Machine

/-! ### Fibres, groups and teams (R57, R136 to R154) -/

/-- What keeps a sub-group from issuing (R118). -/
inductive Wait where
  /-- Nothing. -/
  | ready
  /-- Its instruction found a condition unmet, has not started and is tried again (R22, R105). -/
  | stall
  /-- Its instruction has begun to act on what lies outside the fibre and waits for it: it is tried again, and finds that done
  (R276, R285, R354). -/
  | begun
  /-- BTBL has read its image and waits for the jobs of its lane that were queued before the `n`-th engine operation (R365). -/
  | table (n : Nat) (image : List Byte)
  /-- Parked at YIELD with its PC after it (R124). -/
  | yielded
  /-- Parked at the rendezvous of mask `j` at its PC (R141). -/
  | rejoin (j : Nat)
  /-- Waits for generation `gen` of barrier `n`, after a provisional arrival when `arrived`; ARRWAIT writes `d` (R150). -/
  | bar (n gen : Nat) (arrived : Bool) (d : Option Nat)
  /-- Arrived at a superstep in its generation (R400). -/
  | sstep (gen : Nat)
  /-- NAP until a meridian time, until WAKE, until a core cycle (R153). -/
  | napUntil (t : Nat)
  | napWake
  | napCyc (c : Nat)
  /-- BRD waits for a group slot until a core cycle (R135). -/
  | brdSlot (c : Nat)
  /-- Parked for a private row (R77). -/
  | rows
  /-- Found no trap permit; retries at a core cycle (R404). -/
  | backoff (c : Nat)
  /-- Parked in a trap handler under a record's sequence number (R403). -/
  | trapped (rec : Nat)
  /-- Stopped at a switch point by a closed curfew window, or to end there; WAIT of R130 at the stop (R89, R125). -/
  | stopped (k : Nat)
  /-- It has begun and waits where no switch point is (R22): SAVE, FREEZE or FREEZEN for the writes of its record, an atomic held at its
  home, COLL.abort for its collective (R71, R85, R332, R398, R411). -/
  | saving
  /-- Its record is read, and it waits for what the operation needs next (R104, R227, R240, R354, R372): tried again with these bytes. -/
  | queued (bytes : List Byte)
  /-- CTRWAIT: counter `n` has not reached `want`; it writes `d` (R384). -/
  | ctr (n want d : Nat)
  /-- In the second wait of a neighbour read, its publication made (R178). -/
  | neighbour
  deriving DecidableEq, Repr

/-- One entry of the latch chain (R30, R32): valid bit, how many instructions back it was pushed, a value per lane. -/
structure Latch where
  valid : Bool
  dist : Nat
  vals : List Word
  deriving DecidableEq, Repr

/-- One active loop level (R144): the frame is first and last body word. -/
structure LoopFrame where
  level : Nat
  first : Nat
  last : Nat
  deriving DecidableEq, Repr

/-- A sub-group: lanes that share one PC, loop state and call stack (R136). -/
structure Sub where
  pc : Nat
  mask : Word
  wait : Wait
  calls : List Nat            -- innermost first
  loops : List LoopFrame      -- most recently started first
  lc : List Word              -- lc0 to lc2
  chain : List Latch          -- b0 to b3
  latchRun : Nat              -- consecutive latch readers just before (R32)
  slot : Nat                  -- physical group slot (R137)
  issue : Nat                 -- issue slot
  age : Nat                   -- ageing counter (R118)
  boff : Nat                  -- next back-off length (R404)
  endPending : Bool           -- ENDL has ended its group (R89)
  stopPending : Bool          -- ends or stops at its next switch point (R89, R125)
  ahead : List (Nat × Word) := []  -- words fetched ahead of the PC: address and word (R483)
  deriving DecidableEq, Repr

/-- Index components of a fibre (R59). -/
structure Index where
  x : Nat
  y : Nat
  z : Nat
  lin : Nat
  team : Nat
  fib : Nat
  role : Nat
  level : Nat
  deriving DecidableEq, Repr

/-- A deferred fault record (R300). -/
structure Defer where
  va : Nat
  pc : Nat
  asid : Nat
  tslot : Nat
  gslot : Nat
  lane : Nat
  cause : Nat
  size : Nat
  kind : Nat
  flags : Nat
  time : Nat
  order : Nat                 -- retirement order of its store
  issue : Nat := 0            -- issue slot whose late-fault store buffer holds it (R299)
  deriving DecidableEq, Repr

/-- A moduli set (R224): P, Q, the moduli, and the die of each channel (R226). -/
structure Moduli where
  p : Nat
  q : Nat
  mods : List Nat
  dies : List Nat
  deriving DecidableEq, Repr

/-- A fragment product whose reconstruction has not finished (R255, R256). -/
structure FragPending where
  sub : Word                  -- lanes that issued it
  ex : Word                   -- its executing lanes
  d : Nat                     -- first destination register
  add : Bool                  -- MFRAGA
  pc : Nat
  mods : Moduli               -- the set it was computed in
  elems : List (List Nat)     -- the residues of result (r, c) at 16 r + c
  ue : Bool                   -- a pending uncorrectable error
  deriving DecidableEq, Repr

/-- A load that may still perform: each lane's register holds what it would have returned at issue (R310, R328). -/
structure LateLoad where
  order : Nat
  addrs : List (Nat × Nat)    -- lane and address
  d : Nat                     -- first destination register
  size : Nat
  deriving DecidableEq, Repr

/-- A logical group (R57, R136), keyed by its formation stamp, which is also its age (R119, R129). -/
structure Group where
  gid : Nat
  tid : Nat
  gslot : Nat                 -- group slot in the team
  role : Nat
  win : Nat                   -- window W
  live : Word                 -- lanes that hold a fibre
  subs : List Sub
  v : NMap (List Word)        -- rows, 32 lanes each; absent rows read zero
  pred : List Word
  idx : List Index
  s : NMap DWord
  k : BitVec 7
  j : List Word
  img : Option (List Word)    -- V entries of the image it aliases (R74)
  priv : BitVec 60            -- private-row map (R75)
  rsv : BitVec 60             -- private rows taken from the role's reserve (R76)
  statid : BitVec 6
  token : Bool                -- wake token (R154)
  defer : List Defer          -- pending deferred fault records, oldest first
  delivered : List (Nat × Defer)  -- per lane, the record its trap carries (R411)
  floor : List Nat            -- per lane, the floor its stores carry (R343)
  times : List Nat            -- per lane, the largest time returned (R342)
  passAt : List Nat           -- per lane, when every returned time has passed (R325)
  frag : List FragPending
  nest : List (Nat × Nat)     -- open nested prologues: lane and template entry (R83)
  yRows : BitVec 60           -- rows declared live at YIELD (R124)
  yS : DWord
  late : List LateLoad        -- loads that have not performed (R328)
  arrive : NMap Word          -- arrival lanes per barrier (R150); key 16 is the superstep
  remap : List (Nat × Nat)    -- per logical lane, its physical group slot and lane (R137)
  deriving DecidableEq, Repr

/-- A barrier (R148). -/
structure Barrier where
  gen : BitVec 32
  arr : Word
  mask : BitVec 4
  deriving DecidableEq, Repr

/-- A neighbour publication and count of one fibre position (R176). -/
structure Nb where
  c : Nat
  n : Nat
  p : Word
  live : Bool
  ended : Bool
  deriving DecidableEq, Repr

/-- A role of a team (R98). -/
structure Role where
  groups : Nat
  win : Nat
  reserve : Nat
  left : Nat                  -- rows of the reserve not in use (R76)
  deriving DecidableEq, Repr

/-- One entry of a team's tile handle table (R239). -/
structure TileHandle where
  seq : Nat
  code : Nat
  busy : Bool
  doneAt : Nat                -- completion order
  deriving DecidableEq, Repr

/-- A stash mapping (R274): first ordinal, ways, global base. -/
structure StashMap where
  ord : Nat
  ways : Nat
  base : Nat
  deriving DecidableEq, Repr

/-- Per stash line: filled, lease end, dirty bytes (R274). -/
structure StashLine where
  filled : Bool
  lease : Nat
  dirty : BitVec 128
  deriving DecidableEq, Repr

/-- A team-private copy of one template line (R79). -/
structure CowLine where
  va : Nat
  data : List Byte
  deriving DecidableEq, Repr

/-- The image a templated team starts from (R69, R80). -/
structure ImageRef where
  addr : Nat
  asid : Nat
  deriving DecidableEq, Repr

inductive TeamKind where
  | command (slot : Nat)
  | service (cluster : Nat)
  | dawn
  | grid
  deriving DecidableEq, Repr

/-- Curfew on a team (R121 to R126). -/
structure Curfew where
  until_ : Nat                -- core cycle at which the window closes
  forSeq : Nat                -- launch it was raised for
  closed : Bool
  blocked : Bool
  granBase : Nat
  granules : Nat
  since : Option Nat          -- when step 1 of the save began (R126)
  stashed : Bool              -- its stash lines are being written back
  deriving DecidableEq, Repr

structure Team where
  tid : Nat
  core : Nat
  tslot : Nat
  asid : BitVec 16
  priv : Bool
  kind : TeamKind
  launch : Nat                -- queue entry of its launch
  seq : Nat                   -- sequence number of its launch, 0 for none
  teamNo : Nat
  level : Nat
  child : Nat                 -- child grid, 0 for the launch's own
  roles : List Role
  ways : List Nat             -- physical parts by ordinal (R267)
  segs : List Nat
  cols : List Nat
  acc : BitVec 4
  slotRegs : Word             -- group slots that hold lane registers (R157)
  bars : NMap Barrier
  nb : NMap Nb
  handles : List TileHandle
  tseq : Nat
  moduli : Moduli
  stash : List StashMap
  stashLines : NMap StashLine -- key ordinal * 384 + line
  cow : List CowLine
  image : Option ImageRef
  ftz : Bool
  linked : Bool
  superstep : Bool
  curfew : Option Curfew
  yAcc : BitVec 4
  yLocal : BitVec 62
  engGen : Nat                -- FENCE.ENG generations of the team (R343)
  halted : Bool               -- a stopped service team, or an aborted command program
  restored : List Defer       -- deferred records of the save record, still to deliver (R132)
  deriving DecidableEq, Repr

/-! ### A core's own stores (R62, R212, R228, R241, R293, R405) -/

structure SpawnFib where
  arg : Word
  ord : Nat
  idx : Index
  deriving DecidableEq, Repr

/-- A bin (R62): `full` is true when it is closed and waits to form (R63). -/
structure Bin where
  tid : Nat
  role : Nat
  entry : Nat
  gslot : Nat
  fibs : List SpawnFib
  expires : Nat
  full : Bool
  deriving DecidableEq, Repr

/-- A codebook bank (R212); entries are 128-bit, `bad` marks halves with bad parity. -/
structure Bank where
  owner : Option Nat          -- owning team
  kind : BitVec 2
  valid : Nat
  ents : NMap (BitVec 128)
  bad : NMap Bool
  load : Option (Nat × Nat × Nat × Nat)  -- CBLD in flight: ASID, address, group, lane (R216)
  deriving DecidableEq, Repr

-- DEDUCED: notes/assumptions/17
/-- An accumulator slot (R228): residues keyed channel * 4096 + row * 64 + column, flags keyed row * 64 + column. -/
structure Acc where
  res : NMap Nat
  flags : NMap (BitVec 4)     -- NaN, +∞, -∞, and the mark of an invalid product (R242)
  raw : Bool
  signed : Bool
  m : Nat
  n : Nat
  ktot : Nat
  rs : NMap Nat
  cs : NMap Nat
  statid : Nat
  valid : Bool
  deriving DecidableEq, Repr

inductive TileKind where
  | tile (block : List Byte)
  | drain (form : Nat) (record : List Byte)
  | zero
  | inject (pattern chan row col : Nat)
  deriving DecidableEq, Repr

/-- An operation of a core's tile queue (R241). -/
structure TileOp where
  kind : TileKind
  slot : Nat
  tid : Nat
  gid : Nat
  lane : Nat
  pc : Nat
  entry : Nat                 -- handle entry
  tags : List (Nat × Nat × Nat)  -- core, part key and owner tag recorded at issue (R269)
  running : Bool
  code : Nat
  fault : Option (Nat × Nat × Nat)  -- order, VA and cause of the failure its deferred record names
  size : Nat                  -- bytes of its accesses, for that record
  team : Team                 -- its team as it stood at issue: an operation may outlive its team (R18, R72)
  deriving DecidableEq, Repr

/-- A loop body in an issue slot's loop buffer, as fetched when its loop started (R147, R483). -/
structure LoopBuf where
  issue : Nat
  tid : Nat
  first : Nat
  words : List Word
  deriving DecidableEq, Repr

structure ImageSlot where
  ref : ImageRef
  v : List Word
  kpred : BitVec 7
  deriving DecidableEq, Repr

/-- An L1 line held under a lease (R323). -/
structure L1Line where
  asid : Nat
  line : Nat
  data : List Byte
  lease : Nat
  way : Nat := 0              -- the way of its set that holds it (R271, R273)
  deriving DecidableEq, Repr

/-- A translation: page, permission bits and frame (R290, R293). `w0`, `w1` are the leaf's words, `pte` its address. -/
structure Tlb where
  asid : Nat
  level : Nat
  vpage : Nat
  w0 : Nat
  w1 : Nat
  pte : Nat
  line : Nat := 0             -- the line it was walked for: it lies at that line's controller (R296)
  deriving DecidableEq, Repr

/-- A trap record on its way (R405, R407). `parked` are the sub-groups held in it, as group and lowest lane. -/
structure TrapRec where
  seq : Nat
  core : Nat
  addr : Nat
  pc : Nat
  cause : Nat
  kind : Nat
  pos : Nat
  cluster : Nat
  asid : Nat
  groups : BitVec 48
  lanes : Word
  time : Nat
  drec : Option Defer
  info : Nat
  info2 : Nat
  opened : Nat                -- core cycle of opening
  closed : Bool
  ring : Option Nat           -- slot of the ring once written
  stuck : Bool                -- its ring write faulted; waits for TQ_BASE (R406)
  deriving DecidableEq, Repr

/-- What issued last on a pipe of an issue slot, and how often in a row (R118). -/
structure Pipe where
  gid : Nat
  lane : Nat
  run : Nat
  deriving DecidableEq, Repr

/-- A sub-group that found no private row and has not retried successfully (R77): how many rows its instruction needs. -/
structure RowWait where
  gid : Nat
  mask : Word
  need : Nat
  deriving DecidableEq, Repr

structure CoreSt where
  binTimer : BitVec 16
  ctn : DWord                 -- CTN without PERM (R259)
  bins : List Bin
  epochs : NMap Nat           -- part (0 to 13 ways, 16 to 31 segments, 32 to 63 banks) to epoch (R269)
  banks : NMap Bank
  accs : NMap Acc
  tileQ : List TileOp
  lostAccs : List (Nat × Nat × Acc)  -- team, slot and contents that a team which has ended left to its queued operations (R72)
  images : List ImageSlot
  loopBuf : List LoopBuf      -- bodies in the loop buffers of its issue slots, newest first (R147)
  l1 : List L1Line
  plb : List Tlb
  pipes : NMap Pipe           -- key issue slot * 2 + (1 for uniform)
  exhaustRaised : Bool        -- R77
  rowWait : List RowWait      -- in the order in which they parked (R77)
  exhaustWait : List Nat      -- COPY_EXHAUSTED records waiting for a coalescer record (their INFO)
  deriving DecidableEq, Repr

/-! ### Memory in flight (R295 to R330) -/

/-- An L2 line, tagged by ASID and virtual line; `wtag` is the frame of a dirty line, `pa` where it was filled from. -/
structure L2Line where
  asid : Nat
  line : Nat
  pa : Nat
  owner : Option Nat          -- owning device of a REMOTE line
  data : List Byte
  wtag : Bool
  lease : Nat                 -- latest lease end granted to a core
  cap : Nat                   -- an atomic waits: no later lease than this less the skew; 0 for none
  podEnd : Nat                -- lease end of the line itself (REMOTE)
  last : Nat := 0             -- completion time of what its home applied last (R320)
  stored : BitVec 128 := 0    -- bytes stored since it was filled (R415)
  replica : Bool := false     -- its page has REPLICA = 1 (R298, R333)
  deriving DecidableEq, Repr

inductive Stage where
  | retired
  | held (at_ : Nat)          -- at its L2 line, not before a time
  /-- Sequenced and multicast at a time; other replicas have not all applied it (R333). -/
  | sequenced (at_ : Nat)
  | applied (time : Nat)
  | failed (cause : Nat)
  deriving DecidableEq, Repr

/-- A retired store (R298). `agent` is 0 for a fibre's, else 1 copy engine or transfer, 2 brine lane, 3 drain, 4 inbound transfer, 5 collective,
6 a launch's own writes, 7 a save, 8 an image record, 9 SAVE, 10 the trap queue, and `agentId` names the operation. -/
structure Store where
  id : Nat
  agent : Nat
  agentId : Nat
  core : Nat
  issue : Nat
  tid : Nat
  gid : Nat
  lane : Nat
  gslot : Nat
  tslot : Nat
  pc : Nat
  va : Nat
  asid : Nat
  data : List Byte
  skip : List Nat             -- offsets it does not write (stash write-back, R276)
  kind : Nat                  -- R300
  floor : Nat
  seen : Bool                 -- part of R321's third rule (not UC, REPLICA, RED)
  red : Bool
  replica : Bool
  remote : Bool
  uc : Bool
  peer : Option (Nat × Nat × Nat)  -- peer STL: core, offset, epoch
  stage : Stage
  readBy : List (Nat × Nat) := []  -- other fibres of the core whose loads returned its bytes: group and lane (R326)
  deriving DecidableEq, Repr

/-- A returned failure of an agent's store. -/
structure AgentFail where
  agent : Nat
  id : Nat
  store : Nat
  va : Nat
  cause : Nat
  len : Nat
  deriving DecidableEq, Repr

/-- A page pair live for a frame (R303). -/
structure FramePair where
  frame : Nat                 -- first 512 KiB frame, and how many the page covers
  n : Nat
  asid : Nat
  vpage : Nat
  w : Bool
  deriving DecidableEq, Repr

/-- A preserved line of a snapshot (R358). -/
structure Snap where
  asid : Nat
  line : Nat
  data : List Byte
  before : Nat                -- completion time of the store that displaced it
  bad : Bool := false         -- no ECC could correct it
  deriving DecidableEq, Repr

/-- A live template region (R68). -/
structure Region where
  entry : Nat
  asid : Nat
  base : Nat
  size : Nat
  cow : Bool
  seq : Nat                   -- launch
  frozen : Bool
  dawn : Nat                  -- group of the dawn fibre
  dawnLane : Nat
  child : Nat                 -- child grid that holds its image, 0 for the launch's own
  written : Bool              -- the image record's stores have been issued (R69)
  nested : Bool := false      -- opened by NEST (R83)
  deriving DecidableEq, Repr

/-! ### Launches (R96 to R117, R194) -/

structure ChildGrid where
  id : Nat
  count : Nat
  level : Nat
  next : Nat                  -- next unplaced team
  live : Nat                  -- teams placed or saved and not ended
  region : Nat
  image : ImageRef
  deriving DecidableEq, Repr

structure Launch where
  entry : Nat
  seq : Nat
  asid : BitVec 16
  pkt : List Byte
  active : Bool               -- in the queue, not complete
  status : Nat
  late : Bool
  doneAt : Nat                -- completion order of the entry (R106)
  placedAny : Bool
  next : Nat
  live : Nat
  frozen : Bool               -- the dawn fibre has executed FREEZE, or no template
  dawnPlaced : Bool
  dawnEnded : Bool
  region : Option Nat
  image : Option ImageRef
  children : List ChildGrid
  stats : NMap (BitVec 32)    -- key identifier * 3 + kind (SAT, FLUSH, NAN)
  moduli : Option Moduli
  ended : NMap Nb             -- publications of a LINKED grid's ended teams (R177), key team * 1024 + fibre
  code : Option Nat           -- a completion code decided before any team lived
  pass : Nat                  -- when the completion times of its ended fibres have passed (R91)
  pktVa : Nat
  ssForm : Option Nat         -- superstep form of the current step
  ssTag : Nat
  ssCount : Nat
  ssGen : Nat
  ssReported : Bool           -- the device step has been reported to the pod
  finishing : Bool            -- the completion step has begun
  deriving DecidableEq, Repr

/-- What a save freed on a core for a launch (R115). -/
structure Held where
  seq : Nat
  core : Nat
  tslot : Nat
  slots : Nat
  regs : Nat
  ways : List Nat
  segs : List Nat
  cols : List Nat
  acc : BitVec 4
  banks : List Nat
  deriving DecidableEq, Repr

/-- A part's saved contents: kind (0 way, 1 segment, 2 bank), ordinal, bytes (R131). -/
structure SavedPart where
  kind : Nat
  ord : Nat
  bytes : NMap Byte
  bad : List (Nat × BitVec 128) := []  -- its lines that no ECC corrects, and their bytes stored since (R415)
  deriving DecidableEq, Repr

structure SavedTeam where
  seq : Nat
  entry : Nat
  team : Team
  groups : List Group
  bins : List Bin
  parts : List SavedPart
  banks : List (Nat × Bank)
  accs : List (Nat × Acc)
  fillV : Option ImageRef
  base : Nat                  -- first granule
  granules : Nat
  deriving DecidableEq, Repr

/-! ### Engines and the fabric (R345 to R401) -/

/-- An entry of a copy engine, a brine lane or the fabric: what a handle names (R353, R369, R379). -/
structure Ticket where
  seq : Nat
  asid : BitVec 16
  status : Nat
  done : Bool
  doneAt : Nat
  deriving DecidableEq, Repr

structure CopyOp where
  unit_ : Nat                 -- cluster * 2 + engine
  entry : Nat
  seq : Nat
  order : Nat                 -- device-wide issue order (R359)
  kind : Nat
  record : List Byte
  asid : BitVec 16
  tid : Nat
  lseq : Nat
  core : Nat
  gen : Nat
  snapAt : Nat
  tags : List (Nat × Nat × Nat)  -- part as the record names it, core and part, owner tag (R269)
  mods : Moduli
  running : Bool
  cancelled : Bool
  code : Nat
  cause : Nat
  bytes : Nat                 -- destination bytes whose writes were issued
  waitTo : Nat                -- leases on crystallizer lines it wrote end by then
  deriving DecidableEq, Repr

structure BrineTable where
  id : Nat
  image : List Byte
  deriving DecidableEq, Repr

structure BrineJob where
  lane : Nat
  entry : Nat
  seq : Nat
  order : Nat
  record : List Byte
  asid : BitVec 16
  tid : Nat
  lseq : Nat
  core : Nat
  gen : Nat
  running : Bool
  code : Nat
  cause : Nat
  chunks : Nat
  released : List (Nat × Nat) -- chunk and the last store of its release
  deriving DecidableEq, Repr

/-- A range of a sluice entry: base, length, mode (0 WRITE, 1 EXCL, 2 SNAP), and whether it is crystallizer space. -/
structure SRange where
  base : Nat
  len : Nat
  mode : Nat
  written : Bool
  cryst : Bool
  read : Bool := false        -- its engine has read all of it (R358)
  deriving DecidableEq, Repr

structure Sluice where
  cluster : Nat
  entry : Nat
  seq : Nat
  asid : BitVec 16
  ranges : List SRange
  team : Option Nat           -- owning team of an explicit entry
  order : Nat                 -- issue order of an engine operation
  snapAt : Nat
  deriving DecidableEq, Repr

structure Transfer where
  entry : Nat
  order : Nat                 -- device-wide issue order; also names its stores, as those of a copy operation
  asid : BitVec 16
  record : List Byte
  tid : Nat
  lseq : Nat
  core : Nat
  gen : Nat
  fired : Bool                -- started by a triggered send
  tags : List (Nat × Nat × Nat)
  moved : Bool                -- its accesses have been made; its own writes may be under way
  code : Nat
  cause : Nat
  bytes : Nat
  deriving DecidableEq, Repr

/-- A PUT or PUTC of another device whose writes are under way here (R378); `order` names them. -/
structure Inbound where
  order : Nat
  req : InboundReq
  code : Nat
  cause : Nat
  bytes : Nat                 -- whose writes have been issued
  deriving DecidableEq, Repr

structure TSlot where
  slot : Nat
  seq : Nat
  asid : BitVec 16
  record : List Byte
  core : Nat
  tid : Nat
  lseq : Nat
  tags : List (Nat × Nat × Nat)
  armed : Bool
  fired : Bool
  handle : Nat                -- 0 until the fired transfer has taken its entry
  deriving DecidableEq, Repr

structure Coll where
  entry : Nat
  order : Nat
  asid : BitVec 16
  record : List Byte
  ranks : List Nat            -- the RANKS entries
  tid : Nat
  lseq : Nat
  core : Nat
  gen : Nat
  met : Bool
  src : List Byte             -- the source buffer, read when the participants have met
  given : NMap Byte           -- accepted bytes of the bound RED range
  took : NMap Bool            -- its elements contributed
  chunks : List Nat           -- finished chunks
  skipped : Bool              -- a multicast core was skipped
  stop : Option (Nat × Nat)   -- status and cause it ends with, once decided
  mapped : Bool               -- DONEMAP is written
  bufs : Nat := 0             -- chunk buffers it holds (R19, R393)
  deriving DecidableEq, Repr

structure Counter where
  val : DWord
  tag : BitVec 16
  v : Bool
  deriving DecidableEq, Repr

/-- A crystallizer region (R424 to R426). -/
structure CrystRegion where
  start : Nat
  gap : Nat
  wcount : Nat
  writes : Nat
  hdrA : List Byte            -- header copy A, both its lines; empty as made at manufacture (R425)
  hdrB : List Byte
  remap : List (Nat × Nat)    -- failed slot, spare index; newest first
  deriving DecidableEq, Repr

/-! ### The device (R432, R180) -/

structure Hps where
  entry : DWord
  arg : DWord
  asid : BitVec 16
  priv : Bool
  st : BitVec 2
  refused : Bool
  deriving DecidableEq, Repr

structure Regs where
  bootStatus : BitVec 8
  deviceId : DWord
  aperBase : DWord
  asidTable : DWord
  noticeBase : DWord
  zoneBase : DWord
  zoneSize : DWord
  poolBase : DWord
  zoneReq : BitVec 32
  zoneFull : Bool
  tqBase : DWord
  svcEntry : DWord
  svcAsid : BitVec 16
  hsigBase : DWord
  hsigHead : BitVec 32
  hsigTail : BitVec 32
  errCtl : DWord
  errRec : List Byte
  ceHbm : DWord
  ceL2 : DWord
  ceCryst : DWord
  pwrCap : BitVec 16
  throttled : BitVec 24
  attCtl : BitVec 2
  attNonce : List DWord
  attTaken : List DWord       -- the nonce of the report under way
  attReport : List Byte
  attCount : Nat
  merMaster : Bool
  merLocked : Bool
  merSlow : Bool              -- meridian is ahead of the master's and counts at a reduced rate (R444)
  idWritten : Bool            -- DEVICE_ID has been written since reset
  fwSvn : BitVec 32
  fwMin : BitVec 32
  poolNext : BitVec 12
  fwUpd : BitVec 2
  fwUpdLen : BitVec 32
  fwUpdSrc : DWord
  fwCount : Nat
  flash : List Byte
  flashGood : Bool            -- the image in flash passes the checks of its key and signature (R434)
  flashSvn : BitVec 32        -- its security version
  running : List Byte         -- the image of the running firmware
  ethGw0 : DWord
  ethGw1 : DWord
  ceThresh : BitVec 16
  missCount : BitVec 32
  migDropped : BitVec 32
  curfewWin : BitVec 21
  saveBase : DWord
  saveSize : DWord
  leaseL1 : BitVec 13
  health : DWord              -- RETIRED, HBM and COLUMN of HEALTH; the rest follows from other state (R441)
  featOffer : DWord
  featAccept : DWord
  launched : Bool             -- a LAUNCH has taken an entry since reset
  deriving DecidableEq, Repr

/-- Something the device's environment or the host learns: an MSI-X vector, the answer to a read (R430), fabric traffic. -/
inductive Out where
  | msix (vector : Nat)
  | readData (off : Nat) (bytes : List Byte)
  /-- A transfer's request to another device: ASID, record and the bytes it carries (R377). -/
  | fabricRequest (asid : Nat) (record data : List Byte)
  /-- The answer to another device's transfer: status, cause, bytes written, and bytes read (R378). -/
  | fabricReply (code cause written : Nat) (bytes : List Byte)
  /-- This participant's contribution to a collective, and its abort (R393, R398). -/
  | contribution (tag rank : Nat) (bytes : List Byte)
  | collAbort (tag rank : Nat)
  /-- The report of a device step (R400): tag and stated number of devices. -/
  | superstep (tag count : Nat)
  /-- A store to a replicated page, sequenced and sent to every replica: ASID, address, bytes, the offsets it does not write, and the
  issuing store (R276, R333). -/
  | replica (asid va : Nat) (bytes : List Byte) (skip : List Nat) (store : Nat)
  /-- The answer to another device's access to a line of this device: bytes and lease end, or completion time (R304, R324). -/
  | lineReply (bytes : List Byte) (time : Nat)
  deriving DecidableEq, Repr

/-- Who moves in a step: a sub-group issues, every issue slot chooses, or one of the device's own steps happens. -/
inductive Act where
  | issue (gid lane : Nat)
  /-- It issues, and where it issues a load that R328 lets perform later, that load performs later. -/
  | issueLate (gid lane : Nat)
  /-- A load of the group performs (R328). -/
  | loadPerforms (gid order : Nat)
  /-- Up to `n` words from the sub-group's PC on are fetched ahead of it (R483). -/
  | fetchAhead (gid lane n : Nat)
  /-- A core cycle in which every issue slot chooses for its lane pipe and its uniform pipe (R118, R119). -/
  | cycle
  | event (i : Instr)
  deriving DecidableEq, Repr

/-- One step of the schedule: extra nanoseconds that pass before it, and who moves. -/
structure Move where
  dt : Nat
  act : Act
  deriving DecidableEq, Repr

/-- The machine. -/
structure State where
  -- the model's own: the schedule, the issuing sub-group, and the counter of free values
  agenda : List Move
  cur : Option (Nat × Nat)
  fresh : Nat
  -- time (R316, R180)
  meridian : Nat
  cycles : Nat
  frac : Nat
  slow : Nat                  -- core cycles still to run at a lowered clock (R443)
  -- work
  groups : List Group
  teams : List Team
  cores : NMap CoreSt
  nextGid : Nat
  nextTid : Nat
  nextChild : Nat
  launches : List Launch
  nextSeq : Nat
  doneClock : Nat
  saved : List SavedTeam
  held : List Held
  granules : List (Nat × Nat) -- reserved granules: first, count
  regions : List Region
  hps : NMap Hps
  -- memory
  mem : List Host.Cell
  podMem : NMap Byte
  localMem : NMap Byte        -- key core * 2^23 + physical OFFSET
  l2 : List L2Line
  tlb : List Tlb
  frames : List FramePair
  stores : List Store
  nextStore : Nat
  fails : List AgentFail
  snaps : List Snap
  podGrants : List (Nat × Nat)  -- leases that this home has granted to other devices: physical line and end (R324)
  podCaps : List (Nat × Nat)  -- accesses of other devices that wait for leases: physical line, and when they may be applied (R324)
  lateSeq : Nat               -- the next late load's number
  issuesLate : Bool           -- the issuing move's load performs later (the schedule's choice)
  zone : List (Nat × Nat × NMap Byte × List Nat)  -- compressed images: 4 KiB unit, units, page bytes, lines that no ECC corrects (R306)
  zoneCursor : Nat
  noticeNext : Nat            -- next slot of the notice ring (R305)
  -- errors a read may meet, as facts of the environment (R415, R416)
  badMem : List Nat           -- 128-byte physical lines no ECC can correct
  badL2 : List (Nat × Nat)    -- ASID and virtual line
  badLocal : List (Nat × BitVec 128)  -- 128-byte lines of localMem, and their bytes stored since (R278)
  softErrs : List (Nat × Nat × Nat)  -- errors that ECC corrects: unit (0 HBM, 1 L2, 4 crystallizer) and line (R416)
  podFaults : List (Nat × Nat × Nat) -- device and 512 KiB frame whose translation there fails, with its cause (R304)
  badRegs : List (Nat × Nat × Nat)  -- group, register, lane
  badFrag : List (Nat × Nat × Nat × Nat)  -- core, element, channel, XOR: faults of the next fragment product
  badCryst : List Nat         -- slots whose writes fail verification: region * 2^20 + slot
  fuses : NMap Word           -- nominal column banks per core with hard repair, and with soft repair (R427)
  softRepair : NMap Word
  ueLines : List Nat          -- 128-byte physical lines of HBM that returned an uncorrectable error since reset (R441)
  retiredLines : List Nat     -- those before: their pseudo-channels are retired
  -- engines
  copies : List CopyOp
  copyTickets : NMap Ticket   -- key (cluster * 2 + engine) * 64 + entry
  copySeq : NMap Nat
  brine : List BrineJob
  brineTickets : NMap Ticket  -- key lane * 16 + entry
  brineSeq : NMap Nat
  brineTables : NMap (Option BrineTable)
  sluice : List Sluice
  sluiceSeq : Nat
  engOrder : Nat
  -- fabric
  transfers : List Transfer
  fabTickets : NMap Ticket    -- key entry, 2048 + entry for a collective
  fabSeq : Nat
  counters : NMap Counter
  tsend : List TSlot
  tsendSeq : Nat
  colls : List Coll
  inbound : List Inbound      -- other devices' transfers under way here (R378)
  portsDown : BitVec 16
  -- traps
  recs : List TrapRec
  nextRec : Nat
  ringUse : NMap Nat          -- ring slot to record sequence, 0 for free
  ringLast : Nat
  ringFaulted : Bool          -- a SERVICE_FAULT was posted since TQ_BASE was written
  sigWait : List (Nat × Nat × Nat × Nat × Nat)  -- SERVICE_FAULT signals that wait: value, asid, cluster, pos, kind
  -- crystallizer, health, host
  cryst : NMap CrystRegion
  crystMem : NMap Byte        -- key region * 2^27 + slot * 256 + byte
  grants : NMap DWord
  routes : NMap DWord         -- pod route table, 8-byte registers
  qpairs : List Nat
  dieCe : NMap Nat            -- CE count per channel die (R263)
  erasedDie : Option Nat      -- the die firmware has marked as an erasure (R263)
  memMap : List (Nat × Nat)
  regs : Regs
  out : List Out
  deriving DecidableEq, Repr

/-! ### Outcomes -/

/-- Why the machine stops. -/
inductive Fault where
  /-- `exec` of an instruction word while no sub-group is the issuer (`State.cur`): raised by every meaning of a word. The
  hardware has no such situation: safe. -/
  | noIssuer
  deriving DecidableEq, Repr

/-- Why the model has no meaning. -/
inductive Refusal where
  /-- An instruction the model gives no meaning yet: raised by `exec`'s arms, by name: safe. -/
  | notModelled (mnemonic : String)
  deriving DecidableEq, Repr

/-! ### Reset (R432, R429, R122, R323, R443) -/

def Nb.none : Nb := ⟨0, 0, 0, false, false⟩
def Barrier.init : Barrier := ⟨0, 0, 0⟩
def Acc.empty : Acc := ⟨[], [], false, false, 64, 64, 0, [], [], 0, true⟩
def Bank.free : Bank := ⟨none, 0, 0, [], [], none⟩
def Pipe.idle : Pipe := ⟨0, 0, 0⟩
def StashLine.empty : StashLine := ⟨false, 0, 0⟩
def Ticket.idle : Ticket := ⟨0, 0, 0, true, 0⟩
def Counter.reset : Counter := ⟨0, 0, false⟩
def Hps.reset : Hps := ⟨0, 0, 0, false, 0, false⟩
/-- A region as made at manufacture (R424). -/
def CrystRegion.new : CrystRegion := ⟨0, 262144, 0, 0, [], [], []⟩
def CoreSt.reset : CoreSt := ⟨1024, 0, [], [], [], [], [], [], [], [], [], [], [], false, [], []⟩

/-- The default moduli set (R225) on dies in ascending order. -/
def Moduli.default : Moduli := ⟨4, 2, [4073, 4079, 4091, 4093, 4094, 4095], [0, 1, 2, 3, 4, 5]⟩

-- DESIGN CHOICE: notes/assumptions/1
def Regs.reset : Regs where
  bootStatus := 1
  deviceId := 0
  aperBase := 0
  asidTable := 0
  noticeBase := 0
  zoneBase := 0
  zoneSize := 0
  poolBase := 0
  zoneReq := 0
  zoneFull := false
  tqBase := 0
  svcEntry := 0
  svcAsid := 0
  hsigBase := 0
  hsigHead := 0
  hsigTail := 0
  errCtl := 0
  errRec := []
  ceHbm := 0
  ceL2 := 0
  ceCryst := 0
  pwrCap := 1500
  throttled := 0
  attCtl := 0
  attNonce := [0, 0, 0, 0]
  attTaken := [0, 0, 0, 0]
  attReport := []
  attCount := 0
  merMaster := false
  merLocked := false
  merSlow := false
  idWritten := false
  fwSvn := 0
  fwMin := 0
  poolNext := 0
  fwUpd := 0
  fwUpdLen := 0
  fwUpdSrc := 0
  fwCount := 0
  flash := []
  flashGood := true
  flashSvn := 0
  running := []
  ethGw0 := 0
  ethGw1 := 0
  ceThresh := 0
  missCount := 0
  migDropped := 0
  curfewWin := 20000
  saveBase := 0
  saveSize := 0
  leaseL1 := 256
  health := 0
  featOffer := 0
  featAccept := 0
  launched := false

/-- The machine right after power-up reset: the boot ROM runs (R434), meridian 0 (R444), nothing placed. -/
def State.reset : State where
  agenda := []
  cur := none
  fresh := 0
  meridian := 0
  cycles := 0
  frac := 0
  slow := 0
  groups := []
  teams := []
  cores := []
  nextGid := 1
  nextTid := 1
  nextChild := 1
  launches := []
  nextSeq := 1
  doneClock := 1
  saved := []
  held := []
  granules := []
  regions := []
  hps := []
  mem := []
  podMem := []
  localMem := []
  l2 := []
  tlb := []
  frames := []
  stores := []
  nextStore := 1
  fails := []
  snaps := []
  podGrants := []
  podCaps := []
  lateSeq := 1
  issuesLate := false
  zone := []
  zoneCursor := 0
  noticeNext := 0
  badMem := []
  badL2 := []
  badLocal := []
  softErrs := []
  podFaults := []
  badRegs := []
  badFrag := []
  badCryst := []
  fuses := []
  softRepair := []
  ueLines := []
  retiredLines := []
  copies := []
  copyTickets := []
  copySeq := []
  brine := []
  brineTickets := []
  brineSeq := []
  brineTables := []
  sluice := []
  sluiceSeq := 1
  engOrder := 1
  transfers := []
  fabTickets := []
  fabSeq := 1
  counters := []
  tsend := []
  tsendSeq := 1
  colls := []
  inbound := []
  portsDown := 0
  recs := []
  nextRec := 1
  ringUse := []
  ringLast := 1023
  ringFaulted := false
  sigWait := []
  cryst := []
  crystMem := []
  grants := []
  routes := []
  qpairs := []
  dieCe := []
  erasedDie := none
  memMap := []
  regs := Regs.reset
  out := []

end Sys2Proof.Machine
end

