-- ==== Sys2Proof/Machine/Ops.lean ====
section
/-! DEFINITION. Named operations over the state that every meaning is written with: finding the issuing sub-group, the checks
of R35, lane and uniform registers, the latch chain, completing an instruction, waiting, and TAKING A TRAP (R403 to R406). -/

namespace Sys2Proof.Machine

abbrev Res := Host.Outcome State Fault Refusal

/-! ### Finding things -/

def State.core (s : State) (c : Nat) : CoreSt := NMap.get CoreSt.reset c s.cores
def State.setCore (s : State) (c : Nat) (x : CoreSt) : State := { s with cores := NMap.set CoreSt.reset c x s.cores }
def State.modCore (s : State) (c : Nat) (f : CoreSt → CoreSt) : State := s.setCore c (f (s.core c))

def State.group? (s : State) (gid : Nat) : Option Group := s.groups.find? fun g => g.gid == gid
def State.team? (s : State) (tid : Nat) : Option Team := s.teams.find? fun t => t.tid == tid
def State.setGroup (s : State) (g : Group) : State :=
  { s with groups := s.groups.map fun h => if h.gid == g.gid then g else h }
def State.setTeam (s : State) (t : Team) : State :=
  { s with teams := s.teams.map fun h => if h.tid == t.tid then t else h }
def State.modTeam (s : State) (tid : Nat) (f : Team → Team) : State :=
  { s with teams := s.teams.map fun t => if t.tid == tid then f t else t }
def State.modGroup (s : State) (gid : Nat) (f : Group → Group) : State :=
  { s with groups := s.groups.map fun g => if g.gid == gid then f g else g }

def Group.subAt? (g : Group) (lane : Nat) : Option Sub := g.subs.find? fun u => u.mask.getLsbD lane
/-- Replace the sub-group that holds the lowest lane of `old`. -/
def Group.setSub (g : Group) (old : Word) (u : Sub) : Group :=
  { g with subs := g.subs.map fun w => if w.mask == old then u else w }

/-- The issuing sub-group, its group and its team. -/
structure Ctx where
  gid : Nat
  lane : Nat
  g : Group
  u : Sub
  t : Team
  deriving DecidableEq, Repr

/-- The context of lane `lane` of group `gid`. -/
def State.ctxOf (s : State) (gid lane : Nat) : Option Ctx :=
  match s.group? gid with
  | none => none
  | some g =>
    match g.subAt? lane, s.team? g.tid with
    | some u, some t => some ⟨gid, lane, g, u, t⟩
    | _, _ => none

def State.ctx? (s : State) : Option Ctx :=
  match s.cur with
  | none => none
  | some (gid, lane) => s.ctxOf gid lane

def State.groupCore (s : State) (g : Group) : Nat := ((s.team? g.tid).map (·.core)).getD 512

/-- The same sub-group after the state changed. -/
def Ctx.refresh (c : Ctx) (s : State) : Ctx := (s.ctxOf c.gid c.lane).getD c

def Ctx.active (c : Ctx) : Word := c.u.mask
def Ctx.core (c : Ctx) : Nat := c.t.core

/-- Compute cores are 0 to 255 (16 × cluster + position, R180); service core n is 256 + n. -/
def clusterOf (core : Nat) : Nat := if core < 256 then core / 16 else core - 256
def posOf (core : Nat) : Nat := if core < 256 then core % 16 else 16
def isService (core : Nat) : Bool := decide (256 ≤ core)

/-! ### Time (R180, R316) -/

-- DESIGN CHOICE: notes/assumptions/6
/-- Meridian counts `dt + 1` nanoseconds; the core clock runs 9 cycles in 4 ns, or fewer while it is lowered (R443). A meridian that is
ahead of the pod's counts fewer nanoseconds than pass (R444). `THERMAL` counts the cycles that a lowered clock runs. -/
def tick (s : State) (dt : Nat) : State :=
  let real := if s.regs.merSlow then dt + 1 + Config.meridianSlip s.meridian else dt + 1
  let q := s.frac + 9 * real
  let n := if s.slow = 0 then q / 4 else min (q / 4) (max 1 (Config.lowClock s.meridian))
  { s with meridian := s.meridian + (dt + 1), cycles := s.cycles + n, frac := q % 4, slow := s.slow - n
           regs := if s.slow = 0 then s.regs else { s.regs with throttled := s.regs.throttled + BitVec.ofNat 24 (min n s.slow) } }

/-! ### The column's carve map (R427) -/

/-- The uncarved nominal banks of a core, ascending: physical bank `p` is the `p`-th of them. -/
def State.bankMap (s : State) (core : Nat) : List Nat :=
  let carved := NMap.get 0 core s.fuses ||| NMap.get 0 core s.softRepair
  (List.range 32).filter fun i => !carved.getLsbD i
/-- C. -/
def State.colBanks (s : State) (core : Nat) : Nat := (s.bankMap core).length

/-! ### Health (R441) -/

/-- `HEALTH`: the sticky fields that `Regs.health` keeps, and those that the erasure mark and the remap lists keep. -/
def State.healthValue (s : State) : DWord :=
  let die : DWord := match s.erasedDie with
    | some d => 0x802 ||| BitVec.ofNat 64 (d % 8 * 256)
    | none => 0
  let cryst : DWord := if s.cryst.any fun q => decide (64 ≤ q.2.remap.length) then 0x10 else 0
  let x := s.regs.health ||| die ||| cryst
  if x &&& 0x1E = 0 then x else x ||| 1

/-- Vector 2 fires when a field of `HEALTH` has changed since `old`. -/
def State.noteHealth (s : State) (old : DWord) : State := if s.healthValue = old then s else { s with out := s.out ++ [.msix 2] }

/-! ### Registers -/

def zeroRow : List Word := List.replicate 32 0

/-- A lane register row: the private or plain row, or the image value in every lane (R74). -/
def Group.row (g : Group) (r : Nat) : List Word :=
  match g.img with
  | some v => if g.priv.getLsbD r then NMap.get zeroRow r g.v else List.replicate 32 (v.getD r 0)
  | none => NMap.get zeroRow r g.v

def Group.lane (g : Group) (r l : Nat) : Word := (g.row r).getD l 0

/-- The pair `vN:vN+1` (R158). -/
def Group.pair (g : Group) (r l : Nat) : DWord := g.lane (r + 1) l ++ g.lane r l

/-- Write `f l` to row `r` in the lanes of `m`. -/
def Group.setRow (g : Group) (r : Nat) (m : Word) (f : Nat → Word) : Group :=
  let old := g.row r
  { g with v := NMap.set zeroRow r ((List.range 32).map fun l => if m.getLsbD l then f l else old.getD l 0) g.v }

/-- Write `f r l` to every row of `rs` in the lanes of `m`. -/
def Group.setRows (g : Group) (rs : List Nat) (m : Word) (f : Nat → Nat → Word) : Group :=
  rs.foldl (fun g r => g.setRow r m (f r)) g

def Group.sReg (g : Group) (i : Nat) : DWord := NMap.get 0 i g.s
def Group.setS (g : Group) (i : Nat) (x : DWord) : Group := { g with s := NMap.set 0 i x g.s }
/-- `k0` to `k6`; `k7` reads 1 (R159). -/
def Group.kReg (g : Group) (i : Nat) : Bool := if i = 7 then true else g.k.getLsbD i
/-- `k7` cannot be written (R28). -/
def Group.setK (g : Group) (i : Nat) (x : Bool) : Group :=
  if i < 7 then { g with k := if x then g.k ||| (1#7 <<< i) else g.k &&& ~~~(1#7 <<< i) } else g
def Group.predOf (g : Group) (l : Nat) : Word := g.pred.getD l 0
def Group.p (g : Group) (i l : Nat) : Bool := (g.predOf l).getLsbD i
def Group.setPredWord (g : Group) (m : Word) (f : Nat → Word) : Group :=
  { g with pred := (List.range 32).map fun l => if m.getLsbD l then f l else g.predOf l }
def setBit32 (w : Word) (i : Nat) (b : Bool) : Word := if b then w ||| (1#32 <<< i) else w &&& ~~~(1#32 <<< i)
/-- `pI := f l` in the lanes of `m`. -/
def Group.setP (g : Group) (i : Nat) (m : Word) (f : Nat → Bool) : Group :=
  g.setPredWord m fun l => setBit32 (g.predOf l) i (f l)

def Group.index (g : Group) (l : Nat) : Index := g.idx.getD l ⟨0, 0, 0, 0, 0, 0, 0, 0⟩

/-- A sub-group that is not parked or stopped; one that waits tries its instruction again. -/
def Sub.mayIssue (u : Sub) : Bool :=
  match u.wait with
  | .ready | .stall | .begun | .table _ _ | .saving | .queued _ | .neighbour | .brdSlot _ => true
  | _ => false

/-! ### Guards (R24, R27) -/

-- DEDUCED: notes/assumptions/91
/-- The lanes of the sub-group whose guard holds. -/
def Ctx.execMask (c : Ctx) (g : BitVec 4) : Word :=
  let n := (g.extractLsb' 0 3).toNat
  let neg := g.getLsbD 3
  if n = 7 then c.active else maskOf fun l => c.active.getLsbD l && (c.g.p n l != neg)

/-- Does the uniform guard hold? -/
def Ctx.uguard (c : Ctx) (g : BitVec 4) : Bool := c.g.kReg (g.extractLsb' 0 3).toNat != g.getLsbD 3

/-! ### The latch chain (R30 to R33, R160) -/

def Latch.empty : Latch := ⟨false, 0, []⟩
def Sub.dropChain (u : Sub) : Sub := { u with chain := u.chain.map fun b => { b with valid := false }, latchRun := 0 }
def Group.dropChains (g : Group) : Group := { g with subs := g.subs.map Sub.dropChain }

/-- R32: the entry is valid, its producer is one of the three instructions before (`dist` counts those since), and at most three
readers run on. -/
def Sub.latchOk (u : Sub) (n : Nat) : Bool :=
  match u.chain[n]? with
  | some b => b.valid && decide (b.dist ≤ 2) && decide (u.latchRun < 3)
  | none => false

def Sub.latch (u : Sub) (n l : Nat) : Word := ((u.chain[n]?).map fun b => b.vals.getD l 0).getD 0

/-- One class A instruction has completed: entries are one instruction older. -/
def Sub.ageChain (u : Sub) (reads : Bool) : Sub :=
  { u with chain := u.chain.map (fun b => { b with dist := b.dist + 1 }), latchRun := if reads then u.latchRun + 1 else 0 }

/-- Push (R30): executing lanes push their result, the others 0. -/
def Sub.push (u : Sub) (ex : Word) (f : Nat → Word) : Sub :=
  { u with chain := (⟨true, 0, (List.range 32).map fun l => if ex.getLsbD l then f l else 0⟩ :: u.chain).take 4 }

/-- The lane pipe of an issue slot goes to `(gid, mask)`: every other sub-group of the slot loses its chain (R31). -/
def State.switchPipe (s : State) (core issue gid : Nat) (mask : Word) : State :=
  { s with groups := s.groups.map fun g =>
      if (match s.team? g.tid with | some t => t.core == core | none => false) then
        { g with subs := g.subs.map fun u => if u.issue == issue && !(g.gid == gid && u.mask == mask) then u.dropChain else u }
      else g }

/-! ### Completing an instruction (R21, R145) -/

/-- R145: the levels whose last word is `addr`, most recently started first. -/
def loopStep (addr : Nat) : List LoopFrame → List Word → List LoopFrame × List Word × Option Nat
  | [], lc => ([], lc, none)
  | f :: fs, lc =>
    if f.last = addr then
      let n := lc.getD f.level 0 - 1
      if n = 0 then loopStep addr fs (lc.set f.level n) else (f :: fs, lc.set f.level n, some f.first)
    else
      match loopStep addr fs lc with
      | (r, lc', t) => (f :: r, lc', t)

-- DEDUCED: notes/assumptions/101
/-- The sub-group falls through from its instruction; `addr` is the address whose loops are counted (R145). -/
def Sub.next (u : Sub) (addr : Nat) : Sub :=
  match loopStep addr u.loops u.lc with
  | (fs, lc, some pc) => { u.dropChain with loops := fs, lc := lc, pc := pc, wait := .ready, ahead := [] }
  | (fs, lc, none) => { u with loops := fs, lc := lc, pc := addr + 4, wait := .ready }

/-- A taken branch (R145): levels that do not hold the target, and those started inside them, become inactive. -/
def dropOutside (target : Nat) : List LoopFrame → List LoopFrame
  | [] => []
  | f :: fs =>
    let rest := dropOutside target fs
    if rest.length < fs.length then rest
    else if target < f.first || f.last < target then fs else f :: fs

def Sub.jump (u : Sub) (target : Nat) : Sub :=
  { u.dropChain with pc := target, loops := dropOutside target u.loops, wait := .ready, ahead := [] }

def Ctx.setSub (c : Ctx) (s : State) (u : Sub) : State := s.modGroup c.gid fun g => g.setSub c.u.mask u

/-- An instruction outside class A has completed for the whole sub-group (R31). -/
def fin (c : Ctx) (s : State) : Res := .next (c.setSub s (c.u.dropChain.next c.u.pc))

-- DESIGN CHOICE and DEDUCED: notes/assumptions/9, 92
/-- It waits for a condition and has not started (R22). -/
def stall (c : Ctx) (s : State) : Res := .next (c.setSub s { c.u with wait := .stall })

/-- It has begun to act, as R22 lets it, and waits. -/
def begun (c : Ctx) (s : State) : Res := .next (c.setSub s { c.u with wait := .begun })

/-- It has begun to act and waits where it has no switch point (R22). -/
def underWay (c : Ctx) (s : State) : Res := .next (c.setSub s { c.u with wait := .saving })

def parkAs (c : Ctx) (s : State) (w : Wait) : Res := .next (c.setSub s { c.u.dropChain with wait := w })

/-! ### Memory lists that waits look at -/

/-- Has some fibre of `m` a store whose time or failure has not returned (R325)? -/
def State.storesOf (s : State) (gid : Nat) (m : Word) : Bool :=
  s.stores.any fun st => st.gid == gid && m.getLsbD st.lane

/-! ### Traps -/

/-- Numbers of causes (R402). -/
def cILLEGAL : Nat := 1
def cPRIV : Nat := 2
def cSTALE : Nat := 3
def cMISALIGNED : Nat := 4
def cNOTMAPPED : Nat := 5
/-- No cause of the spec: an access of an operation that waits for the pod's time (R444). -/
def cAWAY : Nat := 0
def cBADPTE : Nat := 6
def cPROT : Nat := 7
def cCOWWRITE : Nat := 8
def cSYNONYM : Nat := 9
def cZONEEMPTY : Nat := 10
def cREDREAD : Nat := 11
def cREDSTORE : Nat := 12
def cTMPLWRITE : Nat := 13
def cTMPLSTATE : Nat := 14
def cCOWFULL : Nat := 15
def cLOCKED : Nat := 16
def cLRANGE : Nat := 17
def cLOWNER : Nat := 18
def cLUNCORR : Nat := 19
def cMUNCORR : Nat := 20
def cSTASH : Nat := 21
def cCBOWNER : Nat := 22
def cCBKIND : Nat := 23
def cINDEX : Nat := 24
def cCBPARITY : Nat := 25
def cMATRIX : Nat := 26
def cTILE : Nat := 27
def cACCOWNER : Nat := 28
def cFRAG : Nat := 29
def cMODRANGE : Nat := 30
def cNOCHAN : Nat := 31
def cREJOIN : Nat := 32
def cCALLDEPTH : Nat := 33
def cLOOP : Nat := 34
def cBARRIER : Nat := 35
def cCTROWNER : Nat := 36
def cSSTEP : Nat := 37
def cSOFT : Nat := 38
def cEXHAUSTED : Nat := 48
def cMEMERROR : Nat := 49
def cSTATSFAULT : Nat := 50

/-- A lane that traps: cause, the record's ADDR and PC (R407), the deferred record it carries, and INFO. -/
structure TrapItem where
  lane : Nat
  cause : Nat
  addr : Nat
  pc : Nat
  drec : Option Defer := none
  info : Nat := 0
  deriving DecidableEq, Repr

/-- Permits in use on a core: records of KIND 0 with a parked sub-group (R404). -/
def State.isParkedIn (s : State) (seq : Nat) : Bool :=
  s.groups.any fun g => g.subs.any fun u => u.wait == .trapped seq
def State.permitsUsed (s : State) (core : Nat) : Nat :=
  (s.recs.filter fun r => r.core == core && r.kind == 0 && s.isParkedIn r.seq).length
/-- Coalescer records in use on a core: those not yet transferred to the ring (R405). -/
def State.coalUsed (s : State) (core : Nat) : Nat :=
  (s.recs.filter fun r => r.core == core && decide (r.kind < 2) && r.ring.isNone).length
def State.ringFull (s : State) : Bool := decide (Config.ringSlots ≤ s.ringUse.length)

/-- A SERVICE_FAULT signal waits to be posted (R414); `postSignals` of Host.lean posts it. -/
def State.signalFault (s : State) (value asid cluster pos : Nat) : State :=
  { s with sigWait := s.sigWait ++ [(value, asid, cluster, pos, 1)] }

/-- Where a trapping sub-group goes (R403 to R405): joins an open record, opens one, or backs off. -/
def enterTrap (s : State) (t : Team) (u : Sub) (it : TrapItem) : State × Sub :=
  let core := t.core
  let key := fun (r : TrapRec) => r.core == core && r.kind == 0 && r.asid == t.asid.toNat && r.cause == it.cause
    && r.addr / 2 ^ 19 % 2 ^ 36 == it.addr / 2 ^ 19 % 2 ^ 36 && !r.closed && decide (s.cycles < r.opened + 256)
  match s.recs.find? key with
  | some r =>
    ({ s with recs := s.recs.map fun q => if q.seq == r.seq then { q with groups := q.groups ||| (1#48 <<< u.slot) } else q },
     { u with wait := .trapped r.seq, boff := 64 })
  | none =>
    if Config.permits ≤ s.permitsUsed core || Config.coalescers ≤ s.coalUsed core || s.ringFull then
      (s, { u with wait := .backoff (s.cycles + u.boff), boff := min (u.boff * 2) 4096 })
    else
      let r : TrapRec :=
        { seq := s.nextRec, core := core, addr := it.addr, pc := it.pc, cause := it.cause, kind := 0, pos := posOf core,
          cluster := clusterOf core, asid := t.asid.toNat, groups := 1#48 <<< u.slot, lanes := u.mask, time := s.meridian,
          drec := it.drec, info := it.info, info2 := 0, opened := s.cycles, closed := false, ring := none, stuck := false }
      ({ s with recs := s.recs ++ [r], nextRec := s.nextRec + 1 }, { u with wait := .trapped s.nextRec, boff := 64 })

/-- Split off and trap the sub-groups of `items`, grouped by cause and 512 KiB page in order of their lowest lane (R403).
`u` is the sub-group as it stands at the instruction; its remaining lanes are the caller's. -/
def trapGroups : Nat → State → Nat → Sub → List TrapItem → State
  | 0, s, _, _, _ => s
  | _ + 1, s, _, _, [] => s
  | n + 1, s, gid, u, it :: rest =>
    let same := fun (x : TrapItem) => x.cause == it.cause && x.addr / 2 ^ 19 == it.addr / 2 ^ 19
    let mine := it :: rest.filter same
    let others := rest.filter fun x => !same x
    match s.group? gid with
    | none => s
    | some g =>
      match s.team? g.tid with
      | none => s
      | some t =>
        let u0 : Sub := { u.dropChain with mask := maskOf fun l => mine.any fun x => x.lane == l }
        match enterTrap s t u0 it with
        | (s1, u1) =>
          let parked := match u1.wait with | .trapped _ => true | _ => false
          let gone := fun (d : Defer) => parked && mine.any fun x => (match x.drec with | some e => e == d | none => false)
          let given := mine.filterMap fun x => (match x.drec with | some e => if parked then some (x.lane, e) else none | none => none)
          let s2 := s1.modGroup gid fun h =>
            { h with subs := h.subs ++ [u1]
                     defer := h.defer.filter fun d => !gone d
                     delivered := if parked then (h.delivered.filter fun q => !mine.any fun x => x.lane == q.1) ++ given else h.delivered }
          trapGroups n s2 gid u others

/-- The loads of the lanes of `m` perform with the values that their registers hold. -/
def dropLate (m : Word) (ls : List LateLoad) : List LateLoad :=
  (ls.map fun x => { x with addrs := x.addrs.filter fun q => !m.getLsbD q.1 }).filter fun x => !x.addrs.isEmpty

/-- TAKING A TRAP (R10, R403, R414). `items` are the trapping lanes, ascending, of the sub-group `c.u` of `s`; `rest` is what
the sub-group's other lanes become. A trap in a trap service team stops the team at the instruction and signals the host;
a trap of any lane drops the chains of the group's sub-groups; with `keep` (a register-file error) the lanes that run on keep theirs
(R160). -/
def trapWith (keep : Bool) (c : Ctx) (s : State) (items : List TrapItem) (rest : Sub → Sub) : State :=
  match items with
  | [] => c.setSub s (rest c.u)
  | it :: _ =>
    match c.t.kind with
    | .service n =>
      (s.modTeam c.t.tid fun t => { t with halted := true }).signalFault it.cause c.t.asid.toNat n 16
    | _ =>
      let tm := maskOf fun l => items.any fun x => x.lane == l
      let m := c.u.mask &&& ~~~tm
      let left := if m = 0 then [] else [{ rest c.u with mask := m }]
      let s1 := s.modGroup c.gid fun g =>
        let subs := (g.subs.filter fun w => !(w.mask == c.u.mask)).map Sub.dropChain
        { g with subs := (left.map fun w => if keep then w else w.dropChain) ++ subs, late := dropLate tm g.late }
      trapGroups 32 s1 c.gid c.u items

/-- Every active lane traps at the instruction and nothing else changes. `addr` and `pc` as R407 says. -/
def trapAllAt (c : Ctx) (s : State) (cause addr pc info : Nat) : Res :=
  .next (trapWith false c s ((lanesOf c.active).map fun l => ⟨l, cause, addr, pc, none, info⟩) id)

def trapAll (c : Ctx) (s : State) (cause : Nat) : Res := trapAllAt c s cause c.u.pc c.u.pc 0

/-- A trap whose record's ADDR is a data address. -/
def trapAllMem (c : Ctx) (s : State) (cause addr : Nat) : Res := trapAllAt c s cause addr c.u.pc 0

/-- `k` bytes that the spec does not state, as a number. -/
def freeNat (n k : Nat) : Nat := leNat ((List.range k).map fun i => Config.freeByte (n + i))

-- DESIGN CHOICE: notes/assumptions/98
/-- A memory error record (KIND 2, R416), written through the ring or, when it is full, to the error summary (R417). No group has
trapped in it: its PC and LANES are free, and its INFO where the unit (2, 3, 5) has no physical address. -/
def memError (s : State) (cluster pos asid addr phys unit_ : Nat) : State :=
  let r : TrapRec :=
    { seq := s.nextRec, core := 512, addr := addr, pc := freeNat s.fresh 8, cause := cMEMERROR, kind := 2, pos := pos, cluster := cluster,
      asid := asid, groups := 0, lanes := BitVec.ofNat 32 (freeNat (s.fresh + 8) 4), time := s.meridian, drec := none
      info := if unit_ = 2 || unit_ = 3 || unit_ = 5 then freeNat (s.fresh + 12) 8 else phys, info2 := unit_,
      opened := s.cycles, closed := true, ring := none, stuck := false }
  { s with recs := s.recs ++ [r], nextRec := s.nextRec + 1, fresh := s.fresh + 20
           ueLines := if unit_ = 0 then phys / 128 :: s.ueLines.filter (· != phys / 128) else s.ueLines }

/-- A COPY_EXHAUSTED record (R77, R405, R407): `info` names the parked teams; its PC (and so ADDR), ASID and LANES are free. -/
def exhaustedRecord (s : State) (core info : Nat) : State :=
  let pc := freeNat s.fresh 8
  let r : TrapRec :=
    { seq := s.nextRec, core := core, addr := pc, pc := pc, cause := cEXHAUSTED, kind := 1, pos := posOf core, cluster := clusterOf core
      asid := freeNat (s.fresh + 8) 2, groups := 0, lanes := BitVec.ofNat 32 (freeNat (s.fresh + 10) 4), time := s.meridian, drec := none
      info := info, info2 := 0, opened := s.cycles, closed := true, ring := none, stuck := false }
  { s with recs := s.recs ++ [r], nextRec := s.nextRec + 1, fresh := s.fresh + 14 }

/-! ### The checks before an instruction executes (R35, R156, R256) -/

structure Gate where
  /-- Lane registers named, members of implied groups included (R156). -/
  regs : List Nat := []
  /-- Lane registers read (R416). -/
  reads : List Nat := []
  /-- Latches read (R32). -/
  latches : List Nat := []
  /-- Bit of FEAT_ACCEPT that gates the form (R38). -/
  feat : Option Nat := none
  cc : Bool := false
  priv : Bool := false
  /-- A wait point, END or ENDL (R256, R301). -/
  waitPt : Bool := false
  deriving DecidableEq, Repr

/-- The first trap of R35 that applies. -/
def gateCause (G : Gate) (s : State) (c : Ctx) : Option Nat :=
  if G.regs.any fun r => decide (c.g.win ≤ r) then some cILLEGAL
  else if (match G.feat with | some b => !s.regs.featAccept.getLsbD b | none => false) then some cILLEGAL
  else if G.cc && isService c.core then some cILLEGAL
  else if G.priv && !c.t.priv then some cPRIV
  else if G.latches.any fun n => !c.u.latchOk n then some cSTALE
  else none

/-- A fragment whose result the instruction must wait for, or whose uncorrectable error it takes (R255, R256). -/
def fragHit (G : Gate) (c : Ctx) : Option FragPending :=
  c.g.frag.find? fun f => (f.sub &&& c.active) != 0 && (G.waitPt || G.regs.any fun r => decide (f.d ≤ r) && decide (r < f.d + 8))

/-- A load that has not performed and whose registers the instruction names: the scoreboard holds it back (R310). -/
def lateHit (G : Gate) (c : Ctx) : Bool :=
  c.g.late.any fun x => (x.addrs.any fun q => c.active.getLsbD q.1) && G.regs.any fun r => decide (x.d ≤ r) && decide (r < x.d + (x.size + 3) / 4)

/-- Is every lane of `m` parked in a trap? -/
def State.parkedIn (s : State) (gid : Nat) (m : Word) : Bool :=
  match s.group? gid with
  | none => false
  | some g => g.subs.any fun u => (m &&& ~~~u.mask) == 0 && (match u.wait with | .trapped _ => true | _ => false)

/-- MATRIX_UNCORRECTABLE of a fragment's pending error, for every active lane (R256). The error is no longer pending once they are
parked in the trap; a sub-group that finds no permit meets it again (R404). -/
def takeFragTrap (c : Ctx) (s : State) (f : FragPending) : State :=
  let s1 := trapWith false c s ((lanesOf c.active).map fun l => ⟨l, cMATRIX, f.pc, f.pc, none, 0⟩) id
  if s1.parkedIn c.gid c.active then s1.modGroup c.gid fun g => { g with frag := g.frag.filter fun x => !(x == f) } else s1

/-- Run `k` for the issuing sub-group once the checks pass. -/
def gated (G : Gate) (s : State) (k : Ctx → State → Res) : Res :=
  match s.ctx? with
  | none => .fault .noIssuer
  | some c =>
    match gateCause G s c with
    | some cause => trapAll c s cause
    | none =>
      match fragHit G c with
      | none => if lateHit G c then stall c s else k c s
      | some f =>
        if f.ue then .next (takeFragTrap c s f) else stall c s

/-- A uniform instruction: with a failed guard it changes nothing (R27). -/
def uniform (G : Gate) (g : BitVec 4) (s : State) (k : Ctx → State → Res) : Res :=
  gated { G with waitPt := false } s fun c s =>
    if c.uguard g then (if G.waitPt then gated G s k else k c s) else fin c s

/-! ### Private rows (R75 to R77, R157) -/

/-- Lane registers of a core that the live teams and groups hold (R157). -/
def State.regsUsed (s : State) (core : Nat) : Nat :=
  (s.teams.filter fun t => t.core == core).foldl (fun a t =>
    let slotsOf := fun (r : Nat) => ((t.roles.take r).map (·.groups)).foldl (· + ·) 0
    match t.image with
    | none =>
      a + (List.range t.roles.length).foldl (fun b r =>
        match t.roles[r]? with
        | none => b
        | some ro => b + countBelow (fun i => t.slotRegs.getLsbD (slotsOf r + i)) ro.groups * ro.win * 32) 0
    | some _ =>
      a + t.roles.foldl (fun b ro => b + ro.reserve * 32) 0
        + (s.groups.filter fun g => g.tid == t.tid).foldl (fun b g =>
            b + popN 60 (g.priv &&& ~~~g.rsv).toNat * 32) 0) 0

def State.regFree (s : State) (core : Nat) : Nat := Config.laneRegs - s.regsUsed core

/-- What saves on a core have freed for launches other than `seq` (R115). -/
def State.heldFrom (s : State) (core seq : Nat) : List Held := s.held.filter fun h => h.core == core && h.seq != seq
/-- Free lane registers that launch `seq` may take. -/
def State.regFreeFor (s : State) (core seq : Nat) : Nat := s.regFree core - ((s.heldFrom core seq).map (·.regs)).sum

-- DEDUCED: notes/assumptions/112
/-- R77: every group of the core parked for rows raises one COPY_EXHAUSTED record, which never takes a seventeenth
coalescer record. -/
def checkExhausted (s : State) (core : Nat) : State :=
  let here := fun (g : Group) => match s.team? g.tid with | some t => t.core == core | none => false
  let gs := s.groups.filter here
  let parked := fun (u : Sub) => u.wait == .rows
  if !(CoreSt.exhaustRaised (s.core core)) && !gs.isEmpty && (gs.all fun g => g.subs.all parked) then
    let info := (gs.filterMap fun g => (s.team? g.tid).map (·.tslot)).foldl (fun a i => a ||| 2 ^ i) 0
    let s := s.modCore core fun x => { x with exhaustRaised := true }
    if Config.coalescers ≤ s.coalUsed core then s.modCore core fun x => { x with exhaustWait := x.exhaustWait ++ [info] }
    else exhaustedRecord s core info
  else s

-- DEDUCED: notes/assumptions/100, 111
/-- Make the rows private that the executing lanes `m` will write (R75). `none`: a row cannot be had (R77), and then none of them is taken. -/
def privatise (gid : Nat) (s : State) (rows : List Nat) (m : Word) : Option State :=
  match s.group? gid with
  | none => some s
  | some g =>
    match g.img, s.team? g.tid with
    | some v, some t =>
      let need := if m = 0 then [] else rows.filter fun r => !g.priv.getLsbD r
      if need.isEmpty then some s
      else
        let left := ((t.roles[g.role]?).map (·.left)).getD 0
        let fromRsv := need.take left
        let others := need.drop left
        if s.regFreeFor t.core t.seq < 32 * others.length then none
        else
          let bits := fun (l : List Nat) => l.foldl (fun (a : BitVec 60) r => a ||| (1#60 <<< r)) 0
          let s1 := s.modTeam t.tid fun t =>
            { t with roles := (List.range t.roles.length).zipWith (fun i ro => if i = g.role then { ro with left := ro.left - fromRsv.length } else ro) t.roles }
          some (s1.modGroup gid fun g =>
            let g1 := need.foldl (fun (g : Group) r => { g with v := NMap.set zeroRow r (List.replicate 32 (v.getD r 0)) g.v }) g
            { g1 with priv := g1.priv ||| bits need, rsv := g1.rsv ||| bits fromRsv })
    | _, _ => some s

/-- Groups that are gone wait for no row. -/
def dropRowWait (s : State) : State :=
  { s with cores := s.cores.map fun q => (q.1, { q.2 with rowWait := q.2.rowWait.filter fun r => s.groups.any fun g => g.gid == r.gid }) }

/-- Is it this sub-group's wait? -/
def RowWait.of (c : Ctx) (r : RowWait) : Bool := r.gid == c.gid && r.mask == c.active

/-- The sub-group no longer waits for a row: a retry that succeeds lets the core raise COPY_EXHAUSTED again (R77). -/
def gotRows (c : Ctx) (s : State) : State :=
  if (s.core c.core).rowWait.any (RowWait.of c) then
    s.modCore c.core fun x => { x with exhaustRaised := false, rowWait := x.rowWait.filter fun q => !RowWait.of c q }
  else s

/-- The sub-group parks at its instruction for want of `need` rows (R77). -/
def parkForRows (c : Ctx) (s : State) (need : Nat) : State :=
  let s1 := s.modCore c.core fun x => { x with rowWait := x.rowWait.filter (fun q => !RowWait.of c q) ++ [⟨c.gid, c.active, need⟩] }
  checkExhausted (c.setSub s1 { c.u with wait := .rows }) c.core

/-- Run `k` once the rows to be written are private, else park the group at the instruction (R77). -/
def withRows (c : Ctx) (s : State) (rows : List Nat) (m : Word) (k : Ctx → State → Res) : Res :=
  match privatise c.gid s rows m with
  | some s1 => k (c.refresh (gotRows c s1)) (gotRows c s1)
  | none => .next (parkForRows c s (rows.filter fun r => !c.g.priv.getLsbD r).length)

/-! ### Wait points (R301) -/

/-- Deliver the oldest pending deferred record of each active fibre at the wait point, whose PC the trap record names (R407, R480); `k`
goes on with the other lanes. -/
def deliver (flags : Nat) (c : Ctx) (s : State) (k : Ctx → State → Res) : Res :=
  let items := (lanesOf c.active).filterMap fun l =>
    (c.g.defer.find? fun d => d.lane == l).map fun d => (⟨l, d.cause, d.va, c.u.pc, some d, 0⟩ : TrapItem)
  if items.isEmpty then k c s
  else
    let mark := fun (it : TrapItem) => { it with drec := it.drec.map fun d => { d with flags := d.flags ||| flags } }
    let markD := fun (d : Defer) =>
      if items.any (fun x => x.drec == some d) then { d with flags := d.flags ||| flags } else d
    let s0 := s.modGroup c.gid fun g => { g with defer := g.defer.map markD }
    let s1 := trapWith false (c.refresh s0) s0 (items.map mark) id
    let m := c.active &&& ~~~(maskOf fun l => items.any fun x => x.lane == l)
    -- a trap service team has been stopped at the instruction (R414)
    let stopped := match c.t.kind with | .service _ => true | _ => false
    if m = 0 || stopped then .next s1
    else
      match s1.ctxOf c.gid (lowestLane m) with
      | some c1 => k c1 s1
      | none => .next s1

/-- A stall that is a wait point (R301): a fragment of the sub-group is waited for or its error taken first (R256), then the records are
delivered, and the other lanes go on waiting as `k` says. -/
def stallPoint (c : Ctx) (s : State) (k : Ctx → State → Res) : Res :=
  match fragHit { waitPt := true } c with
  | none => deliver 0 c s k
  | some f => if f.ue then .next (takeFragTrap c s f) else k c s

end Sys2Proof.Machine
end

