-- ==== Sys2Proof/Machine/Operands.lean ====
section
/-! DEFINITION. Operand forms: lane registers, pairs and latches, and the moulds of class A, of the other lane instructions and
of the uniform ones (R23 to R34, R156, R158, R161, R168). -/

namespace Sys2Proof.Machine

/-- The lane register a field names, none when it names a latch (R25). -/
def regOf (x : BitVec 6) : List Nat := if x.toNat < 60 then [x.toNat] else []
def latchOf (x : BitVec 6) : List Nat := if x.toNat < 60 then [] else [x.toNat - 60]
def pairOf (x : BitVec 6) : List Nat := [x.toNat, x.toNat + 1]
/-- `n` registers from `x` upward. -/
def groupOf (x : BitVec 6) (n : Nat) : List Nat := (List.range n).map fun i => x.toNat + i

/-- A shift amount or lane number in bits [4:0] (R161, R172). -/
def shAmt (b : Word) : Nat := (b.extractLsb' 0 5).toNat

/-- A class A source: a lane register or a latch (R25). -/
def Ctx.src (c : Ctx) (x : BitVec 6) (l : Nat) : Word :=
  if x.toNat < 60 then c.g.lane x.toNat l else c.u.latch (x.toNat - 60) l

/-- A source that is a lane register only. -/
def Ctx.reg (c : Ctx) (x : BitVec 6) (l : Nat) : Word := c.g.lane x.toNat l
def Ctx.pairReg (c : Ctx) (x : BitVec 6) (l : Nat) : DWord := c.g.pair x.toNat l
def Ctx.sReg (c : Ctx) (x : BitVec 6) : DWord := c.g.sReg x.toNat

/-- A lane register cell that no ECC can correct. -/
def State.badCell (s : State) (gid r l : Nat) : Bool := s.badRegs.any fun b => b == (gid, r, l)

/-- Lanes of `m` that read a register cell no ECC can correct (R416). -/
def regErrors (s : State) (gid : Nat) (reads : List Nat) (m : Word) : List Nat :=
  (lanesOf m).filter fun l => reads.any fun r => s.badCell gid r l

-- DESIGN CHOICE: notes/assumptions/118
/-- One record for each lane of `bad` that reads such a cell (R416). -/
def cellRecords (c : Ctx) (bad : List Nat) (s : State) : State :=
  bad.foldl (fun s _ => memError s (clusterOf c.core) (posOf c.core) c.t.asid.toNat 0 0 5) s

/-- The traps of those lanes (R416). -/
def cellTraps (c : Ctx) (bad : List Nat) : List TrapItem := bad.map fun l => ⟨l, cMUNCORR, c.u.pc, c.u.pc, none, 0⟩

/-- The mould of class A (R29 to R33): `mask` gives the executing lanes, `rows` the lane registers written, `upd` the writes,
`val` what is pushed when `push`, `post` what is counted. -/
def classAx (G : Gate) (mask : Ctx → Word) (rows : List Nat) (push : Bool) (s : State)
    (upd : Ctx → Word → Group → Group) (val : Ctx → Word → Nat → Word) (post : Ctx → Word → State → State) : Res :=
  gated G s fun c s =>
    let s := s.switchPipe c.core c.u.issue c.gid c.u.mask
    let bad := regErrors s c.gid G.reads (mask c)
    let ex := (mask c) &&& ~~~(maskOf fun l => bad.contains l)
    withRows c s rows ex fun c s =>
      let s1 := cellRecords c bad (post c ex (s.modGroup c.gid (upd c ex)))
      let after := fun (u : Sub) =>
        let u1 := u.ageChain (!G.latches.isEmpty)
        (if push then u1.push ex (val c ex) else u1).next u.pc
      .next (trapWith true c s1 (cellTraps c bad) after)

/-- Class A instructions that count nothing and whose lanes are independent. -/
def classA (G : Gate) (mask : Ctx → Word) (rows : List Nat) (push : Bool) (s : State)
    (upd : Ctx → Word → Group → Group) (val : Ctx → Nat → Word) : Res :=
  classAx G mask rows push s upd (fun c _ => val c) (fun _ _ s => s)

/-- Format LR of class A with one result register. -/
def aluR (f : LaneR) (b : Bool) (s : State) (op : Ctx → Nat → Word) : Res :=
  let reads := regOf f.a ++ (if b then regOf f.b else [])
  classA { regs := regOf f.d ++ reads, reads := reads, latches := latchOf f.a ++ (if b then latchOf f.b else []) }
    (fun c => c.execMask f.g) (if f.w then [] else [f.d.toNat]) true s
    (fun c ex g => if f.w then g else g.setRow f.d.toNat ex (op c)) op

/-- As `aluR`, where the old destination is a source too. -/
def aluRD (f : LaneR) (s : State) (op : Ctx → Nat → Word) : Res :=
  let reads := regOf f.a ++ regOf f.b ++ regOf f.d
  classA { regs := reads, reads := reads, latches := latchOf f.a ++ latchOf f.b }
    (fun c => c.execMask f.g) (if f.w then [] else [f.d.toNat]) true s
    (fun c ex g => if f.w then g else g.setRow f.d.toNat ex (op c)) op

/-- Format LR of class A with a pair result; `reads` are the lane registers it reads. -/
def aluPair (f : LaneR) (reads : List Nat) (latches : List Nat) (s : State) (op : Ctx → Nat → DWord) : Res :=
  let drows := pairOf f.d
  classA { regs := drows ++ reads, reads := reads, latches := latches }
    (fun c => c.execMask f.g) (if f.w then [] else drows) true s
    (fun c ex g => if f.w then g else
      (g.setRow f.d.toNat ex fun l => (op c l).extractLsb' 0 32).setRow (f.d.toNat + 1) ex fun l => (op c l).extractLsb' 32 32)
    (fun c l => (op c l).extractLsb' 0 32)

/-- Formats LI and OP 12 (R166). -/
def aluI (grd : BitVec 4) (w : Bool) (d a : BitVec 6) (usesA : Bool) (s : State) (op : Ctx → Nat → Word) : Res :=
  let reads := if usesA then regOf a else []
  classA { regs := regOf d ++ reads, reads := reads, latches := if usesA then latchOf a else [] }
    (fun c => c.execMask grd) (if w then [] else [d.toNat]) true s
    (fun c ex g => if w then g else g.setRow d.toNat ex (op c)) op

/-- The mould of lane instructions outside class A (R31): the chain goes, `k` gets the executing lanes. `errs` tells, from the cells that
no ECC can correct, which lanes read one. -/
def laneOpOf (errs : Ctx → (Nat → Nat → Bool) → List Nat) (G : Gate) (grd : BitVec 4) (s : State) (k : Ctx → Word → State → Res) : Res :=
  gated G s fun c s =>
    let s := s.switchPipe c.core c.u.issue c.gid c.u.mask
    match errs c (s.badCell c.gid) with
    | [] => k c (c.execMask grd) s
    | bad => .next (trapWith false c (cellRecords c bad s) (cellTraps c bad) id)

/-- As `laneOpOf`, where every executing lane reads its own cells. -/
def laneOp (G : Gate) (grd : BitVec 4) (s : State) (k : Ctx → Word → State → Res) : Res :=
  laneOpOf (fun c cell => (lanesOf (c.execMask grd)).filter fun l => G.reads.any fun r => cell r l) G grd s k

/-- A lane instruction outside class A whose executing lanes write rows from values known at issue. -/
def laneWrite (G : Gate) (grd : BitVec 4) (rows : List Nat) (s : State) (upd : Ctx → Word → Group → Group) : Res :=
  laneOp G grd s fun c ex s => withRows c s rows ex fun c s => fin c (s.modGroup c.gid (upd c ex))

/-- Lanes in `items` trap, the sub-group's others complete and fall through (R10). -/
def finTraps (c : Ctx) (s : State) (items : List TrapItem) : Res :=
  .next (trapWith false c s items fun u => u.dropChain.next u.pc)

/-- A uniform instruction that writes one s register. -/
def uniS (G : Gate) (grd : BitVec 4) (d : BitVec 6) (s : State) (op : Ctx → DWord) : Res :=
  uniform G grd s fun c s => fin c (s.modGroup c.gid fun g => g.setS d.toNat (op c))

def uniK (G : Gate) (grd : BitVec 4) (d : BitVec 6) (s : State) (op : Ctx → Bool) : Res :=
  uniform G grd s fun c s => fin c (s.modGroup c.gid fun g => g.setK d.toNat (op c))

def finS (c : Ctx) (s : State) (d : BitVec 6) (x : DWord) : Res :=
  fin c (s.modGroup c.gid fun g => g.setS d.toNat x)

end Sys2Proof.Machine
end

