-- ==== Sys2Proof/Machine/Flags.lean ====
section
/-! DEFINITION. Predicate results of compares and votes (R163, R164, R170, R202), and the statistics counters, the only
record of exceptional results (R159, R194 to R197). -/

namespace Sys2Proof.Machine

/-- Results of the integer compares (R163). -/
def cmpEq (a b : Word) : Bool := a == b
def cmpNe (a b : Word) : Bool := a != b
def cmpLt (a b : Word) : Bool := a.slt b
def cmpLe (a b : Word) : Bool := a.sle b
def cmpuLt (a b : Word) : Bool := a.ult b
def cmpuLe (a b : Word) : Bool := a.ule b
def cmpuGt (a b : Word) : Bool := b.ult a
def cmpuGe (a b : Word) : Bool := b.ule a

/-- A compare writes `pD`, ANDed with its old value when W = 1 (R34, R163). Compares do not push. -/
def compare (f : LaneR) (s : State) (r : Ctx → Nat → Bool) : Res :=
  let reads := regOf f.a ++ regOf f.b
  classA { regs := reads, reads := reads, latches := latchOf f.a ++ latchOf f.b } (fun c => c.execMask f.g) [] false s
    (fun c ex g => g.setP f.d.toNat ex fun l => if f.w then g.p f.d.toNat l && r c l else r c l) (fun _ _ => 0)

/-- Statistics kinds (R194). -/
def kSAT : Nat := 0
def kFLUSH : Nat := 1
def kNAN : Nat := 2

/-- Add `n` to a saturating 32-bit counter. -/
def addSat32 (x : BitVec 32) (n : Nat) : BitVec 32 := BitVec.ofNat 32 (min (x.toNat + n) (2 ^ 32 - 1))

/-- `Count(id, kind)`, `n` times, for the launch `seq` (R195, R198). Launch 0 and STATS = 0 discard the count. -/
def State.countFor (s : State) (seq id kind n : Nat) : State :=
  if seq = 0 || n = 0 then s
  else
    { s with launches := s.launches.map fun L =>
        if L.seq == seq && L.active && fieldN L.pkt 0x30 8 != 0 then
          { L with stats := NMap.set 0 (id * 3 + kind) (addSat32 (NMap.get 0 (id * 3 + kind) L.stats) n) L.stats }
        else L }

/-- Count for a lane instruction: one per lane of `m` (R195), under the group's identifier (R196). -/
def Ctx.count (c : Ctx) (s : State) (kind : Nat) (m : Word) : State :=
  s.countFor c.t.seq c.g.statid.toNat kind (lanesOf m).length

end Sys2Proof.Machine
end

