-- ==== Sys2Proof/Machine/Memory.lean ====
section
/-! DEFINITION. Memory: physical memory, page walks, the permission lookaside, the checks at the core, L1 lines under lease,
L2 lines, loads, retired stores and atomics (R286 to R341, R357, R360, R420, R424). -/

namespace Sys2Proof.Machine

/-! ### Physical memory -/

/-- Region `r`'s header (R424, R425). -/
def State.region (s : State) (r : Nat) : CrystRegion := NMap.get CrystRegion.new r s.cryst

/-- R424: the slot of logical line `l`. -/
def CrystRegion.slotOf (x : CrystRegion) (l : Nat) : Nat :=
  let a := (l + x.start) % Config.regionLines
  let b := if x.gap ≤ a then a + 1 else a
  match x.remap.find? fun e => e.1 == b with
  | some (_, spare) => Config.regionLines + 1 + spare
  | none => b

def crystKey (region slot byte : Nat) : Nat := region * 2 ^ 27 + slot * 256 + byte

def State.crystByte (s : State) (a : Nat) : Byte :=
  let r := a / 2 ^ 26
  NMap.get 0 (crystKey r ((s.region r).slotOf (a / 256 % Config.regionLines)) (a % 256)) s.crystMem

/-- Is the address HBM that an agent other than firmware reaches (R431)? -/
def isHbm (pa : Nat) : Bool := decide (pa < Config.firmwareBase)
def isCryst (pa : Nat) : Bool := decide (Config.crystBase ≤ pa) && decide (pa < Config.crystBase + Config.crystBytes)

-- DESIGN CHOICE: notes/assumptions/3
/-- What an unlisted byte of RAM reads as (notes/assumptions 3). -/
def ramDefault : Byte := 0

def State.peek (s : State) (pa : Nat) : Byte :=
  if isHbm pa then NMap.get ramDefault pa s.mem
  else if isCryst pa then s.crystByte (pa - Config.crystBase)
  else Config.holeByte pa

/-- Only HBM takes a write; elsewhere it is discarded. -/
def State.poke (s : State) (pa : Nat) (b : Byte) : State :=
  if isHbm pa then { s with mem := NMap.set ramDefault pa b s.mem } else s

def State.peekN (s : State) (pa n : Nat) : List Byte := (List.range n).map fun i => s.peek (pa + i)

def State.pokeN (s : State) (pa : Nat) : List Byte → State
  | [] => s
  | b :: bs => (s.poke pa b).pokeN (pa + 1) bs

def State.peekLe (s : State) (pa n : Nat) : Nat := leNat (s.peekN pa n)

/-- The byte of a frame of device `owner` (this device when `none`). -/
def State.framePeek (s : State) (owner : Option Nat) (pa : Nat) : Byte :=
  match owner with
  | none => s.peek pa
  | some d => NMap.get (Config.remoteByte (d * 2 ^ 52 + pa)) (d * 2 ^ 52 + pa) s.podMem

def State.framePokeN (s : State) (owner : Option Nat) (pa : Nat) (bs : List Byte) : State :=
  match owner with
  | none => s.pokeN pa bs
  | some d =>
    { s with podMem := (List.range bs.length).foldl (fun m i =>
        let k := d * 2 ^ 52 + pa + i
        NMap.set (Config.remoteByte k) k (bs.getD i 0) m) s.podMem }

/-! ### Page walks (R288 to R292, R303, R306, R308) -/

def lineBytes : Nat := 128
def pageBits (level : Nat) : Nat := 46 - 9 * level
def Tlb.hits (e : Tlb) (asid va : Nat) : Bool := e.asid == asid && va / 2 ^ pageBits e.level == e.vpage
def Tlb.r (e : Tlb) : Bool := bitN e.w0 2
def Tlb.w (e : Tlb) : Bool := bitN e.w0 3
def Tlb.x (e : Tlb) : Bool := bitN e.w0 4
def Tlb.red (e : Tlb) : Bool := bitN e.w0 5
def Tlb.replica (e : Tlb) : Bool := bitN e.w0 6
def Tlb.cow (e : Tlb) : Bool := bitN e.w0 8
def Tlb.remote (e : Tlb) : Bool := bitN e.w0 9
def Tlb.uc (e : Tlb) : Bool := bitN e.w0 10
def Tlb.frame (e : Tlb) : Nat := bitsN e.w0 51 13 * 2 ^ 13
def Tlb.pa (e : Tlb) (va : Nat) : Nat := e.frame + va % 2 ^ pageBits e.level
def Tlb.owner (e : Tlb) : Option Nat := if e.remote then some (bitsN e.w1 35 26) else none

/-- Do two lines lie with one translating controller (R296)? A line lies with its own. -/
def sameController (asid line bsid bline : Nat) : Bool :=
  (asid == bsid && line == bline) || Config.sliceOf asid line % 16 == Config.sliceOf bsid bline % 16
/-- Does an entry of a controller's TLB translate the address there? -/
def Tlb.serves (e : Tlb) (asid va : Nat) : Bool := e.hits asid va && sameController e.asid e.line asid (va / lineBytes)

/-- The first `n` of a list that satisfy `p`, and all others. -/
def capped {α : Type} (p : α → Bool) : Nat → List α → List α
  | _, [] => []
  | n, x :: xs =>
    if p x then
      match n with
      | 0 => capped p 0 xs
      | n + 1 => x :: capped p n xs
    else x :: capped p n xs

-- DEDUCED: notes/assumptions/124
/-- An entry is installed at its controller, whose oldest goes where it is full (R296). -/
def installTlb (s : State) (e : Tlb) : State :=
  let old := if s.tlb.length < Config.tlbEntries then s.tlb
    else capped (fun x => sameController x.asid x.line e.asid e.line) (Config.tlbEntries - 1) s.tlb
  { s with tlb := e :: old }

/-! ### Errors that ECC corrects (R416) -/

/-- A read of a line that ECC corrects is counted and leaves it sound. -/
def countSoft (s : State) (unit_ line : Nat) : State :=
  match s.softErrs.find? fun q => q.1 == unit_ && q.2.2 == line with
  | none => s
  | some q =>
    let up := fun (x : DWord) => if x = BitVec.allOnes 64 then x else x + 1
    let r := s.regs
    { s with softErrs := s.softErrs.filter fun z => z != q
             regs := if unit_ = 0 then { r with ceHbm := up r.ceHbm } else if unit_ = 1 then { r with ceL2 := up r.ceL2 }
               else { r with ceCryst := up r.ceCryst } }
/-- The unit of a physical line of this device. -/
def countRead (s : State) (pa : Nat) : State := if isCryst pa then countSoft s 4 (pa / lineBytes) else countSoft s 0 (pa / lineBytes)

-- DESIGN CHOICE: notes/assumptions/120
/-- R291 and R420: the rules of a leaf at a level. -/
def leafOk (dev level w0 w1 : Nat) : Bool :=
  let frame := bitsN w0 51 13 * 2 ^ 13
  decide (level ≠ 0) && bitsN w0 63 52 == 0 && decide (frame % 2 ^ pageBits level = 0)
    && !(bitN w0 8 && bitN w0 3) && !(bitN w0 5 && bitN w0 6)
    && !(bitN w0 9 && (bitN w0 7 || bitsN w1 35 26 == dev))
    && (!bitN w0 7 || (decide (level = 3) && bitN w0 12))
    && (!isCryst frame || !(bitN w0 3 || bitN w0 4 || bitN w0 5 || bitN w0 6 || bitN w0 7 || bitN w0 9 || bitN w0 12))

/-- A line of physical memory that no ECC corrects. -/
def State.isBad (s : State) (pa : Nat) : Bool := s.badMem.contains (pa / 128)

-- DESIGN CHOICE: notes/assumptions/30
/-- Which controller a physical line belongs to is not architectural; this one is used to name a cluster in records. -/
def controllerOf (pa : Nat) : Nat := pa / 128 % 16

/-- An entry of a table is read whole, from HBM (R292); an uncorrectable read ends the walk in BAD_PTE (R416). -/
def readPte (s : State) (asid va pte : Nat) : State × Except Nat (Nat × Nat) :=
  if s.isBad pte then
    let k := controllerOf pte
    (memError s k 31 asid va (pte / 128 * 128) 0, .error cBADPTE)
  else (countRead s pte, .ok (s.peekLe pte 8, s.peekLe (pte + 8) 8))

-- DEDUCED: notes/assumptions/123
/-- The levels of a walk from `level` downward (R289). -/
def walkLevels : Nat → State → Nat → Nat → Nat → Nat → State × Except Nat Tlb
  | 0, s, _, _, _, _ => (s, .error cBADPTE)
  | n + 1, s, asid, va, level, table =>
    let pte := table + 16 * (va / 2 ^ pageBits level % 512)
    match readPte s asid va pte with
    | (s, .error e) => (s, .error e)
    | (s, .ok (w0, w1)) =>
      if !bitN w0 0 then (s, .error cNOTMAPPED)
      else if bitN w0 1 then
        if leafOk (bitsN s.regs.deviceId.toNat 9 0) level w0 w1 then (s, .ok ⟨asid, level, va / 2 ^ pageBits level, w0, w1, pte, va / lineBytes⟩)
        else (s, .error cBADPTE)
      else if w0 % 2 ^ 13 == 1 && bitsN w0 63 52 == 0 && w1 == 0 then
        walkLevels n s asid va (level + 1) (bitsN w0 51 13 * 2 ^ 13)
      else (s, .error cBADPTE)

def writePte (s : State) (pte w0 w1 : Nat) : State := s.pokeN pte (natLe 8 w0 ++ natLe 8 w1)
def withBits (w hi lo x : Nat) : Nat := w / 2 ^ (hi + 1) * 2 ^ (hi + 1) + x % 2 ^ (hi + 1 - lo) * 2 ^ lo + w % 2 ^ lo

/-- R308: expand a compressed page into the next frame of the pool. -/
def expand (s : State) (e : Tlb) : State × Except Nat Tlb :=
  let slot := s.regs.poolBase.toNat + 8 * s.regs.poolNext.toNat
  let x := s.peekLe slot 8
  if !bitN x 0 then (s, .error cZONEEMPTY)
  else
    let s := { s with regs := { s.regs with poolNext := s.regs.poolNext + 1 } }
    let s := s.pokeN slot (natLe 8 (x - 1))
    let frame := bitsN x 51 19 * 2 ^ 19
    let zoff := bitsN e.w1 25 0
    let (page, bad) := ((s.zone.find? fun z => z.1 == zoff).map fun z => (z.2.2.1, z.2.2.2)).getD ([], [])
    let s := { s with zone := s.zone.filter fun z => z.1 != zoff, mem := NMap.clear frame (2 ^ 19) s.mem }
    let s := page.foldl (fun s q => s.poke (frame + q.1) q.2) s
    let s := { s with badMem := s.badMem.filter (fun l => l / 4096 != frame / 2 ^ 19) ++ bad.map fun l => frame / 128 + l }
    let w0 := withBits (withBits e.w0 51 13 (frame / 2 ^ 13)) 7 7 0
    let w1 := withBits e.w1 47 40 128
    (writePte s e.pte w0 w1, .ok { e with w0 := w0, w1 := w1 })

/-- The number of a page's first frame, among those of this device and of others. -/
def Tlb.frameKey (e : Tlb) : Nat := (match e.owner with | none => 0 | some d => (d + 1) * 2 ^ 40) + e.frame / 2 ^ 19

/-- R303: the pairs live for the frames of a page, other than the page's own. -/
def synonyms (s : State) (e : Tlb) : List FramePair :=
  let f := e.frameKey
  let n := 2 ^ (pageBits e.level - 19)
  s.frames.filter fun q => overlap q.frame q.n f n && !(q.asid == e.asid && q.vpage == e.vpage && q.n == n)

def addPair (s : State) (e : Tlb) : State :=
  let q : FramePair := ⟨e.frameKey, 2 ^ (pageBits e.level - 19), e.asid, e.vpage, e.w⟩
  { s with frames := q :: s.frames.filter fun o => !(o.frame == q.frame && o.n == q.n && o.asid == q.asid && o.vpage == q.vpage) }

/-- A walk (R288 to R292): ageing (R306), expansion (R308), the synonym check (R303), and the TLB entry it installs. -/
def walk (s : State) (asid va : Nat) : State × Except Nat Tlb :=
  if !bitN s.regs.asidTable.toNat 0 then (s, .error cNOTMAPPED)
  else
    let at_ := bitsN s.regs.asidTable.toNat 51 20 * 2 ^ 20 + 16 * asid
    match readPte s asid va at_ with
    | (s, .error e) => (s, .error e)
    | (s, .ok (w0, w1)) =>
      if !bitN w0 0 then (s, .error cNOTMAPPED)
      else if bitsN w0 63 52 != 0 || bitsN w0 12 2 != 0 || w1 != 0 then (s, .error cBADPTE)
      else
        match walkLevels 4 s asid va 0 (bitsN w0 51 13 * 2 ^ 13) with
        | (s, .error e) => (s, .error e)
        | (s, .ok e) =>
          let age := min 255 (bitsN e.w1 47 40 + 1)
          let (s, e) := if bitN e.w0 12 then
              let w1 := withBits e.w1 47 40 age
              (writePte s e.pte e.w0 w1, { e with w1 := w1 })
            else (s, e)
          match (if bitN e.w0 7 then expand s e else (s, .ok e)) with
          | (s, .error c) => (s, .error c)
          | (s, .ok e) =>
            let others := synonyms s e
            if others.any fun q => e.w || q.w then (s, .error cSYNONYM)
            else (addPair (installTlb s e) e, .ok e)

-- DESIGN CHOICE: notes/assumptions/10
/-- A translation at a line's controller: an entry of its TLB, or a walk that installs one (R296). -/
def translate (s : State) (asid va : Nat) : State × Except Nat Tlb :=
  if Config.maxVa ≤ va then (s, .error cNOTMAPPED)
  else
    match s.tlb.find? fun e => e.serves asid va with
    | some e => (s, .ok e)
    | none => walk s asid va

/-- A translation whose access then goes to the frame: over UALink it may end in a translation fault at the owner (R304). -/
def reach (s : State) (asid va : Nat) : State × Except Nat Tlb :=
  match translate s asid va with
  | (s, .error k) => (s, .error k)
  | (s, .ok e) =>
    match s.podFaults.find? fun q => e.owner == some q.1 && e.pa va / 2 ^ 19 == q.2.1 with
    | some q => (s, .error q.2.2)
    | none => (s, .ok e)

/-- The permission lookaside of a core (R293); a hole in it is filled by a walk. -/
def permission (s : State) (core asid va : Nat) : State × Except Nat Tlb :=
  if Config.maxVa ≤ va then (s, .error cNOTMAPPED)
  else
    match (s.core core).plb.find? fun e => e.hits asid va with
    | some e => (s, .ok e)
    | none =>
      match translate s asid va with
      | (s, .error e) => (s, .error e)
      | (s, .ok e) => (s.modCore core fun x => { x with plb := (e :: x.plb).take Config.plbEntries }, .ok e)

/-! ### The checks at the core (R78, R294, R341, R357) -/

inductive Access where
  | fetch | load | store | atomic
  deriving DecidableEq, Repr

/-- The live template regions of a launch that an access touches. -/
def regionsAt (s : State) (t : Team) (va n : Nat) : List Region :=
  s.regions.filter fun r => r.seq == t.seq && r.asid == t.asid.toNat && overlap r.base r.size va n

/-- What R68, R78 and R83 say of a write into a region: a cause, or `none` with "to a private copy". -/
def templateWrite (s : State) (t : Team) (gid lane va n : Nat) (a : Access) : Option Nat × Bool :=
  (regionsAt s t va n).foldl (fun acc r =>
    match acc with
    | (some c, b) => (some c, b)
    | (none, b) =>
      let image := overlap r.base 0x10000 va n
      if !r.frozen then
        if image then (some cTMPLWRITE, b)
        else if r.dawn == gid && r.dawnLane == lane then (none, b)
        else if r.nested then (some cTMPLWRITE, b) else (none, b)
      else if image || a == .atomic || !r.cow then (some cTMPLWRITE, b)
      else (none, true)) (none, false)

/-- R357, R360: does a live sluice range of the ASID stop the access? -/
def sluiceStops (s : State) (t : Team) (va n : Nat) (a : Access) : Bool :=
  s.sluice.any fun e => e.asid == t.asid && e.ranges.any fun r =>
    !r.cryst && overlap r.base r.len va n &&
      (if e.team == some t.tid then r.mode == 2 && a != .load
       else if r.mode == 1 then true
       else r.mode == 0 && a != .load)

/-- R294, and R341 for atomics: the first failing check of an access, else the page. -/
def checkAccess (s : State) (c : Ctx) (lane : Nat) (a : Access) (va n : Nat) : State × Except Nat Tlb :=
  match permission s c.core c.t.asid.toNat va with
  | (s, .error e) => (s, .error e)
  | (s, .ok e) =>
    let reads := a == .load || a == .atomic
    let writes := a == .store || a == .atomic
    let cause : Option Nat :=
      if va % n ≠ 0 then some cMISALIGNED
      else if a == .fetch && !e.x then some cPROT
      else if reads && !e.r then some cPROT
      else if a == .load && e.red then some cREDREAD
      else if writes && !e.w then some (if e.cow then cCOWWRITE else cPROT)
      else if a == .atomic && e.red then some cREDREAD
      else if writes && (templateWrite s c.t c.gid lane va n a).1.isSome then (templateWrite s c.t c.gid lane va n a).1
      else if a != .fetch && sluiceStops s c.t va n a then some cLOCKED
      else none
    match cause with
    | some k => (s, .error k)
    | none => (s, .ok e)

/-- Pages of 512 KiB that a range touches. -/
def pagesOf (base n : Nat) : List Nat :=
  if n = 0 then [] else (List.range ((base + n - 1) / 2 ^ 19 - base / 2 ^ 19 + 1)).map fun i => max base ((base / 2 ^ 19 + i) * 2 ^ 19)

/-! ### L2 lines (R295 to R298, R304, R305, R324) -/

def L2Line.is (x : L2Line) (asid line : Nat) : Bool := x.asid == asid && x.line == line
def State.l2? (s : State) (asid line : Nat) : Option L2Line := s.l2.find? fun x => x.is asid line
def State.setL2 (s : State) (x : L2Line) : State :=
  { s with l2 := s.l2.map fun y => if y.is x.asid x.line then x else y }

/-- R305: a remote line access counts, and may write a MIGRATE notice or be dropped. -/
def remoteCount (s : State) (e : Tlb) (va : Nat) : State :=
  let w0 := s.peekLe e.pte 8
  let w1 := s.peekLe (e.pte + 8) 8
  let acnt := bitsN w1 63 48
  let mth := bitsN w1 39 36
  if !e.remote || acnt == 0xFFFF || mth == 0 then s
  else if acnt + 1 < 2 ^ mth then writePte s e.pte w0 (withBits w1 63 48 (acnt + 1))
  else
    let s := writePte s e.pte w0 (withBits w1 63 48 0xFFFF)
    let base := s.regs.noticeBase.toNat
    let slot := base + 16 * (s.noticeNext)
    if bitN (s.peekLe (slot + 8) 8) 63 then
      { s with regs := { s.regs with migDropped := addSat32 s.regs.migDropped 1 } }
    else
      let s := s.pokeN slot (natLe 8 (va / 2 ^ 19 * 2 ^ 19 + 1))
      let s := s.pokeN (slot + 8) (natLe 8 (2 ^ 63 + bitsN e.w1 35 26 * 2 ^ 16 + e.asid))
      { s with noticeNext := (s.noticeNext + 1) % Config.noticeSlots }

/-- R324: the end of a pod lease granted now; held stores and a waiting atomic cap it. -/
def podLeaseEnd (s : State) (asid line : Nat) : Nat :=
  let old := (s.l2? asid line).elim 0 (·.cap)
  let want := s.meridian + Config.podLease
  s.stores.foldl (fun a st =>
    match st.stage with
    | .held t => if st.asid == asid && st.va / lineBytes == line then min a (t - Config.skewPod) else a
    | _ => a) (if old = 0 then want else min want (old - Config.skewPod))

/-- Write a dirty line to the frame of its write tag (R295); a line no ECC can correct makes a record instead (R416). -/
def flushLine (s : State) (x : L2Line) : State :=
  if !x.wtag then s
  else if s.badL2.contains (x.asid, x.line) then memError s (controllerOf x.pa) 31 x.asid (x.line * lineBytes) x.pa 1
  else
    let s := countSoft s 1 x.line
    match x.owner with
    | some _ => s
    | none =>
      -- what no ECC could correct when the line was filled stays so, but for a line stored in full since (R415)
      { (s.pokeN x.pa x.data) with badMem := if x.stored = BitVec.allOnes 128 then s.badMem.filter fun b => b != x.pa / 128 else s.badMem }

/-- May the line leave L2: no core or this device holds it under a lease, and nothing waits at it? -/
def mayLeave (s : State) (x : L2Line) : Bool :=
  x.cap == 0 && decide (x.last < s.meridian) && (x.lease == 0 || decide (x.lease + Config.skewDev ≤ s.meridian)) &&
  (x.podEnd == 0 || decide (x.podEnd + Config.skewPod ≤ s.meridian)) &&
  !s.stores.any fun st => st.asid == x.asid && st.va / lineBytes == x.line && (match st.stage with | .held _ => true | _ => false)

/-- Room for one more line (R1, R2): where L2 is full, the line that came first of those that may leave goes, a dirty one to its frame. -/
def makeRoom (s : State) : State :=
  if s.l2.length < Config.l2Lines then s
  else
    match s.l2.reverse.find? (mayLeave s) with
    | none => s
    | some x =>
      let s := flushLine s x
      { s with l2 := s.l2.filter fun y => !y.is x.asid x.line, badL2 := s.badL2.filter fun q => q != (x.asid, x.line) }

/-- Bring a line into L2 from its frame. -/
def fillL2 (s : State) (e : Tlb) (asid line : Nat) : State × L2Line :=
  let s := if (s.l2? asid line).isSome then s else makeRoom s
  let pa := e.pa (line * lineBytes)
  let cap := (s.l2? asid line).elim 0 (·.cap)
  let x : L2Line :=
    { asid := asid, line := line, pa := pa, owner := e.owner,
      data := (List.range lineBytes).map fun i => s.framePeek e.owner (pa + i), wtag := false, lease := ((s.l2? asid line).elim 0 (·.lease)), cap := cap,
      podEnd := if e.remote then podLeaseEnd s asid line else 0, last := ((s.l2? asid line).elim 0 (·.last)), replica := e.replica }
  let s := remoteCount s e (line * lineBytes)
  let s := if e.remote then s else countRead s pa
  ({ s with l2 := x :: s.l2.filter fun y => !y.is asid line, badL2 := s.badL2.filter fun q => q != (asid, line) }, x)

/-- The line at its home: from L2, or filled after a translation. A REMOTE line is refilled once its pod lease has ended. -/
def homeLine (s : State) (asid line : Nat) : State × Except Nat L2Line :=
  match s.l2? asid line with
  | some x =>
    if x.owner.isSome && decide (x.podEnd ≤ s.meridian) then
      match reach s asid (line * lineBytes) with
      | (s, .error e) => (s, .error e)
      | (s, .ok e) => let (s, y) := fillL2 s e asid line; (s, .ok y)
    else (countSoft s 1 line, .ok x)
  | none =>
    match reach s asid (line * lineBytes) with
    | (s, .error e) => (s, .error e)
    | (s, .ok e) => let (s, x) := fillL2 s e asid line; (s, .ok x)

-- DESIGN CHOICE: notes/assumptions/5
/-- R324: the end of a lease granted now on a line; it is not after what the line's own holders and held stores allow. -/
def leaseEnd (s : State) (x : L2Line) : Nat :=
  let want := s.meridian + s.regs.leaseL1.toNat
  let pod := if x.owner.isSome then min want x.podEnd else want
  let away := if x.owner.isNone then s.podCaps.foldl (fun a q => if q.1 == x.pa / lineBytes then min a (q.2 - Config.skewDev) else a) pod else pod
  let capped := if x.cap = 0 then away else min away (x.cap - Config.skewDev)
  s.stores.foldl (fun a st =>
    match st.stage with
    | .held t => if st.asid == x.asid && st.va / lineBytes == x.line then min a (t - Config.skewDev) else a
    | _ => a) capped

/-- An uncorrectable line at the point where it is used (R415, R416). -/
def lineBad (s : State) (x : L2Line) : Option Nat :=
  if s.badL2.contains (x.asid, x.line) then some 1
  else if x.owner.isNone && isCryst x.pa && s.isBad x.pa then some 4
  else if x.owner.isNone && s.isBad x.pa then some 0 else none

/-- Ways of a core that teams have pinned, and their number. -/
def pinnedList (s : State) (core : Nat) : List Nat := (s.teams.filter fun t => t.core == core).flatMap (·.ways)
def pinnedWays (s : State) (core : Nat) : Nat :=
  (s.teams.filter fun t => t.core == core).foldl (fun a t => a + t.ways.length) 0

/-- Private copies of one set of a core (R79). -/
def copiesInSet (s : State) (core set_ : Nat) : Nat :=
  (s.teams.filter fun t => t.core == core).foldl (fun a t => a + (t.cow.filter fun x => x.va / lineBytes % 384 == set_).length) 0

-- DESIGN CHOICE: notes/assumptions/15
/-- A line enters the cache ways of a core (R271): the lowest way of its set that is free, else that of the line that came first. -/
def installL1 (s : State) (core : Nat) (z : L1Line) : State :=
  let set_ := z.line % 384
  let others := (s.core core).l1.filter fun y => !(y.asid == z.asid && y.line == z.line)
  let mates := others.filter fun y => y.line % 384 == set_
  let room := 16 - pinnedWays s core - copiesInSet s core set_
  let kept := if mates.length < room then others else capped (fun y => y.line % 384 == set_) (room - 1) others
  let used := (kept.filter fun y => y.line % 384 == set_).map (·.way)
  let way := ((List.range 16).find? fun w => !(pinnedList s core).contains w && !used.contains w).getD 15
  s.modCore core fun y => { y with l1 := { z with way := way } :: kept }

/-- Fill a cache-way line of a core, with a lease (R323). -/
def fillL1 (s : State) (core asid line : Nat) : State × Except Nat (List Byte) :=
  match homeLine s asid line with
  | (s, .error e) => (s, .error e)
  | (s, .ok x) =>
    match lineBad s x with
    | some u => (memError s (controllerOf x.pa) 31 asid (line * lineBytes) x.pa u, .error cMUNCORR)
    | none =>
      let end_ := leaseEnd s x
      if end_ ≤ s.meridian then (s, .ok x.data)
      else
        let s := s.setL2 { x with lease := max x.lease end_ }
        (installL1 s core ⟨asid, line, x.data, end_, 0⟩, .ok x.data)

/-- The line as a load of the core sees it: leased copy or fill. -/
def coreLine (s : State) (core asid line : Nat) : State × Except Nat (List Byte) :=
  match (s.core core).l1.find? fun z => z.asid == asid && z.line == line && decide (s.meridian < z.lease) with
  | some z => (s, .ok z.data)
  | none => fillL1 s core asid line

/-! ### Loads (R321, R322, R338, R360, R483) -/

/-- Bytes `[va, va + n)` with the bytes of the stores of `sts`, in order, laid over. -/
def overlay (va : Nat) (bs : List Byte) (sts : List Store) : List Byte :=
  sts.foldl (fun acc st => (List.range acc.length).map fun i =>
    let a := va + i
    if st.va ≤ a && a < st.va + st.data.length && !st.skip.contains (a - st.va) then st.data.getD (a - st.va) 0 else acc.getD i 0) bs

/-- The retired stores a load sees beside those performed: its own fibre's, and, unless it is an acquire of scope D or P, those
of its core that are neither UC, REPLICA nor RED. -/
def visibleStores (s : State) (core gid lane asid : Nat) (acq : Bool) : List Store :=
  s.stores.filter fun st => st.agent == 0 && st.peer.isNone && st.asid == asid && st.core == core &&
    ((st.gid == gid && st.lane == lane) || (!acq && st.seen))

/-- A line as it stood at a snapshot time, where a store has displaced that value since (R335, R360). -/
def snapLine (s : State) (asid line at_ : Nat) : Option Snap :=
  s.snaps.find? fun q => q.asid == asid && q.line == line && decide (at_ < q.before)

/-- Bytes of a preserved line, whose uncorrectable error traps as the line's own would (R415, R416). -/
def snapBytes (s : State) (q : Snap) (va n : Nat) : State × Except Nat (List Byte) :=
  if q.bad then
    let pa := match (translate s q.asid va).2 with | .ok e => e.pa (va / lineBytes * lineBytes) | .error _ => 0
    (memError s (controllerOf pa) 31 q.asid va pa 1, .error cMUNCORR)
  else (s, .ok (slice q.data (va % lineBytes) n))

/-- Loads of one fibre return bytes of stores that other fibres of its core have retired (R321, R326). -/
def markRead (s : State) (core gid lane asid va n : Nat) : State :=
  { s with stores := s.stores.map fun st =>
      if st.agent == 0 && st.peer.isNone && st.asid == asid && st.core == core && st.seen && !(st.gid == gid && st.lane == lane) &&
        overlap st.va st.data.length va n && !st.readBy.contains (gid, lane) then { st with readBy := (gid, lane) :: st.readBy } else st }

/-- Must an acquire of scope D or P wait: has an earlier load of the fibre returned bytes of a store that has not performed (R326)? -/
def acquireWaits (s : State) (gid lane asid va n : Nat) : Bool :=
  s.stores.any fun st => st.asid == asid && st.readBy.contains (gid, lane) && overlap st.va st.data.length va n &&
    (match st.stage with | .retired => true | .held _ => true | _ => false)

/-- The page's bytes at its controller, for a UC page. -/
def ucBytes (s : State) (e : Tlb) (va n : Nat) : State × Except Nat (List Byte) :=
  if e.owner.isNone && s.isBad (e.pa va) then
    (memError s (controllerOf (e.pa va)) 31 e.asid va (e.pa va / 128 * 128) (if isCryst (e.pa va) then 4 else 0), .error cMUNCORR)
  else (if e.owner.isNone then countRead s (e.pa va) else s, .ok ((List.range n).map fun i => s.framePeek e.owner (e.pa va + i)))

/-- Bytes of a cached line at its home; one that L2 holds is read without translation (R297). -/
def lineBytesAt (s : State) (asid va n : Nat) : State × Except Nat (List Byte) :=
  match homeLine s asid (va / lineBytes) with
  | (s, .error e) => (s, .error e)
  | (s, .ok x) =>
    match lineBad s x with
    | some u => (memError s (controllerOf x.pa) 31 asid va x.pa u, .error cMUNCORR)
    | none => (s, .ok (slice x.data (va % lineBytes) n))

/-- A read at the location's home (R334): no lease, no retired store. -/
def homeRead (s : State) (asid va n : Nat) : State × Except Nat (List Byte) :=
  match reach s asid va with
  | (s, .error e) => (s, .error e)
  | (s, .ok e) => if e.uc then ucBytes s e va n else lineBytesAt s asid va n

/-- A load of at most one line, after its checks: the read-value rule (R321). `e` is the page the check found. -/
def loadValue (s : State) (core asid gid lane : Nat) (t : Team) (acq : Bool) (e : Tlb) (va n : Nat) : State × Except Nat (List Byte) :=
  let line := va / lineBytes
  let snapped := s.sluice.find? fun q => q.team == some t.tid && q.ranges.any fun r => r.mode == 2 && overlap r.base r.len va n
  match t.cow.find? fun x => x.va == line * lineBytes with
  | some x => (s, .ok (slice x.data (va % lineBytes) n))
  | none =>
    match snapped with
    | some q =>
      match snapLine s asid line q.snapAt with
      | some z => snapBytes s z va n
      | none => if e.uc then homeRead s asid va n else lineBytesAt s asid va n
    | none =>
      if e.uc then
        match reach s asid va with
        | (s, .error k) => (s, .error k)
        | (s, .ok e2) =>
          match ucBytes s e2 va n with
          | (s, .error k) => (s, .error k)
          | (s, .ok bs) => (markRead s core gid lane asid va n, .ok (overlay va bs (visibleStores s core gid lane asid acq)))
      else
        match coreLine s core asid line with
        | (s, .error k) => (s, .error k)
        | (s, .ok d) =>
          (if acq then s else markRead s core gid lane asid va n,
           .ok (overlay va (slice d (va % lineBytes) n) (visibleStores s core gid lane asid acq)))

/-- A checked load of a fibre, as LD makes it (R310). -/
def fibreLoad (s : State) (c : Ctx) (lane : Nat) (acq : Bool) (va n : Nat) : State × Except Nat (List Byte) :=
  match checkAccess s c lane .load va n with
  | (s, .error k) => (s, .error k)
  | (s, .ok e) => loadValue s c.core c.t.asid.toNat c.gid lane c.t acq e va n

/-- Does an access to the page's line at `va` cross UALink: is it of another device, and not held here under a lease? -/
def crosses (s : State) (asid : Nat) (e : Tlb) (va : Nat) : Bool :=
  e.remote && (e.uc || !s.l2.any fun x => x.is asid (va / lineBytes) && decide (s.meridian < x.podEnd))

/-- A read at the home for an operation, which before the lock does not cross UALink (R444). -/
def engHome (s : State) (asid va n : Nat) : State × Except Nat (List Byte) :=
  match (if s.regs.merLocked then .error 0 else (translate s asid va).2) with
  | .ok e => if crosses s asid e va then (s, .error cAWAY) else homeRead s asid va n
  | .error _ => homeRead s asid va n

-- DEDUCED: notes/assumptions/84
/-- R444: while the meridian is not locked, an access that passes its checks and must cross UALink waits. -/
def podWaits (s : State) (c : Ctx) (lane : Nat) (a : Access) (va n : Nat) : Bool :=
  !s.regs.merLocked &&
    (match checkAccess s c lane a va n with
     | (_, .error _) => false
     | (s, .ok e) =>
       (e.remote && a == .atomic) || (crosses s c.t.asid.toNat e va &&
         (e.uc || !((s.core c.core).l1.any (fun z => z.asid == c.t.asid.toNat && z.line == va / lineBytes && decide (s.meridian < z.lease)) ||
           c.t.cow.any fun x => x.va == va / lineBytes * lineBytes))))

/-- The pages of `[base, base + n)` that lie on another device, before the lock. -/
def podRange (s : State) (asid base n : Nat) : Bool :=
  !s.regs.merLocked && n != 0 &&
    (List.range ((base + n - 1) / 2 ^ 19 - base / 2 ^ 19 + 1)).any fun i =>
      match (translate s asid (max base ((base / 2 ^ 19 + i) * 2 ^ 19))).2 with
      | .ok e => e.remote
      | .error _ => false

/-- A record of `8 * n` bytes, read as LD.d of a fibre reads (R104, R351): the first failing address and cause, or the bytes. -/
def readRecord : Nat → State → Ctx → Nat → Nat → State × Except (Nat × Nat) (List Byte)
  | 0, s, _, _, _ => (s, .ok [])
  | n + 1, s, c, lane, va =>
    match (if podWaits s c lane .load va 8 then (s, .error cAWAY) else fibreLoad s c lane false va 8) with
    | (s, .error k) => (s, .error (k, va))
    | (s, .ok bs) =>
      match readRecord n s c lane (va + 8) with
      | (s, .error e) => (s, .error e)
      | (s, .ok rest) => (s, .ok (bs ++ rest))

/-- A record cannot be read: its fault is taken, or the instruction waits for the pod's time (R444). -/
def recordFault (c : Ctx) (s : State) (cause addr : Nat) : Res := if cause = cAWAY then stall c s else trapAllMem c s cause addr

/-- Wait, holding the record that the instruction has read (R104, R240, R351). -/
def hold (bs : List Byte) (c : Ctx) (s : State) : Res := .next (c.setSub s { c.u with wait := .queued bs })

/-- The record that a waiting instruction has read, else what `rd` reads now. -/
def heldOr (c : Ctx) (s : State) (rd : State → State × Except (Nat × Nat) (List Byte)) : State × Except (Nat × Nat) (List Byte) :=
  match c.u.wait with
  | .queued bs => (s, .ok bs)
  | _ => rd s

/-- The word at the PC when it was fetched before: ahead of the PC (R483), or with the body of an active loop in the issue slot's loop
buffer (R147). -/
def heldWord (s : State) (c : Ctx) : Option Word :=
  match c.u.ahead.find? fun q => q.1 == c.u.pc with
  | some q => some q.2
  | none =>
    c.u.loops.findSome? fun f =>
      if f.first ≤ c.u.pc && c.u.pc ≤ f.last then
        ((s.core c.core).loopBuf.find? fun b => b.issue == c.u.issue && b.tid == c.t.tid && b.first == f.first).bind fun b =>
          b.words[(c.u.pc - f.first) / 4]?
      else none

/-- R483: an instruction word as a fetch of the sub-group reads it now: no retired store is seen. -/
def fetchNow (s : State) (c : Ctx) : State × Except Nat (List Byte) :=
  match checkAccess s c (lowestLane c.active) .fetch c.u.pc 4 with
  | (s, .error k) => (s, .error k)
  | (s, .ok e) =>
    match c.t.cow.find? fun x => x.va == c.u.pc / lineBytes * lineBytes with
    | some x => (s, .ok (slice x.data (c.u.pc % lineBytes) 4))
    | none =>
      if e.uc then
        match reach s c.t.asid.toNat c.u.pc with
        | (s, .error k) => (s, .error k)
        | (s, .ok e2) => ucBytes s e2 c.u.pc 4
      else
        match coreLine s c.core c.t.asid.toNat (c.u.pc / lineBytes) with
        | (s, .error k) => (s, .error k)
        | (s, .ok d) => (s, .ok (slice d (c.u.pc % lineBytes) 4))

-- DEDUCED: notes/assumptions/95
/-- The next instruction word of a sub-group: one fetched before, or fetched now. -/
def fetchWord (s : State) (c : Ctx) : State × Except Nat (List Byte) :=
  match heldWord s c with
  | some w => (s, .ok (natLe 4 w.toNat))
  | none => fetchNow s c

/-! ### Loads that have not performed (R310, R328) -/

/-- A load of the lanes `m` that has not performed, a late one or a bank's (R216, R329). -/
def lateOf (s : State) (gid : Nat) (m : Word) : Bool :=
  match s.group? gid with
  | some g =>
    (g.late.any fun x => x.addrs.any fun q => m.getLsbD q.1) ||
    (s.core (s.groupCore g)).banks.any fun b =>
      match b.2.load with
      | some (_, _, gid', l) => gid' == gid && m.getLsbD l
      | none => false
  | none => false

/-- Does the lane have a load of these bytes that has not performed, a late one or a bank's (R216, R326)? -/
def lateClash (s : State) (c : Ctx) (lane va n : Nat) : Bool :=
  (c.g.late.any fun x => x.addrs.any fun q => q.1 == lane && overlap q.2 x.size va n) ||
  (s.core c.core).banks.any fun b =>
    match b.2.load with
    | some (_, a, gid, l) => gid == c.gid && l == lane && overlap a (16 * b.2.valid) va n
    | none => false

/-! ### Stores (R298 to R300, R320, R324, R358) -/

/-- The kind of a REPLICA atomic's way through the sequencer: an atomic is no store, and takes no buffer entry (R298, R333). -/
def notStore : Nat := 6

/-- Entries of an issue slot's late-fault store buffer in use (R299). -/
def lateUsed (s : State) (core issue : Nat) : Nat :=
  (s.stores.filter fun st => st.agent == 0 && st.kind != notStore && st.core == core && st.issue == issue).length +
  (s.groups.filter fun g => match s.team? g.tid with | some t => t.core == core | none => false).foldl (fun a g =>
    a + (g.defer.filter fun d => decide (d.kind < 4) && d.issue == issue).length) 0

/-- A store of a fibre retires (R298). -/
def retire (s : State) (c : Ctx) (lane va : Nat) (bs : List Byte) (kind floor : Nat) (e : Tlb) (skip : List Nat := []) : State :=
  let st : Store :=
    { id := s.nextStore, agent := 0, agentId := 0, core := c.core, issue := c.u.issue, tid := c.t.tid, gid := c.gid, lane := lane,
      gslot := c.g.gslot, tslot := c.t.tslot, pc := c.u.pc, va := va, asid := c.t.asid.toNat, data := bs, skip := skip, kind := kind,
      floor := floor, seen := !(e.uc || e.replica || e.red), red := e.red, replica := e.replica, remote := e.remote, uc := e.uc,
      peer := none, stage := .retired }
  { s with stores := s.stores ++ [st], nextStore := s.nextStore + 1 }

/-- A write of an engine, in pieces that lie in one line each (R334). -/
def agentStore (s : State) (agent agentId core asid va : Nat) (bs : List Byte) : State :=
  let st : Store :=
    { id := s.nextStore, agent := agent, agentId := agentId, core := core, issue := 0, tid := 0, gid := 0, lane := 0,
      gslot := 0, tslot := 0, pc := 0, va := va, asid := asid, data := bs, skip := [], kind := 0, floor := 0, seen := false, red := false,
      replica := false, remote := false, uc := false, peer := none, stage := .retired }
  { s with stores := s.stores ++ [st], nextStore := s.nextStore + 1 }

/-- Cut `[va, …)` at line boundaries and store each piece; `fuel` is at least the number of pieces. -/
def agentWrite : Nat → State → Nat → Nat → Nat → Nat → Nat → List Byte → State
  | 0, s, _, _, _, _, _, _ => s
  | n + 1, s, agent, agentId, core, asid, va, bs =>
    match bs with
    | [] => s
    | _ =>
      let k := lineBytes - va % lineBytes
      agentWrite n (agentStore s agent agentId core asid va (bs.take k)) agent agentId core asid (va + k) (bs.drop k)

/-- R79: the team's private copy of a line, made from the template when there is none. -/
def cowStore (s : State) (c : Ctx) (va : Nat) (bs : List Byte) : State × Option Nat :=
  let line := va / lineBytes * lineBytes
  let put := fun (x : CowLine) =>
    { x with data := (List.range lineBytes).map fun i =>
        if va ≤ line + i && line + i < va + bs.length then bs.getD (line + i - va) 0 else x.data.getD i 0 }
  let t := (s.team? c.t.tid).getD c.t
  if t.cow.any fun x => x.va == line then
    (s.modTeam c.t.tid fun t => { t with cow := t.cow.map fun x => if x.va == line then put x else x }, none)
  else if 16 - pinnedWays s c.core ≤ copiesInSet s c.core (line / lineBytes % 384) + 1 then (s, some cCOWFULL)
  else
    match coreLine s c.core c.t.asid.toNat (line / lineBytes) with
    | (s, .error k) => (s, some k)
    | (s, .ok d) => (s.modTeam c.t.tid fun t => { t with cow := t.cow ++ [put ⟨line, d⟩] }, none)

/-- Put bytes into a line's data. -/
def mergeLine (d : List Byte) (off : Nat) (bs : List Byte) (skip : List Nat := []) : List Byte :=
  d.take off ++ (List.range bs.length).map (fun i => if skip.contains i then d.getD (off + i) 0 else bs.getD i 0) ++ d.drop (off + bs.length)

/-- Is the line in a live SNAP range? -/
def snapLive (s : State) (x : L2Line) : Bool :=
  s.sluice.any fun q => q.asid.toNat == x.asid &&
    q.ranges.any fun r => r.mode == 2 && !r.cryst && !r.read && overlap r.base r.len (x.line * lineBytes) lineBytes

/-- A live SNAP range of the line whose reader has no preserved value of it yet (R335, R358). -/
def snapNeeds (s : State) (x : L2Line) : Bool :=
  s.sluice.any fun q => q.asid.toNat == x.asid &&
    (q.ranges.any fun r => r.mode == 2 && !r.cryst && !r.read && overlap r.base r.len (x.line * lineBytes) lineBytes) &&
    !(s.snaps.any fun z => z.asid == x.asid && z.line == x.line && decide (q.snapAt < z.before))

/-- R358: before a line of a live SNAP range changes, its value is kept for the reader of the snapshot. -/
def preserve (s : State) (x : L2Line) : State :=
  if snapNeeds s x then
    { s with snaps := s.snaps ++ [⟨x.asid, x.line, x.data, s.meridian, (lineBad s x).isSome⟩] }
  else s

/-- Room for another preserved line in the line's slice (R296, R358); fewer lines than a slice keeps always leave room. -/
def snapRoom (s : State) (x : L2Line) : Bool :=
  decide (s.snaps.length < 1024) || decide ((s.snaps.filter fun q => Config.sliceOf q.asid q.line == Config.sliceOf x.asid x.line).length < 1024)

/-- Preserved lines that no live snapshot needs leave the slices (R358). -/
def cleanSnaps (s : State) : State :=
  { s with snaps := s.snaps.filter fun q => s.sluice.any fun e => e.asid.toNat == q.asid && decide (e.snapAt < q.before) &&
      e.ranges.any fun r => r.mode == 2 && !r.cryst && !r.read && overlap r.base r.len (q.line * lineBytes) lineBytes }

/-- ASID and line under which the live SNAP ranges name a physical line of this device, also where no translation is live (R335). -/
def snapNames (s : State) (base : Nat) : List (Nat × Nat) :=
  s.sluice.flatMap fun q => (q.ranges.filter fun r => r.mode == 2 && !r.cryst && !r.read).flatMap fun r =>
    (pagesOf r.base r.len).filterMap fun a =>
      match (translate s q.asid.toNat a).2 with
      | .ok e =>
        let va := a / 2 ^ 19 * 2 ^ 19 + base % 2 ^ 19
        if e.owner.isNone && e.pa va == base then some (q.asid.toNat, va / lineBytes) else none
      | .error _ => none

/-- The names of a physical line under the live pages of its frame (R303). -/
def pairNames (s : State) (base : Nat) : List (Nat × Nat) :=
  (s.frames.filter fun q => decide (q.frame < 2 ^ 40) && decide (q.frame ≤ base / 2 ^ 19) && decide (base / 2 ^ 19 < q.frame + q.n)).map fun q =>
    (q.asid, (q.vpage * (2 ^ 19 * q.n) + (base - q.frame * 2 ^ 19)) / lineBytes)

/-- The lines of this device that lie at a physical address: those in L2, and those of the live pages of its frame and of live snapshots. -/
def linesAt (s : State) (pa : Nat) : List L2Line :=
  let base := pa / lineBytes * lineBytes
  let held := s.l2.filter fun x => x.owner.isNone && x.pa == base
  held ++ (((pairNames s base ++ snapNames s base).eraseDups.filter fun q => !held.any fun y => y.is q.1 q.2).map fun q =>
    { asid := q.1, line := q.2, pa := base, owner := none, data := s.peekN base lineBytes, wtag := false, lease := 0, cap := 0, podEnd := 0 })

-- DEDUCED: notes/assumptions/18
/-- R298: D is set in the leaf when a line first becomes dirty. -/
def setDirty (s : State) (e : Tlb) : State :=
  let w0 := s.peekLe e.pte 8
  if bitN w0 11 then s else writePte s e.pte (w0 + 2 ^ 11) (s.peekLe (e.pte + 8) 8)

/-- The L2 line of a store, with its write tag: the fill's translation or a first-dirty probe (R298). -/
def dirtyLine (s : State) (asid line : Nat) : State × Except Nat L2Line :=
  match s.l2? asid line with
  | some x =>
    if x.wtag && x.owner.isNone then (s, .ok x)
    else
      match reach s asid (line * lineBytes) with
      | (s, .error e) => (s, .error e)
      | (s, .ok e) =>
        if !e.w then (s, .error (if e.cow then cCOWWRITE else cPROT))
        else
          let y := { x with wtag := true, pa := e.pa (line * lineBytes), owner := e.owner, replica := e.replica }
          ((setDirty s e).setL2 y, .ok y)
  | none =>
    match reach s asid (line * lineBytes) with
    | (s, .error e) => (s, .error e)
    | (s, .ok e) =>
      if !e.w then (s, .error (if e.cow then cCOWWRITE else cPROT))
      else
        let (s, x) := fillL2 s e asid line
        let y := { x with wtag := true }
        ((setDirty s e).setL2 y, .ok y)

/-- The latest lease end that this home has granted to another device on a physical line (R324). -/
def grantEnd (s : State) (pa : Nat) : Nat :=
  (s.podGrants.filter fun q => q.1 == pa / lineBytes).foldl (fun a q => max a q.2) 0

/-- R320, R324: the earliest time at which a line's home may apply a store. -/
def applyBound (s : State) (x : L2Line) (floor : Nat) : Nat :=
  let cores := if x.lease = 0 then s.meridian else max s.meridian (x.lease + Config.skewDev)
  let pod := if x.owner.isSome && x.podEnd ≠ 0 then max cores (x.podEnd + Config.skewPod) else cores
  let others := if x.owner.isNone && grantEnd s x.pa ≠ 0 then max pod (grantEnd s x.pa + Config.skewPod) else pod
  max (if x.last = 0 then others else max others (x.last + 1)) floor

/-- Bytes `[off, off + n)` of a line, but for the offsets of `skip`. -/
def byteMask (off n : Nat) (skip : List Nat) : BitVec 128 :=
  (List.range n).foldl (fun m i => if skip.contains i then m else m ||| (1#128 <<< (off + i))) 0

/-- Write bytes to a frame, but for the offsets of `skip`. -/
def pokeSkipping (s : State) (owner : Option Nat) (pa : Nat) (bs : List Byte) (skip : List Nat) : State :=
  (List.range bs.length).foldl (fun s i => if skip.contains i then s else s.framePokeN owner (pa + i) [bs.getD i 0]) s

/-- A line of a UC page as its controller holds it. -/
def frameLine (s : State) (e : Tlb) (va : Nat) : L2Line :=
  { asid := e.asid, line := va / lineBytes, pa := e.pa (va / lineBytes * lineBytes), owner := e.owner, wtag := false, lease := 0, cap := 0
    podEnd := 0, data := (List.range lineBytes).map fun i => s.framePeek e.owner (e.pa (va / lineBytes * lineBytes) + i) }

/-- A write performs at the controller of a frame (R292, R318, R335): D is set, and a snapshot keeps the old line. -/
def frameWrite (s : State) (e : Tlb) (va : Nat) (bs : List Byte) (skip : List Nat := []) : State :=
  pokeSkipping (preserve (setDirty s e) (frameLine s e va)) e.owner (e.pa va) bs skip

/-- The home applies bytes to a line (R320): to the L2 line, and to the owner's frame of a REMOTE page. -/
def applyLine (s : State) (x : L2Line) (va : Nat) (bs : List Byte) (skip : List Nat := []) : State :=
  let s := preserve s x
  let full := x.stored ||| byteMask (va % lineBytes) bs.length skip
  let y := { x with data := mergeLine x.data (va % lineBytes) bs skip, cap := 0, last := s.meridian, stored := full }
  let s := s.setL2 y
  let s := if full = BitVec.allOnes 128 then { s with badL2 := s.badL2.filter fun q => q != (x.asid, x.line) } else s
  match x.owner with
  | none => s
  | some _ => pokeSkipping s x.owner (x.pa + va % lineBytes) bs skip

/-- A completion time has returned to a fibre (R325); `far` when its home is on another device. -/
def addTime (s : State) (gid lane t : Nat) (far : Bool := false) : State :=
  s.modGroup gid fun g =>
    { g with times := g.times.set lane (max (g.times.getD lane 0) t)
             passAt := g.passAt.set lane (max (g.passAt.getD lane 0) (t + if far then Config.skewPod else Config.skewDev)) }

/-! ### Atomics (R332, R339 to R341) -/

/-- Are all earlier stores of the core to these bytes applied? -/
def ownApplied (s : State) (core asid va n : Nat) : Bool :=
  !s.stores.any fun st => st.agent == 0 && st.peer.isNone && st.core == core && st.asid == asid && overlap st.va st.data.length va n &&
    (match st.stage with | .retired => true | .held _ => true | _ => false)

/-- May the home apply an atomic to the line now, as it may a store (R324, R358)? -/
def atomicReady (s : State) (x : L2Line) : Bool :=
  decide (applyBound s x 0 ≤ s.meridian) && (!snapNeeds s x || snapRoom s x)

/-- No later lease than an atomic that waits for the line allows (R324). -/
def capLine (s : State) (x : L2Line) : State := if x.cap = 0 then s.setL2 { x with cap := applyBound s x 0 } else s

end Sys2Proof.Machine
end

