-- ==== Sys2Proof/Machine/LocalMem.lean ====
section
/-! DEFINITION. The local address space of a core: ways, tile segments and column banks, owner tags, stash lines and the
checks of a local access (R266 to R275, R278, R279, R284, R299). -/

namespace Sys2Proof.Machine

/-! ### Lanes one after the other (R10, R282) -/

/-- Run `f` for each lane in order: the lanes that trap, and the register values of the others. -/
def laneLoop (f : State → Nat → State × Except TrapItem (List Word)) :
    List Nat → State → State × List TrapItem × List (Nat × List Word)
  | [], s => (s, [], [])
  | l :: ls, s =>
    match f s l with
    | (s, .error it) =>
      match laneLoop f ls s with
      | (s, items, outs) => (s, it :: items, outs)
    | (s, .ok ws) =>
      match laneLoop f ls s with
      | (s, items, outs) => (s, items, (l, ws) :: outs)

/-- Write the lanes' words to the registers from `d` upward. -/
def Group.setOuts (g : Group) (d n : Nat) (outs : List (Nat × List Word)) : Group :=
  let m := maskOf fun l => outs.any fun o => o.1 == l
  (List.range n).foldl (fun g j =>
    g.setRow (d + j) m fun l => (((outs.find? fun o => o.1 == l).map (·.2)).getD []).getD j 0) g

/-- End a lane-by-lane instruction: registers, then the traps of R10. -/
def finLanes (c : Ctx) (d n : Nat) (r : State × List TrapItem × List (Nat × List Word)) : Res :=
  match r with
  | (s, items, outs) => finTraps c (s.modGroup c.gid fun g => g.setOuts d n outs) items

def dataTrap (c : Ctx) (lane cause addr : Nat) : TrapItem := ⟨lane, cause, addr, c.u.pc, none, 0⟩

/-- Run `k` when the late-fault store buffer has room for `n` stores; else the stalled store acts as a wait point (R299). -/
def withRoom (c : Ctx) (s : State) (n : Nat) (k : Ctx → State → Res) : Res :=
  if lateUsed s c.core c.u.issue + n ≤ Config.lateEntries then k c s else stallPoint c s stall

/-! ### Parts and tags (R267, R269) -/

/-- A place in a part of a compute core, or of the issuing service core: `kind` 0 way, 1 segment, 2 column bank. -/
structure LPlace where
  core : Nat
  kind : Nat
  part : Nat                  -- physical number
  off : Nat                   -- offset in the part
  deriving DecidableEq, Repr

def partSize (kind : Nat) : Nat := if kind = 0 then Config.wayBytes else if kind = 1 then Config.segBytes else Config.colBytes
def partBase (kind : Nat) : Nat := if kind = 0 then 0 else if kind = 1 then Config.segBase else Config.colBase
def LPlace.phys (p : LPlace) : Nat := partBase p.kind + p.part * partSize p.kind + p.off
def localKey (core off : Nat) : Nat := core * 2 ^ 23 + off
/-- The key of a part's epoch in CoreSt (R269). -/
def partKey (kind part : Nat) : Nat := if kind = 0 then part else if kind = 1 then 16 + part else 32 + part

def Team.parts (t : Team) (kind : Nat) : List Nat := if kind = 0 then t.ways else if kind = 1 then t.segs else t.cols

/-- The store, index and offset that an OFFSET of either view names. -/
def splitOffset (o : Nat) : Option (Nat × Nat × Nat) :=
  if o < Config.segBase then some (0, o / Config.wayBytes, o % Config.wayBytes)
  else if o < Config.colBase then some (1, (o - Config.segBase) / Config.segBytes, (o - Config.segBase) % Config.segBytes)
  else if o < Config.colEnd then some (2, (o - Config.colBase) / Config.colBytes, (o - Config.colBase) % Config.colBytes)
  else none

/-- The team that holds a part. -/
def State.partOwner (s : State) (core kind part : Nat) : Option Team :=
  s.teams.find? fun t => t.core == core && (t.parts kind).contains part

/-- The owner tag of a part: epoch and owning team slot (R269). -/
def State.tagOf (s : State) (core kind part : Nat) : Nat :=
  NMap.get 0 (partKey kind part) (s.core core).epochs * 32 + (match s.partOwner core kind part with | some t => t.tslot + 1 | none => 0)

/-- Do two teams belong to one launch? -/
def sameLaunch (a b : Team) : Bool := a.tid == b.tid || (a.seq != 0 && a.seq == b.seq)

/-- R268, for an access of `n` bytes at `a` aligned to `al`. -/
def localPlace (s : State) (t : Team) (a n al : Nat) : Except Nat LPlace :=
  let peer := bitN a 27
  let pos := a / 2 ^ 23 % 16
  if 2 ^ 28 ≤ a || (!peer && pos ≠ 0) then .error cLRANGE
  else
    match splitOffset (a % 2 ^ 23) with
    | none => .error cLRANGE
    | some (kind, i, off) =>
      let core := if peer then 16 * clusterOf t.core + pos else t.core
      let part : Option Nat :=
        if !peer then (t.parts kind)[i]?
        else if kind = 0 then (if i < 14 then some i else none)
        else if kind = 1 then some i
        else if i < s.colBanks core then some i else none
      match part with
      | none => .error cLRANGE
      | some p =>
        if partSize kind < off + n then .error cLRANGE
        else if a % al ≠ 0 then .error cMISALIGNED
        else if peer then
          match s.partOwner core kind p with
          | some o => if sameLaunch o t then .ok ⟨core, kind, p, off⟩ else .error cLOWNER
          | none => .error cLOWNER
        else .ok ⟨core, kind, p, off⟩

/-- Local bytes become zero, and their lines sound (R269, R278). -/
def clearLocal (s : State) (lo n : Nat) : State :=
  { s with localMem := NMap.clear lo n s.localMem, badLocal := s.badLocal.filter fun q => !(decide (lo ≤ q.1 * 128) && decide (q.1 * 128 < lo + n)) }

/-- Allot a part: the epoch rises and the contents become zero (R269). -/
def allotPart (s : State) (core kind part : Nat) : State :=
  let s := s.modCore core fun x =>
    { x with epochs := NMap.set 0 (partKey kind part) ((NMap.get 0 (partKey kind part) x.epochs + 1) % 65536) x.epochs }
  clearLocal s (localKey core (partBase kind + part * partSize kind)) (partSize kind)

/-! ### Bytes -/

def State.localN (s : State) (core off n : Nat) : List Byte :=
  (List.range n).map fun i => NMap.get 0 (localKey core (off + i)) s.localMem

/-- The lines that stay uncorrectable when `n` bytes from `lo` on are stored: those not stored in full since (R278). -/
def stillBad (lo n : Nat) (bad : List (Nat × BitVec 128)) : List (Nat × BitVec 128) :=
  bad.filterMap fun q =>
    if !overlap (q.1 * 128) 128 lo n then some q else
    let m := q.2 ||| maskOf128 fun i => decide (lo ≤ q.1 * 128 + i) && decide (q.1 * 128 + i < lo + n)
    if m = BitVec.allOnes 128 then none else some (q.1, m)

def State.pokeLocal (s : State) (core off : Nat) (bs : List Byte) : State :=
  { s with localMem := (List.range bs.length).foldl (fun m i => NMap.set 0 (localKey core (off + i)) (bs.getD i 0) m) s.localMem
           badLocal := stillBad (localKey core off) bs.length s.badLocal }

/-! ### The containment register (R259, R260) -/

/-- An error for `CTN`: `ue` is its severity; the position word holds HANDLE, COL, ROW, SLOT, CHMASK and SRC. -/
structure CtnErr where
  ue : Bool
  handle : Nat
  col : Nat
  row : Nat
  slot : Nat
  chmask : Nat
  src : Nat
  deriving DecidableEq, Repr

-- DESIGN CHOICE: notes/assumptions/31
/-- R260. -/
def ctnUpdate (x : DWord) (e : CtnErr) : DWord :=
  let n := x.toNat
  let ceCount := if e.ue then bitsN n 47 32 else min (bitsN n 47 32 + 1) 65535
  let v := bitN n 0
  let ue := bitN n 2
  if !v || (e.ue && !ue) then
    BitVec.ofNat 64 (e.handle % 65536 * 2 ^ 48 + ceCount * 2 ^ 32 + e.col * 2 ^ 22 + e.row * 2 ^ 16 + e.slot * 2 ^ 14 +
      e.chmask * 2 ^ 8 + e.src * 2 ^ 5 + (if e.ue then 4 else 2) + 1)
  else
    let y := n - bitsN n 47 32 * 2 ^ 32 + ceCount * 2 ^ 32
    BitVec.ofNat 64 (if e.ue == ue && !bitN n 3 then y + 8 else y)

/-- Record an error on a core. -/
def ctnRecord (s : State) (core : Nat) (e : CtnErr) : State := s.modCore core fun x => { x with ctn := ctnUpdate x.ctn e }

/-! ### Uncorrectable lines (R278, R279, R416) -/

def localBad (s : State) (p : LPlace) : Bool := s.badLocal.any fun q => q.1 == localKey p.core p.phys / 128

/-- The record of an uncorrectable local read: `CTN` for the tile buffer, with the handle of the tile operation that read it (R259), a KIND 2
record for ways and the column. -/
def localError (s : State) (p : LPlace) (asid : Nat) (handle : Nat := 0) : State :=
  if p.kind = 1 then
    let line := (p.phys - Config.segBase) / 128
    ctnRecord s p.core ⟨true, handle, line / 64 % 64, line % 64, 0, 0, 4⟩
  else memError s (clusterOf p.core) (posOf p.core) asid 0 0 (if p.kind = 0 then 2 else 3)

/-! ### Stash lines (R274, R275) -/

/-- The stash mapping of a way, with its team, ordinal and the global address of a place. -/
def stashAt (s : State) (p : LPlace) : Option (Team × Nat × Nat) :=
  if p.kind ≠ 0 then none
  else
    match s.partOwner p.core 0 p.part with
    | none => none
    | some t =>
      match firstFrom (fun i => t.ways[i]? == some p.part) 0 14 with
      | none => none
      | some i =>
        match t.stash.find? fun m => decide (m.ord ≤ i) && decide (i < m.ord + m.ways) with
        | none => none
        | some m => some (t, i, m.base + (i - m.ord) * Config.wayBytes + p.off)

def stashKey (ord off : Nat) : Nat := ord * 384 + off / 128
def Team.stashLine (t : Team) (k : Nat) : StashLine := NMap.get StashLine.empty k t.stashLines
def setStash (s : State) (tid k : Nat) (x : StashLine) : State :=
  s.modTeam tid fun t => { t with stashLines := NMap.set StashLine.empty k x t.stashLines }

/-- The end of a new lease for a line just read; a page without leases gives none. -/
def newLease (s : State) (asid line : Nat) : State × Nat :=
  match s.l2? asid line with
  | none => (s, s.meridian)
  | some x =>
    let e := leaseEnd s x
    (s.setL2 { x with lease := max x.lease e }, e)

/-- Store a line whose dirty bytes stay as they are: what no ECC could correct in them stays so (R415). -/
def refill (s : State) (core off : Nat) (bs : List Byte) (dirty : BitVec 128) : State :=
  let s1 := s.pokeLocal core off bs
  match s.badLocal.find? fun q => q.1 == localKey core off / 128 with
  | none => s1
  | some q => if q.2 ||| ~~~dirty = BitVec.allOnes 128 then s1 else { s1 with badLocal := (q.1, q.2 ||| ~~~dirty) :: s1.badLocal }

/-- Fill the stash line of a place if it needs it (R275); `read` reads a global line. -/
def stashFillWith (read : State → Nat → State × Except Nat (List Byte)) (s : State) (p : LPlace) : State × Except Nat Unit :=
  match stashAt s p with
  | none => (s, .ok ())
  | some (t, i, g) =>
    let k := stashKey i p.off
    let x := t.stashLine k
    if x.filled && decide (s.meridian < x.lease) then (s, .ok ())
    else
      let base := g / 128 * 128
      match read s base with
      | (s, .error e) => (s, .error e)
      | (s, .ok bs) =>
        let (s, e) := newLease s t.asid.toNat (base / 128)
        let off := p.phys / 128 * 128
        let old := s.localN p.core off 128
        let new := (List.range 128).map fun j => if x.dirty.getLsbD j then old.getD j 0 else bs.getD j 0
        (setStash (refill s p.core off new x.dirty) t.tid k { x with filled := true, lease := e }, .ok ())

def stashFill (s : State) (c : Ctx) (lane : Nat) (p : LPlace) : State × Except Nat Unit :=
  stashFillWith (fun s base => fibreLoad s c lane false base 128) s p

/-- Mark the bytes of a store dirty (R275). -/
def stashDirty (s : State) (p : LPlace) (n : Nat) : State :=
  match stashAt s p with
  | none => s
  | some (t, i, _) =>
    let k := stashKey i p.off
    let x := t.stashLine k
    let m : BitVec 128 := BitVec.ofNat 128 ((2 ^ n - 1) * 2 ^ (p.off % 128))
    setStash s t.tid k { x with dirty := x.dirty ||| m }

/-! ### Accesses -/

/-- Has a fibre of the core retired a store to the bytes of a peer whose time has not returned (R321, R326)? An access that must return its
value waits until the peer has it. -/
def peerBehind (s : State) (c : Ctx) (a n al : Nat) : Bool :=
  match localPlace s c.t a n al with
  | .ok p => p.core != c.core && s.stores.any fun st => st.agent == 0 && st.core == c.core &&
      (match st.peer with | some (core, off, _) => core == p.core && overlap off st.data.length p.phys n | none => false)
  | .error _ => false

/-- R444: must an access fill its stash line across UALink before the lock? -/
def stashAway (s : State) (c : Ctx) (lane a n al : Nat) : Bool :=
  match localPlace s c.t a n al with
  | .ok p =>
    (match stashAt s p with
     | some (t, i, g) =>
       let x := t.stashLine (stashKey i p.off)
       !(x.filled && decide (s.meridian < x.lease)) && podWaits s c lane .load (g / 128 * 128) 128
     | none => false)
  | .error _ => false
/-- Does a local load or atomic wait? -/
def localWaits (s : State) (c : Ctx) (lane a n al : Nat) : Bool := peerBehind s c a n al || stashAway s c lane a n al

/-- A checked local read of `n` bytes by a lane. -/
def localRead (s : State) (c : Ctx) (lane a n al : Nat) : State × Except TrapItem (LPlace × List Byte) :=
  match localPlace s c.t a n al with
  | .error k => (s, .error (dataTrap c lane k a))
  | .ok p =>
    match stashFill s c lane p with
    | (s, .error k) => (s, .error (dataTrap c lane k a))
    | (s, .ok _) =>
      if localBad s p then (localError s p c.t.asid.toNat, .error (dataTrap c lane cLUNCORR a))
      else (s, .ok (p, s.localN p.core p.phys n))

/-- Would the bytes be stored in a stash line of a frozen template region that takes no private copies, or of its image area (R78)? -/
def stashFrozen (s : State) (c : Ctx) (lane : Nat) (p : LPlace) (n : Nat) : Bool :=
  match stashAt s p with
  | some (_, _, g) => (templateWrite s c.t c.gid lane g n .store).1.isSome
  | none => false

/-- A write that performs now. -/
def localWrite (s : State) (p : LPlace) (bs : List Byte) : State := stashDirty (s.pokeLocal p.core p.phys bs) p bs.length

/-- A checked local store: to the issuing core at once, to a peer as a store that performs later (R269, R284). -/
def localStore (s : State) (c : Ctx) (lane a : Nat) (bs : List Byte) : State × Except TrapItem (List Word) :=
  match localPlace s c.t a bs.length bs.length with
  | .error k => (s, .error (dataTrap c lane k a))
  | .ok p =>
    if stashFrozen s c lane p bs.length then (s, .error (dataTrap c lane cTMPLWRITE a)) else
    match stashFill s c lane p with
    | (s, .error k) => (s, .error (dataTrap c lane k a))
    | (s, .ok _) =>
      if p.core = c.core then (localWrite s p bs, .ok [])
      else
        let st : Store :=
          { id := s.nextStore, agent := 0, agentId := 0, core := c.core, issue := c.u.issue, tid := c.t.tid, gid := c.gid,
            lane := lane, gslot := c.g.gslot, tslot := c.t.tslot, pc := c.u.pc, va := a, asid := c.t.asid.toNat, data := bs,
            skip := [], kind := 2, floor := c.g.floor.getD lane 0, seen := false,
            red := false, replica := false, remote := false, uc := false,
            peer := some (p.core, p.phys, s.tagOf p.core p.kind p.part), stage := .retired }
        ({ s with stores := s.stores ++ [st], nextStore := s.nextStore + 1 }, .ok [])

end Sys2Proof.Machine
end

