-- ==== Sys2Proof/Machine/Float.lean ====
section
/-! DEFINITION. Number formats: FP32, BF16, rounding, NaN rule, flush-to-zero, SB12 scales and quantisation, and the
approximate functions (R181 to R193, R200 to R211). Values are exact integers and dyadic rationals until they are rounded. -/

namespace Sys2Proof.Machine

/-- Rounding modes (R184). -/
inductive RMode where
  | rne | rz | ru | rd
  deriving DecidableEq, Repr

def rmodeOf (f : BitVec 2) : RMode :=
  match f.toNat with
  | 0 => .rne
  | 1 => .rz
  | 2 => .ru
  | _ => .rd

/-- What a pattern stands for: `fin neg m e` is ± m × 2^e (R182). -/
inductive FVal where
  | nan
  | inf (neg : Bool)
  | fin (neg : Bool) (m : Nat) (e : Int)
  deriving DecidableEq, Repr

/-- A format of 8 exponent bits and `fb` fraction bits: 23 for FP32, 7 for BF16 (R182). -/
def fpVal (fb x : Nat) : FVal :=
  let neg := bitN x (fb + 8)
  let e := x / 2 ^ fb % 256
  let f := x % 2 ^ fb
  if e = 255 then (if f = 0 then .inf neg else .nan)
  else if e = 0 then .fin neg f (-126 - (fb : Int))
  else .fin neg (2 ^ fb + f) ((e : Int) - 127 - (fb : Int))

def fpIsNan (fb x : Nat) : Bool := fpVal fb x == .nan
def fpIsSub (fb x : Nat) : Bool := x / 2 ^ fb % 256 == 0 && x % 2 ^ fb != 0
/-- `Quiet(x)` (R183). -/
def fpQuiet (fb x : Nat) : Nat := if bitN x (fb - 1) then x else x + 2 ^ (fb - 1)
def fpCanon (fb : Nat) : Nat := 255 * 2 ^ fb + 2 ^ (fb - 1)
def fpSign (fb : Nat) (neg : Bool) : Nat := if neg then 2 ^ (fb + 8) else 0
def fpInf (fb : Nat) (neg : Bool) : Nat := fpSign fb neg + 255 * 2 ^ fb
def fpMax (fb : Nat) (neg : Bool) : Nat := fpSign fb neg + 255 * 2 ^ fb - 1

/-- `2^(i)` of an integer exponent as a pair numerator, denominator. -/
def pow2N (i : Int) : Nat := if 0 ≤ i then 2 ^ i.toNat else 1
def pow2D (i : Int) : Nat := if 0 ≤ i then 1 else 2 ^ (-i).toNat

/-- Floor of the base-2 logarithm of num / den, both positive. -/
def floorLog2 (num den : Nat) : Int :=
  let a : Int := (Nat.log2 num : Int) - (Nat.log2 den : Int)
  if den * pow2N a ≤ num * pow2D a then a else a - 1

/-- `q` plus the increment of the mode, for a remainder `r` of `d`. -/
def roundUpQ (mode : RMode) (neg : Bool) (q r d : Nat) : Nat :=
  match mode with
  | .rne => if d < 2 * r || (2 * r = d && q % 2 = 1) then q + 1 else q
  | .rz => q
  | .ru => if r ≠ 0 && !neg then q + 1 else q
  | .rd => if r ≠ 0 && neg then q + 1 else q

/-- num / den in units of 2^lsb, rounded. -/
def roundAt (mode : RMode) (neg : Bool) (num den : Nat) (lsb : Int) : Nat :=
  let n := num * pow2D lsb
  let d := den * pow2N lsb
  roundUpQ mode neg (n / d) (n % d) d

/-- `RoundFP` of ± num / den (R184): the pattern. A zero keeps the sign. -/
def roundQ (fb : Nat) (mode : RMode) (neg : Bool) (num den : Nat) : Nat :=
  if num = 0 then fpSign fb neg
  else
    let k := floorLog2 num den
    let lsb : Int := max k (-126) - (fb : Int)
    let q := roundAt mode neg num den lsb
    let body : Int := if q < 2 ^ fb then (q : Int) else (lsb + (fb : Int) + 126) * 2 ^ fb + (q : Int)
    if body < 255 * 2 ^ fb then fpSign fb neg + body.toNat
    else
      match mode with
      | .rne => fpInf fb neg
      | .rz => fpMax fb neg
      | .ru => if neg then fpMax fb neg else fpInf fb neg
      | .rd => if neg then fpInf fb neg else fpMax fb neg

/-- R185: is the result, rounded with unbounded exponent range, below 2^-126? -/
def tinyQ (mode : RMode) (neg : Bool) (num den : Nat) : Bool :=
  if num = 0 then false
  else
    let k := floorLog2 num den
    let q := roundAt mode neg num den (k - 23)
    decide (k < -127) || (decide (k = -127) && decide (q < 2 ^ 24))

/-! ### Exact values -/

/-- A dyadic number `m × 2^e`. -/
structure Dy where
  m : Int
  e : Int
  deriving DecidableEq, Repr

def Dy.add (a b : Dy) : Dy :=
  let e := min a.e b.e
  ⟨a.m * (pow2N (a.e - e) : Int) + b.m * (pow2N (b.e - e) : Int), e⟩
def Dy.mul (a b : Dy) : Dy := ⟨a.m * b.m, a.e + b.e⟩
def Dy.neg (a : Dy) : Dy := ⟨-a.m, a.e⟩
def Dy.lt (a b : Dy) : Bool := decide ((Dy.add a (Dy.neg b)).m < 0)
def Dy.le (a b : Dy) : Bool := decide ((Dy.add a (Dy.neg b)).m ≤ 0)

def signedM (neg : Bool) (m : Nat) : Int := if neg then -(m : Int) else m

/-- The dyadic value of a finite pattern; 0 for the others. -/
def fpDy (fb x : Nat) : Dy :=
  match fpVal fb x with
  | .fin neg m e => ⟨signedM neg m, e⟩
  | _ => ⟨0, 0⟩

/-- Round a dyadic value; `zneg` is the sign of an exact zero. -/
def roundDy (fb : Nat) (mode : RMode) (zneg : Bool) (x : Dy) : Nat :=
  if x.m = 0 then fpSign fb zneg
  else roundQ fb mode (decide (x.m < 0)) (x.m.natAbs * pow2N x.e) (pow2D x.e)

/-! ### Results of a lane operation (R186, R188, R195) -/

/-- A result and what it counts. -/
structure FRes where
  v : Nat
  flush : Bool := false
  nan : Bool := false
  sat : Bool := false
  deriving DecidableEq, Repr

/-- An FP32 operand read under FTZ (R185): pattern and whether it was flushed. -/
def ftzIn (ftz : Bool) (x : Nat) : Nat × Bool :=
  if ftz && fpIsSub 23 x then (x / 2 ^ 31 * 2 ^ 31, true) else (x, false)

/-- An FP32 result from its exact value under FTZ (R185). -/
def ftzOut (ftz : Bool) (mode : RMode) (zneg : Bool) (x : Dy) : Nat × Bool :=
  if ftz && x.m ≠ 0 && tinyQ mode (decide (x.m < 0)) (x.m.natAbs * pow2N x.e) (pow2D x.e) then (fpSign 23 (decide (x.m < 0)), true)
  else (roundDy 23 mode zneg x, false)

def firstNan (fb : Nat) : List Nat → Option Nat
  | [] => none
  | x :: xs => if fpIsNan fb x then some x else firstNan fb xs

/-- R188: NaN operands, then an invalid operation, then the result. -/
def nanRule (fb : Nat) (ops : List Nat) (inv : Bool) (res : Nat × Bool) (flushed : Bool) : FRes :=
  match firstNan fb ops with
  | some x => { v := fpQuiet fb x, flush := flushed, nan := inv }
  | none => if inv then { v := fpCanon fb, flush := flushed, nan := true } else { v := res.1, flush := flushed || res.2 }

def fpNeg? (fb x : Nat) : Bool := bitN x (fb + 8)
def fpFlip (fb x : Nat) : Nat := if fpNeg? fb x then x - 2 ^ (fb + 8) else x + 2 ^ (fb + 8)
def fpIsInf (fb x : Nat) : Bool := x % 2 ^ (fb + 8) == 255 * 2 ^ fb
def fpIsZero (fb x : Nat) : Bool := x % 2 ^ (fb + 8) == 0

/-- Sign of an exact zero sum of terms of signs `n1` and `n2` that are both zeros or cancel (R184). -/
def zeroSign (mode : RMode) (z1 z2 : Bool) (n1 n2 : Bool) : Bool :=
  if z1 && z2 && n1 == n2 then n1 else mode == .rd

/-- a + b with its NaN rule; the result of finite operands is `out`. -/
def addWith (fb : Nat) (mode : RMode) (out : Bool → Dy → Nat × Bool) (a b : Nat) (flushed : Bool) : FRes :=
  let inv := fpIsInf fb a && fpIsInf fb b && fpNeg? fb a != fpNeg? fb b
  let res : Nat × Bool :=
    if fpIsInf fb a then (a, false)
    else if fpIsInf fb b then (b, false)
    else out (zeroSign mode (fpIsZero fb a) (fpIsZero fb b) (fpNeg? fb a) (fpNeg? fb b)) (Dy.add (fpDy fb a) (fpDy fb b))
  nanRule fb [a, b] inv res flushed

def mulWith (fb : Nat) (out : Bool → Dy → Nat × Bool) (a b : Nat) (flushed : Bool) : FRes :=
  let neg := fpNeg? fb a != fpNeg? fb b
  let inv := (fpIsZero fb a && fpIsInf fb b) || (fpIsInf fb a && fpIsZero fb b)
  let res : Nat × Bool :=
    if fpIsInf fb a || fpIsInf fb b then (fpInf fb neg, false) else out neg (Dy.mul (fpDy fb a) (fpDy fb b))
  nanRule fb [a, b] inv res flushed

def fmaWith (fb : Nat) (mode : RMode) (out : Bool → Dy → Nat × Bool) (a b c : Nat) (flushed : Bool) : FRes :=
  let neg := fpNeg? fb a != fpNeg? fb b
  let anan := fpIsNan fb a || fpIsNan fb b
  let pinf := !anan && (fpIsInf fb a || fpIsInf fb b)
  let inv := (fpIsZero fb a && fpIsInf fb b) || (fpIsInf fb a && fpIsZero fb b) ||
    (pinf && fpIsInf fb c && fpNeg? fb c != neg)
  let pz := fpIsZero fb a || fpIsZero fb b
  let res : Nat × Bool :=
    if pinf then (fpInf fb neg, false)
    else if fpIsInf fb c then (c, false)
    else out (zeroSign mode pz (fpIsZero fb c) neg (fpNeg? fb c)) (Dy.add (Dy.mul (fpDy fb a) (fpDy fb b)) (fpDy fb c))
  nanRule fb [a, b, c] inv res flushed

/-! ### FP32 (R200 to R203) -/

def fAdd (ftz : Bool) (mode : RMode) (a b : Nat) : FRes :=
  let x := ftzIn ftz a
  let y := ftzIn ftz b
  addWith 23 mode (ftzOut ftz mode) x.1 y.1 (x.2 || y.2)

/-- FSUB: a NaN operand keeps its sign (R188). -/
def fSub (ftz : Bool) (mode : RMode) (a b : Nat) : FRes := fAdd ftz mode a (if fpIsNan 23 b then b else fpFlip 23 b)

def fMul (ftz : Bool) (mode : RMode) (a b : Nat) : FRes :=
  let x := ftzIn ftz a
  let y := ftzIn ftz b
  mulWith 23 (ftzOut ftz mode) x.1 y.1 (x.2 || y.2)

def fFma (ftz : Bool) (mode : RMode) (a b c : Nat) : FRes :=
  let x := ftzIn ftz a
  let y := ftzIn ftz b
  let z := ftzIn ftz c
  fmaWith 23 mode (ftzOut ftz mode) x.1 y.1 z.1 (x.2 || y.2 || z.2)

/-- A key that orders non-NaN patterns with -0 below +0 (R201). -/
def fpKey (fb x : Nat) : Int := if fpNeg? fb x then -((x % 2 ^ (fb + 8) : Nat) : Int) - 1 else (x : Int)

/-- R201; `big` for the maximum, `num` for FMINN and FMAXN. -/
def minMax (fb : Nat) (big num : Bool) (a b : Nat) (flushed : Bool) : FRes :=
  let an := fpIsNan fb a
  let bn := fpIsNan fb b
  if num && an != bn then { v := if an then b else a, flush := flushed }
  else
    let aLess := decide (fpKey fb a ≤ fpKey fb b)
    nanRule fb [a, b] false (if aLess != big then a else b, false) flushed

def fMinMax (ftz big num : Bool) (a b : Nat) : FRes :=
  let x := ftzIn ftz a
  let y := ftzIn ftz b
  minMax 23 big num x.1 y.1 (x.2 || y.2)

/-- FCMP relations (R202). -/
inductive FRel where
  | eq | lt | le | un
  deriving DecidableEq, Repr

def fRel (r : FRel) (ftz : Bool) (a b : Nat) : Bool × Bool :=
  let x := ftzIn ftz a
  let y := ftzIn ftz b
  let un := fpIsNan 23 x.1 || fpIsNan 23 y.1
  let bothZ := fpIsZero 23 x.1 && fpIsZero 23 y.1
  let eq := !un && (bothZ || x.1 == y.1)
  let lt := !un && !bothZ && decide (fpKey 23 x.1 < fpKey 23 y.1)
  (match r with
   | .eq => eq
   | .lt => lt
   | .le => lt || eq
   | .un => un, x.2 || y.2)

/-- FRINT (R203). -/
def fRint (ftz : Bool) (a : Nat) : FRes :=
  let x := ftzIn ftz a
  let res : Nat :=
    match fpVal 23 x.1 with
    | .fin neg m e => if 0 ≤ e then x.1 else roundQ 23 .rne neg (roundAt .rne neg m (pow2D e) 0) 1
    | _ => x.1
  nanRule 23 [x.1] false (res, false) x.2

/-- FCLASS (R203). -/
def fClass (a : Nat) : Nat :=
  let neg := fpNeg? 23 a
  2 ^ (if fpIsNan 23 a then (if bitN a 22 then 9 else 8)
       else if fpIsInf 23 a then (if neg then 0 else 7)
       else if fpIsZero 23 a then (if neg then 3 else 4)
       else if fpIsSub 23 a then (if neg then 2 else 5)
       else if neg then 1 else 6)

/-! ### BF16 (R206 to R208) -/

def bfOut (zneg : Bool) (x : Dy) : Nat × Bool := (roundDy 7 .rne zneg x, false)
def hAdd (a b : Nat) : FRes := addWith 7 .rne bfOut a b false
def hMul (a b : Nat) : FRes := mulWith 7 bfOut a b false
def hFma (a b c : Nat) : FRes := fmaWith 7 .rne bfOut a b c false
def hMax (a b : Nat) : FRes := minMax 7 true false a b false

def f2bf (ftz : Bool) (a : Nat) : FRes :=
  let x := ftzIn ftz a
  match fpVal 23 x.1 with
  | .nan => { v := fpQuiet 7 (x.1 / 2 ^ 16), flush := x.2 }
  | .inf neg => { v := fpInf 7 neg, flush := x.2 }
  | .fin neg m e => { v := roundQ 7 .rne neg (m * pow2N e) (pow2D e), flush := x.2 }

/-- A BF16 pattern widened to FP32 (R207, R208). -/
def bf2f (ftz : Bool) (a : Nat) : FRes :=
  let x := a % 2 ^ 16 * 2 ^ 16
  if fpIsNan 23 x then { v := fpQuiet 23 x } else { v := (ftzIn ftz x).1, flush := (ftzIn ftz x).2 }

/-- F2I, F2IZ, F2UZ (R208): rounded, clamped to `[lo, hi]`. -/
def f2int (ftz : Bool) (mode : RMode) (lo hi : Int) (a : Nat) : FRes :=
  let x := ftzIn ftz a
  let out := fun (i : Int) (sat : Bool) => ({ v := (ofI 32 i).toNat, flush := x.2, sat := sat } : FRes)
  match fpVal 23 x.1 with
  | .nan => out 0 true
  | .inf neg => out (if neg then lo else hi) true
  | .fin neg m e =>
    let i := signedM neg (roundAt mode neg (m * pow2N e) (pow2D e) 0)
    out (satI i lo hi) (decide (i < lo) || decide (hi < i))

def intToFp (i : Int) : Nat := roundDy 23 .rne false ⟨i, 0⟩

/-! ### SB12 (R190 to R192, R209 to R211) -/

def scaleE (w : Nat) : Nat := w / 4096 % 256
def scaleF (w : Nat) : Nat := w % 4096
def scaleSK (w : Nat) : Nat := w / 2 ^ 20 % 4

/-- `Scale(w)` for 1 ≤ E ≤ 254 (R190). -/
def scaleDy (w : Nat) : Dy := ⟨4096 + scaleF w, (scaleE w : Int) - 139⟩

/-- R191 for a positive m, over E: the least F of an exponent, and the first exponent it fits. -/
def leastF (m : Dy) (e : Nat) : Nat :=
  let x : Dy := ⟨m.m, m.e + 139 - e⟩          -- 4096 m / 2^(E-127)
  let n := x.m.toNat * pow2N x.e
  let d := 2047 * pow2D x.e
  (n + d - 1) / d - 4096

/-- The scale word of a finite magnitude (R191), E and F only. -/
def scaleWord (m : Dy) : Nat :=
  if m.m = 0 then 0
  else
    match firstFrom (fun e => decide (leastF m e ≤ 4095)) 1 254 with
    | some e => e * 4096 + leastF m e
    | none => 254 * 4096 + 4095

/-- The FP32 pattern of `1 / Scale(w)` rounded (R192). -/
def invScale (w : Nat) : Nat :=
  let s := scaleDy w
  roundQ 23 .rne false (pow2D s.e) (s.m.natAbs * pow2N s.e)

/-- What Quant gives: the 12-bit mantissa, the new residual's pattern, and counts. -/
structure QRes where
  q : Int
  r : Nat
  sat : Bool := false
  flush : Bool := false
  deriving DecidableEq, Repr

/-- `Quant(x, w, r)` (R192). -/
def quant (ftz : Bool) (x w r : Nat) : QRes :=
  let y := ftzIn ftz x
  if scaleE w = 0 then { q := 0, r := 0, flush := y.2 }
  else if scaleE w = 255 || fpIsNan 23 y.1 || fpIsInf 23 y.1 then { q := -2048, r := 0, flush := y.2 }
  else
    let v := (fMul false .rne y.1 (invScale w)).v
    let t := (fAdd false .rne v r).v
    match fpVal 23 t with
    | .fin neg m e =>
      let n := signedM neg (roundAt .rne neg (m * pow2N e) (pow2D e) 0)
      let q := satI n (-2047) 2047
      { q := q, r := roundDy 23 .rne false (Dy.add (fpDy 23 t) ⟨-q, 0⟩), sat := q != n, flush := y.2 }
    | _ => { q := if fpNeg? 23 t then -2047 else 2047, r := 0, sat := true, flush := y.2 }

/-- One SB12 element as an FP32 pattern (R190, R211). -/
def sbElem (code w : Nat) : Nat :=
  if scaleE w = 0 then 0
  else if scaleE w = 255 then fpCanon 23
  else if code % 4096 = 2048 then
    (match scaleSK w with
     | 1 => fpInf 23 false
     | 2 => fpInf 23 true
     | _ => fpCanon 23)
  else
    let q := (BitVec.ofNat 12 code).toInt
    roundDy 23 .rne false (Dy.mul ⟨q, 0⟩ (scaleDy w))

/-- BSCALE (R209): the scale word for a pattern, BS and SK apart. -/
def bscaleWord (m : Nat) : Nat :=
  if fpIsNan 23 m || fpIsInf 23 m then 255 * 4096
  else scaleWord ⟨(fpDy 23 m).m.natAbs, (fpDy 23 m).e⟩

/-! ### Approximate functions (R204) -/

/-- Integer square root of `x`, found from the bit `2^b` downward. -/
def sqrtFuel : Nat → Nat → Nat → Nat
  | 0, _, acc => acc
  | b + 1, x, acc => let t := acc + 2 ^ b; sqrtFuel b x (if t * t ≤ x then t else acc)

/-- Bits of the logarithm of lo and hi (fixed point, 2^400 is 1, both in [1, 2)): by squaring, `n` bits. -/
def logBits (up : Bool) : Nat → Nat → Nat → Nat
  | 0, _, acc => acc
  | n + 1, x, acc =>
    let y := if up then (x * x + 2 ^ 400 - 1) / 2 ^ 400 else x * x / 2 ^ 400
    if 2 ^ 401 ≤ y then logBits up n (if up then (y + 1) / 2 else y / 2) (2 * acc + 1) else logBits up n y (2 * acc)

def isPow2 (m : Nat) : Bool := decide (m = 2 ^ Nat.log2 m)

/-- A bound on log2 of a positive dyadic number, as a multiple of 2^-300: below it, or with `up` above it; exact for a power of two. No
operand of R204 has its exact result that near to the end of a bound, unless it is a power of two. -/
def logBound (up : Bool) (x : Dy) : Dy :=
  let n := x.m.toNat
  let k := Nat.log2 n
  let fx := if k ≤ 400 then n * 2 ^ (400 - k) else (n + (if up then 2 ^ (k - 400) - 1 else 0)) / 2 ^ (k - 400)
  ⟨((k : Int) + x.e) * 2 ^ 300 + (logBits up 300 fx 0 : Nat) + (if up && !isPow2 n then 1 else 0), -300⟩

/-- Unit in the last place for an exact value in [2^k, 2^(k+1)) (R204). -/
def ulp (k : Int) : Dy := ⟨1, max k (-126) - 23⟩
def Dy.sub (a b : Dy) : Dy := Dy.add a (Dy.neg b)

/-- The candidate when it lies in the bound, else the fallback, which does. -/
def chosen (cand : Word) (ok : Dy → Bool) (fallback : Nat) : Nat :=
  match fpVal 23 cand.toNat with
  | .fin neg m e => if ok ⟨signedM neg m, e⟩ then cand.toNat else fallback
  | _ => fallback

-- DEDUCED: notes/assumptions/13
/-- FRCP of a finite non-zero ± m × 2^e. -/
def rcpVal (x : Word) (neg : Bool) (m : Nat) (e : Int) : Nat :=
  let num := pow2D e
  let den := m * pow2N e
  let k := floorLog2 num den
  if 128 < k || (k == 128 && !isPow2 m) then fpInf 23 neg
  else if isPow2 m && decide (-126 ≤ k) && decide (k < 128) then roundQ 23 .rne neg num den
  else
    let a : Dy := ⟨signedM neg m, e⟩
    let lim := Dy.mul (ulp k) ⟨m, e⟩
    let ok := fun (r : Dy) =>
      let d := Dy.sub (Dy.mul r a) ⟨1, 0⟩
      Dy.lt ⟨d.m.natAbs, d.e⟩ lim
    chosen (Config.approxRcp x) ok (roundQ 23 .rz neg num den)

/-- FRSQ of a positive m × 2^e. -/
def rsqVal (x : Word) (m : Nat) (e : Int) : Nat :=
  -- L is the least integer with a ≤ 2^L; k is the floor of log2 of the result
  let L := e + Nat.log2 m + (if isPow2 m then 0 else 1)
  let k := (-L).fdiv 2
  if isPow2 m && decide (L % 2 = 0) then roundQ 23 .rne false (pow2N k) (pow2D k)
  else
    let a : Dy := ⟨m, e⟩
    let u2 := Dy.mul ⟨2, 0⟩ (ulp k)
    let sq := fun (r : Dy) => Dy.mul (Dy.mul r r) a
    let ok := fun (r : Dy) =>
      let hi := Dy.add r u2
      let lo := Dy.sub r u2
      decide (0 < hi.m) && Dy.lt ⟨1, 0⟩ (sq hi) && (decide (lo.m ≤ 0) || Dy.lt (sq lo) ⟨1, 0⟩)
    let t : Int := 46 - 2 * k - e                -- floor(2^(23-k) / sqrt a) = floor(sqrt(2^t / m))
    let q := sqrtFuel 26 (pow2N t / (m * pow2D t)) 0
    chosen (Config.approxRsq x) ok (roundQ 23 .rz false (q * pow2N (k - 23)) (pow2D (k - 23)))

/-- The 24-bit significand of 2^a in units of 2^lsb, from bit `2^b` downward. -/
def ex2Fuel : Nat → Dy → Int → Nat → Nat
  | 0, _, _, acc => acc
  | b + 1, a, lsb, acc =>
    let t := acc + 2 ^ b
    ex2Fuel b a lsb (if Dy.le (logBound false ⟨t, lsb⟩) a then t else acc)

def Dy.floor (a : Dy) : Int := if 0 ≤ a.e then a.m * (pow2N a.e : Int) else a.m.fdiv (pow2D a.e : Int)

/-- FEX2 of a finite non-zero a. -/
def ex2Val (x : Word) (a : Dy) : Nat :=
  let k := a.floor
  let integral := decide (0 ≤ a.e) || decide (a.m.emod (pow2D a.e : Int) = 0)
  if 128 ≤ k then fpInf 23 false
  else if integral && decide (-149 ≤ k) then roundQ 23 .rne false (pow2N k) (pow2D k)
  else
    let u2 := Dy.mul ⟨2, 0⟩ (ulp k)
    let ok := fun (r : Dy) =>
      let hi := Dy.add r u2
      let lo := Dy.sub r u2
      decide (0 < hi.m) && Dy.lt a (logBound true hi) && (decide (lo.m ≤ 0) || Dy.lt (logBound false lo) a)
    let lsb : Int := max k (-126) - 23
    chosen (Config.approxEx2 x) ok
      (if k < -149 then 0 else roundQ 23 .rz false (ex2Fuel 24 a lsb 0 * pow2N lsb) (pow2D lsb))

/-- FLG2 of a positive m × 2^e. -/
def lg2Val (x : Word) (m : Nat) (e : Int) : Nat :=
  let a : Dy := ⟨m, e⟩
  if isPow2 m then roundDy 23 .rne false ⟨e + Nat.log2 m, 0⟩
  else
    let lo := logBound false a
    let hi := logBound true a
    let near := Dy.le ⟨1, -1⟩ a && Dy.le a ⟨2, 0⟩
    let b : Dy := if near then ⟨1, -22⟩ else Dy.mul ⟨2, 0⟩ (ulp (floorLog2 lo.m.natAbs (2 ^ 300)))
    let ok := fun (r : Dy) => Dy.le (Dy.sub lo b) r && Dy.le r (Dy.add hi b)
    chosen (Config.approxLg2 x) ok (roundDy 23 .rz false lo)

inductive Approx where
  | rcp | rsq | ex2 | lg2
  deriving DecidableEq, Repr

/-- OP 20 (R204), with the NaN rule, flushing and invalid operations. -/
def approx (k : Approx) (ftz : Bool) (w : Word) : FRes :=
  let y := ftzIn ftz w.toNat
  let x := BitVec.ofNat 32 y.1
  let neg := fpNeg? 23 y.1
  let inv := (k == .rsq || k == .lg2) && neg && !fpIsZero 23 y.1 && !fpIsNan 23 y.1
  let res : Nat :=
    match k, fpVal 23 y.1 with
    | _, .nan => 0
    | .rcp, .inf n => fpSign 23 n
    | .rcp, .fin n m e => if m = 0 then fpInf 23 n else rcpVal x n m e
    | .rsq, .inf _ => 0
    | .rsq, .fin n m e => if m = 0 then fpInf 23 n else rsqVal x m e
    | .ex2, .inf n => if n then 0 else fpInf 23 false
    | .ex2, .fin n m e =>
      let a : Dy := ⟨signedM n m, e⟩
      -- with FTZ a result below 2^-126 is flushed, and counts, whatever its bits
      if m = 0 then 0x3F800000 else if ftz && decide (a.floor < -126) then 1 else ex2Val x a
    | .lg2, .inf _ => fpInf 23 false
    | .lg2, .fin _ m e => if m = 0 then fpInf 23 true else lg2Val x m e
  nanRule 23 [y.1] inv (ftzIn ftz res) y.2

end Sys2Proof.Machine
end

