-- ==== Sys2Proof/Machine/Recon.lean ====
section
/-! DEFINITION. Moduli sets, residues, the legitimate range and reconstruction (R224 to R227, R230, R249, R250, R260, R263). -/

namespace Sys2Proof.Machine

/-! ### Moduli sets -/

def Moduli.count (m : Moduli) : Nat := m.p + m.q
def Moduli.prod (m : Moduli) : Nat := (m.mods.take m.p).foldl (· * ·) 1

/-- R224: is the 64-byte descriptor valid? Gives its set, without dies. -/
def parseModuli (d : List Byte) : Option Moduli :=
  let p := fieldN d 0 1
  let q := fieldN d 1 1
  let mods := (List.range 6).map fun i => fieldN d (8 + 2 * i) 2
  let used := mods.take (p + q)
  let coprime := (List.range used.length).all fun i => (List.range i).all fun j => Nat.gcd (used.getD i 0) (used.getD j 0) == 1
  let order := ((used.drop p).all fun r => (used.take p).all fun x => decide (x < r))
  if decide (2 ≤ p) && decide (p ≤ 4) && decide (q ≤ 2) && (used.all fun m => decide (3 ≤ m) && decide (m ≤ 4095)) && coprime && order
      && ((mods.drop (p + q)).all fun m => m == 0) && fieldN d 2 6 == 0 && (slice d 0x14 44).all (· == 0) then
    some ⟨p, q, used, []⟩
  else none

/-- The descriptor of a set (R224). -/
def moduliBytes (m : Moduli) : List Byte :=
  natLe 1 m.p ++ natLe 1 m.q ++ natLe 6 0 ++ ((List.range 6).map fun i => natLe 2 (m.mods.getD i 0)).flatten ++ natLe 44 0

/-- R226: dies in ascending order, those not erased first. -/
def assignDies (erased : Option Nat) (m : Moduli) : Moduli :=
  let fresh := (List.range 6).filter fun d => erased != some d
  { m with dies := (fresh ++ erased.toList).take m.count }

/-- The erased channels of a set (R226, R263). -/
def erasedChans (s : State) (m : Moduli) : List Nat :=
  (List.range m.count).filter fun c => s.erasedDie.isSome && m.dies[c]? == s.erasedDie

/-! ### Reconstruction (R249, R250) -/

/-- Extended Euclid by at most `fuel` steps. -/
def egcd : Nat → Nat → Nat → Int → Int → Int
  | 0, _, _, a, _ => a
  | f + 1, r0, r1, a, b => if r1 = 0 then a else egcd f r1 (r0 % r1) b (a - (r0 / r1 : Nat) * b)

/-- The inverse of `a` modulo a coprime `m`. -/
def invMod (a m : Nat) : Nat := modI (egcd 40 (a % m) m 1 0) m

/-- The number below the product with the given residues: pairs of modulus and residue. -/
def crt : List (Nat × Nat) → Nat → Nat → Nat
  | [], y, _ => y
  | (m, x) :: rest, y, mm =>
    let t := modI (((x : Int) - (y : Int)) * (invMod mm m : Int)) m
    crt rest (y + mm * t) (mm * m)

structure Legit where
  lo : Int
  hi : Int
  deriving DecidableEq, Repr

/-- R249. -/
def legitSb (ktot : Nat) : Legit := ⟨-(2047 * 2047 * ktot : Nat), (2047 * 2047 * ktot : Nat)⟩
def legitRaw (signed : Bool) (mp : Nat) : Legit :=
  if signed then ⟨-((mp / 2 : Nat) : Int), ((mp - 1) / 2 : Nat)⟩ else ⟨0, ((mp - 1 : Nat) : Int)⟩

/-- `Interp(Y, Mb)`. -/
def interp (g : Legit) (y mb : Nat) : Option Int :=
  if (y : Int) ≤ g.hi then some y else if (mb : Int) + g.lo ≤ y then some ((y : Int) - mb) else none

/-- What `Try` finds: the value, and the checks that disagreed. -/
structure Tried where
  x : Option Int
  bad : List Nat
  deriving DecidableEq, Repr

/-- `Try(X_out)` over the residues `xs`, one per channel. -/
def tryRec (m : Moduli) (g : Legit) (xs out : List Nat) : Tried :=
  let ch := (List.range m.count).filter fun c => !out.contains c
  let pair := fun (c : Nat) => (m.mods.getD c 1, xs.getD c 0 % m.mods.getD c 1)
  let base := ch.take m.p
  let mb := base.foldl (fun a c => a * m.mods.getD c 1) 1
  match interp g (crt (base.map pair) 0 1) mb with
  | none => ⟨none, []⟩
  | some x =>
    let bad := (ch.drop m.p).filter fun c => modI x (m.mods.getD c 1) != (pair c).2
    ⟨if bad.isEmpty then some x else none, bad⟩

inductive Recon where
  | good (x : Int)
  | fixed (x : Int) (chan : Nat)
  | ue (mask : List Nat)
  deriving DecidableEq, Repr

/-- The one exclusion that fits, when correction is possible. -/
def soleFix (m : Moduli) (g : Legit) (er xs : List Nat) : Option Nat :=
  if er.isEmpty && m.q = 2 then
    match (List.range m.count).filter fun c => (tryRec m g xs [c]).x.isSome with
    | [c] => some c
    | _ => none
  else none

/-- `Reconstruct` (R250). -/
def reconstruct (m : Moduli) (g : Legit) (er xs : List Nat) : Recon :=
  let t := tryRec m g xs er
  match t.x with
  | some x => .good x
  | none =>
    match soleFix m g er xs with
    | some c => .fixed ((tryRec m g xs [c]).x.getD 0) c
    | none => .ue t.bad

def chanMask (cs : List Nat) : Nat := cs.foldl (fun a c => a ||| 2 ^ c) 0

/-- `CTN` as CTNRD reads it: with PERM (R259, R263). -/
def ctnValue (s : State) (core : Nat) : DWord := (s.core core).ctn ||| (if s.erasedDie.isSome then 16 else 0)

/-- R263: firmware marks the first die whose count exceeds the threshold, and at most one. -/
def markWorn (s : State) : State :=
  if s.erasedDie.isNone && s.regs.ceThresh != 0 then
    match s.dieCe.find? fun q => decide (s.regs.ceThresh.toNat < q.2) with
    | some q => ({ s with erasedDie := some q.1 }).noteHealth s.healthValue
    | none => s
  else s

/-- R263: a corrected error counts for its channel's die. -/
def countCe (s : State) (die : Nat) : State := markWorn { s with dieCe := NMap.set 0 die (NMap.get 0 die s.dieCe + 1) s.dieCe }

/-- Record what reconstruction found of an element (R250, R260). -/
def recordRecon (s : State) (core : Nat) (m : Moduli) (r : Recon) (src handle slot row col : Nat) : State :=
  match r with
  | .good _ => s
  | .fixed _ c => countCe (ctnRecord s core ⟨false, handle, col, row, slot, 2 ^ c, src⟩) (m.dies.getD c 0)
  | .ue bad => ctnRecord s core ⟨true, handle, col, row, slot, chanMask bad, src⟩

end Sys2Proof.Machine
end

