-- ==== Sys2Proof/Machine/Engine.lean ====
section
/-! DEFINITION. Accesses of an asynchronous operation: reads at the home, in pieces that lie in one line, and local reads and
landings (R78, R245, R269, R334). A failed read gives its address and cause. -/

namespace Sys2Proof.Machine

/-- `[va, va + n)` cut at line boundaries: addresses and lengths. -/
def pieces (va n : Nat) : List (Nat × Nat) :=
  if n = 0 then []
  else (List.range ((va + n - 1) / 128 - va / 128 + 1)).map fun i =>
    let a := max va ((va / 128 + i) * 128)
    (a, min (va + n) ((va / 128 + i + 1) * 128) - a)

/-- The page of an operation's read, if it may be read (R355). -/
def engPage (s : State) (asid va : Nat) : State × Except Nat Tlb :=
  match reach s asid va with
  | (s, .error k) => (s, .error k)
  | (s, .ok e) => if !e.r then (s, .error cPROT) else if e.red then (s, .error cREDREAD) else (s, .ok e)

/-- A read inside one line for an operation of `t`: the team's private copy, or the home. -/
def engPiece (s : State) (t : Option Team) (asid va n : Nat) : State × Except (Nat × Nat) (List Byte) :=
  match t.bind fun t => t.cow.find? fun x => x.va == va / lineBytes * lineBytes with
  | some x => (s, .ok (slice x.data (va % lineBytes) n))
  | none =>
    match engPage s asid va with
    | (s, .error k) => (s, .error (va, k))
    | (s, .ok _) =>
      match engHome s asid va n with
      | (s, .error k) => (s, .error (va, k))
      | (s, .ok bs) => (s, .ok bs)

/-- Read pieces one after the other. -/
def readPieces (rd : State → Nat → Nat → State × Except (Nat × Nat) (List Byte)) :
    List (Nat × Nat) → State → State × Except (Nat × Nat) (List Byte)
  | [], s => (s, .ok [])
  | (a, k) :: rest, s =>
    match rd s a k with
    | (s, .error e) => (s, .error e)
    | (s, .ok bs) =>
      match readPieces rd rest s with
      | (s, .error e) => (s, .error e)
      | (s, .ok more) => (s, .ok (bs ++ more))

def engRead (s : State) (t : Option Team) (asid va n : Nat) : State × Except (Nat × Nat) (List Byte) :=
  readPieces (fun s a k => engPiece s t asid a k) (pieces va n) s

/-- A local read of an operation, for the tile operation of a handle: checks 1 and 3 of R268, the stash fill and ECC. -/
def engLocalPiece (handle : Nat) (s : State) (t : Team) (a n : Nat) : State × Except (Nat × Nat) (List Byte) :=
  match localPlace s t a n 1 with
  | .error k => (s, .error (a, k))
  | .ok p =>
    match stashFillWith (fun s base => engHome s t.asid.toNat base 128) s p with
    | (s, .error k) => (s, .error (a, k))
    | (s, .ok _) =>
      if localBad s p then (localError s p t.asid.toNat handle, .error (a, cLUNCORR))
      else (s, .ok (s.localN p.core p.phys n))

def engLocalRead (handle : Nat) (s : State) (t : Team) (a n : Nat) : State × Except (Nat × Nat) (List Byte) :=
  readPieces (fun s a k => engLocalPiece handle s t a k) (pieces a n) s

/-- Bytes that an operation puts into a core's local store. -/
def landLocal (s : State) (core off : Nat) (bs : List Byte) : State := s.pokeLocal core off bs

/-- The tags of the tile segments that `[off, off + n)` touches on a core (R269). -/
def landingTags (s : State) (off n core : Nat) : List (Nat × Nat × Nat) :=
  ((List.range 16).filter fun i => overlap (Config.segBase + i * Config.segBytes) Config.segBytes off n).map fun i =>
    (core, partKey 1 i, s.tagOf core 1 i)

/-- May the operation land at the core: the range lies in the tile buffer, and every segment keeps the tag recorded at issue
and belongs to a team of the launch (R237, R269)? -/
def mayLand (s : State) (t : Team) (tags : List (Nat × Nat × Nat)) (core off n : Nat) : Bool :=
  decide (Config.segBase ≤ off) && decide (off + n ≤ Config.colBase) &&
  ((List.range 16).filter fun i => overlap (Config.segBase + i * Config.segBytes) Config.segBytes off n).all fun i =>
    tags.contains (core, partKey 1 i, s.tagOf core 1 i) &&
      (match s.partOwner core 1 i with | some o => sameLaunch o t | none => false)

-- DEDUCED: notes/assumptions/36
/-- A write into the launch's own template region is discarded (R78). -/
def intoTemplate (s : State) (t : Team) (va n : Nat) : Bool := !(regionsAt s t va n).all fun r => !r.frozen

/-! ### Bookkeeping of an agent's writes -/

/-- The failure of an operation's stores that comes first: store, address, cause. -/
def firstFail (s : State) (agent id : Nat) : Option (Nat × Nat × Nat) :=
  (s.fails.filter fun f => f.agent == agent && f.id == id).foldl (fun b f =>
    match b with
    | none => some (f.store, f.va, f.cause)
    | some g => if f.store < g.1 then some (f.store, f.va, f.cause) else b) none

/-- An operation of launch `seq` has completed: its completion times, none later than now, pass within the pod's bound (R325). -/
def opEnded (s : State) (seq : Nat) : State :=
  { s with launches := s.launches.map fun L => if L.seq == seq then { L with pass := max L.pass (s.meridian + Config.skewPod) } else L }

def agentBusy (s : State) (agent id : Nat) : Bool := s.stores.any fun st => st.agent == agent && st.agentId == id
def dropFails (s : State) (agent id : Nat) : State := { s with fails := s.fails.filter fun f => !(f.agent == agent && f.id == id) }

end Sys2Proof.Machine
end

