-- ==== Sys2Proof/Machine/Counters.lean ====
section
/-! DEFINITION. Receive counters and the firing of triggered sends (R382, R383, R387). -/

namespace Sys2Proof.Machine

def State.counter (s : State) (n : Nat) : Counter := NMap.get Counter.reset n s.counters

/-- Is the counter tagged with the ASID (R382)? -/
def counterTagged (s : State) (asid : BitVec 16) (n : Nat) : Bool := (s.counter n).v && (s.counter n).tag == asid

/-- The trigger counter and threshold of a slot's record (R375). -/
def TSlot.tctr (x : TSlot) : Nat := fieldN x.record 0x32 2 % 4096
def TSlot.thresh (x : TSlot) : Nat := fieldN x.record 0x38 8

/-- R387: an armed slot whose counter has reached its threshold fires. -/
def fireSlots (s : State) (n v : Nat) : State :=
  { s with tsend := s.tsend.map fun x => if x.armed && x.tctr == n && decide (x.thresh ≤ v) then { x with armed := false, fired := true } else x }

/-- R384: CTRWAIT goes on with the value that met its test. -/
def wakeCounter (s : State) (n v : Nat) : State :=
  { s with groups := s.groups.map fun g =>
      g.subs.foldl (fun (g : Group) (u : Sub) =>
        match u.wait with
        | .ctr m want d => if m = n && want ≤ v then (g.setSub u.mask (u.dropChain.next u.pc)).setS d (BitVec.ofNat 64 v) else g
        | _ => g) g }

/-- One update of a counter (R383). -/
def setCounter (s : State) (n : Nat) (v : DWord) : State :=
  wakeCounter (fireSlots { s with counters := NMap.set Counter.reset n { s.counter n with val := v } s.counters } n v.toNat) n v.toNat

def addCounter (s : State) (n : Nat) (inc : DWord) : State := setCounter s n ((s.counter n).val + inc)

/-- The raise of an operation: discarded when the counter is tagged otherwise (R382). -/
def raiseCounter (s : State) (asid : BitVec 16) (n : Nat) : State := if counterTagged s asid n then addCounter s n 1 else s

end Sys2Proof.Machine
end

