-- ==== Sys2Proof/Machine/Fp.lean ====
section
/-! DEFINITION. Floating-point lane instructions, packed BF16, conversions and block scaling: OPs 19 to 24 (R199 to R211). -/

namespace Sys2Proof.Machine

/-- Count SAT, FLUSH and NAN for the executing lanes of results `r` (R195). -/
def countRes (r : Ctx → Nat → FRes) (c : Ctx) (ex : Word) (s : State) : State :=
  let lanes := fun (p : FRes → Bool) => maskOf fun l => ex.getLsbD l && p (r c l)
  c.count (c.count (c.count s kSAT (lanes (·.sat))) kFLUSH (lanes (·.flush))) kNAN (lanes (·.nan))

/-- Class A floating-point form with one result: `b`, `d` say whether B and the old destination are sources. -/
def fAlu (f : LaneR) (b d : Bool) (s : State) (op : Bool → Nat → Nat → Nat → FRes) : Res :=
  let reads := regOf f.a ++ (if b then regOf f.b else []) ++ (if d then regOf f.d else [])
  let r := fun (c : Ctx) (l : Nat) => op c.t.ftz (c.src f.a l).toNat (c.src f.b l).toNat (c.reg f.d l).toNat
  let v := fun (c : Ctx) (_ : Word) (l : Nat) => BitVec.ofNat 32 (r c l).v
  classAx { regs := regOf f.d ++ reads, reads := reads, latches := latchOf f.a ++ (if b then latchOf f.b else []) }
    (fun c => c.execMask f.g) (if f.w then [] else [f.d.toNat]) true s
    (fun c ex g => if f.w then g else g.setRow f.d.toNat ex (v c ex)) v (countRes r)

def execFadd (f : LaneR) (rm : BitVec 2) (s : State) : Res := fAlu f true false s fun z a b _ => fAdd z (rmodeOf rm) a b
def execFsub (f : LaneR) (rm : BitVec 2) (s : State) : Res := fAlu f true false s fun z a b _ => fSub z (rmodeOf rm) a b
def execFmul (f : LaneR) (rm : BitVec 2) (s : State) : Res := fAlu f true false s fun z a b _ => fMul z (rmodeOf rm) a b
def execFfma (f : LaneR) (rm : BitVec 2) (s : State) : Res := fAlu f true true s fun z a b d => fFma z (rmodeOf rm) a b d
def execFmin (f : LaneR) (s : State) : Res := fAlu f true false s fun z a b _ => fMinMax z false false a b
def execFmax (f : LaneR) (s : State) : Res := fAlu f true false s fun z a b _ => fMinMax z true false a b
def execFminn (f : LaneR) (s : State) : Res := fAlu f true false s fun z a b _ => fMinMax z false true a b
def execFmaxn (f : LaneR) (s : State) : Res := fAlu f true false s fun z a b _ => fMinMax z true true a b

/-- FCMP (R202): as the integer compares, and it counts FLUSH. -/
def fCompare (f : LaneR) (k : FRel) (s : State) : Res :=
  let reads := regOf f.a ++ regOf f.b
  let r := fun (c : Ctx) (l : Nat) => fRel k c.t.ftz (c.src f.a l).toNat (c.src f.b l).toNat
  classAx { regs := reads, reads := reads, latches := latchOf f.a ++ latchOf f.b } (fun c => c.execMask f.g) [] false s
    (fun c ex g => g.setP f.d.toNat ex fun l => if f.w then g.p f.d.toNat l && (r c l).1 else (r c l).1) (fun _ _ _ => 0)
    (fun c ex s => c.count s kFLUSH (maskOf fun l => ex.getLsbD l && (r c l).2))

def execFcmpEq (f : LaneR) (s : State) : Res := fCompare f .eq s
def execFcmpLt (f : LaneR) (s : State) : Res := fCompare f .lt s
def execFcmpLe (f : LaneR) (s : State) : Res := fCompare f .le s
def execFcmpUn (f : LaneR) (s : State) : Res := fCompare f .un s

def execFabs (f : LaneR) (s : State) : Res := fAlu f false false s fun _ a _ _ => { v := a % 2 ^ 31 }
def execFneg (f : LaneR) (s : State) : Res := fAlu f false false s fun _ a _ _ => { v := fpFlip 23 a }
def execFrint (f : LaneR) (s : State) : Res := fAlu f false false s fun z a _ _ => fRint z a
def execFclass (f : LaneR) (s : State) : Res := fAlu f false false s fun _ a _ _ => { v := fClass a }

/-- OP 20 (R204): outside class A. -/
def fApprox (f : LaneR) (k : Approx) (s : State) : Res :=
  laneOp { regs := regOf f.d ++ regOf f.a, reads := regOf f.a } f.g s fun c ex s =>
    withRows c s [f.d.toNat] ex fun c s =>
      let r := fun (c : Ctx) (l : Nat) => approx k c.t.ftz (c.reg f.a l)
      fin c (countRes r c ex (s.modGroup c.gid fun g => g.setRow f.d.toNat ex fun l => BitVec.ofNat 32 (r c l).v))

def execFrcp (f : LaneR) (s : State) : Res := fApprox f .rcp s
def execFrsq (f : LaneR) (s : State) : Res := fApprox f .rsq s
def execFex2 (f : LaneR) (s : State) : Res := fApprox f .ex2 s
def execFlg2 (f : LaneR) (s : State) : Res := fApprox f .lg2 s

/-- Two BF16 elements (R206); a fibre counts one NAN if either is invalid. -/
def packed (op : Nat → Nat → Nat → FRes) (a b d : Nat) : FRes :=
  let lo := op (a % 2 ^ 16) (b % 2 ^ 16) (d % 2 ^ 16)
  let hi := op (a / 2 ^ 16) (b / 2 ^ 16) (d / 2 ^ 16)
  { v := lo.v + 2 ^ 16 * hi.v, nan := lo.nan || hi.nan }

def execHadd2 (f : LaneR) (s : State) : Res := fAlu f true false s fun _ a b d => packed (fun x y _ => hAdd x y) a b d
def execHmul2 (f : LaneR) (s : State) : Res := fAlu f true false s fun _ a b d => packed (fun x y _ => hMul x y) a b d
def execHfma2 (f : LaneR) (s : State) : Res := fAlu f true true s fun _ a b d => packed hFma a b d
def execHmax2 (f : LaneR) (s : State) : Res := fAlu f true false s fun _ a b d => packed (fun x y _ => hMax x y) a b d

def execF2bf (f : LaneR) (s : State) : Res := fAlu f false false s fun z a _ _ => f2bf z a
def execBf2f (f : LaneR) (s : State) : Res := fAlu f false false s fun z a _ _ => bf2f z a
def execF2i (f : LaneR) (s : State) : Res :=
  fAlu f false false s fun z a _ _ => f2int z .rne (-2147483648) 2147483647 a
def execF2iz (f : LaneR) (s : State) : Res :=
  fAlu f false false s fun z a _ _ => f2int z .rz (-2147483648) 2147483647 a
def execF2uz (f : LaneR) (s : State) : Res := fAlu f false false s fun z a _ _ => f2int z .rz 0 4294967295 a
/-- I2F and U2F give integers their FP32 value: no result is subnormal. -/
def execI2f (f : LaneR) (s : State) : Res :=
  fAlu f false false s fun _ a _ _ => { v := intToFp (BitVec.ofNat 32 a).toInt }
def execU2f (f : LaneR) (s : State) : Res := fAlu f false false s fun _ a _ _ => { v := intToFp (a : Int) }

/-- BSCALE (R209): `vB` supplies BS and SK. -/
def execBscale (f : LaneR) (s : State) : Res :=
  fAlu f true false s fun z a b _ =>
    let x := ftzIn z (a % 2 ^ 31)
    { v := b / 2 ^ 31 * 2 ^ 31 + b / 2 ^ 20 % 4 * 2 ^ 20 + bscaleWord x.1, flush := x.2 }

def qWord (q : Int) : Nat := (ofI 32 q).toNat

def execBsq (f : LaneR) (s : State) : Res :=
  fAlu f true false s fun z a b _ =>
    let q := quant z a b 0
    { v := qWord q.q, flush := q.flush, sat := q.sat }

/-- BSQE (R210): the residual passes between executing lanes in ascending order. -/
def bsqeLanes (z : Bool) (a b : Nat → Nat) : List Nat → Nat → List (Nat × FRes)
  | [], _ => []
  | l :: ls, r =>
    let q := quant z (a l) (b l) (if bitN (b l) 31 then 0 else r)
    (l, { v := qWord q.q, flush := q.flush, sat := q.sat }) :: bsqeLanes z a b ls q.r

def execBsqe (f : LaneR) (s : State) : Res :=
  let reads := regOf f.a ++ regOf f.b
  let all := fun (c : Ctx) (ex : Word) =>
    bsqeLanes c.t.ftz (fun l => (c.src f.a l).toNat) (fun l => (c.src f.b l).toNat) (lanesOf ex) 0
  let at_ := fun (rs : List (Nat × FRes)) (l : Nat) => ((rs.find? fun q => q.1 == l).map (·.2)).getD { v := 0 }
  let v := fun (c : Ctx) (ex : Word) (l : Nat) => BitVec.ofNat 32 (at_ (all c ex) l).v
  classAx { regs := regOf f.d ++ reads, reads := reads, latches := latchOf f.a ++ latchOf f.b }
    (fun c => c.execMask f.g) (if f.w then [] else [f.d.toNat]) true s
    (fun c ex g => if f.w then g else g.setRow f.d.toNat ex (v c ex)) v
    (fun c ex s => countRes (fun c l => at_ (all c ex) l) c ex s)

def execBsdq (f : LaneR) (s : State) : Res := fAlu f true false s fun _ a b _ => { v := sbElem a b }

end Sys2Proof.Machine
end

