-- ==== Sys2Proof/Machine/CrossLane.lean ====
section
/-! DEFINITION. Cross-lane instructions: shuffles, votes, reductions, scans and the neighbour chain, OPs 14 to 18
(R171 to R178, R205). All lie outside class A. -/

namespace Sys2Proof.Machine

/-! ### Shuffles (R172) -/

/-- Lane `l` reads lane `src l n` if that is active, else 0; a lane whose own B or whose source lane's A has an error traps. -/
def shuffle (f : LaneR) (s : State) (src : Nat → Nat → Nat) : Res :=
  let reads := regOf f.a ++ regOf f.b
  laneOpOf (fun _ _ => []) { regs := regOf f.d ++ reads, reads := reads } f.g s fun c ex s =>
    let from_ := fun (l : Nat) => src l (shAmt (c.reg f.b l))
    let bad := (lanesOf ex).filter fun l =>
      s.badCell c.gid f.b.toNat l || c.active.getLsbD (from_ l) && s.badCell c.gid f.a.toNat (from_ l)
    let ok := ex &&& ~~~(maskOf fun l => bad.contains l)
    withRows c s [f.d.toNat] ok fun c s =>
      finTraps c (cellRecords c bad (s.modGroup c.gid fun g => g.setRow f.d.toNat ok fun l =>
        let m := src l (shAmt (c.reg f.b l))
        if c.active.getLsbD m then c.reg f.a m else 0)) (cellTraps c bad)

def execShflIdx (f : LaneR) (s : State) : Res := shuffle f s fun _ n => n
def execShflXor (f : LaneR) (s : State) : Res := shuffle f s fun l n => Nat.xor l n
def execShflUp (f : LaneR) (s : State) : Res := shuffle f s fun l n => if l < n then l else l - n
def execShflDn (f : LaneR) (s : State) : Res := shuffle f s fun l n => if 31 < l + n then l else l + n

/-! ### Votes (R173) -/

/-- Lanes of `ex` with `pA` = 1. -/
def votes (c : Ctx) (ex : Word) (a : BitVec 6) : Word := maskOf fun l => ex.getLsbD l && c.g.p a.toNat l

def execBallot (f : LaneR) (s : State) : Res :=
  laneWrite { regs := regOf f.d } f.g [f.d.toNat] s fun c ex g => g.setRow f.d.toNat ex fun _ => votes c ex f.a
def execAnyP (f : LaneR) (s : State) : Res :=
  laneWrite {} f.g [] s fun c ex g => g.setP f.d.toNat ex fun _ => votes c ex f.a != 0
def execAllP (f : LaneR) (s : State) : Res :=
  laneWrite {} f.g [] s fun c ex g => g.setP f.d.toNat ex fun _ => votes c ex f.a == ex
def execElect (f : LaneR) (s : State) : Res :=
  laneWrite {} f.g [] s fun _ ex g => g.setP f.d.toNat ex fun l => l == lowestLane ex

/-! ### Reductions and scans (R174, R205) -/

/-- The lanes of E that read a cell with an error: lane `l` reads A of the lanes of E that `keep l` admits. -/
def reduceErrs (f : LaneR) (keep : Nat → Nat → Bool) (c : Ctx) (cell : Nat → Nat → Bool) : List Nat :=
  let ls := lanesOf (c.execMask f.g)
  ls.filter fun l => ls.any fun m => keep l m && cell f.a.toNat m

/-- Each lane of E writes `r E l`, from the lanes of E that `keep l` admits. -/
def reduceI (f : LaneR) (keep : Nat → Nat → Bool) (s : State) (r : Ctx → Word → Nat → Word) : Res :=
  laneOpOf (reduceErrs f keep) { regs := regOf f.d ++ regOf f.a, reads := regOf f.a } f.g s fun c ex s =>
    withRows c s [f.d.toNat] ex fun c s => fin c (s.modGroup c.gid fun g => g.setRow f.d.toNat ex (r c ex))

def sumOver (c : Ctx) (a : BitVec 6) (ls : List Nat) : Word := ls.foldl (fun x m => x + c.reg a m) 0

def execLredIadd (f : LaneR) (s : State) : Res := reduceI f (fun _ _ => true) s fun c ex _ => sumOver c f.a (lanesOf ex)
def execLredImax (f : LaneR) (s : State) : Res :=
  reduceI f (fun _ _ => true) s fun c ex _ => (lanesOf ex).foldl (fun x m => if x.slt (c.reg f.a m) then c.reg f.a m else x) (BitVec.intMin 32)
def execLscanIaddEx (f : LaneR) (s : State) : Res :=
  reduceI f (fun l m => decide (m < l)) s fun c ex l => sumOver c f.a ((lanesOf ex).filter fun m => decide (m < l))
def execLscanIaddIn (f : LaneR) (s : State) : Res :=
  reduceI f (fun l m => decide (m ≤ l)) s fun c ex l => sumOver c f.a ((lanesOf ex).filter fun m => decide (m ≤ l))

/-- One level of the tree: neighbours combined, counts carried along. -/
def treeLevel (node : Nat → Nat → FRes) : List FRes → List FRes
  | a :: b :: rest =>
    let r := node a.v b.v
    { r with flush := a.flush || b.flush || r.flush, nan := a.nan || b.nan || r.nan } :: treeLevel node rest
  | l => l

/-- R205: the fixed tree over 32 leaves. -/
def tree (node : Nat → Nat → FRes) (leaves : List FRes) : FRes :=
  let l5 := treeLevel node (treeLevel node (treeLevel node (treeLevel node (treeLevel node leaves))))
  (l5.head?).getD { v := 0 }

/-- The FADD or FMAX tree of the lanes that `keep` admits (R205). -/
def floatTree (add : Bool) (c : Ctx) (a : BitVec 6) (ex : Word) (keep : Nat → Bool) : FRes :=
  let node := fun (x y : Nat) => if add then fAdd c.t.ftz .rne x y else minMax 23 true false x y false
  let leaf := fun (m : Nat) =>
    if ex.getLsbD m && keep m then
      let x := ftzIn c.t.ftz (c.reg a m).toNat
      ({ v := x.1, flush := x.2 } : FRes)
    else { v := if add then fpSign 23 true else fpInf 23 true }
  tree node ((List.range 32).map leaf)

/-- The floating reductions: lane `l` uses the lanes that `keep l` admits. -/
def reduceF (f : LaneR) (add : Bool) (s : State) (keep : Nat → Nat → Bool) : Res :=
  laneOpOf (reduceErrs f keep) { regs := regOf f.d ++ regOf f.a, reads := regOf f.a } f.g s fun c ex s =>
    withRows c s [f.d.toNat] ex fun c s =>
      let r := fun (c : Ctx) (l : Nat) => floatTree add c f.a ex (keep l)
      fin c (countRes r c ex (s.modGroup c.gid fun g => g.setRow f.d.toNat ex fun l => BitVec.ofNat 32 (r c l).v))

def execLredFadd (f : LaneR) (s : State) : Res := reduceF f true s fun _ _ => true
def execLredFmax (f : LaneR) (s : State) : Res := reduceF f false s fun _ _ => true
def execLscanFaddEx (f : LaneR) (s : State) : Res := reduceF f true s fun l m => decide (m < l)
def execLscanFaddIn (f : LaneR) (s : State) : Res := reduceF f true s fun l m => decide (m ≤ l)

/-! ### The neighbour chain (R175 to R177) -/

/-- Fibre positions of a team: 32 per group slot. -/
def Team.positions (t : Team) : Nat := 32 * (t.roles.map (·.groups)).sum

/-- The publication of position `f` of team number `n` of the launch and child grid of `t`: of a live team, or of one of a
LINKED grid that has ended (R177). -/
def nbAt (s : State) (t : Team) (n f : Nat) : Nb :=
  match s.teams.find? fun x => x.seq == t.seq && x.child == t.child && x.teamNo == n && (x.tid == t.tid || t.linked) with
  | some x => NMap.get Nb.none f x.nb
  | none =>
    match s.launches.find? fun L => L.seq == t.seq with
    | some L => NMap.get Nb.none (n * 1024 + f) L.ended
    | none => Nb.none

/-- The position beside fibre `f` (R175), as team number and fibre number; none beyond a chain end. -/
def besides (t : Team) (right : Bool) (f : Nat) : Option (Nat × Nat) :=
  let last := t.positions - 1
  if right then
    if f < last then some (t.teamNo, f + 1)
    else if t.linked then some (t.teamNo + 1, 0) else none
  else
    if 0 < f then some (t.teamNo, f - 1)
    else if t.linked && decide (0 < t.teamNo) then some (t.teamNo - 1, last) else none

/-- A neighbour that is present: its position holds, or held, a fibre (R175, R177). -/
def nbOf (s : State) (t : Team) (right : Bool) (f : Nat) : Option Nb :=
  match besides t right f with
  | none => none
  | some (n, p) =>
    let x := nbAt s t n p
    if x.live || x.ended then some x else none

def setNb (s : State) (tid f : Nat) (g : Nb → Nb) : State :=
  s.modTeam tid fun t => { t with nb := NMap.set Nb.none f (g (NMap.get Nb.none f t.nb)) t.nb }

/-- The fibres that read a cell with an error: A where they publish, B where the executing ones read it (R176, R416). -/
def neighbourErrs (f : LaneR) (useB : Bool) (c : Ctx) (cell : Nat → Nat → Bool) : List Nat :=
  (lanesOf c.active).filter fun l =>
    (c.u.wait != .neighbour && cell f.a.toNat l) || (useB && (c.execMask f.g).getLsbD l && cell f.b.toNat l)

/-- R176. `reads` holds B for the forms that name it. -/
def neighbour (f : LaneR) (right useB : Bool) (s : State) : Res :=
  let reads := regOf f.a ++ (if useB then regOf f.b else [])
  laneOpOf (neighbourErrs f useB) { regs := regOf f.d ++ reads, reads := reads } f.g s fun c ex s =>
    let lanes := lanesOf c.active
    let pos := fun (l : Nat) => 32 * c.g.gslot + l
    let cnt := fun (l : Nat) => (NMap.get Nb.none (pos l) c.t.nb).c
    let behind := fun (l : Nat) (r : Bool) =>
      match nbOf s c.t r (pos l) with
      | none => false
      | some x => !x.ended && decide (x.c < cnt l)
    -- in the second wait the publication is made, and the first wait is over
    if c.u.wait != .neighbour && lanes.any (fun l => behind l false || behind l true) then stall c s
    else
      withRows c s [f.d.toNat] ex fun c s =>
        let s1 := lanes.foldl (fun s l => setNb s c.t.tid (pos l) fun x => { x with p := c.reg f.a l, n := cnt l + 1 }) s
        let waits := fun (l : Nat) =>
          match nbOf s1 c.t right (pos l) with
          | none => false
          | some x => !x.ended && decide (x.n < cnt l + 1)
        if lanes.any waits then parkAs c s1 .neighbour
        else
          let val := fun (l : Nat) =>
            match nbOf s1 c.t right (pos l) with
            | some x => if x.n = cnt l + 1 then x.p else if useB then c.reg f.b l else 0
            | none => if useB then c.reg f.b l else 0
          let s2 := lanes.foldl (fun s l => setNb s c.t.tid (pos l) fun x => { x with c := cnt l + 1 }) s1
          fin c (s2.modGroup c.gid fun g => g.setRow f.d.toNat ex val)

def execNbl (f : LaneR) (s : State) : Res := neighbour f false false s
def execNbr (f : LaneR) (s : State) : Res := neighbour f true false s
def execNblb (f : LaneR) (s : State) : Res := neighbour f false true s
def execNbrb (f : LaneR) (s : State) : Res := neighbour f true true s

end Sys2Proof.Machine
end

