-- ==== Sys2Proof/Machine/Packet.lean ====
section
/-! DEFINITION. The launch packet: its fields and the checks LAUNCH makes (R58, R96 to R101). -/

namespace Sys2Proof.Machine

/-! ### Fields (R96 to R100) -/

def pEntry (p : List Byte) : Nat := fieldN p 0 8
def pX (p : List Byte) : Nat := fieldN p 8 4
def pY (p : List Byte) : Nat := fieldN p 0x0C 2
def pZ (p : List Byte) : Nat := fieldN p 0x0E 2
def pDeadline (p : List Byte) : Nat := fieldN p 0x10 8
def pTmpl (p : List Byte) : Nat := fieldN p 0x18 8
def pRole (p : List Byte) (r : Nat) : Nat := fieldN p (0x20 + 3 * r) 3
def pRes (p : List Byte) : Nat := fieldN p 0x2C 4
def pStats (p : List Byte) : Nat := fieldN p 0x30 8
def pModuli (p : List Byte) : Nat := fieldN p 0x38 8

def pItems (p : List Byte) : Nat := pX p * pY p * pZ p
def pT (p : List Byte) : Bool := bitN (pTmpl p) 0
def pCow (p : List Byte) : Bool := bitN (pTmpl p) 1
def pTBase (p : List Byte) : Nat := bitsN (pTmpl p) 54 19 * 2 ^ 19
def pTSize (p : List Byte) : Nat := bitsN (pTmpl p) 18 2 * 2 ^ 19
def pCen (p : List Byte) : Bool := bitN (pRes p) 31
def pLinked (p : List Byte) : Bool := bitN (pRes p) 30
def pSuper (p : List Byte) : Bool := bitN (pRes p) 29
def pFtz (p : List Byte) : Bool := bitN (pRes p) 28
def pDropLate (p : List Byte) : Bool := bitN (pRes p) 27
def pCb (p : List Byte) : Nat := bitsN (pRes p) 26 19
def pAcc (p : List Byte) : Nat := bitsN (pRes p) 18 15
def pColb (p : List Byte) : Nat := bitsN (pRes p) 14 9
def pTbuf (p : List Byte) : Nat := bitsN (pRes p) 8 4
def pWays (p : List Byte) : Nat := bitsN (pRes p) 3 0
def pArea (p : List Byte) : Nat := bitsN (pStats p) 54 12 * 2 ^ 12
def pCompl (p : List Byte) : Nat := bitsN (pStats p) 11 0

def roleGroups (f : Nat) : Nat := bitsN f 5 0
def roleWin (f : Nat) : Nat := 4 * bitsN f 9 6
def roleReserve (f : Nat) : Nat := bitsN f 20 10

/-- The roles present, from role 0 upward (R98). -/
def pRoles (p : List Byte) : List Role :=
  ((List.range 4).filter fun r => roleGroups (pRole p r) != 0).map fun r =>
    ⟨roleGroups (pRole p r), roleWin (pRole p r), roleReserve (pRole p r), roleReserve (pRole p r)⟩

def rolesGroups (rs : List Role) : Nat := (rs.map (·.groups)).sum
/-- Fibres of a team (R58). -/
def teamFibres (rs : List Role) : Nat := 32 * rolesGroups rs
def ceilDiv (a b : Nat) : Nat := (a + b - 1) / b
/-- Teams of the grid (R58). -/
def pTeams (p : List Byte) : Nat := ceilDiv (pItems p) (teamFibres (pRoles p))

/-! ### Validity (R101) -/

def roleOk (t : Bool) (f : Nat) : Bool :=
  bitsN f 23 21 == 0 &&
  (if roleGroups f = 0 then roleWin f == 0 && roleReserve f == 0
   else decide (roleGroups f ≤ 32) && decide (roleWin f ≠ 0) && decide (roleReserve f ≤ roleGroups f * roleWin f) && (t || roleReserve f == 0))

-- DESIGN CHOICE: notes/assumptions/119
def packetOk (feat : DWord) (p : List Byte) : Bool :=
  let fs := (List.range 4).map (pRole p)
  bitsN (pEntry p) 63 55 == 0 && bitsN (pEntry p) 1 0 == 0 &&
  decide (1 ≤ pX p) && decide (1 ≤ pY p) && decide (1 ≤ pZ p) && decide (pItems p ≤ 2 ^ 32 - 1) &&
  bitsN (pTmpl p) 63 55 == 0 && (if pT p then pTSize p != 0 else pTmpl p == 0) &&
  fs.all (roleOk (pT p)) && roleGroups (pRole p 0) != 0 &&
  ((List.range 3).all fun r => roleGroups (pRole p (r + 1)) == 0 || roleGroups (pRole p r) != 0) &&
  decide (rolesGroups (pRoles p) ≤ 32) &&
  decide (pColb p ≤ 32) && decide (pTbuf p ≤ 16) && decide (pWays p ≤ 14) &&
  bitsN (pStats p) 63 55 == 0 && bitsN (pModuli p) 63 55 == 0 && bitsN (pModuli p) 5 0 == 0 &&
  !(pLinked p && decide (16 < pTeams p)) && !(pLinked p && pSuper p) &&
  (!pT p || feat.getLsbD 0) && (pCb p == 0 || feat.getLsbD 1)

end Sys2Proof.Machine
end

