-- ==== Sys2Proof/Machine/Local.lean ====
section
/-! DEFINITION. Local memory instructions: lane OPs 30 to 35, and PIN, STASH and COLINFO, uniform OPs 2C to 2E
(R272 to R276, R280 to R285; their words are R281's). -/

namespace Sys2Proof.Machine

/-! ### LDL, STL, LDLV, STLV (R282) -/

/-- The local address of a lane (R281, R282): `vA` + Sext(O6) × size. -/
def llAddr (c : Ctx) (f : LaneR) (size l : Nat) : Nat := (c.reg f.a l + ofI 32 (f.b.toInt * size)).toNat

/-- The words a load of `size` bytes writes. -/
def wordsOf (bs : List Byte) : List Word :=
  if bs.length ≤ 4 then [BitVec.ofNat 32 (leNat bs)]
  else (List.range (bs.length / 4)).map fun j => BitVec.ofNat 32 (fieldN bs (4 * j) 4)

/-- The low `size` bytes of the registers from `d` upward. -/
def bytesOf (c : Ctx) (d : BitVec 6) (size l : Nat) : List Byte :=
  (List.range size).map fun i => (c.g.lane (d.toNat + i / 4) l).extractLsb' (8 * (i % 4)) 8

def regsOfSize (size : Nat) : Nat := (size + 3) / 4

def localLoad (f : LaneR) (size : Nat) (s : State) : Res :=
  let n := regsOfSize size
  laneOp { regs := groupOf f.d n ++ regOf f.a, reads := regOf f.a } f.g s fun c ex s =>
    if (lanesOf ex).any fun l => localWaits s c l (llAddr c f size l) size size then stall c s
    else withRows c s (groupOf f.d n) ex fun c s =>
      finLanes c f.d.toNat n (laneLoop (fun s l =>
        match localRead s c l (llAddr c f size l) size size with
        | (s, .error it) => (s, .error it)
        | (s, .ok (_, bs)) => (s, .ok (wordsOf bs))) (lanesOf ex) s)

def localStores (f : LaneR) (size : Nat) (s : State) : Res :=
  let n := regsOfSize size
  let reads := groupOf f.d n ++ regOf f.a
  laneOp { regs := reads, reads := reads } f.g s fun c ex s =>
    let toPeer := (lanesOf ex).filter fun l =>
      match localPlace s c.t (llAddr c f size l) size size with
      | .ok p => p.core != c.core
      | .error _ => false
    if (lanesOf ex).any fun l => stashAway s c l (llAddr c f size l) size size then stall c s
    else withRoom c s toPeer.length fun c s =>
      finLanes c f.d.toNat 0 (laneLoop (fun s l => localStore s c l (llAddr c f size l) (bytesOf c f.d size l)) (lanesOf ex) s)

def execLdl (f : LaneR) (sz : BitVec 2) (s : State) : Res := localLoad f (2 ^ sz.toNat) s
def execStl (f : LaneR) (sz : BitVec 2) (s : State) : Res := localStores f (2 ^ sz.toNat) s
def execLdlv (f : LaneR) (sz : BitVec 2) (s : State) : Res := localLoad f (8 * 2 ^ sz.toNat) s
def execStlv (f : LaneR) (sz : BitVec 2) (s : State) : Res := localStores f (8 * 2 ^ sz.toNat) s

/-! ### ATL, CASL (R283) -/

/-- Lanes in ascending order read `n` bytes, store `new old` where it is some, and return the old words; `compares` when the old
destination is read too. -/
def localAtomic (f : LaneR) (n : Nat) (compares : Bool) (s : State) (new : Ctx → Nat → Nat → Option Nat) : Res :=
  let k := regsOfSize n
  let reads := regOf f.a ++ groupOf f.b k
  laneOp { regs := reads ++ groupOf f.d k, reads := if compares then reads ++ groupOf f.d k else reads } f.g s fun c ex s =>
    if (lanesOf ex).any fun l => localWaits s c l (c.reg f.a l).toNat n n then stall c s
    else withRows c s (groupOf f.d k) ex fun c s =>
      finLanes c f.d.toNat k (laneLoop (fun s l =>
        match localRead s c l (c.reg f.a l).toNat n n with
        | (s, .error it) => (s, .error it)
        | (s, .ok (p, bs)) =>
          match new c l (leNat bs) with
          | none => (s, .ok (wordsOf bs))
          | some v =>
            if stashFrozen s c l p n then (s, .error (dataTrap c l cTMPLWRITE (c.reg f.a l).toNat))
            else (localWrite s p (natLe n v), .ok (wordsOf bs))) (lanesOf ex) s)

/-- The larger or smaller word, compared signed. -/
def pickS (big : Bool) (x y : Nat) : Nat :=
  if (BitVec.ofNat 32 x).slt (BitVec.ofNat 32 y) == big then y else x

def execAtlAdd (f : LaneR) (s : State) : Res := localAtomic f 4 false s fun c l old => some (old + (c.reg f.b l).toNat)
def execAtlMax (f : LaneR) (s : State) : Res := localAtomic f 4 false s fun c l old => some (pickS true old (c.reg f.b l).toNat)
def execAtlMin (f : LaneR) (s : State) : Res := localAtomic f 4 false s fun c l old => some (pickS false old (c.reg f.b l).toNat)
def execAtlExch (f : LaneR) (s : State) : Res := localAtomic f 4 false s fun c l _ => some (c.reg f.b l).toNat
def execCasl (f : LaneR) (z : BitVec 1) (s : State) : Res :=
  if z = 0 then
    localAtomic f 4 true s fun c l old => if old = (c.reg f.d l).toNat then some (c.reg f.b l).toNat else none
  else
    localAtomic f 8 true s fun c l old => if old = (c.pairReg f.d l).toNat then some (c.pairReg f.b l).toNat else none

/-! ### PIN, UNPIN (R272, R273) -/

/-- Pinnable ways of a core that no team holds, ascending (R270). -/
def freeWays (s : State) (core : Nat) : List Nat := (List.range 14).filter fun w => (s.partOwner core 0 w).isNone

/-- Those that launch `seq` may take (R115). -/
def freeWaysFor (s : State) (core seq : Nat) : List Nat :=
  (freeWays s core).filter fun w => !(s.heldFrom core seq).any fun h => h.ways.contains w

/-- R271: would `n` more pinned ways leave too few cache ways in some set? -/
def waysTooFew (s : State) (core n : Nat) : Bool :=
  (List.range 384).any fun set_ => decide (16 - (pinnedWays s core + n) < copiesInSet s core set_ + 1)

/-- R273: the lines in newly pinned ways go, and where a set then has too few cache ways for its lines, those that came last stay. -/
def sweepWays (s : State) (core : Nat) (ws : List Nat) (n : Nat) : State :=
  s.modCore core fun x =>
    let rest := x.l1.filter fun z => !ws.contains z.way
    { x with l1 := (rest.map fun z => z.line % 384).eraseDups.foldl (fun l set_ =>
        capped (fun z => z.line % 384 == set_) (16 - (pinnedWays s core + n) - copiesInSet s core set_) l) rest }

def execPin (f : UniR) (s : State) : Res :=
  uniform {} f.g s fun c s =>
    let n := ((c.sReg f.a).extractLsb' 0 4).toNat
    let h := c.t.ways.length
    let free := freeWaysFor s c.core c.t.seq
    if n = 0 then finS c s f.d 0
    else if 14 < h + n then finS c s f.d (1 <<< 8)
    else if free.length < n then finS c s f.d (2 <<< 8)
    else if waysTooFew s c.core n then finS c s f.d (3 <<< 8)
    else
      let s1 := (free.take n).foldl (fun s w => allotPart s c.core 0 w) (sweepWays s c.core (free.take n) n)
      finS c (s1.modTeam c.t.tid fun t => { t with ways := t.ways ++ free.take n }) f.d (BitVec.ofNat 64 n)

def mappedWay (t : Team) (i : Nat) : Bool := t.stash.any fun m => decide (m.ord ≤ i) && decide (i < m.ord + m.ways)

def execUnpin (f : UniR) (s : State) : Res :=
  uniform {} f.g s fun c s =>
    let n := ((c.sReg f.a).extractLsb' 0 4).toNat
    let h := c.t.ways.length
    if h < n then trapAll c s cSTASH
    else if (List.range n).any fun i => mappedWay c.t (h - n + i) then trapAll c s cSTASH
    else fin c (s.modTeam c.t.tid fun t => { t with ways := t.ways.take (h - n) })

/-! ### STASH (R276) -/

/-- First ordinal and count of a ways operand. -/
def waysOperand (x : DWord) : Nat × Nat := ((x.extractLsb' 0 4).toNat, (x.extractLsb' 4 4).toNat)

/-- Do all pages grant R at the permission lookaside? -/
def pagesReadable (s : State) (core asid : Nat) : List Nat → State × Bool
  | [] => (s, true)
  | a :: rest =>
    match permission s core asid a with
    | (s, .ok e) => if e.r then pagesReadable s core asid rest else (s, false)
    | (s, .error _) => (s, false)

/-- STASH map (R276). Its operands are checked and its status given here. -/
def execStash (f : UniR) (s : State) : Res :=
  uniform {} f.g s fun c s =>
    match waysOperand (c.sReg f.b) with
    | (ord, n) =>
      let base := (c.sReg f.a).toNat
      let len := Config.wayBytes * n
      if n = 0 || c.t.ways.length < ord + n then finS c s f.d 1
      else if (List.range n).any fun i => mappedWay c.t (ord + i) then finS c s f.d 1
      else if base % 128 ≠ 0 || Config.maxVa < base + len then finS c s f.d 2
      else
        match pagesReadable s c.core c.t.asid.toNat (pagesOf base len) with
        | (s, false) => finS c s f.d 3
        | (s, true) =>
          if c.t.stash.any fun m => overlap m.base (Config.wayBytes * m.ways) base len then finS c s f.d 4
          else
            let maps := (List.range n).map fun i => (⟨ord + i, 1, base + i * Config.wayBytes⟩ : StashMap)
            -- lines never filled read zero when the mapping ends
            let s1 := (List.range n).foldl (fun (s : State) i =>
              clearLocal s (localKey c.core (Config.wayBytes * c.t.ways.getD (ord + i) 0)) Config.wayBytes) s
            finS c (s1.modTeam c.t.tid fun t =>
              { t with stash := t.stash ++ maps, stashLines := NMap.clear (ord * 384) (n * 384) t.stashLines }) f.d 0

/-- A fibre's records stand in the order its stores retired; those of TILE and TDRAIN in the order they arrive (R300). -/
def insertDefer (d : Defer) : List Defer → List Defer
  | [] => [d]
  | x :: xs => if d.kind < 4 && x.kind < 4 && x.lane == d.lane && decide (d.order < x.order) then d :: x :: xs else x :: insertDefer d xs

/-- A failure of a fibre's store, as its pending deferred record (R299, R300). -/
def addDefer (s : State) (gid lane va pc asid tslot gslot cause size kind order issue : Nat) : State :=
  s.modGroup gid fun g =>
    { g with defer := insertDefer ⟨va, pc, asid, tslot, gslot, lane, cause, size, kind, 0, s.meridian, order, issue⟩ g.defer }

/-- Runs of dirty bytes of a line: offset and length. -/
def dirtyRuns (m : BitVec 128) : List (Nat × Nat) :=
  (List.range 128).foldr (fun i acc =>
    if m.getLsbD i then
      match acc with
      | (a, n) :: rest => if a = i + 1 then (i, n + 1) :: rest else (i, 1) :: acc
      | [] => [(i, 1)]
    else acc) []

/-- One dirty stash line goes to memory as a store of fibre `lane` (R276). -/
def writeBackLine (c : Ctx) (lane : Nat) (s : State) (place : LPlace) (k va : Nat) (x : StashLine) : State :=
  let bs := s.localN place.core place.phys 128
  let s := setStash s c.t.tid k { x with dirty := 0 }
  -- bytes that no ECC can correct go nowhere, and a record names them (R415, R416)
  if localBad s place then localError s place c.t.asid.toNat else
  let failed := fun (s : State) (cause : Nat) =>
    { addDefer s c.gid lane va c.u.pc c.t.asid.toNat c.t.tslot c.g.gslot cause 128 3 s.nextStore c.u.issue with nextStore := s.nextStore + 1 }
  -- locks are tested on the dirty bytes alone (R357)
  match checkAccess { s with sluice := [] } c lane .store va 128 with
  | (s1, .error cause) => failed { s1 with sluice := s.sluice } cause
  | (s1, .ok e) =>
    let s := { s1 with sluice := s.sluice }
    if (templateWrite s c.t c.gid lane va 128 .store).2 then
      (dirtyRuns x.dirty).foldl (fun s r =>
        match cowStore s c (va + r.1) (slice bs r.1 r.2) with
        | (s, some cause) => failed s cause
        | (s, none) => s) s
    else retire s c lane va bs 3 (c.g.floor.getD lane 0) e ((List.range 128).filter fun i => !x.dirty.getLsbD i)

/-- The mapped ways of a ways operand with their dirty lines: place, key, address, line. -/
def dirtyLines (t : Team) (ord n : Nat) : List (LPlace × Nat × Nat × StashLine) :=
  (t.stash.filter fun m => decide (ord ≤ m.ord) && decide (m.ord < ord + n)).foldl (fun acc m =>
    acc ++ (t.stashLines.filter fun q => decide (m.ord * 384 ≤ q.1) && decide (q.1 < (m.ord + 1) * 384) && q.2.dirty != 0).map fun q =>
      let line := q.1 - m.ord * 384
      (⟨t.core, 0, t.ways.getD m.ord 0, line * 128⟩, q.1, m.base + line * 128, q.2)) []

/-- Write lines back while the late-fault store buffer has room. -/
def writeBackAll (c : Ctx) (lane : Nat) : List (LPlace × Nat × Nat × StashLine) → State → State × Bool
  | [], s => (s, true)
  | (p, k, va, x) :: rest, s =>
    if lateUsed s c.core c.u.issue < Config.lateEntries then writeBackAll c lane rest (writeBackLine c lane s p k va x)
    else (s, false)

-- DEDUCED: notes/assumptions/99
/-- STASH.wb and STASH.unmap: write back, wait for the completion times, then `done`. -/
def stashBack (f : UniR) (s : State) (done : Nat → Nat → Team → Team) : Res :=
  uniform {} f.g s fun c s =>
    match waysOperand (c.sReg f.a) with
    | (ord, n) =>
      let lane := lowestLane c.active
      let locked := (dirtyLines c.t ord n).find? fun q => (dirtyRuns q.2.2.2.dirty).any fun r => sluiceStops s c.t (q.2.2.1 + r.1) r.2 .store
      let bad := (dirtyLines c.t ord n).find? fun q => localBad s q.1
      if n = 0 || c.t.ways.length < ord + n then trapAll c s cSTASH
      else if bad.isSome then
        .next (trapWith false c (bad.elim s fun q => localError s q.1 c.t.asid.toNat) [⟨lane, cLUNCORR, (bad.elim 0 (·.2.2.1)), c.u.pc, none, 0⟩] id)
      else if locked.isSome then
        .next (trapWith false c s [⟨lane, cLOCKED, (locked.elim 0 (·.2.2.1)), c.u.pc, none, 0⟩] id)
      else
        match writeBackAll c lane (dirtyLines c.t ord n) s with
        | (s, false) => stallPoint (c.refresh s) s stall
        | (s, true) =>
          if s.stores.any fun st => st.gid == c.gid && st.lane == lane && st.kind == 3 then begun (c.refresh s) s
          else fin (c.refresh s) (s.modTeam c.t.tid (done ord n))

def execStashWb (f : UniR) (s : State) : Res := stashBack f s fun _ _ t => t
def execStashUnmap (f : UniR) (s : State) : Res :=
  stashBack f s fun ord n t =>
    { t with stash := t.stash.filter fun m => !(decide (ord ≤ m.ord) && decide (m.ord < ord + n))
             stashLines := NMap.clear (ord * 384) (n * 384) t.stashLines }

def execStashDiscard (f : UniR) (s : State) : Res :=
  uniform {} f.g s fun c s =>
    match waysOperand (c.sReg f.a) with
    | (ord, n) =>
      if n = 0 || c.t.ways.length < ord + n then trapAll c s cSTASH
      else fin c (s.modTeam c.t.tid fun t => { t with stashLines := NMap.clear (ord * 384) (n * 384) t.stashLines })

/-! ### COLINFO (R280) -/

/-- Values of `w` bits packed from bit 0 upward. -/
def packed64 (w : Nat) (xs : List Nat) : Nat := xs.foldr (fun x acc => x % 2 ^ w + 2 ^ w * acc) 0

def colinfo (s : State) (t : Team) (sel : Nat) : Nat :=
  if sel = 0 then
    t.segs.length * 2 ^ 17 + t.ways.length * 2 ^ 13 + t.cols.length * 2 ^ 6 + s.colBanks t.core
  else if sel = 1 then packed64 4 (t.ways.take 14)
  else if sel = 2 then packed64 4 (t.segs.take 16)
  else if sel < 7 then packed64 8 ((t.cols.drop (8 * (sel - 3))).take 8)
  else if sel = 7 then (List.range 14).foldl (fun a i => if mappedWay t i then a + 2 ^ i else a) 0
  else 0

def execColinfo (f : UniR) (s : State) : Res :=
  uniform { cc := true } f.g s fun c s =>
    finS c s f.d (BitVec.ofNat 64 (colinfo s c.t ((c.sReg f.a).extractLsb' 0 4).toNat))

end Sys2Proof.Machine
end

