-- ==== Sys2Proof/Machine/Global.lean ====
section
/-! DEFINITION. Global memory instructions: LD, ST, LDA, STR, ATOM, ATOMB, CAS (lane OPs 38 to 3E), FENCE, cache management,
the lookaside and TLBI (uniform OPs 30 to 33) (R309 to R315, R337 to R343). -/

namespace Sys2Proof.Machine

/-- The global address of a lane: `sS` + Zext(`vA`) (R310). -/
def lgAddr (c : Ctx) (f : LaneR) (l : Nat) : Nat := (c.sReg f.b + (c.reg f.a l).zeroExtend 64).toNat

/-! ### Loads (R310, R338) -/

/-- One lane's load. -/
def loadLane (c : Ctx) (f : LaneR) (size : Nat) (acq : Bool) (s : State) (l : Nat) : State × Except TrapItem (List Word) :=
  match fibreLoad s c l acq (lgAddr c f l) size with
  | (s, .error k) => (s, .error (dataTrap c l k (lgAddr c f l)))
  | (s, .ok bs) => (s, .ok (wordsOf bs))

-- DESIGN CHOICE: notes/assumptions/107
/-- The load has not performed yet: its registers hold what it would return now, and it may still return a later value (R328). -/
def addLate (c : Ctx) (f : LaneR) (size : Nat) (s : State) (lanes : List Nat) : State :=
  { s.modGroup c.gid fun g => { g with late := g.late ++ [⟨s.lateSeq, lanes.map fun l => (l, lgAddr c f l), f.d.toNat, size⟩] } with
    lateSeq := s.lateSeq + 1 }

/-- LD and LDA; `acq` for an acquire of scope D or P, and `may` where the load may perform after later instructions. -/
def globalLoad (f : LaneR) (size : Nat) (acq may : Bool) (s : State) : Res :=
  let n := regsOfSize size
  laneOp { regs := groupOf f.d n ++ regOf f.a, reads := regOf f.a } f.g s fun c ex s =>
    if (lanesOf ex).any fun l => podWaits s c l .load (lgAddr c f l) size || lateClash s c l (lgAddr c f l) size ||
        (acq && acquireWaits s c.gid l c.t.asid.toNat (lgAddr c f l) size) then stall c s
    else
      withRows c s (groupOf f.d n) ex fun c s =>
        match laneLoop (loadLane c f size acq) (lanesOf ex) s with
        | (s, items, outs) =>
          finLanes c f.d.toNat n (if s.issuesLate && may && items.isEmpty then addLate c f size s (lanesOf ex) else s, items, outs)

def execLd (f : LaneR) (sz : BitVec 2) (s : State) : Res := globalLoad f (2 ^ sz.toNat) false true s

/-- Width of LDA and STR by their F field (R337). -/
def scopedSize (fo : BitVec 2) : Nat := if fo = 3 then 8 else 4

def execLda (f : LaneR) (fo : BitVec 2) (s : State) : Res := globalLoad f (scopedSize fo) (fo != 0) false s

/-! ### Stores (R298, R310, R329, R338) -/

/-- A store of a lane, after its address: to the team's private copy, or retired (R78, R298). -/
def storeLane (c : Ctx) (kind : Nat) (floor : Nat → Nat) (s : State) (l va : Nat) (bs : List Byte) : State × Except TrapItem (List Word) :=
  match checkAccess s c l .store va bs.length with
  | (s, .error k) => (s, .error (dataTrap c l k va))
  | (s, .ok e) =>
    if (templateWrite s c.t c.gid l va bs.length .store).2 then
      match cowStore s c va bs with
      | (s, some k) => (s, .error (dataTrap c l k va))
      | (s, none) => (s, .ok [])
    else (retire s c l va bs kind (floor l) e, .ok [])

/-- Does a lane's store take an entry of the late-fault store buffer? -/
def takesEntry (c : Ctx) (s : State) (l va n : Nat) : Bool :=
  match checkAccess s c l .store va n with
  | (_, .error _) => false
  | (s, .ok _) => !(templateWrite s c.t c.gid l va n .store).2

def globalStore (f : LaneR) (size kind : Nat) (ready : Ctx → Word → State → Bool) (floor : Ctx → Nat → Nat) (s : State) : Res :=
  let reads := groupOf f.d (regsOfSize size) ++ regOf f.a
  laneOp { regs := reads, reads := reads } f.g s fun c ex s =>
    if (lanesOf ex).any fun l => lateClash s c l (lgAddr c f l) size then stall c s
    else if ready c ex s then
      let need := (lanesOf ex).filter fun l => takesEntry c s l (lgAddr c f l) size
      withRoom c s need.length fun c s =>
        finLanes c f.d.toNat 0
          (laneLoop (fun s l => storeLane c kind (floor c) s l (lgAddr c f l) (bytesOf c f.d size l)) (lanesOf ex) s)
    else stall c s

/-- The floor a fibre's plain store carries (R343). -/
def plainFloor (c : Ctx) (l : Nat) : Nat := c.g.floor.getD l 0

def execSt (f : LaneR) (sz : BitVec 2) (s : State) : Res :=
  globalStore f (2 ^ sz.toNat) 0 (fun _ _ _ => true) plainFloor s

/-- Is the store's location of scope P (R318)? -/
def Store.pod (st : Store) : Bool := st.remote || st.replica

/-- Stores of the lanes `m` that a release or fence of scope D (or P, with `pod`) waits for (R329, R342). -/
def pendingStores (s : State) (gid : Nat) (m : Word) (pod : Bool) : Bool :=
  lateOf s gid m || s.stores.any fun st => st.agent == 0 && st.gid == gid && m.getLsbD st.lane && (pod || !st.pod)

/-- R338: scope T waits for nothing that a retired store of the core lacks. -/
def execStr (f : LaneR) (fo : BitVec 2) (s : State) : Res :=
  globalStore f (scopedSize fo) 1 (fun c ex s => if fo = 0 then !lateOf s c.gid ex else !pendingStores s c.gid ex (fo = 2))
    (fun c l => if fo = 0 then plainFloor c l else max (plainFloor c l) (c.g.times.getD l 0)) s

/-! ### Atomics and CAS (R332, R339 to R341) -/

/-- An atomic of a REPLICA page is sequenced and sent as a store is; its time is returned when the last replica has applied it. -/
def sendAtomic (c : Ctx) (s : State) (l va : Nat) (bs : List Byte) (e : Tlb) : State :=
  let s1 := retire s c l va bs notStore 0 e
  { s1 with stores := s1.stores.map fun st => if st.id == s.nextStore then { st with stage := .sequenced s.meridian, seen := false } else st
            out := s1.out ++ [.replica c.t.asid.toNat va bs [] s.nextStore] }

/-- Atomics on one location complete at strictly rising times (R320): where the line's home has just applied something, the next comes a
nanosecond later. -/
def afterLast (s : State) (x : L2Line) : State := if x.last ≠ 0 && decide (s.meridian ≤ x.last) then tick s (x.last - s.meridian) else s

/-- The atomic step of one lane at its home: `new old` is the new value, none when nothing is applied. -/
def atomicLane (c : Ctx) (n : Nat) (new : Nat → Option Nat) (s : State) (l va : Nat) : State × Except TrapItem (List Word) :=
  let bad := fun (k : Nat) => (Except.error (dataTrap c l k va) : Except TrapItem (List Word))
  let asid := c.t.asid.toNat
  match checkAccess s c l .atomic va n with
  | (s, .error k) => (s, bad k)
  | (s, .ok e) =>
    if e.uc || e.remote then
      match reach s asid va with
      | (s, .error k) => (s, bad k)
      | (s, .ok e) =>
        let s := remoteCount s e va
        match ucBytes s e va n with
        | (s, .error k) => (s, bad k)
        | (s, .ok bs) =>
          match new (leNat bs) with
          | none => (addTime s c.gid l s.meridian e.remote, .ok (wordsOf bs))
          | some v =>
            let s1 := frameWrite s e va (natLe n v)
            let s2 := addTime s1 c.gid l s.meridian e.remote
            -- the next access of the location completes later (R320)
            (tick (if e.replica then sendAtomic c s2 l va (natLe n v) e else s2) 0, .ok (wordsOf bs))
    else
      match homeLine s asid (va / lineBytes) with
      | (s, .error k) => (s, bad k)
      | (s, .ok x) =>
        match lineBad s x with
        | some u => (memError s (controllerOf x.pa) 31 asid va x.pa u, bad cMUNCORR)
        | none =>
          let s := afterLast s x
          let bs := slice x.data (va % lineBytes) n
          match new (leNat bs) with
          | none => (addTime (s.setL2 { x with cap := 0 }) c.gid l s.meridian e.remote, .ok (wordsOf bs))
          | some v =>
            match dirtyLine s asid (va / lineBytes) with
            | (s, .error k) => (s, bad k)
            | (s, .ok y) =>
              let s1 := addTime (applyLine s y va (natLe n v)) c.gid l s.meridian false
              (if e.replica then sendAtomic c s1 l va (natLe n v) e else s1, .ok (wordsOf bs))

/-- What keeps a lane's atomic from starting: earlier stores of its core to the bytes, its own late loads, the pod's time (R320, R326, R444). -/
def atomicHeld (c : Ctx) (n : Nat) (s : State) (l va : Nat) : Bool :=
  match checkAccess s c l .atomic va n with
  | (_, .error _) => false
  | (s, .ok e) => !ownApplied s c.core c.t.asid.toNat va n || ((e.remote || e.replica) && !s.regs.merLocked) || lateClash s c l va n

/-- What keeps a lane's atomic waiting at its home: leases on the line, room for a line of a snapshot (R324, R358). -/
def atomicWaits (c : Ctx) (n : Nat) (s : State) (l va : Nat) : State × Bool :=
  match checkAccess s c l .atomic va n with
  | (s, .error _) => (s, false)
  | (s, .ok e) =>
    if e.uc then
      match reach s c.t.asid.toNat va with
      | (s, .error _) => (s, false)
      | (s, .ok e) => (s, snapNeeds s (frameLine s e va) && !snapRoom s (frameLine s e va))
    else
      match homeLine s c.t.asid.toNat (va / lineBytes) with
      | (s, .error _) => (s, false)
      | (s, .ok x) => if atomicReady s x then (s, false) else (capLine s x, true)

def anyWaits (c : Ctx) (n : Nat) (addr : Nat → Nat) : List Nat → State → State × Bool
  | [], s => (s, false)
  | l :: ls, s =>
    match atomicWaits c n s l (addr l) with
    | (s, b) =>
      match anyWaits c n addr ls s with
      | (s, b') => (s, b || b')

/-- Lanes in ascending order; `k` registers from D receive the old value; `extra` registers are read beside. -/
def globalAtomic (f : LaneR) (n extra : Nat) (ready : Ctx → Word → State → Bool) (s : State) (new : Ctx → Nat → Nat → Option Nat) : Res :=
  let k := regsOfSize n
  let reads := groupOf f.d (k + extra) ++ regOf f.a
  laneOp { regs := reads, reads := reads } f.g s fun c ex s =>
    if !ready c ex s || (lanesOf ex).any fun l => atomicHeld c n s l (lgAddr c f l) then stall c s
    else
      match anyWaits c n (lgAddr c f) (lanesOf ex) s with
      | (s, true) => underWay (c.refresh s) s
      | (s, false) =>
        withRows c s (groupOf f.d k) ex fun c s =>
          finLanes c f.d.toNat k (laneLoop (fun s l => atomicLane c n (new c l) s l (lgAddr c f l)) (lanesOf ex) s)

def atom (f : LaneR) (s : State) (op : Nat → Nat → Nat) : Res :=
  globalAtomic f 4 0 (fun _ _ _ => true) s fun c l old => some (op old (c.reg f.d l).toNat)

def execAtomAdd (f : LaneR) (s : State) : Res := atom f s fun o x => o + x
def execAtomMax (f : LaneR) (s : State) : Res := atom f s fun o x => pickS true o x
def execAtomMin (f : LaneR) (s : State) : Res := atom f s fun o x => pickS false o x
def execAtomExch (f : LaneR) (s : State) : Res := atom f s fun _ x => x
def execAtombAnd (f : LaneR) (s : State) : Res := atom f s Nat.land
def execAtombOr (f : LaneR) (s : State) : Res := atom f s Nat.lor
def execAtombXor (f : LaneR) (s : State) : Res := atom f s Nat.xor
def execAtombAddf (f : LaneR) (s : State) : Res := atom f s fun o x => (fAdd false .rne o x).v

/-- The little-endian number in `k` registers from `d` (R340). -/
def Ctx.multi (c : Ctx) (d k l : Nat) : Nat := (List.range k).foldr (fun j acc => (c.g.lane (d + j) l).toNat + 2 ^ 32 * acc) 0

/-- CAS of `n` bytes (R340). -/
def cas (f : LaneR) (n : Nat) (ready : Ctx → Word → State → Bool) (s : State) : Res :=
  let k := regsOfSize n
  globalAtomic f n k ready s fun c l old =>
    if old = c.multi f.d.toNat k l then some (c.multi (f.d.toNat + k) k l) else none

def execCasW (f : LaneR) (s : State) : Res := cas f 4 (fun _ _ _ => true) s
def execCasD (f : LaneR) (s : State) : Res := cas f 8 (fun _ _ _ => true) s
def execCasQ (f : LaneR) (s : State) : Res := cas f 16 (fun _ _ _ => true) s

/-- CAS.q.ar is a release at the location's scope for all executing lanes (R340). -/
def execCasQAr (f : LaneR) (s : State) : Res :=
  cas f 16 (fun c ex s =>
    let far := (lanesOf ex).any fun l =>
      match permission s c.core c.t.asid.toNat (lgAddr c f l) with
      | (_, .ok e) => e.remote
      | (_, .error _) => false
    !pendingStores s c.gid ex far) s

/-! ### FENCE (R342, R343) -/

-- DEDUCED: notes/assumptions/12
/-- Accesses that have not performed at T scope: late loads, and the stores that perform at their homes only (R319): UC, RED, REPLICA
and peer stores, of REMOTE pages too. -/
def unperformedT (s : State) (gid : Nat) (m : Word) : Bool :=
  lateOf s gid m || s.stores.any fun st => st.agent == 0 && st.gid == gid && m.getLsbD st.lane &&
    (st.uc || st.red || st.replica || st.peer.isSome) &&
    (match st.stage with | .retired => true | .held _ => true | .sequenced _ => true | _ => false)

/-- Every later store of the active fibres carries the largest time waited for. -/
def raiseFloor (g : Group) (m : Word) : Group :=
  { g with floor := (List.range 32).map fun l => if m.getLsbD l then max (g.floor.getD l 0) (g.times.getD l 0) else g.floor.getD l 0 }

/-- A fence: wait, deliver, then `done` for the lanes that go on. -/
def fence (f : UniR) (s : State) (waits : Ctx → State → Bool) (floor : Bool) (done : Team → Team) : Res :=
  uniform { waitPt := true } f.g s fun c s =>
    if waits c s then stall c s
    else
      deliver 0 c s fun c s =>
        let s1 := s.modTeam c.t.tid done
        fin c (s1.modGroup c.gid fun g => if floor then raiseFloor g c.active else g)

def execFenceT (f : UniR) (s : State) : Res := fence f s (fun c s => unperformedT s c.gid c.active) false id
/-- What FENCE.D and FENCE.ENG wait for: what FENCE.T does, and the times of stores of scope D (R342). -/
def unreturnedD (s : State) (gid : Nat) (m : Word) : Bool := unperformedT s gid m || pendingStores s gid m false
def execFenceD (f : UniR) (s : State) : Res := fence f s (fun c s => unreturnedD s c.gid c.active) true id
def execFenceP (f : UniR) (s : State) : Res := fence f s (fun c s => pendingStores s c.gid c.active true) true id
def execFenceSc (f : UniR) (s : State) : Res :=
  fence f s (fun c s => pendingStores s c.gid c.active true ||
    (lanesOf c.active).any fun l => decide (s.meridian < c.g.passAt.getD l 0)) true id
def execFenceAcq (f : UniR) (s : State) : Res := fence f s (fun c s => lateOf s c.gid c.active) false id
def execFenceEng (f : UniR) (s : State) : Res :=
  fence f s (fun c s => unreturnedD s c.gid c.active) true fun t => { t with engGen := t.engGen + 1 }

/-! ### Cache management (R311, R312) -/

-- DESIGN CHOICE: notes/assumptions/125
/-- First line and number of lines of a range operand. -/
def lineRange (a b : DWord) : Nat × Nat :=
  let len := min (b.extractLsb' 0 32).toNat 16777216
  let first := (a.extractLsb' 7 48).toNat
  if len = 0 then (first, 0) else (first, (a.toNat + len - 1) / 128 % 2 ^ 48 + 1 - first)

-- DESIGN CHOICE: notes/assumptions/11
/-- How many lines of one prefetch the model fills: a hint fills any of them (R312). -/
def prefetchLines : Nat := 16

/-- Would a load of the team find the line, in a page that is not UC? -/
def prefetchable (s : State) (c : Ctx) (line : Nat) : State × Bool :=
  match permission s c.core c.t.asid.toNat (line * 128) with
  | (s, .ok e) => (s, e.r && !e.red && !e.uc && (s.regs.merLocked || !e.remote))
  | (s, .error _) => (s, false)

def prefetch (f : UniR) (s : State) (fill : Ctx → Nat → State → State) : Res :=
  uniform {} f.g s fun c s =>
    match lineRange (c.sReg f.a) (c.sReg f.b) with
    | (first, n) =>
      fin c ((List.range (min n prefetchLines)).foldl (fun s i =>
        match prefetchable s c (first + i) with
        | (s, true) => fill c (first + i) s
        | (s, false) => s) s)

def execPref2 (f : UniR) (s : State) : Res := prefetch f s fun c line s => (homeLine s c.t.asid.toNat line).1
def execPref1 (f : UniR) (s : State) : Res := prefetch f s fun c line s => (coreLine s c.core c.t.asid.toNat line).1

def execEvict1 (f : UniR) (s : State) : Res :=
  uniform {} f.g s fun c s =>
    match lineRange (c.sReg f.a) (c.sReg f.b) with
    | (first, n) =>
      fin c (s.modCore c.core fun x =>
        { x with l1 := x.l1.filter fun z => !(z.asid == c.t.asid.toNat && decide (first ≤ z.line) && decide (z.line < first + n)) })

def execWbl2 (f : UniR) (s : State) : Res :=
  uniform {} f.g s fun c s =>
    match lineRange (c.sReg f.a) (c.sReg f.b) with
    | (first, n) =>
      let hit := fun (x : L2Line) => x.wtag && x.asid == c.t.asid.toNat && decide (first ≤ x.line) && decide (x.line < first + n)
      let dirty := s.l2.filter hit
      let s1 := dirty.foldl (fun s x => (flushLine s x).setL2 { x with wtag := false }) s
      fin c (if dirty.isEmpty then s1 else (lanesOf c.active).foldl (fun s l => addTime s c.gid l s.meridian) s1)

/-! ### PLQ, PLINV, TLBI (R313 to R315) -/

/-- What PLQ reads of a page. -/
def plqValue (e : Tlb) : Nat :=
  let b := fun (x : Bool) (i : Nat) => if x then 2 ^ i else 0
  1 + b e.r 1 + b e.w 2 + b e.x 3 + b e.red 4 + b e.replica 5 + b e.uc 6 + b e.cow 7 + b e.remote 8 + (3 - e.level) * 2 ^ 9

def execPlq (f : UniR) (s : State) : Res :=
  uniform {} f.g s fun c s =>
    match permission s c.core c.t.asid.toNat (c.sReg f.a).toNat with
    | (s, .error k) => finS c s f.d (BitVec.ofNat 64 (k * 2 ^ 16))
    | (s, .ok e) => finS c s f.d (BitVec.ofNat 64 (plqValue e))

def execPlinv (f : UniR) (s : State) : Res :=
  uniform { priv := true } f.g s fun c s =>
    let va := (c.sReg f.a).toNat
    let asid := ((c.sReg f.b).extractLsb' 0 16).toNat
    let drop := fun (p : Tlb → Bool) => fin c (s.modCore c.core fun x => { x with plb := x.plb.filter fun e => !p e })
    match ((c.sReg f.b).extractLsb' 16 2).toNat with
    | 0 => drop fun e => e.hits asid va
    | 1 => drop fun e => e.asid == asid
    | 2 => drop fun _ => true
    | _ => trapAll c s cILLEGAL

/-- Remove the translations, lines and leases that match (R314). -/
def invalidate (s : State) (page : Tlb → Bool) (line : Nat → Nat → Bool) (pair : FramePair → Bool) : State :=
  let hit := s.l2.filter fun x => line x.asid x.line
  let s := hit.foldl flushLine s
  let s := { s with tlb := s.tlb.filter (fun e => !page e)
                    l2 := s.l2.filter (fun x => !line x.asid x.line)
                    frames := s.frames.filter (fun q => !pair q) }
  (s.cores.map (·.1)).foldl (fun s k =>
    s.modCore k fun y => { y with plb := y.plb.filter (fun e => !page e), l1 := y.l1.filter fun z => !line z.asid z.line }) s

-- DEDUCED: notes/assumptions/16
/-- Stores that wait at matching lines, whose bytes belong to the old frames (R315): TLBI lets them be applied first. -/
def heldOn (s : State) (line : Nat → Nat → Bool) : Bool :=
  s.stores.any fun st => st.peer.isNone && !st.uc && !st.red && line st.asid (st.va / lineBytes) &&
    (match st.stage with | .held _ => true | _ => false)

def invalidateAll (c : Ctx) (s : State) (page : Tlb → Bool) (line : Nat → Nat → Bool) (pair : FramePair → Bool) : Res :=
  if heldOn s line then stall c s else fin c (invalidate s page line pair)

def tlbi (f : UniR) (s : State) (page : Ctx → Tlb → Bool) (line : Ctx → Nat → Nat → Bool) (pair : Ctx → FramePair → Bool) : Res :=
  uniform { priv := true } f.g s fun c s => invalidateAll c s (page c) (line c) (pair c)

def execTlbi (f : UniR) (s : State) : Res :=
  let a := fun (c : Ctx) => ((c.sReg f.a).extractLsb' 0 16).toNat
  tlbi f s (fun c e => e.asid == a c) (fun c asid _ => asid == a c) (fun c q => q.asid == a c)

/-- A live pair covers `q.n` frames; its virtual page is numbered in pages of that size. -/
def FramePair.holds (q : FramePair) (va : Nat) : Bool := va / (2 ^ 19 * q.n) == q.vpage

/-- Lines of the pages of `asid` that contain `va`: of the largest page among those the TLB or the frame map knows. -/
def coveredBy (s : State) (asid va line : Nat) : Bool :=
  line * 128 / 2 ^ 19 == va / 2 ^ 19 ||
  (s.tlb.any fun e => e.asid == asid && e.hits asid va && e.hits asid (line * 128)) ||
  (s.frames.any fun q => q.asid == asid && q.holds va && q.holds (line * 128))

def execTlbiVa (f : UniR) (s : State) : Res :=
  let va := fun (c : Ctx) => (c.sReg f.a).toNat
  let a := fun (c : Ctx) => ((c.sReg f.b).extractLsb' 0 16).toNat
  uniform { priv := true } f.g s fun c s =>
    invalidateAll c s (fun e => e.hits (a c) (va c)) (fun asid line => asid == a c && coveredBy s (a c) (va c) line)
      (fun q => q.asid == a c && q.holds (va c))

def execTlbiAll (f : UniR) (s : State) : Res := tlbi f s (fun _ _ => true) (fun _ _ _ => true) (fun _ _ => true)

end Sys2Proof.Machine
end

