-- ==== Sys2Proof/Machine/Codebook.lean ====
section
/-! DEFINITION. Codebook banks: lane OPs 25 to 27 and uniform OPs 28 to 2B, with the end of a load (R212 to R222). -/

namespace Sys2Proof.Machine

def State.bank (s : State) (core b : Nat) : Bank := NMap.get Bank.free b (s.core core).banks
def State.setBank (s : State) (core b : Nat) (x : Bank) : State :=
  s.modCore core fun y => { y with banks := NMap.set Bank.free b x y.banks }

def Bank.ownedBy (x : Bank) (t : Team) : Bool := x.owner == some t.tid
def Bank.entry (x : Bank) (e : Nat) : BitVec 128 := NMap.get 0 e x.ents
/-- R222: does the entry fail its parity? -/
def Bank.badEntry (x : Bank) (e : Nat) : Bool := NMap.get false (2 * e) x.bad || NMap.get false (2 * e + 1) x.bad
/-- The entries that fail their parity, each once. -/
def Bank.badEntries (x : Bank) : List Nat := (x.bad.map fun q => q.1 / 2).eraseDups
/-- Slots by KIND (R212, R218). -/
def slotCount (kind : BitVec 2) : Nat := if kind = 0 then 4 else if kind = 3 then 6 else 8

/-- Slot `n` of an entry (R212, R218). -/
def slotOf (kind : BitVec 2) (x : BitVec 128) (n : Nat) : Nat :=
  match kind.toNat with
  | 0 => (x.extractLsb' (32 * n) 32).toNat
  | 1 => (x.extractLsb' (16 * n) 16).toNat
  | 2 => (x.extractLsb' (16 * n) 12).toNat
  | _ => (x.extractLsb' (12 * n) 12).toNat

/-- The `CTN` record of a parity error (R222). -/
def parityError (s : State) (core bank entry handle : Nat) : State :=
  ctnRecord s core ⟨true, handle, bank * 4 + entry / 64, entry % 64, 0, 0, 3⟩

/-! ### Owning (R215) -/

def execCballoc (f : UniR) (s : State) : Res :=
  uniform { cc := true, feat := some 1 } f.g s fun c s =>
    let valid := ((c.sReg f.b).extractLsb' 8 9).toNat
    let x := s.bank c.core f.a.toNat
    if valid = 0 || 256 < valid then finS c s f.d 3
    else if x.ownedBy c.t then finS c s f.d 2
    else if x.owner.isSome || (s.heldFrom c.core c.t.seq).any (fun h => h.banks.contains f.a.toNat) then finS c s f.d 1
    else finS c (s.setBank c.core f.a.toNat ⟨some c.t.tid, (c.sReg f.b).extractLsb' 0 2, valid, [], [], none⟩) f.d 0

/-- What CBFENCE waits for: TILE operations of the team that still fetch, and its CBLDs. -/
def bankBusy (s : State) (c : Ctx) : Bool :=
  ((s.core c.core).tileQ.any fun o => o.tid == c.t.tid && (match o.kind with | .tile _ => true | _ => false) && !o.running) ||
  (s.core c.core).banks.any fun q => q.2.ownedBy c.t && q.2.load.isSome

def execCballocFree (f : UniR) (s : State) : Res :=
  uniform { cc := true, feat := some 1 } f.g s fun c s =>
    if !(s.bank c.core f.a.toNat).ownedBy c.t then trapAll c s cCBOWNER
    else if bankBusy s c then stall c s
    else fin c (s.setBank c.core f.a.toNat Bank.free)

def execCbfence (f : UniR) (s : State) : Res :=
  uniform { cc := true, feat := some 1 } f.g s fun c s => if bankBusy s c then stall c s else fin c s

/-! ### Loading, writing and reading (R216, R217) -/

/-- The first of the 16-byte entries of `[va, va + 16 n)` that a load may not read: cause and address. -/
def firstUnreadable (c : Ctx) (lane : Nat) : Nat → Nat → State → State × Option (Nat × Nat)
  | 0, _, s => (s, none)
  | n + 1, va, s =>
    match checkAccess s c lane .load va 16 with
    | (s, .error k) => (s, some (k, va))
    | (s, .ok _) => firstUnreadable c lane n (va + 16) s

def execCbld (f : UniR) (k : BitVec 2) (s : State) : Res :=
  uniform { cc := true, feat := some 1 } f.g s fun c s =>
    let x := s.bank c.core f.b.toNat
    let n := ((c.sReg f.d).extractLsb' 0 9).toNat
    let va := (c.sReg f.a).toNat
    let lane := lowestLane c.active
    if !x.ownedBy c.t then trapAll c s cCBOWNER
    else if n = 0 || 256 < n then trapAll c s cILLEGAL
    else if va % 16 ≠ 0 then trapAllMem c s cMISALIGNED va
    else
      match firstUnreadable c lane n va s with
      | (s, some (cause, a)) => trapAllMem c s cause a
      | (s, none) =>
        if x.load.isSome || podRange s c.t.asid.toNat va (16 * n) || lateClash s c lane va (16 * n) then stall c s
        else fin c (s.setBank c.core f.b.toNat { x with kind := k, valid := n, load := some (c.t.asid.toNat, va, c.gid, lane) })

-- DEDUCED: notes/assumptions/88
/-- Entries of a load as its fibre's LD.d reads them, for the team that owns the bank: bytes, or a failure. -/
def readEntries (t : Option Team) (core asid gid lane : Nat) : Nat → Nat → State → State × Option (List Byte)
  | 0, _, s => (s, some [])
  | n + 1, va, s =>
    let r : State × Except Nat (List Byte) := match translate s asid va with
      | (s, .error k) => (s, .error k)
      | (s, .ok e) =>
        match t with
        | some t => loadValue s core asid gid lane t false e va 16
        | none => homeRead s asid va 16
    match r with
    | (s, .error _) => (s, none)
    | (s, .ok bs) =>
      match readEntries t core asid gid lane n (va + 16) s with
      | (s, some rest) => (s, some (bs ++ rest))
      | (s, none) => (s, none)

/-- CBLD_COMPLETE (R216). -/
def execCbldComplete (core bank : Nat) (s : State) : Res :=
  let x := s.bank core bank
  match x.load with
  | none => .next s
  | some (asid, va, gid, lane) =>
    if podRange s asid va (16 * x.valid) then .next s else
    match readEntries (x.owner.bind s.team?) core asid gid lane x.valid va s with
    | (s, none) => .next (s.setBank core bank { x with valid := 0, load := none })
    | (s, some bs) =>
      let ents := (List.range x.valid).foldl (fun m e => NMap.set 0 e (BitVec.ofNat 128 (fieldN bs (16 * e) 16)) m) []
      .next (s.setBank core bank { x with ents := ents, bad := [], load := none })

/-- Replace half `h` of an entry. -/
def putHalf (x : BitVec 128) (h : Nat) (w : DWord) : BitVec 128 :=
  if h = 0 then x.extractLsb' 64 64 ++ w else w ++ x.extractLsb' 0 64

def execCbw (g : BitVec 4) (d : BitVec 6) (bank : BitVec 3) (e : BitVec 8) (h : BitVec 1) (s : State) : Res :=
  uniform { cc := true, feat := some 1 } g s fun c s =>
    let x := s.bank c.core bank.toNat
    if !x.ownedBy c.t then trapAll c s cCBOWNER
    else if x.valid ≤ e.toNat then trapAll c s cINDEX
    else if x.load.isSome then stall c s
    else
      let y := { x with ents := NMap.set 0 e.toNat (putHalf (x.entry e.toNat) h.toNat (c.sReg d)) x.ents
                        bad := NMap.set false (2 * e.toNat + h.toNat) false x.bad }
      fin c (s.setBank c.core bank.toNat y)

def execCbr (g : BitVec 4) (d : BitVec 6) (e : BitVec 8) (h : BitVec 1) (bank : BitVec 3) (s : State) : Res :=
  uniform { cc := true, feat := some 1 } g s fun c s =>
    let x := s.bank c.core bank.toNat
    if !x.ownedBy c.t then trapAll c s cCBOWNER
    else if x.valid ≤ e.toNat then trapAll c s cINDEX
    else if x.load.isSome then stall c s
    else if x.badEntry e.toNat then trapAll c (parityError s c.core bank.toNat e.toNat 0) cCBPARITY
    else finS c s d ((x.entry e.toNat).extractLsb' (64 * h.toNat) 64)

/-! ### Expansion in the operand path (R218, R219, R221) -/

/-- A lane read of a bank: `idx`, `slot` per lane; `all` is a cause for every executing lane; the value of a read slot. -/
def expandLanes (G : Gate) (f : LaneR) (bank : Nat) (idx slot : Ctx → Nat → Nat) (all : Bank → Option Nat) (s : State)
    (res : Ctx → Bank → Nat → Nat → FRes) : Res :=
  laneOp G f.g s fun c ex s =>
    let x := s.bank c.core bank
    let trapLanes := fun (s : State) (its : List TrapItem) => finTraps c s its
    let everyLane := fun (k : Nat) => trapLanes s ((lanesOf ex).map fun l => ⟨l, k, c.u.pc, c.u.pc, none, 0⟩)
    if ex = 0 then fin c s
    else if !x.ownedBy c.t then everyLane cCBOWNER
    else if x.load.isSome then stall c s
    else
      match all x with
      | some k => everyLane k
      | none =>
        withRows c s [f.d.toNat] ex fun c s =>
          let cause := fun (l : Nat) =>
            if slotCount x.kind ≤ slot c l || x.valid ≤ idx c l then some cINDEX
            else if x.badEntry (idx c l) then some cCBPARITY else none
          let its := (lanesOf ex).filterMap fun l => (cause l).map fun k => (⟨l, k, c.u.pc, c.u.pc, none, 0⟩ : TrapItem)
          let badEnts := (((lanesOf ex).filter fun l => cause l == some cCBPARITY).map (idx c)).eraseDups
          let s := badEnts.foldl (fun s e => parityError s c.core bank e 0) s
          let ok := ex &&& ~~~(maskOf fun l => its.any fun i => i.lane == l)
          let r := fun (c : Ctx) (l : Nat) => res c x l (slotOf x.kind (x.entry (idx c l)) (slot c l))
          let s := countRes r c ok (s.modGroup c.gid fun g => g.setRow f.d.toNat ok fun l => BitVec.ofNat 32 (r c l).v)
          finTraps c s its

/-- CBX (R218): bank and slot stand in the B field. -/
def cbx (f : LaneR) (mask : Nat) (s : State) : Res :=
  let bank := f.b.toNat / 8
  let slot := f.b.toNat % 8
  expandLanes { regs := regOf f.d ++ regOf f.a, reads := regOf f.a, cc := true, feat := some 1 } f bank
    (fun c l => (c.reg f.a l).toNat % mask) (fun _ _ => slot)
    (fun x => if slotCount x.kind ≤ slot then some cINDEX else none) s
    fun _ x _ v => { v := if x.kind = 2 then ((BitVec.ofNat 12 v).signExtend 32).toNat else v }

def execCbxB8 (f : LaneR) (s : State) : Res := cbx f 256 s
def execCbxN4 (f : LaneR) (s : State) : Res := cbx f 16 s

/-- The FP32 pattern of an expanded slot (R219). -/
def slotFp (kind : BitVec 2) (v : Nat) : Nat :=
  match kind.toNat with
  | 0 => v
  | 1 => v * 2 ^ 16
  | _ => if v = 2048 then fpCanon 23 else intToFp (BitVec.ofNat 12 v).toInt

def xf (f : LaneR) (k : BitVec 2) (d : Bool) (s : State) (op : Bool → Nat → Nat → Nat → FRes) : Res :=
  let reads := regOf f.a ++ regOf f.b ++ (if d then regOf f.d else [])
  expandLanes { regs := regOf f.d ++ reads, reads := reads, cc := true, feat := some 1 } f k.toNat
    (fun c l => (c.reg f.b l).toNat % 256) (fun c l => (c.reg f.b l).toNat / 256 % 8)
    (fun x => if x.kind = 3 then some cCBKIND else none) s
    fun c x l v => op c.t.ftz (c.reg f.a l).toNat (slotFp x.kind v) (c.reg f.d l).toNat

def execXffma (f : LaneR) (k : BitVec 2) (s : State) : Res := xf f k true s fun z a y d => fFma z .rne a y d
def execXfmul (f : LaneR) (k : BitVec 2) (s : State) : Res := xf f k false s fun z a y _ => fMul z .rne a y

end Sys2Proof.Machine
end

