-- ==== Sys2Proof/Machine/Control.lean ====
section
/-! DEFINITION. Branches, sub-groups, rejoin masks, calls, hardware loops, barriers and sleeping: uniform OPs 0C to 15 and 17
(R133 to R155), with their device steps. -/

namespace Sys2Proof.Machine

/-! ### Physical group slots and issue slots of a core (R15, R137) -/

/-- Sub-groups of a core. -/
def State.subsOn (s : State) (core : Nat) : List Sub :=
  (s.groups.filter fun g => s.groupCore g == core).foldl (fun a g => a ++ g.subs) []

/-- Physical group slots in use; a service core keeps 0 and 1 for its host program and service team. -/
def State.slotsUsed (s : State) (core : Nat) : List Nat :=
  ((s.subsOn core).map Sub.slot ++ (if isService core then [0, 1] else [])).eraseDups

def State.groupFree (s : State) (core : Nat) : Nat := Config.groupSlots - (s.slotsUsed core).length

/-- Free group slots that launch `seq` may take. -/
def State.groupFreeFor (s : State) (core seq : Nat) : Nat := s.groupFree core - ((s.heldFrom core seq).map (·.slots)).sum

def State.freeSlot (s : State) (core : Nat) : Option Nat :=
  firstFrom (fun i => !(s.slotsUsed core).contains i) 0 Config.groupSlots

/-- Groups bound to an issue slot, counted by physical slot. -/
def State.boundTo (s : State) (core i : Nat) : Nat :=
  (((s.subsOn core).filter fun u => u.issue == i).map Sub.slot).eraseDups.length

/-- R15: the issue slot with the fewest groups, lowest number on a tie. -/
def State.issueFor (s : State) (core : Nat) : Nat :=
  [1, 2, 3].foldl (fun b i => if s.boundTo core i < s.boundTo core b then i else b) 0

/-! ### Branches and calls (R134, R142, R143, R145) -/

/-- PC + 4 + Sext(O21, 21) × 4 (R26). -/
def branchTarget (pc : Nat) (o : BitVec 21) : Nat := ((pc : Int) + 4 + o.toInt * 4).emod (2 ^ 64) |>.toNat

def finSub (c : Ctx) (s : State) (u : Sub) : Res := .next (c.setSub s u)

def execBra (f : UniB) (s : State) : Res :=
  uniform {} f.g s fun c s => finSub c s (c.u.jump (branchTarget c.u.pc f.o))

/-- A call pushes the return address and leaves loops active (R143, R145). -/
def Sub.call (u : Sub) (target : Nat) : Sub :=
  { u.dropChain with calls := (u.pc + 4) % Config.maxVa :: u.calls, pc := target, wait := .ready, ahead := [] }

def callTo (c : Ctx) (s : State) (target : Nat) : Res :=
  if c.u.calls.length = 32 then trapAll c s cCALLDEPTH else finSub c s (c.u.call target)

def execCall (f : UniB) (s : State) : Res := uniform {} f.g s fun c s => callTo c s (branchTarget c.u.pc f.o)

/-- May an s register's value be a PC (R143)? -/
def targetOk (t : DWord) : Bool := t.extractLsb' 0 2 == 0 && t.extractLsb' 55 9 == 0

def execRet (f : UniR) (s : State) : Res :=
  uniform {} f.g s fun c s =>
    match c.u.calls with
    | [] => trapAll c s cCALLDEPTH
    | r :: rest => finSub c s { (c.u.jump r) with calls := rest }

def execBrx (f : UniR) (s : State) : Res :=
  uniform {} f.g s fun c s =>
    let t := c.sReg f.a
    if targetOk t then finSub c s (c.u.jump t.toNat) else trapAll c s cILLEGAL

def execCallx (f : UniR) (s : State) : Res :=
  uniform {} f.g s fun c s =>
    let t := c.sReg f.a
    if targetOk t then callTo c s t.toNat else trapAll c s cILLEGAL

/-! ### BRD (R135, R137) -/

/-- The lanes of `m` compacted into a physical slot of their own, in ascending order. -/
def compactInto (m : Word) (slot : Nat) (r : List (Nat × Nat)) : List (Nat × Nat) :=
  (List.range 32).map fun l => if m.getLsbD l then (slot, countBelow (fun i => m.getLsbD i) l) else r.getD l (slot, l)

/-- Split off lanes `m` to `target`; `slot`, `issue` are where the taken sub-group goes. -/
def split (c : Ctx) (s : State) (m : Word) (target slot issue : Nat) : State :=
  let u := { c.u with wait := .ready }
  let taken : Sub := { u.jump target with mask := m, slot := slot, issue := issue }
  let stays : Sub := { u.dropChain.next u.pc with mask := c.u.mask &&& ~~~m }
  s.modGroup c.gid fun g =>
    { (g.setSub c.u.mask stays) with
      subs := (g.setSub c.u.mask stays).subs ++ [taken]
      remap := if slot = c.u.slot then g.remap else compactInto m slot g.remap }

def execBrd (f : UniB) (s : State) : Res :=
  gated {} s fun c s =>
    let m := c.execMask f.g
    let target := branchTarget c.u.pc f.o
    if m == c.active then finSub c s (c.u.jump target)
    else if m == 0 then fin c s
    else
      match (if s.groupFreeFor c.core c.t.seq = 0 then none else s.freeSlot c.core) with
      | some p => .next (split c s m target p (s.issueFor c.core))
      | none =>
        match c.u.wait with
        | .brdSlot t => if t ≤ s.cycles then .next (split c s m target c.u.slot c.u.issue) else .next s
        | _ => parkAs c s (.brdSlot (s.cycles + 4096))

/-- Change sub-groups that hold lane `lane` of group `gid`. -/
def State.modSub (s : State) (gid lane : Nat) (h : Sub → Sub) : State :=
  s.modGroup gid fun g => { g with subs := g.subs.map fun u => if u.mask.getLsbD lane then h u else u }

/-- BRD_SLOT_TIMEOUT (R135): once 4,096 cycles have passed, BRD goes on without a slot of its own. -/
def execBrdSlotTimeout (gid lane : Nat) (s : State) : Res :=
  .next (s.modSub gid lane fun u =>
    match u.wait with
    | .brdSlot t => if t ≤ s.cycles then { u with wait := .brdSlot 0 } else u
    | _ => u)

/-! ### Rejoin masks (R139 to R141) -/

def Group.jReg (g : Group) (n : Nat) : Word := g.j.getD n 0

-- DEDUCED: notes/assumptions/19
/-- Same call stack, loop levels, frames and counters? -/
def sameShape (a b : Sub) : Bool := a.calls == b.calls && a.loops == b.loops && a.lc == b.lc

/-- One sub-group of the parked ones `us` (R141), in the lowest of their physical slots. -/
def mergeSubs (us : List Sub) (pc : Nat) : Option Sub :=
  match us with
  | [] => none
  | u :: rest =>
    let low := rest.foldl (fun (a : Sub) (b : Sub) => if b.slot < a.slot then b else a) u
    let m := us.foldl (fun (a : Word) (b : Sub) => a ||| b.mask) 0
    let v : Sub := { low with mask := m, stopPending := us.any (·.stopPending), endPending := us.any (·.endPending) }
    some (v.dropChain.next pc)

-- DESIGN CHOICE: notes/assumptions/102
/-- The lanes of `m` in one physical slot: those that come from elsewhere take its lowest free physical lanes, in ascending order. -/
def joinInto (m live : Word) (slot : Nat) (r : List (Nat × Nat)) : List (Nat × Nat) :=
  ((lanesOf m).filter fun l => (r.getD l (slot, l)).1 != slot).foldl (fun r l =>
    let free := firstFrom (fun p => !(lanesOf live).any fun x => r.getD x (slot, x) == (slot, p)) 0 32
    r.set l (slot, free.getD l)) r

/-- Test the rendezvous (n, pc) of a group (R141). Parked sub-groups stand in `subs` in order of arrival. -/
def testRendezvous (s : State) (gid n pc : Nat) : State :=
  match s.group? gid with
  | none => s
  | some g =>
    let here := fun (u : Sub) => u.wait == .rejoin n && u.pc == pc
    let us := g.subs.filter here
    let m := us.foldl (fun (a : Word) (b : Sub) => a ||| b.mask) 0
    if us.isEmpty || (g.jReg n &&& g.live &&& ~~~m) != 0 then s
    else
      match us.head?, us.getLast? with
      | some u, some last =>
        if us.all (sameShape u) then
          match mergeSubs us pc with
          | some v =>
            s.modGroup gid fun g =>
              { g with subs := g.subs.filter (fun u => !here u) ++ [v], j := g.j.set n 0, remap := joinInto v.mask g.live v.slot g.remap }
          | none => s
        else
          match s.ctxOf gid (lowestLane last.mask) with
          | some c => trapWith false c s ((lanesOf last.mask).map fun l => ⟨l, cREJOIN, pc, pc, none, 0⟩) id
          | none => s
      | _, _ => s

/-- Every rendezvous on a mask. -/
def testMask (s : State) (gid n : Nat) : State :=
  match s.group? gid with
  | none => s
  | some g => ((g.subs.filter fun u => u.wait == .rejoin n).map Sub.pc).eraseDups.foldl (fun s pc => testRendezvous s gid n pc) s

def testMasks (s : State) (gid : Nat) : State := (List.range 8).foldl (fun s n => testMask s gid n) s

def execEnrol (f : UniR) (s : State) : Res :=
  uniform {} f.g s fun c s =>
    fin c (s.modGroup c.gid fun g => { g with j := g.j.set f.d.toNat (g.jReg f.d.toNat ||| c.active) })
def execEnrolMask (f : UniR) (s : State) : Res :=
  uniform {} f.g s fun c s =>
    fin c (s.modGroup c.gid fun g => { g with j := g.j.set f.d.toNat ((c.sReg f.a).extractLsb' 0 32 &&& g.live) })

def execStrike (f : UniR) (s : State) : Res :=
  uniform {} f.g s fun c s =>
    let s1 := s.modGroup c.gid fun g => { g with j := g.j.set f.d.toNat (g.jReg f.d.toNat &&& ~~~c.active) }
    .next (testMask (c.setSub s1 (c.u.dropChain.next c.u.pc)) c.gid f.d.toNat)

/-- Park at the end of the group's list, so that the order of arrival shows. -/
def parkLast (c : Ctx) (s : State) (w : Wait) : State :=
  s.modGroup c.gid fun g =>
    { g with subs := (g.subs.filter fun u => !(u.mask == c.u.mask)) ++ [{ c.u.dropChain with wait := w }] }

def execRejoin (f : UniR) (s : State) : Res :=
  uniform { waitPt := true } f.g s fun c s =>
    deliver 0 c s fun c s =>
      let n := f.d.toNat
      if (c.g.jReg n &&& c.g.live) == 0 then fin c s
      else if (c.active &&& ~~~c.g.jReg n) != 0 then trapAll c s cREJOIN
      else .next (testRendezvous (parkLast c s (.rejoin n)) c.gid n c.u.pc)

/-! ### Hardware loops (R144 to R146) -/

/-- The words of a loop body as its sub-group fetches them; none when one cannot be fetched now. -/
def bodyWords (c : Ctx) : Nat → Nat → State → State × Option (List Word)
  | 0, _, s => (s, some [])
  | n + 1, pc, s =>
    if podWaits s c (lowestLane c.active) .fetch pc 4 then (s, none)
    else
      match fetchNow s { c with u := { c.u with pc := pc } } with
      | (s, .error _) => (s, none)
      | (s, .ok bs) =>
        match bodyWords c n (pc + 4) s with
        | (s, none) => (s, none)
        | (s, some ws) => (s, some (BitVec.ofNat 32 (leNat bs) :: ws))

/-- The newest bodies that 256 words hold (R147). -/
def fitBodies : Nat → List LoopBuf → List LoopBuf
  | _, [] => []
  | room, b :: bs => if b.words.length ≤ room then b :: fitBodies (room - b.words.length) bs else []

/-- A body of at most 256 words is fetched into the issue slot's loop buffer when its loop starts (R147, R483). -/
def bufferBody (c : Ctx) (s : State) (first last : Nat) : State :=
  match bodyWords c ((last - first) / 4 + 1) first s with
  | (_, none) => s
  | (s, some ws) =>
    s.modCore c.core fun x =>
      let mine := x.loopBuf.filter fun b => b.issue == c.u.issue && !(b.tid == c.t.tid && b.first == first)
      { x with loopBuf := fitBodies 256 (⟨c.u.issue, c.t.tid, first, ws⟩ :: mine) ++ x.loopBuf.filter fun b => b.issue != c.u.issue }

/-- LOOP of `n` iterations (R144). -/
def startLoop (f : UniL) (n : Word) (c : Ctx) (s : State) : Res :=
  let last := c.u.pc + 4 * (f.len.toNat + 1)
  let level := f.level.toNat
  if c.u.loops.any fun x => x.level == level || decide (x.last < last) then trapAll c s cLOOP
  else if n = 0 then finSub c s (c.u.dropChain.next last)
  else
    finSub c (bufferBody c s (c.u.pc + 4) last)
      { c.u.dropChain with pc := c.u.pc + 4, wait := .ready, lc := c.u.lc.set level n, loops := ⟨level, c.u.pc + 4, last⟩ :: c.u.loops }

def execLoopImm (f : UniL) (s : State) : Res := uniform {} f.g s (startLoop f (f.c.zeroExtend 32))
def execLoopReg (f : UniL) (s : State) : Res :=
  uniform {} f.g s fun c s => startLoop f ((c.g.sReg (f.c.extractLsb' 4 6).toNat).extractLsb' 0 32) c s

/-- Drop a level and every level started inside it: the frames up to it, innermost first. -/
def dropLevel (level : Nat) : List LoopFrame → List LoopFrame
  | [] => []
  | f :: fs => if f.level = level then fs else dropLevel level fs

def execLbrk (g : BitVec 4) (level : BitVec 2) (s : State) : Res :=
  uniform {} g s fun c s =>
    match c.u.loops.find? fun x => x.level == level.toNat with
    | none => trapAll c s cLOOP
    | some x => finSub c s { c.u.dropChain with pc := x.last + 4, wait := .ready, loops := dropLevel level.toNat c.u.loops, ahead := [] }

/-! ### Barriers (R148 to R151) -/

def Team.barrier (t : Team) (n : Nat) : Barrier := NMap.get Barrier.init n t.bars

/-- The expected set: group slots with a live group whose role the mask names. -/
def expected (s : State) (t : Team) (mask : BitVec 4) : Word :=
  BitVec.ofNat 32 ((s.groups.filter fun g => g.tid == t.tid && g.live != 0 && mask.getLsbD g.role).foldl (fun a g => a ||| 2 ^ g.gslot) 0)

/-- Has generation `gen` completed (R150)? -/
def genPassed (now : BitVec 32) (gen : Nat) : Bool := decide (0 < (now - BitVec.ofNat 32 gen).toInt)

/-- The wait of a sub-group for a generation ends: ARRWAIT writes the generation it arrived in. -/
def endBarWaits (s : State) (tid n : Nat) (gen : BitVec 32) : State :=
  { s with groups := s.groups.map fun g =>
      if g.tid == tid then
        g.subs.foldl (fun (g : Group) (u : Sub) =>
          match u.wait with
          | .bar m w _ d =>
            if m = n && genPassed gen w then
              let g1 := g.setSub u.mask (u.dropChain.next u.pc)
              match d with
              | some i => g1.setS i (BitVec.ofNat 64 w)
              | none => g1
            else g
          | _ => g) g
      else g }

/-- The completion test of R148. -/
def testBarrier (s : State) (tid n : Nat) : State :=
  match s.team? tid with
  | none => s
  | some t =>
    let b := t.barrier n
    if b.mask != 0 && (expected s t b.mask &&& ~~~b.arr) == 0 then
      let s1 := s.modTeam tid fun t => { t with bars := NMap.set Barrier.init n ⟨b.gen + 1, 0, 0⟩ t.bars }
      let s2 := { s1 with groups := s1.groups.map fun g => if g.tid == tid then { g with arrive := NMap.set 0 n 0 g.arrive } else g }
      endBarWaits s2 tid n (b.gen + 1)
    else s

-- DEDUCED: notes/assumptions/38
/-- Every barrier of a team: when a group of it ends. -/
def testBarriers (s : State) (tid : Nat) : State := (List.range 16).foldl (fun s n => testBarrier s tid n) s

/-- Is an arrival with mask `m` a BARRIER_USE trap (R150)? -/
def barrierUse (c : Ctx) (n : Nat) (m : BitVec 4) : Bool :=
  let b := c.t.barrier n
  (b.mask != 0 && b.mask != m) || !m.getLsbD c.g.role || b.arr.getLsbD c.g.gslot

/-- The arrival of R150, after its checks, without the completion test. -/
def arriveAt (c : Ctx) (s : State) (n : Nat) (m : BitVec 4) : State :=
  let b := c.t.barrier n
  let lanes := NMap.get 0 n c.g.arrive ||| c.active
  let s1 := s.modGroup c.gid fun g => { g with arrive := NMap.set 0 n lanes g.arrive }
  let full := (c.g.live &&& ~~~lanes) == 0
  s1.modTeam c.t.tid fun t =>
    { t with bars := NMap.set Barrier.init n ⟨b.gen, if full then b.arr ||| (1#32 <<< c.g.gslot) else b.arr, m⟩ t.bars }

/-- Every role present in the team (R150). -/
def allRoles (t : Team) : BitVec 4 := BitVec.ofNat 4 (2 ^ t.roles.length - 1)

/-- BAR and ARRWAIT: deliver, arrive, wait for the generation. -/
def barrierWait (f : UniR) (d : Option Nat) (mask : Ctx → BitVec 4) (s : State) : Res :=
  uniform { waitPt := true } f.g s fun c s =>
    deliver 0 c s fun c s =>
      let n := f.a.toNat
      if barrierUse c n (mask c) then trapAll c s cBARRIER
      else
        let gen := (c.t.barrier n).gen.toNat
        let s1 := arriveAt c s n (mask c)
        .next (testBarrier (c.setSub s1 { c.u.dropChain with wait := .bar n gen true d }) c.t.tid n)

def execBar (f : UniR) (s : State) : Res := barrierWait f none (fun c => allRoles c.t) s
def execArrwait (f : UniR) (s : State) : Res := barrierWait f (some f.d.toNat) (fun _ => f.b.extractLsb' 0 4) s

def execArrive (f : UniR) (s : State) : Res :=
  uniform {} f.g s fun c s =>
    let n := f.a.toNat
    let m := f.b.extractLsb' 0 4
    if (c.g.live &&& ~~~c.active) != 0 || barrierUse c n m then trapAll c s cBARRIER
    else
      let s1 := arriveAt c s n m
      let s2 := s1.modGroup c.gid fun g => g.setS f.d.toNat ((c.t.barrier n).gen.zeroExtend 64)
      .next (testBarrier (c.setSub s2 (c.u.dropChain.next c.u.pc)) c.t.tid n)

def execAwait (f : UniR) (s : State) : Res :=
  uniform { waitPt := true } f.g s fun c s =>
    deliver 0 c s fun c s =>
      let n := f.a.toNat
      let tok := ((c.sReg f.d).extractLsb' 0 32).toNat
      if genPassed (c.t.barrier n).gen tok then fin c s else parkAs c s (.bar n tok false none)

/-! ### Sleeping (R153, R154) -/

def execNapUntil (f : UniR) (s : State) : Res :=
  uniform {} f.g s fun c s =>
    let t := (c.sReg f.a).toNat
    if t ≤ s.meridian then fin c s else parkAs c s (.napUntil t)

def execNapCyc (f : UniR) (s : State) : Res :=
  uniform {} f.g s fun c s =>
    let n := (c.sReg f.a).toNat
    if n = 0 then fin c s else parkAs c s (.napCyc (s.cycles + n))

def execNapWake (f : UniR) (s : State) : Res :=
  uniform {} f.g s fun c s =>
    if c.g.token then fin c (s.modGroup c.gid fun g => { g with token := false })
    else if c.t.curfew.isSome then fin c s
    else parkAs c s .napWake

/-- The sub-group goes on after its instruction. -/
def Sub.resume (u : Sub) : Sub := u.dropChain.next u.pc

/-- NAP_UNTIL_EXPIRY (R153). -/
def execNapUntilExpiry (gid lane : Nat) (s : State) : Res :=
  .next (s.modSub gid lane fun u =>
    match u.wait with
    | .napUntil t => if t ≤ s.meridian then u.resume else u
    | _ => u)

/-- NAP_CYCLE_EXPIRY (R153). -/
def execNapCycleExpiry (gid lane : Nat) (s : State) : Res :=
  .next (s.modSub gid lane fun u =>
    match u.wait with
    | .napCyc t => if t ≤ s.cycles then u.resume else u
    | _ => u)

/-- WAKE of one group (R154). -/
def wakeGroup (g : Group) : Group :=
  if g.subs.any fun u => u.wait == .napWake then
    { g with subs := g.subs.map fun u => if u.wait == .napWake then u.resume else u }
  else { g with token := true }

def execWake (f : UniR) (s : State) : Res :=
  uniform {} f.g s fun c s =>
    let x := c.sReg f.a
    if x.extractLsb' 5 58 != 0 then trapAll c s cILLEGAL
    else
      let hit := fun (g : Group) => g.tid == c.t.tid && (x.getLsbD 63 || g.gslot == (x.extractLsb' 0 5).toNat)
      fin c { s with groups := s.groups.map fun g => if hit g then wakeGroup g else g }

end Sys2Proof.Machine
end

