-- ==== Sys2Proof/Machine/Tile.lean ====
section
/-! DEFINITION. Tile operations: TILE, TWAIT, TZERO, MODSET, CTNRD (uniform OPs 20, 21, 23 to 25) and the tile queue's own
steps (R227 to R245, R259 to R262). -/

namespace Sys2Proof.Machine

/-! ### Handles and the queue (R239, R241) -/

def TileHandle.none : TileHandle := ⟨0, 0, false, 0⟩
def Team.handle (t : Team) (e : Nat) : TileHandle := t.handles.getD e TileHandle.none
def Team.setHandle (t : Team) (e : Nat) (h : TileHandle) : Team :=
  { t with handles := (List.range 32).map fun i => if i = e then h else t.handle i }

/-- An entry whose operation's deferred record is still pending. -/
def handleHeld (s : State) (t : Team) (e : Nat) : Bool :=
  s.groups.any fun g => g.tid == t.tid && g.defer.any fun d => decide (4 ≤ d.kind) && d.order == (t.handle e).seq

/-- The entry a TILE or TDRAIN takes: of those free, the one that completed earliest. -/
def freeHandle (s : State) (t : Team) : Option Nat :=
  (List.range 32).foldl (fun b e =>
    if (t.handle e).busy || handleHeld s t e then b
    else match b with
      | none => some e
      | some a => if (t.handle e).doneAt < (t.handle a).doneAt then some e else b) none

def queueRoom (s : State) (core : Nat) : Bool := decide ((s.core core).tileQ.length < Config.tileQueueLen)

def enqueue (s : State) (core : Nat) (o : TileOp) : State := s.modCore core fun x => { x with tileQ := x.tileQ ++ [o] }

def ownsSlot (t : Team) (slot : Nat) : Bool := t.acc.getLsbD slot

def State.acc (s : State) (core slot : Nat) : Acc := NMap.get Acc.empty slot (s.core core).accs
def State.setAcc (s : State) (core slot : Nat) (a : Acc) : State :=
  s.modCore core fun x => { x with accs := NMap.set Acc.empty slot a x.accs }

/-! ### An operation's team and slot (R18, R72, R228) -/

/-- The team of an operation; one that has ended holds no local part any more. -/
def State.opTeam (s : State) (o : TileOp) : Team := (s.team? o.tid).getD { o.team with ways := [], segs := [], cols := [], stash := [], stashLines := [], cow := [] }

/-- The slot an operation works on: the core's, or what its ended team left. -/
def State.opAcc (s : State) (core : Nat) (o : TileOp) : Acc :=
  if (s.team? o.tid).isSome then s.acc core o.slot
  else (((s.core core).lostAccs.find? fun q => q.1 == o.tid && q.2.1 == o.slot).map fun q => q.2.2).getD Acc.empty
def State.setOpAcc (s : State) (core : Nat) (o : TileOp) (a : Acc) : State :=
  if (s.team? o.tid).isSome then s.setAcc core o.slot a
  else s.modCore core fun x => { x with lostAccs := x.lostAccs.map fun q => if q.1 == o.tid && q.2.1 == o.slot then (q.1, q.2.1, a) else q }
/-- The handle of an operation of the team (R239). -/
def Team.opHandle (t : Team) (o : TileOp) : Nat := (t.handle o.entry).seq * 256 + o.entry

/-- What an ended team left goes when no operation of it is queued any more. -/
def trimLost (s : State) (core : Nat) : State :=
  s.modCore core fun x => { x with lostAccs := x.lostAccs.filter fun q => x.tileQ.any fun o => o.tid == q.1 && o.slot == q.2.1 }

/-- Take a handle and queue an operation, or wait for one with the record `bs` that was read at issue; a waiting fibre with a pending
fragment's error or record takes it first (R239, R256, R301). -/
def queueOp (c : Ctx) (s : State) (d : BitVec 6) (bs : List Byte) (kind : TileKind) (slot size : Nat) (tags : List (Nat × Nat × Nat)) : Res :=
  match freeHandle s c.t, queueRoom s c.core with
  | some e, true =>
    let seq := if c.t.tseq = 2 ^ 32 - 1 then 1 else c.t.tseq + 1
    let taken := fun (t : Team) => { t.setHandle e ⟨seq, 1, true, 0⟩ with tseq := seq }
    let s := s.modTeam c.t.tid taken
    let o : TileOp :=
      { kind := kind, slot := slot, tid := c.t.tid, gid := c.gid, lane := lowestLane c.active, pc := c.u.pc, entry := e,
        tags := tags, running := false, code := 0, fault := none, size := size, team := taken c.t }
    finS c (enqueue s c.core o) d (BitVec.ofNat 64 (seq * 256 + e))
  | none, _ => stallPoint c s (hold bs)
  | some _, false => hold bs c s

/-- A block of `n` doublewords, in global or local memory, read as the fibre's LD.d or LDL. -/
def readBlock (local_ : Bool) (n : Nat) (s : State) (c : Ctx) (lane a : Nat) : State × Except (Nat × Nat) (List Byte) :=
  if local_ then
    (List.range n).foldl (fun acc i =>
      match acc with
      | (s, .error e) => (s, .error e)
      | (s, .ok bs) =>
        match localRead s c lane (a + 8 * i) 8 8 with
        | (s, .error it) => (s, .error (it.cause, it.addr))
        | (s, .ok (_, w)) => (s, .ok (bs ++ w))) (s, Except.ok [])
  else readRecord n s c lane a

/-! ### The parameter block (R231, R232) -/

def bCtl (b : List Byte) : Nat := fieldN b 0 4
def bK (b : List Byte) : Nat := fieldN b 4 2
def bKv (b : List Byte) : Nat := fieldN b 6 2
def bM (b : List Byte) : Nat := fieldN b 8 1
def bN (b : List Byte) : Nat := fieldN b 9 1
def bMcMask (b : List Byte) : Nat := fieldN b 0x0A 2
def bMcDest (b : List Byte) : Nat := fieldN b 0x0C 4
def bK0 (b : List Byte) : Nat := fieldN b 0x10 4
def bSlot (b : List Byte) : Nat := bitsN (bCtl b) 22 21
def bAccum (b : List Byte) : Bool := bitN (bCtl b) 23
def bRaw (b : List Byte) : Bool := bitN (bCtl b) 20
def bSigned (b : List Byte) : Bool := bitN (bCtl b) 19
def bAFmt (b : List Byte) : Nat := bitsN (bCtl b) 15 13
def bBFmt (b : List Byte) : Nat := bitsN (bCtl b) 18 16
def bSparse (b : List Byte) : Nat := bitsN (bCtl b) 12 11
def mcBytes (b : List Byte) : Nat := 96 * bK b + 256
/-- The cores of MC_MASK. -/
def mcCores (b : List Byte) (cluster : Nat) : List Nat :=
  ((List.range 16).filter fun i => bitN (bMcMask b) i).map fun i => 16 * cluster + i

/-- One operand of a block, by rows. -/
structure Operand where
  fmt : Nat
  loc : Bool
  bank : Nat
  addr : Nat
  scale : Nat
  stride : Nat
  sstride : Nat
  len : Nat
  rows : Nat
  sparse : Nat
  mask : Nat
  mstride : Nat
  deriving DecidableEq, Repr

def operandA (b : List Byte) : Operand :=
  ⟨bAFmt b, bitN (bCtl b) 10, bitsN (bCtl b) 8 6, fieldN b 0x18 8, fieldN b 0x20 8, fieldN b 0x28 4, fieldN b 0x2C 4, fieldN b 0x14 2,
    bM b, 0, 0, 0⟩
def operandB (b : List Byte) : Operand :=
  ⟨bBFmt b, bitN (bCtl b) 9, bitsN (bCtl b) 5 3, fieldN b 0x30 8, fieldN b 0x38 8, fieldN b 0x40 4, fieldN b 0x44 4, fieldN b 0x16 2,
    bN b, bSparse b, fieldN b 0x48 8, fieldN b 0x50 4⟩

/-! ### Checks (R235, R236, R238) -/

/-- Is an address within its space (R231)? -/
def addrOk (loc : Bool) (a : Nat) : Bool := if loc then decide (a < 2 ^ 32) else decide (a < Config.maxVa)

/-- Ranges of an operand's own fields, used by its format or not, but for those that R236 has ignored, and its mode (R231, R235). -/
def operandOk (raw : Bool) (o : Operand) : Bool :=
  addrOk o.loc o.addr && addrOk o.loc o.mask && decide (o.mstride % 4 = 0) && (o.sparse == 0 || o.fmt == 0) &&
  (if raw then decide (o.fmt = 3 ∨ o.fmt = 4) else decide (o.fmt < 3 ∨ o.fmt = 5)) &&
  (o.fmt == 5 ||
    ((if o.fmt = 3 then decide (o.scale < 2 ^ 32) else addrOk o.loc o.scale) && decide (o.sstride % 4 = 0) &&
     (if raw then decide (o.len = 0) else decide (o.len % 24 = 0) && decide (24 ≤ o.len) && decide (o.len ≤ 12288))))

def usesBanks (fmt : Nat) : Bool := fmt == 1 || fmt == 2 || fmt == 4

/-- The tensor shape record (R236). -/
def tsrOk (r : List Byte) : Bool :=
  let pad := fieldN r 0x10 2
  let h := fieldN r 0 2
  let w := fieldN r 2 2
  let ch := fieldN r 4 2
  decide (0 < h) && decide (0 < w) && decide (2 ≤ ch) && decide (ch % 2 = 0) &&
  ((List.range 6).all fun i => decide (0 < fieldN r (6 + i) 1)) &&
  decide (pad < 4096) && pad != 2048 && fieldN r 0x12 6 == 0 && (slice r 0x2C 20).all (· == 0) &&
  decide (fieldN r 0x20 8 % 4 = 0) &&
  decide (fieldN r 0x0A 1 * (fieldN r 6 1 - 1) + 1 ≤ h + fieldN r 0x0C 1 + fieldN r 0x0D 1) &&
  decide (fieldN r 0x0B 1 * (fieldN r 7 1 - 1) + 1 ≤ w + fieldN r 0x0E 1 + fieldN r 0x0F 1)

-- DEDUCED: notes/assumptions/34
/-- The first check of R238, on the block's own fields. -/
def blockOk (feat : DWord) (b : List Byte) : Bool :=
  let k := bK b
  let raw := bRaw b
  let a := operandA b
  let o := operandB b
  bitsN (bCtl b) 31 30 == 0 && bitsN (bCtl b) 1 0 == 0 && fieldN b 0x54 4 == 0 && (slice b 0x60 32).all (· == 0) &&
  decide (k % 48 = 0) && decide (48 ≤ k) && decide (k ≤ 12288) && decide (1 ≤ bKv b) && decide (bKv b ≤ k) &&
  decide (1 ≤ bM b) && decide (bM b ≤ 64) && decide (1 ≤ bN b) && decide (bN b ≤ 64) && decide (bK0 b % 48 = 0) &&
  (raw || !bSigned b) && decide (bAFmt b < 5) && decide (bBFmt b < 6) && decide (bSparse b < 3) &&
  operandOk raw a && operandOk raw o &&
  (!raw || (decide (bSparse b = 0) && decide (bMcMask b = 0))) &&
  (!(usesBanks (bAFmt b) || usesBanks (bBFmt b)) || feat.getLsbD 1) && (!raw || feat.getLsbD 2) &&
  fieldN b 0x58 8 % 64 == 0 && addrOk false (fieldN b 0x58 8) && decide (bMcDest b < 2 ^ 23) &&
  (bMcMask b == 0 || (decide (bMcDest b % 128 = 0) && decide (Config.segBase ≤ bMcDest b) && decide (bMcDest b < Config.colBase)))

/-- The first check of R238, on the tensor shape record of an implicit convolution. -/
def shapeOk (b tsr : List Byte) : Bool :=
  bBFmt b != 5 || (tsrOk tsr && addrOk (operandB b).loc (fieldN tsr 0x18 8) && addrOk (operandB b).loc (fieldN tsr 0x20 8))

/-- Is the panel inside one block (R238)? -/
def inOneBlock (b : List Byte) (o : Operand) : Bool :=
  o.fmt == 5 || (o.len % bK b == 0 && bK0 b / o.len == (bK0 b + bK b - 1) / o.len)

/-- The status that R238 gives before the first K-step, 0 when every check passes. -/
def blockStatus (feat : DWord) (m : Moduli) (x : Acc) (b tsr : List Byte) : Nat :=
  if !(blockOk feat b && shapeOk b tsr) then 3
  else if bAccum b && !x.valid then 10
  else if bAccum b && decide (0 < x.ktot) && (x.m != bM b || x.n != bN b || x.raw != bRaw b || x.signed != bSigned b) then 3
  else if !bRaw b && !(inOneBlock b (operandA b) && inOneBlock b (operandB b)) then 2
  else if !bRaw b && decide (m.prod < 2 * 2047 * 2047 * ((if bAccum b then x.ktot else 0) + bK b) + 1) then 9
  else 0

/-! ### Operand fetch (R189, R233, R234, R236) -/

/-- A fetch that failed: the status, and the address and cause of its deferred record. -/
abbrev Fail := Nat × Option (Nat × Nat)

/-- A row of an operand: its codes, none at zero fill, its scale word, and in raw mode its residues by channel. -/
structure TRow where
  codes : List (Option Nat)
  scale : Nat
  chans : List (List Nat)
  deriving DecidableEq, Repr

/-- Mantissas of an array of triples. -/
def codesOf : List Byte → List Nat
  | a :: b :: c :: rest =>
    (a.toNat + b.toNat % 16 * 256) :: (b.toNat / 16 + c.toNat * 16) :: codesOf rest
  | a :: b :: [] => [a.toNat + b.toNat % 16 * 256]
  | _ => []

/-- An operand read of the tile operation of a handle. -/
def opRead (handle : Nat) (s : State) (t : Team) (loc : Bool) (addr n : Nat) : State × Except Fail (List Byte) :=
  match (if loc then engLocalRead handle s t addr n else engRead s (some t) t.asid.toNat addr n) with
  | (s, .ok bs) => (s, .ok bs)
  | (s, .error (va, k)) => (s, .error (if k = cMUNCORR ∨ k = cLUNCORR then (13, none) else (11, some (va, k))))

/-- The entries that indices name, each as its slots (R220, R222). -/
def expandIdx (s : State) (t : Team) (bank : Nat) (raw : Bool) (handle : Nat) (idx : List Nat) : State × Except Fail (List (List Nat)) :=
  let x := s.bank t.core bank
  if !x.ownedBy t then (s, .error (4, none))
  else if x.kind != (if raw then 3 else 2) then (s, .error (5, none))
  else if idx.any fun i => decide (x.valid ≤ i) then (s, .error (6, none))
  else
    match idx.find? fun i => x.badEntry i with
    | some i => (parityError s t.core bank i handle, .error (13, none))
    | none => (s, .ok (idx.map fun i => (List.range (slotCount x.kind)).map fun n => slotOf x.kind (x.entry i) n))

/-- Codes padded with zero fill to the panel length. -/
def padCodes (k kv : Nat) (cs : List Nat) : List (Option Nat) := (cs.take kv).map some ++ List.replicate (k - kv) none

/-- The values of a sparse column laid out along the panel: `masks` by group, `vals` in order. -/
def spread (kv n : Nat) (masks vals : List Nat) (k : Nat) : Option Nat :=
  let m := masks.getD (k / 24) 0
  if k < kv && bitN m (k % 24) then some (vals.getD (k / 24 * n + popN (k % 24) m) 0) else none

/-- The codes of row `r` (formats 0 to 2, dense or sparse). -/
def rowCodes (s : State) (t : Team) (b : List Byte) (o : Operand) (handle r : Nat) : State × Except Fail (List (Option Nat)) :=
  let k := bK b
  let kv := bKv b
  let k0 := bK0 b
  let base := o.addr + r * o.stride
  if o.sparse ≠ 0 then
    let n := if o.sparse = 1 then 12 else 8
    let groups := (kv + 23) / 24
    match opRead handle s t o.loc (o.mask + r * o.mstride + 4 * (k0 / 24)) (4 * groups) with
    | (s, .error e) => (s, .error e)
    | (s, .ok bs) =>
      let masks := (List.range groups).map fun h => fieldN bs (4 * h) 4
      if masks.any fun m => decide (2 ^ 24 ≤ m) || popN 24 m != n then (s, .error (7, none))
      else
        let last := kv - 24 * (groups - 1)
        let need := n * (groups - 1) + popN last (masks.getD (groups - 1) 0)
        match opRead handle s t o.loc (base + 3 * (k0 * n / 24 / 2)) ((3 * need + 1) / 2) with
        | (s, .error e) => (s, .error e)
        | (s, .ok vs) => (s, .ok ((List.range k).map (spread kv n masks (codesOf vs))))
  else if o.fmt = 0 then
    match opRead handle s t o.loc (base + 3 * (k0 / 2)) ((3 * kv + 1) / 2) with
    | (s, .error e) => (s, .error e)
    | (s, .ok bs) => (s, .ok (padCodes k kv (codesOf bs)))
  else
    let wide := o.fmt = 1
    match opRead handle s t o.loc (base + (if wide then k0 / 8 else k0 / 16)) (if wide then (kv + 7) / 8 else (kv + 15) / 16) with
    | (s, .error e) => (s, .error e)
    | (s, .ok bs) =>
      let nib := bs.foldr (fun x acc => x.toNat % 16 :: x.toNat / 16 :: acc) []
      let idx := if wide then bs.map (·.toNat) else nib.take ((kv + 7) / 8)
      match expandIdx s t o.bank false handle idx with
      | (s, .error e) => (s, .error e)
      | (s, .ok es) => (s, .ok (padCodes k kv es.flatten))

/-- A scale word (R233, R238). -/
def readScale (handle : Nat) (s : State) (t : Team) (loc : Bool) (addr : Nat) : State × Except Fail Nat :=
  match opRead handle s t loc addr 4 with
  | (s, .error e) => (s, .error e)
  | (s, .ok bs) => if bitsN (leNat bs) 30 22 = 0 then (s, .ok (leNat bs % 2 ^ 22)) else (s, .error (3, none))

/-- The residues of row `r` in raw mode, by channel (formats 3 and 4). -/
def rowChans (s : State) (t : Team) (b : List Byte) (o : Operand) (handle r : Nat) : State × Except Fail (List (List Nat)) :=
  let kv := bKv b
  let m := t.moduli
  let base := o.addr + r * o.stride
  let ok := fun (ch x : Nat) => decide (x < m.mods.getD ch 1)
  if o.fmt = 3 then
    (List.range m.count).foldl (fun acc ch =>
      match acc with
      | (s, .error e) => (s, .error e)
      | (s, .ok rows) =>
        match opRead handle s t o.loc (base + ch * o.scale + 2 * bK0 b) (2 * kv) with
        | (s, .error e) => (s, .error e)
        | (s, .ok bs) =>
          let xs := (List.range kv).map fun i => fieldN bs (2 * i) 2
          if xs.all (ok ch) then (s, .ok (rows ++ [xs])) else (s, .error (8, none))) (s, Except.ok [])
  else
    match opRead handle s t o.loc (base + bK0 b) kv with
    | (s, .error e) => (s, .error e)
    | (s, .ok bs) =>
      match expandIdx s t o.bank true handle (bs.map (·.toNat)) with
      | (s, .error e) => (s, .error e)
      | (s, .ok es) =>
        if es.all fun e => (List.range m.count).all fun ch => ok ch (e.getD ch 0) then
          (s, .ok ((List.range m.count).map fun ch => es.map fun e => e.getD ch 0))
        else (s, .error (8, none))

/-- One element of the implicit convolution (R236), none at zero fill. -/
def convElem (handle : Nat) (s : State) (t : Team) (b tsr : List Byte) (j k : Nat) : State × Except Fail (Option Nat) :=
  let f := fun (o n : Nat) => fieldN tsr o n
  let h := f 0 2; let w := f 2 2; let ch := f 4 2; let fh := f 6 1; let fw := f 7 1
  let oh := (h + f 0x0C 1 + f 0x0D 1 - f 0x0A 1 * (fh - 1) - 1) / f 8 1 + 1
  let ow := (w + f 0x0E 1 + f 0x0F 1 - f 0x0B 1 * (fw - 1) - 1) / f 9 1 + 1
  let p := f 0x28 4 + j
  let g := bK0 b + k
  if oh * ow ≤ p || fh * fw * ch ≤ g || bKv b ≤ k then (s, .ok none)
  else
    let tt := g / ch
    let iy : Int := (p / ow * f 8 1 + tt / fw * f 0x0A 1 : Nat) - (f 0x0C 1 : Nat)
    let ix : Int := (p % ow * f 9 1 + tt % fw * f 0x0B 1 : Nat) - (f 0x0E 1 : Nat)
    if iy < 0 ∨ (h : Int) ≤ iy ∨ ix < 0 ∨ (w : Int) ≤ ix then (s, .ok (some (f 0x10 2)))
    else
      let n := (iy.toNat * w + ix.toNat) * ch + g % ch
      match opRead handle s t (operandB b).loc (f 0x18 8 + 3 * (n / 2) + n % 2) 2 with
      | (s, .error e) => (s, .error e)
      | (s, .ok bs) => (s, .ok (some (if n % 2 = 0 then leNat bs % 4096 else leNat bs / 16)))

def convColumn (handle : Nat) (s : State) (t : Team) (b tsr : List Byte) (j : Nat) : State × Except Fail (List (Option Nat)) :=
  (List.range (bK b)).foldl (fun acc k =>
    match acc with
    | (s, .error e) => (s, .error e)
    | (s, .ok cs) =>
      match convElem handle s t b tsr j k with
      | (s, .error e) => (s, .error e)
      | (s, .ok x) => (s, .ok (cs ++ [x]))) (s, Except.ok [])

/-- Row `r` of an operand; a row at or above the operand's count is zero fill. -/
def fetchRow (s : State) (t : Team) (b tsr : List Byte) (o : Operand) (handle r : Nat) : State × Except Fail TRow :=
  let fill : List (Option Nat) := List.replicate (bK b) none
  if bRaw b then
    if o.rows ≤ r then (s, .ok ⟨[], 0, []⟩)
    else
      match rowChans s t b o handle r with
      | (s, .error e) => (s, .error e)
      | (s, .ok ch) => (s, .ok ⟨[], 0, ch⟩)
  else if o.fmt = 5 then
    match readScale handle s t o.loc (fieldN tsr 0x20 8) with
    | (s, .error e) => (s, .error e)
    | (s, .ok w) =>
      if o.rows ≤ r then (s, .ok ⟨fill, w, []⟩)
      else
        match convColumn handle s t b tsr r with
        | (s, .error e) => (s, .error e)
        | (s, .ok cs) => (s, .ok ⟨cs, w, []⟩)
  else if o.rows ≤ r then (s, .ok ⟨fill, 0, []⟩)
  else
    match rowCodes s t b o handle r with
    | (s, .error e) => (s, .error e)
    | (s, .ok cs) =>
      match readScale handle s t o.loc (o.scale + r * o.sstride + 4 * (bK0 b / o.len)) with
      | (s, .error e) => (s, .error e)
      | (s, .ok w) => (s, .ok ⟨cs, w, []⟩)

def fetchRows (t : Team) (b tsr : List Byte) (o : Operand) (handle : Nat) : List Nat → State → State × Except Fail (List TRow)
  | [], s => (s, .ok [])
  | r :: rs, s =>
    match fetchRow s t b tsr o handle r with
    | (s, .error e) => (s, .error e)
    | (s, .ok x) =>
      match fetchRows t b tsr o handle rs s with
      | (s, .error e) => (s, .error e)
      | (s, .ok xs) => (s, .ok (x :: xs))

/-! ### Accumulation (R230, R241, R242) -/

inductive El where
  | num (q : Int)
  | nan
  | inf (neg : Bool)
  deriving DecidableEq, Repr

/-- R230. -/
def elOf (w : Nat) : Option Nat → El
  | none => .num 0
  | some code =>
    if scaleE w = 0 then .num 0
    else if scaleE w = 255 then .nan
    else if code = 2048 then (match scaleSK w with | 1 => .inf false | 2 => .inf true | _ => .nan)
    else .num (BitVec.ofNat 12 code).toInt

def El.q : El → Int
  | .num q => q
  | _ => 0

/-- The special product of two elements (R242): NaN, +∞, −∞, invalid. -/
def special (a b : El) : BitVec 4 :=
  match a, b with
  | .nan, _ => 1
  | _, .nan => 1
  | .inf x, .inf y => if x = y then 2 else 4
  | .inf x, .num q => if q = 0 then 9 else if x = decide (q < 0) then 2 else 4
  | .num q, .inf x => if q = 0 then 9 else if x = decide (q < 0) then 2 else 4
  | .num _, .num _ => 0

def TRow.els (r : TRow) : List El := r.codes.map (elOf r.scale)

def dotI (a b : List El) : Int := (List.zipWith (fun x y => x.q * y.q) a b).sum
def dotN (a b : List Nat) : Nat := (List.zipWith (· * ·) a b).sum
def dotSpecial (a b : List El) : BitVec 4 := (List.zipWith special a b).foldl (· ||| ·) 0

/-- Does the panel begin the slot's sum (R241)? -/
def freshSum (b : List Byte) (x : Acc) : Bool := !bAccum b || x.ktot == 0

/-- The slot once the TILE has started on it and read nothing yet (R229, R241). -/
def startSlot (b : List Byte) (x : Acc) : Acc :=
  let y := if bAccum b then x else Acc.empty
  let y := if freshSum b x then { y with m := bM b, n := bN b, raw := bRaw b, signed := bSigned b } else y
  { y with statid := bitsN (bCtl b) 29 24 }

/-- The slot after a panel (R241). -/
def accumulate (m : Moduli) (b : List Byte) (x0 : Acc) (ra rb : List TRow) : Acc :=
  let x := startSlot b x0
  let scales := fun (rs : List TRow) => NMap.tab 0 64 fun i => (rs.getD i ⟨[], 0, []⟩).scale % 2 ^ 20
  let x := if freshSum b x0 then { x with rs := if bRaw b then [] else scales ra, cs := if bRaw b then [] else scales rb } else x
  let ea := ra.map TRow.els
  let eb := rb.map TRow.els
  let row := fun (rs : List TRow) (i ch : Nat) => (rs.getD i ⟨[], 0, []⟩).chans.getD ch []
  { x with
    ktot := x.ktot + bK b
    res := NMap.tab 0 (m.count * 4096) fun k =>
      let ch := k / 4096; let i := k / 64 % 64; let j := k % 64
      let md := m.mods.getD ch 1
      let add := if bRaw b then dotN (row ra i ch) (row rb j ch) % md else modI (dotI (ea.getD i []) (eb.getD j [])) md
      (NMap.get 0 k x.res + add) % md
    flags := if bRaw b then x.flags else
      NMap.tab 0 4096 fun k => NMap.get 0 k x.flags ||| dotSpecial (ea.getD (k / 64) []) (eb.getD (k % 64) []) }

/-- Do the scale words of an accumulating panel differ from the slot's (R238)? -/
def scalesDiffer (b : List Byte) (x : Acc) (ra rb : List TRow) : Bool :=
  bAccum b && decide (0 < x.ktot) && !bRaw b &&
  ((List.range (bM b)).any (fun i => (ra.getD i ⟨[], 0, []⟩).scale % 2 ^ 20 != NMap.get 0 i x.rs) ||
   (List.range (bN b)).any (fun j => (rb.getD j ⟨[], 0, []⟩).scale % 2 ^ 20 != NMap.get 0 j x.cs))

/-! ### Multicast (R237) -/

/-- Pairs of mantissas as triples. -/
def triples : List Nat → List Byte
  | a :: b :: rest => natLe 3 (a % 4096 + 4096 * (b % 4096)) ++ triples rest
  | [a] => natLe 3 (a % 4096)
  | [] => []

def landingBytes (rows : List TRow) : List Byte :=
  ((List.range 64).map fun r => triples (((rows.getD r ⟨[], 0, []⟩).codes).map (·.getD 0))).flatten ++
  ((List.range 64).map fun r => natLe 4 ((rows.getD r ⟨[], 0, []⟩).scale % 2 ^ 20)).flatten

/-- Land at every consumer; tells whether one was skipped. -/
def multicast (s : State) (t : Team) (o : TileOp) (b : List Byte) (rows : List TRow) : State × Bool :=
  (mcCores b (clusterOf t.core)).foldl (fun acc core =>
    if mayLand acc.1 t o.tags core (bMcDest b) (mcBytes b) then (landLocal acc.1 core (bMcDest b) (landingBytes rows), acc.2)
    else (acc.1, true)) (s, false)

/-! ### TILE (R240) -/

def tile (f : UniR) (loc : Bool) (s : State) : Res :=
  uniform { cc := true } f.g s fun c s =>
    let lane := lowestLane c.active
    let a := if loc then ((c.sReg f.a).extractLsb' 0 32).toNat else (c.sReg f.a).toNat
    if (lanesOf c.active).length ≠ 1 then trapAll c s cTILE
    else if a % 128 ≠ 0 then trapAllMem c s cMISALIGNED a
    else if pendingStores s c.gid c.active true then stall c s
    else
      match heldOr c s (fun s => readBlock loc 16 s c lane a) with
      | (s, .error (k, va)) => recordFault c s k va
      | (s, .ok b) =>
        if !ownsSlot c.t (bSlot b) then trapAll c s cACCOWNER
        else
          let tags := (mcCores b (clusterOf c.core)).foldl (fun acc core => acc ++ landingTags s (bMcDest b) (mcBytes b) core) []
          queueOp c s f.d b (.tile b) (bSlot b) 128 tags

def execTile (f : UniR) (s : State) : Res := tile f false s
def execTileL (f : UniR) (s : State) : Res := tile f true s

/-! ### The queue's own steps (R241) -/

/-- The first operation not yet started, when no earlier one on its slot is unfinished. -/
def nextToStart (s : State) (core : Nat) : Option TileOp :=
  let q := (s.core core).tileQ
  match q.find? fun o => !o.running with
  | none => none
  | some o => if q.any fun x => x.running && x.slot == o.slot then none else some o

/-- Replace the first operation not yet started. -/
def startedQ (o : TileOp) : List TileOp → List TileOp
  | [] => []
  | x :: xs => if x.running then x :: startedQ o xs else o :: xs

/-- Remove the first operation that `p` accepts. -/
def dropFirst (p : TileOp → Bool) : List TileOp → List TileOp
  | [] => []
  | x :: xs => if p x then xs else x :: dropFirst p xs

def TileOp.isTile (o : TileOp) : Bool := match o.kind with | .tile _ => true | _ => false
def TileOp.isDrain (o : TileOp) : Bool := match o.kind with | .drain _ _ => true | _ => false

/-- Does a CBLD of a bank the block names still run (R216)? -/
def banksLoading (s : State) (core : Nat) (b : List Byte) : Bool :=
  let busy := fun (o : Operand) => usesBanks o.fmt && (s.bank core o.bank).load.isSome
  busy (operandA b) || busy (operandB b)

-- DEDUCED: notes/assumptions/33, 35, 117
/-- What a TILE does when it runs: the state, its status, and the address and cause of a FAULT. -/
def runTile (s : State) (t : Team) (o : TileOp) (b : List Byte) : State × Nat × Option (Nat × Nat) :=
  let x := s.opAcc t.core o
  let handle := t.opHandle o
  let fail := fun (y : Acc) (s : State) (e : Fail) => (s.setOpAcc t.core o { y with valid := false }, e.1, e.2)
  let bad := fail x
  let late := fail (startSlot b x)
  match (if bBFmt b = 5 && blockOk s.regs.featAccept b then opRead handle s t false (fieldN b 0x58 8) 64 else (s, .ok [])) with
  | (s, .error e) => bad s e
  | (s, .ok tsr) =>
    let st := blockStatus s.regs.featAccept t.moduli x b tsr
    if st ≠ 0 then bad s (st, none)
    else
      match fetchRows t b tsr (operandA b) handle (List.range 64) s with
      | (s, .error e) => late s e
      | (s, .ok ra) =>
        match fetchRows t b tsr (operandB b) handle (List.range 64) s with
        | (s, .error e) => late s e
        | (s, .ok rb) =>
          if scalesDiffer b x ra rb then late s (2, none)
          else
            match multicast s t o b (if bitN (bCtl b) 2 then rb else ra) with
            | (s, skipped) =>
              (s.setOpAcc t.core o (accumulate t.moduli b x ra rb), if skipped then 12 else 0, none)

/-- TILE_OPERATION_START (R241). -/
def execTileOperationStart (core : Nat) (s : State) : Res :=
  match nextToStart s core with
  | none => .next s
  | some o =>
    match o.kind with
    | .tile b =>
      if ((s.core core).tileQ.any fun q => q.running && q.isTile) || banksLoading s core b then .next s
      else
        match runTile s (s.opTeam o) o b with
        | (s1, code, fault) =>
          let o := { o with running := true, code := code, fault := fault.map fun x => (0, x.1, x.2) }
          .next <| if fault.any (·.2 == cAWAY) then s else s1.modCore core fun y => { y with tileQ := startedQ o y.tileQ }
    | _ => .next s

/-- An operation leaves the queue: its handle and its deferred record (R239, R244, R252). -/
def finishOp (s : State) (core : Nat) (o : TileOp) (code kind : Nat) (fault : Option (Nat × Nat × Nat)) : State :=
  let t := s.opTeam o
  let s := trimLost (s.modCore core fun y => { y with tileQ := dropFirst (fun q => q == o) y.tileQ }) core
  let s1 := s.modTeam o.tid fun t => t.setHandle o.entry ⟨(t.handle o.entry).seq, code, false, s.doneClock⟩
  let s1 := opEnded { s1 with doneClock := s1.doneClock + 1 } t.seq
  match fault, s1.group? o.gid with
  | some (_, va, cause), some g =>
    addDefer s1 o.gid o.lane va o.pc t.asid.toNat t.tslot g.gslot cause o.size kind (t.handle o.entry).seq 0
  | _, _ => s1

/-- TILE_OPERATION_COMPLETE (R239, R244). -/
def execTileOperationComplete (core : Nat) (s : State) : Res :=
  match (s.core core).tileQ.find? fun q => q.running && q.isTile with
  | none => .next s
  | some o => .next (finishOp s core o o.code 4 o.fault)

/-! ### TZERO, CTNRD, MODSET, TWAIT -/

def slotOp (c : Ctx) (kind : TileKind) (slot : Nat) : TileOp :=
  { kind := kind, slot := slot, tid := c.t.tid, gid := c.gid, lane := 0, pc := c.u.pc, entry := 32, tags := [], running := false,
    code := 0, fault := none, size := 0, team := c.t }

def execTzero (f : UniR) (s : State) : Res :=
  uniform { cc := true } f.g s fun c s =>
    let slot := f.a.toNat
    if !ownsSlot c.t slot then trapAll c s cACCOWNER
    else if !queueRoom s c.core then stall c s
    else fin c (enqueue s c.core (slotOp c .zero slot))

/-- The team that owns a slot of a core. -/
def accOwner (s : State) (core slot : Nat) : Option Team := s.teams.find? fun t => t.core == core && ownsSlot t slot

/-- TZERO_RUN (R243). -/
def execTzeroRun (core : Nat) (s : State) : Res :=
  match nextToStart s core with
  | none => .next s
  | some o =>
    match o.kind with
    | .zero =>
      let s := s.modCore core fun y => { y with tileQ := dropFirst (fun q => !q.running) y.tileQ }
      .next (trimLost (s.setOpAcc core o Acc.empty) core)
    | _ => .next s

def execCtnrd (f : UniR) (s : State) : Res :=
  uniform { cc := true } f.g s fun c s => finS c s f.d (ctnValue s c.core)

def execCtnrdClr (f : UniR) (s : State) : Res :=
  uniform { cc := true, priv := true } f.g s fun c s =>
    finS c (s.modCore c.core fun y => { y with ctn := 0 }) f.d (ctnValue s c.core)

def execCtnrdInject (f : UniR) (s : State) : Res :=
  uniform { cc := true, priv := true } f.g s fun c s =>
    let x := (c.sReg f.a).toNat
    let pattern := bitsN x 11 0
    let chan := bitsN x 14 12
    let slot := bitsN x 16 15
    let wrong := match accOwner s c.core slot with | some t => decide (t.moduli.count ≤ chan) | none => false
    if bitsN x 31 29 ≠ 0 || pattern = 0 || x / 2 ^ 32 ≠ 0 || wrong then trapAll c s cILLEGAL
    else if !queueRoom s c.core then stall c s
    else fin c (enqueue s c.core (slotOp c (.inject pattern chan (bitsN x 22 17) (bitsN x 28 23)) slot))

/-- CTN_INJECTION_RUN (R262). -/
def execCtnInjectionRun (core : Nat) (s : State) : Res :=
  match nextToStart s core with
  | none => .next s
  | some o =>
    match o.kind with
    | .inject pattern chan row col =>
      let s := s.modCore core fun y => { y with tileQ := dropFirst (fun q => !q.running) y.tileQ }
      let x := s.acc core o.slot
      let k := chan * 4096 + row * 64 + col
      .next (trimLost (if (accOwner s core o.slot).isSome then
          s.setAcc core o.slot { x with res := NMap.set 0 k (Nat.xor (NMap.get 0 k x.res) pattern % 4096) x.res }
        else s) core)
    | _ => .next s

/-- Has the team a TILE or drain that has not finished? -/
def teamTiles (s : State) (t : Team) : Bool := (s.core t.core).tileQ.any fun o => o.tid == t.tid && (o.isTile || o.isDrain)

/-- The team takes a moduli set (R226, R227). -/
def takeModuli (s : State) (t : Team) (m : Moduli) : State :=
  let s := s.modTeam t.tid fun t => { t with moduli := assignDies s.erasedDie m }
  (List.range 4).foldl (fun s i => if ownsSlot t i then s.setAcc t.core i Acc.empty else s) s

def execModset (f : UniR) (s : State) : Res :=
  uniform { cc := true } f.g s fun c s =>
    let a := (c.sReg f.a).toNat
    if a % 64 ≠ 0 then trapAllMem c s cMISALIGNED a
    else
      match heldOr c s (fun s => readRecord 8 s c (lowestLane c.active) a) with
      | (s, .error (k, va)) => recordFault c s k va
      | (s, .ok d) =>
        match parseModuli d with
        | none => finS c s f.d 1
        | some m => if teamTiles s c.t then hold d c s else finS c (takeModuli s c.t m) f.d 0

def execModsetDefault (f : UniR) (s : State) : Res :=
  uniform { cc := true } f.g s fun c s =>
    if teamTiles s c.t then stall c s else finS c (takeModuli s c.t Moduli.default) f.d 0

/-- The value MODSET.read gives (R227). -/
def modsetValue (s : State) (t : Team) (sel : Nat) : Nat :=
  let m := t.moduli
  if sel ≤ 5 then (if sel < m.count then m.mods.getD sel 0 else 0)
  else if sel = 8 then m.p + m.q * 8 + (match s.erasedDie with | some d => 2 ^ (8 + d) | none => 0)
  else 0

def execModsetRead (f : UniR) (s : State) : Res :=
  uniform { cc := true } f.g s fun c s =>
    finS c s f.d (BitVec.ofNat 64 (modsetValue s c.t ((c.sReg f.a).extractLsb' 0 4).toNat))

def twait (f : UniR) (poll : Bool) (s : State) : Res :=
  uniform { cc := true, waitPt := true } f.g s fun c s =>
    let h := (c.sReg f.a).toNat
    let e := c.t.handle (h % 32)
    if h = 0 || bitsN h 63 40 ≠ 0 || bitsN h 7 5 ≠ 0 then finS c s f.d 15
    else if e.seq ≠ bitsN h 39 8 || e.seq == 0 then finS c s f.d 14
    else if e.busy then (if poll then finS c s f.d 1 else stall c s)
    else
      deliver 0 c s fun c s =>
        if e.code = 13 then trapAll c s cMATRIX else finS c s f.d (BitVec.ofNat 64 e.code)

def execTwait (f : UniR) (s : State) : Res := twait f false s
def execTwaitPoll (f : UniR) (s : State) : Res := twait f true s

end Sys2Proof.Machine
end

