-- ==== Sys2Proof/Machine/Ending.lean ====
section
/-! DEFINITION. The end of fibres, groups and teams: END, ENDL (uniform OP 1B) and ENDL's effect on other sub-groups
(R18, R88 to R91, R148, R157, R177). -/

namespace Sys2Proof.Machine

def State.launch? (s : State) (seq : Nat) : Option Launch := s.launches.find? fun L => L.seq == seq
def State.modLaunch (s : State) (seq : Nat) (f : Launch → Launch) : State :=
  { s with launches := s.launches.map fun L => if L.seq == seq then f L else L }

/-! ### Teams (R18, R68, R80, R91, R276, R361) -/

/-- Slots that operations of the team in the core's queue still work on. -/
def slotsQueued (s : State) (t : Team) : List Nat :=
  (List.range 4).filter fun i => ownsSlot t i && (s.core t.core).tileQ.any fun o => o.tid == t.tid && o.slot == i

/-- What a team gives back: its banks, image slot and explicit sluice entries; its parts, slots and registers go with it. Operations it
left in the tile queue keep the contents of their slots to themselves (R18, R72). -/
def releaseAllot (s : State) (t : Team) : State :=
  let stays := fun (x : ImageSlot) => s.teams.any fun u => u.tid != t.tid && u.core == t.core && u.image == some x.ref
  let s := s.modCore t.core fun y => { y with lostAccs := y.lostAccs ++ (slotsQueued s t).map fun i => (t.tid, i, NMap.get Acc.empty i y.accs) }
  let s1 := s.modCore t.core fun y =>
    { y with banks := (List.range 8).foldl (fun m b =>
               if (NMap.get Bank.free b m).ownedBy t then NMap.set Bank.free b Bank.free m else m) y.banks
             images := y.images.filter fun x => t.image != some x.ref || stays x }
  dropRowWait <| cleanSnaps
    { s1 with sluice := s1.sluice.filter (fun e => e.team != some t.tid)
              teams := s1.teams.filter fun u => u.tid != t.tid
              groups := s1.groups.filter fun g => g.tid != t.tid }

/-- The work items of a child grid, or of the launch's own, have all ended. -/
def Launch.gridDone (L : Launch) : Bool := L.live == 0 && (!pT L.pkt || L.frozen) && L.next == pTeams L.pkt
def childTeams (L : Launch) (k : ChildGrid) : Nat := ceilDiv k.count (teamFibres (pRoles L.pkt))
def childDone (L : Launch) (k : ChildGrid) : Bool := k.live == 0 && k.next == childTeams L k

/-- Template-range entries whose last fibre has ended return (R68, R87). -/
def returnRegions (s : State) (seq : Nat) : State :=
  match s.launch? seq with
  | none => s
  | some L =>
    let gone := (L.children.filter (childDone L)).map (·.id)
    let own := L.gridDone || (L.dawnEnded && !L.frozen)
    let s1 := s.modLaunch seq fun L => { L with children := L.children.filter fun k => !gone.contains k.id }
    { s1 with regions := s1.regions.filter fun r => !(r.seq == seq && ((own && L.region == some r.entry) || (r.child != 0 && gone.contains r.child))) }

/-- Dirty stash bytes of an ending team go to memory (R276). -/
def endStash (s : State) (t : Team) : State :=
  (dirtyLines t 0 t.ways.length).foldl (fun s q =>
    let bs := s.localN q.1.core q.1.phys 128
    if intoTemplate s t q.2.2.1 128 then s
    else if localBad s q.1 then localError s q.1 t.asid.toNat
    else (dirtyRuns q.2.2.2.dirty).foldl (fun s r => agentStore s 6 t.seq t.core t.asid.toNat (q.2.2.1 + r.1) (slice bs r.1 r.2)) s) s

/-- The publications of a LINKED grid's team outlive it (R177). -/
def keepPublications (s : State) (t : Team) : State :=
  if t.linked then
    s.modLaunch t.seq fun L =>
      { L with ended := t.nb.foldl (fun m q => NMap.set Nb.none (t.teamNo * 1024 + q.1) { q.2 with live := false, ended := true } m) L.ended }
  else s

/-- The end of a team (R18, R91). -/
def endTeam (s : State) (tid : Nat) : State :=
  match s.team? tid with
  | none => s
  | some t =>
    let s := keepPublications (endStash s t) t
    let s := releaseAllot s t
    let s := match t.curfew with
      | some c => { s with granules := s.granules.filter fun g => g.1 != c.granBase }
      | none => s
    match t.kind with
    | .command slot =>
      let h := NMap.get Hps.reset slot s.hps
      if h.st = 1 && !t.halted then { s with hps := NMap.set Hps.reset slot { h with st := 2 } s.hps } else s
    | .service _ => s
    | .dawn =>
      returnRegions (s.modLaunch t.seq fun L =>
        { L with dawnEnded := true, code := if L.frozen then L.code else some 5 }) t.seq
    | .grid =>
      returnRegions (s.modLaunch t.seq fun L =>
        if t.child = 0 then { L with live := L.live - 1 }
        else { L with children := L.children.map fun k => if k.id == t.child then { k with live := k.live - 1 } else k }) t.seq

-- DEDUCED: notes/assumptions/39
/-- A team whose last sub-group has ended and whose bins are empty ends (R18). -/
def endIfEmpty (s : State) (tid : Nat) : State :=
  match s.team? tid with
  | none => s
  | some t =>
    if (s.groups.any fun g => g.tid == tid) || (s.core t.core).bins.any (fun b => b.tid == tid) then s else checkExhausted (endTeam s tid) t.core

/-! ### Groups and fibres (R89) -/

/-- The group slot, uniform set and rows return (R18, R76, R157). -/
def endGroup (s : State) (g : Group) : State :=
  let s1 := s.modTeam g.tid fun t =>
    { t with slotRegs := t.slotRegs &&& ~~~(1#32 <<< g.gslot)
             roles := (List.range t.roles.length).zipWith (fun i (r : Role) =>
               if i = g.role then { r with left := r.left + (popN 60 g.rsv.toNat) } else r) t.roles }
  dropRowWait { s1 with groups := s1.groups.filter fun h => h.gid != g.gid }

/-- Fibres `m` of a group cease to exist, then their group and team where nothing is left (R89 to R91). What a restored team still had
to deliver to them goes with them (R132), and a core left with parked groups alone may raise COPY_EXHAUSTED (R77). -/
def endFibres (s : State) (gid : Nat) (m : Word) : State :=
  match s.group? gid with
  | none => s
  | some g =>
    let m := m &&& g.live
    let pass := (lanesOf m).foldl (fun a l => max a (g.passAt.getD l 0)) 0
    let s := match s.team? g.tid with
      | some t => s.modLaunch t.seq fun L => { L with pass := max L.pass pass }
      | none => s
    let s := (lanesOf m).foldl (fun s l => setNb s g.tid (32 * g.gslot + l) fun x => { x with live := false, ended := true }) s
    let ended := g.nest.filter fun q => m.getLsbD q.1
    let s : State := { s with regions := s.regions.filter fun r => !ended.any fun q => q.2 == r.entry }
    let g1 : Group :=
      { g with live := g.live &&& ~~~m
               subs := (g.subs.map fun u => { u with mask := u.mask &&& ~~~m }).filter fun u => u.mask != 0
               j := g.j.map fun w => w &&& ~~~m
               nest := g.nest.filter fun q => !m.getLsbD q.1
               defer := g.defer.filter fun d => !m.getLsbD d.lane
               late := dropLate m g.late
               delivered := g.delivered.filter fun q => !m.getLsbD q.1 }
    let s := s.setGroup g1
    let s := s.modTeam g.tid fun t => { t with restored := t.restored.filter fun d => !(d.gslot == g.gslot && m.getLsbD d.lane) }
    let core := s.groupCore g
    -- the completion test of R148 is made at the end of a group
    let s := if g1.live = 0 then testBarriers (endGroup s g1) g.tid else testMasks s gid
    endIfEmpty (checkExhausted s core) g.tid

/-- A TILE or TDRAIN of the fibres `m` that has not completed (R89). -/
def tileWork (s : State) (core gid : Nat) (m : Word) : Bool :=
  (s.core core).tileQ.any fun o => o.gid == gid && m.getLsbD o.lane && (o.isTile || o.isDrain)

/-- May the fibres `m` end, but for pending records? -/
def mayEnd (s : State) (core gid : Nat) (m : Word) : Bool := !pendingStores s gid m true && !tileWork s core gid m

/-- END of the issuing sub-group's active fibres. -/
def endActive (c : Ctx) (s : State) : Res :=
  if mayEnd s c.core c.gid c.active then deliver 2 c s fun c s => .next (endFibres s c.gid c.active) else stall c s

def execEndU (f : UniR) (s : State) : Res := uniform { waitPt := true } f.g s endActive

/-- ENDL: every other sub-group of the group ends at its next switch point. -/
def execEndl (f : UniR) (s : State) : Res :=
  uniform { waitPt := true } f.g s fun c s =>
    endActive c (s.modGroup c.gid fun g =>
      { g with subs := g.subs.map fun u => if u.mask == c.u.mask then u else { u with endPending := true } })

/-! ### Switch points (R33) -/

/-- R29, R39: does a word of class A read a latch? -/
def wordReadsLatch (w : Word) : Bool :=
  let op := (w.extractLsb' 25 7).toNat
  let a := decide (60 ≤ (w.extractLsb' 8 6).toNat)
  let b := decide (60 ≤ (w.extractLsb' 2 6).toNat)
  let lr := (decide (1 ≤ op) && decide (op ≤ 0x0B)) || (decide (0x19 ≤ op) && decide (op ≤ 0x24) && op != 0x20)
  if w.getLsbD 31 then false
  else if lr then a || b
  else if op = 0x0D then a && w.extractLsb' 0 2 != 0
  else if op = 0x0E then a && w.extractLsb' 0 2 == 0
  else (op == 0x0F || op == 0x10 || op == 0x12 || op == 0x13) && a

-- DEDUCED: notes/assumptions/103
/-- The boundary at which a sub-group stands is a switch point: it waits there, or its next instruction reads no latch. A sub-group that
has begun its instruction and waits for its writes stands at none (R22). -/
def atSwitchPoint (s : State) (c : Ctx) : Bool :=
  match c.u.wait with
  | .saving => false
  | .ready | .stall =>
    (match fetchWord s c with
      | (_, .ok bs) => !wordReadsLatch (BitVec.ofNat 32 (leNat bs))
      | (_, .error _) => true)
  | _ => true

/-! ### Deferred records of a restored team (R132) -/

/-- The records that the active fibres must take before they issue: the first of each lane. -/
def restoredItems (c : Ctx) : List TrapItem :=
  (lanesOf c.active).filterMap fun l =>
    (c.t.restored.find? fun d => d.gslot == c.g.gslot && d.lane == l).map fun d => (⟨l, d.cause, d.va, c.u.pc, some d, 0⟩ : TrapItem)

-- DEDUCED: notes/assumptions/57
/-- Deliver them as traps; a record leaves the team once its fibre is parked with it. -/
def deliverRestored (c : Ctx) (s : State) : State :=
  let s1 := trapWith false c s (restoredItems c) id
  let taken := fun (d : Defer) => s1.groups.any fun g => g.gid == c.gid && g.delivered.any fun q => q.2 == d
  s1.modTeam c.t.tid fun t => { t with restored := t.restored.filter fun d => !taken d }

def parkedInTrap (u : Sub) : Bool := match u.wait with | .trapped _ => true | _ => false

/-- ENDL_REMOTE_STOP (R89): a sub-group whose group, or whose handler, has ended it ends at its switch point. -/
def execEndlRemoteStop (gid lane : Nat) (s : State) : Res :=
  match s.ctxOf gid lane with
  | none => .next s
  | some c =>
    if !c.u.endPending || parkedInTrap c.u || !atSwitchPoint s c || !mayEnd s c.core gid c.active then .next s
    else
      match c.g.frag.find? fun f => (f.sub &&& c.active) != 0 with
      | some f =>
        .next (if f.ue then takeFragTrap c s f else s)
      | none =>
        if c.t.halted then .next (endFibres s gid c.active)
        else if !(restoredItems c).isEmpty then .next (deliverRestored c s)
        else deliver 2 c s fun c s => .next (endFibres s c.gid c.active)

end Sys2Proof.Machine
end

