-- ==== Sys2Proof/Machine/Form.lean ====
section
/-! DEFINITION. What a team needs of a core, whether it fits, and the making of groups and teams
(R15, R16, R58 to R61, R67, R69, R73, R74, R76, R80, R86, R92, R114, R214, R226, R269, R271). -/

namespace Sys2Proof.Machine

/-! ### Fitting (R16, R271) -/

/-- What a team takes of a core. -/
structure Need where
  slots : Nat
  regs : Nat
  ways : Nat
  segs : Nat
  cols : Nat
  acc : BitVec 4
  banks : List Nat
  image : Option ImageRef
  bins : Nat
  cow : List CowLine
  deriving DecidableEq, Repr

def freeTslot (s : State) (core seq : Nat) : Option Nat :=
  firstFrom (fun i => !(s.teams.any fun t => t.core == core && t.tslot == i) && !(s.heldFrom core seq).any fun h => h.tslot == i) 0
    Config.teamSlots

def freeSegs (s : State) (core seq : Nat) : List Nat :=
  (List.range 16).filter fun i => (s.partOwner core 1 i).isNone && !(s.heldFrom core seq).any fun h => h.segs.contains i
def freeCols (s : State) (core seq : Nat) : List Nat :=
  (List.range (s.colBanks core)).filter fun i =>
    (s.partOwner core 2 i).isNone && !(s.heldFrom core seq).any fun h => h.cols.contains i

/-- Accumulator slots of a core that teams, or others' holds, keep. -/
def accTaken (s : State) (core seq : Nat) : BitVec 4 :=
  (s.heldFrom core seq).foldl (fun a h => a ||| h.acc) ((s.teams.filter fun t => t.core == core).foldl (fun a t => a ||| t.acc) 0)
def bankTaken (s : State) (core seq b : Nat) : Bool :=
  (s.bank core b).owner.isSome || (s.heldFrom core seq).any fun h => h.banks.contains b

/-- R271 with the ways and the private copies that would come. -/
def cacheWaysOk (s : State) (core ways : Nat) (cow : List CowLine) : Bool :=
  (List.range 384).all fun set_ =>
    let mine := (cow.filter fun x => x.va / lineBytes % 384 == set_).length
    decide (copiesInSet s core set_ + mine + 1 ≤ 16 - (pinnedWays s core + ways)) || (mine == 0 && ways == 0)

def holdsImage (s : State) (core : Nat) (r : Option ImageRef) : Bool :=
  match r with
  | some r => (s.core core).images.any fun x => x.ref == r
  | none => false

def fits (s : State) (seq : Nat) (n : Need) (core : Nat) : Bool :=
  (freeTslot s core seq).isSome && decide (n.slots ≤ s.groupFreeFor core seq) && decide (n.regs ≤ s.regFreeFor core seq) &&
  decide (n.ways ≤ (freeWaysFor s core seq).length) && decide (n.segs ≤ (freeSegs s core seq).length) &&
  decide (n.cols ≤ (freeCols s core seq).length) && (accTaken s core seq &&& n.acc) == 0 &&
  !(n.banks.any (bankTaken s core seq)) && cacheWaysOk s core n.ways n.cow &&
  (n.image.isNone || holdsImage s core n.image || decide ((s.core core).images.length < Config.imageSlots)) &&
  decide (n.bins + (s.core core).bins.length ≤ Config.binsPerCore)

def groupsOn (s : State) (core : Nat) : Nat := (s.groups.filter fun g => s.groupCore g == core).length

/-- R114. -/
def chooseCore (s : State) (seq : Nat) (n : Need) : Option Nat :=
  let better := fun (a b : Nat) =>
    let ia := holdsImage s a n.image
    let ib := holdsImage s b n.image
    if ia != ib then ia else decide (groupsOn s a < groupsOn s b)
  ((List.range Config.computeCores).filter (fits s seq n)).foldl (fun (b : Option Nat) c =>
    match b with
    | none => some c
    | some a => if better c a then some c else some a) none

/-! ### Groups (R61, R74) -/

/-- What a group starts with. -/
structure Start where
  pc : Nat
  pred : Word
  s : NMap DWord
  k : BitVec 7
  img : Option (List Word)
  deriving DecidableEq, Repr

def newSub (pc : Nat) (mask : Word) (slot issue : Nat) : Sub :=
  { pc := pc, mask := mask, wait := .ready, calls := [], loops := [], lc := [0, 0, 0], chain := [], latchRun := 0, slot := slot,
    issue := issue, age := 0, boff := 64, endPending := false, stopPending := false }

def newGroup (gid tid gslot role win : Nat) (live : Word) (idx : List Index) (st : Start) (sub : Sub) : Group :=
  { gid := gid, tid := tid, gslot := gslot, role := role, win := win, live := live, subs := [sub], v := [],
    pred := (List.range 32).map fun l => if live.getLsbD l then st.pred else 0, idx := idx, s := st.s, k := st.k,
    j := List.replicate 8 0, img := st.img, priv := 0, rsv := 0, statid := 0, token := false, defer := [], delivered := [],
    floor := List.replicate 32 0, times := List.replicate 32 0, passAt := List.replicate 32 0, frag := [], nest := [],
    yRows := 0, yS := 0, late := [], arrive := [], remap := (List.range 32).map fun l => (sub.slot, l) }

/-- Form a group in the lowest free physical slot (R15), or the slot a service core keeps for it. -/
def formGroup (s : State) (t : Team) (gslot role : Nat) (live : Word) (idx : List Index) (st : Start) : State :=
  let win := ((t.roles[role]?).map (·.win)).getD 60
  let slot := if isService t.core then (match t.kind with | .service _ => 1 | _ => 0) else (s.freeSlot t.core).getD 0
  let g := newGroup s.nextGid t.tid gslot role win live idx st (newSub st.pc live slot (s.issueFor t.core))
  let s1 : State := { s with groups := s.groups ++ [g], nextGid := s.nextGid + 1 }
  (lanesOf live).foldl (fun s l => setNb s t.tid (32 * gslot + l) fun _ => ⟨0, 0, 0, true, false⟩) s1

/-! ### The image record (R69) -/

def noIndex : Index := ⟨0, 0, 0, 0, 0, 0, 0, 0⟩

/-- The first 1,024 bytes of an image record, read at its home; none when the read fails. -/
def readImage (s : State) (r : ImageRef) (off n : Nat) : State × Option (List Byte) :=
  match engRead s none r.asid (r.addr + off) n with
  | (s, .ok bs) => (s, some bs)
  | (s, .error _) => (s, none)

def imageV (b : List Byte) : List Word := (List.range 60).map fun i => BitVec.ofNat 32 (fieldN b (0x100 + 4 * i) 4)
def imageS (b : List Byte) : NMap DWord := NMap.tab 0 64 fun i => BitVec.ofNat 64 (fieldN b (0x200 + 8 * i) 8)
def imageStart (b : List Byte) (slot : ImageSlot) : Start :=
  { pc := fieldN b 0 8, pred := BitVec.ofNat 32 (fieldN b 0x0C 4), s := imageS b, k := slot.kpred, img := some slot.v }

/-- The image slot of a core, filled when it holds none (R80). -/
def imageSlot (s : State) (core : Nat) (r : ImageRef) (b : List Byte) : State × ImageSlot :=
  match (s.core core).images.find? fun x => x.ref == r with
  | some x => (s, x)
  | none =>
    let x : ImageSlot := ⟨r, imageV b, BitVec.ofNat 7 (fieldN b 0x0A 1)⟩
    (s.modCore core fun y => { y with images := y.images ++ [x] }, x)

/-- Banks `bs` of a new team: empty, or as an image carries them (R73, R214). -/
def loadBanks (owner : Nat) (img : Option ImageRef) (hdr : List Byte) (core : Nat) : List Nat → State → State × Bool
  | [], s => (s, true)
  | b :: rest, s =>
    let blank : Bank := ⟨some owner, 0, 256, [], [], none⟩
    match img with
    | some r =>
      if bitN (fieldN hdr 9 1) b then
        match readImage s r (0x1000 + 0x1000 * b) 4096 with
        | (s, none) => (s, false)
        | (s, some bs) =>
          let x : Bank :=
            { blank with kind := BitVec.ofNat 2 (fieldN hdr (0x10 + b) 1), valid := fieldN hdr (0x18 + 2 * b) 2
                         ents := NMap.tab 0 256 fun e => BitVec.ofNat 128 (fieldN bs (16 * e) 16) }
          loadBanks owner img hdr core rest (s.setBank core b x)
      else loadBanks owner img hdr core rest (s.setBank core b blank)
    | none => loadBanks owner img hdr core rest (s.setBank core b blank)

/-! ### Teams -/

/-- Allot the lowest free parts of a core (R269, R270); newly pinned ways leave the cache (R273). -/
def takeParts (s : State) (core seq ways segs cols : Nat) : State × List Nat × List Nat × List Nat :=
  let w := (freeWaysFor s core seq).take ways
  let g := (freeSegs s core seq).take segs
  let c := (freeCols s core seq).take cols
  let s := if w.isEmpty then s else w.foldl (fun s i => allotPart s core 0 i) (sweepWays s core w w.length)
  let s := g.foldl (fun s i => allotPart s core 1 i) s
  (c.foldl (fun s i => allotPart s core 2 i) s, w, g, c)

def slotOfRole (roles : List Role) (gslot : Nat) : Nat :=
  ((List.range roles.length).find? fun r => decide (gslot < rolesGroups (roles.take (r + 1)))).getD 0

/-- Index of work item `l` of the launch's own grid, or of child `l` (R58, R59, R86). -/
def itemIndex (p : List Byte) (roles : List Role) (child : Bool) (level l : Nat) : Index :=
  let t := teamFibres roles
  let fib := l % t
  let role := slotOfRole roles (fib / 32)
  if child then ⟨l, 0, 0, l, l / t, fib, role, level⟩
  else ⟨l % pX p, l / pX p % pY p, l / (pX p * pY p), l, l / t, fib, role, level⟩

/-- Groups of team `n`, from slot `g` upward. -/
def formItems (t : Team) (p : List Byte) (child : Bool) (count : Nat) (st : Start) : List Nat → State → State
  | [], s => s
  | g :: gs, s =>
    let base := t.teamNo * teamFibres t.roles + 32 * g
    if count ≤ base then formItems t p child count st gs s
    else
      let live := maskOf fun l => decide (base + l < count)
      let idx := (List.range 32).map fun l => if base + l < count then itemIndex p t.roles child t.level (base + l) else noIndex
      formItems t p child count st gs (formGroup s t g (slotOfRole t.roles g) live idx st)

/-- What is to be placed. -/
inductive Plan where
  | dawn
  | grid
  | child (k : ChildGrid)
  deriving DecidableEq, Repr

def dawnRoles : List Role := [⟨1, 60, 0, 0⟩]
def Plan.roles (p : Plan) (L : Launch) : List Role := match p with | .dawn => dawnRoles | _ => pRoles L.pkt
def Plan.image (p : Plan) (L : Launch) : Option ImageRef := match p with | .dawn => none | .grid => L.image | .child k => some k.image
def Plan.items (p : Plan) (L : Launch) : Nat := match p with | .dawn => 1 | .grid => pItems L.pkt | .child k => k.count
def Plan.next (p : Plan) (L : Launch) : Nat := match p with | .dawn => 0 | .grid => L.next | .child k => k.next

def banksOf (mask : Nat) : List Nat := (List.range 8).filter fun b => bitN mask b

/-- What team `no` of a plan needs (R16, R60, R73). -/
def planNeed (L : Launch) (p : Plan) (no : Nat) : Need :=
  let roles := p.roles L
  let left := p.items L - no * teamFibres roles
  { slots := min (rolesGroups roles) (ceilDiv left 32)
    regs := (roles.map fun r => if (p.image L).isSome then r.reserve * 32 else r.groups * r.win * 32).sum
    ways := pWays L.pkt, segs := pTbuf L.pkt, cols := pColb L.pkt, acc := BitVec.ofNat 4 (pAcc L.pkt), banks := banksOf (pCb L.pkt)
    image := p.image L, bins := 0, cow := [] }

/-- The team that a plan makes of the parts it was allotted (R16, R60, R67, R73, R226). -/
def mkTeam (s : State) (L : Launch) (p : Plan) (no core : Nat) (ways segs cols : List Nat) : Team :=
  let roles := p.roles L
  let img := p.image L
  let rsv := fun (r : Role) => if img.isSome then r.reserve else 0
  { tid := s.nextTid, core := core, tslot := (freeTslot s core L.seq).getD 0, asid := L.asid, priv := false
    kind := (match p with | .dawn => .dawn | _ => .grid), launch := L.entry, seq := L.seq, teamNo := no
    level := (match p with | .child k => k.level | _ => 0), child := (match p with | .child k => k.id | _ => 0)
    roles := roles.map fun r => { r with reserve := rsv r, left := rsv r }
    ways := ways, segs := segs, cols := cols, acc := BitVec.ofNat 4 (pAcc L.pkt)
    slotRegs := if img.isSome then 0 else BitVec.ofNat 32 (2 ^ rolesGroups roles - 1)
    bars := [], nb := [], handles := [], tseq := 0
    moduli := assignDies s.erasedDie (L.moduli.getD Moduli.default)
    stash := [], stashLines := [], cow := [], image := img
    ftz := pFtz L.pkt, linked := pLinked L.pkt && img == L.image && p != .dawn
    superstep := pSuper L.pkt, curfew := none, yAcc := 0, yLocal := 0, engGen := 0, halted := false, restored := [] }

-- DEDUCED: notes/assumptions/56
/-- Place team `no` of a plan on a core (R16, R60, R67, R73); none when the image cannot be read. -/
def placeTeam (s : State) (L : Launch) (p : Plan) (no core : Nat) : Option State :=
  let roles := p.roles L
  let img := p.image L
  let hdr : State × Option (List Byte) := match img with
    | none => (s, some [])
    | some r => readImage s r 0 0x400
  match hdr with
  | (_, none) => none
  | (s, some hdr) =>
    -- a child team's banks come from the launch's own image
    let bankSrc : Option ImageRef := match p with | .dawn => none | _ => L.image
    let bankHdr : State × Option (List Byte) := match p, L.image with
      | .child _, some r => readImage s r 0 0x400
      | _, _ => (s, some hdr)
    match bankHdr with
    | (_, none) => none
    | (s, some bhdr) =>
      let tid := s.nextTid
      match loadBanks tid bankSrc bhdr core (banksOf (pCb L.pkt)) s with
      | (_, false) => none
      | (s, true) =>
        match takeParts s core L.seq (pWays L.pkt) (pTbuf L.pkt) (pColb L.pkt) with
        | (s, ways, segs, cols) =>
          let t := mkTeam s L p no core ways segs cols
          let s : State := { s with teams := s.teams ++ [t], nextTid := tid + 1 }
          let s := (List.range 4).foldl (fun s i => if ownsSlot t i then s.setAcc core i Acc.empty else s) s
          match img with
          | none =>
            let st : Start := { pc := pEntry L.pkt, pred := 0, s := NMap.set 0 0 (BitVec.ofNat 64 L.pktVa) [], k := 0, img := none }
            some (match p with
              | .dawn => formGroup s t 0 0 1 (List.replicate 32 noIndex) st
              | _ => formItems t L.pkt false (p.items L) st (List.range (rolesGroups roles)) s)
          | some r =>
            match imageSlot s core r hdr with
            | (s, slot) =>
              let child := match p with | .child _ => true | _ => false
              some (formItems t L.pkt child (p.items L) (imageStart hdr slot) (List.range (rolesGroups roles)) s)

-- DESIGN CHOICE: notes/assumptions/90
/-- A team outside every launch: a command program, or a trap service team (R93, R408, R433). -/
def placeService (s : State) (core tslot : Nat) (kind : TeamKind) (asid : BitVec 16) (priv : Bool) (live : Word) (idx : List Index) (st : Start) : State :=
  let t : Team :=
    { tid := s.nextTid, core := core, tslot := tslot, asid := asid, priv := priv, kind := kind, launch := 0, seq := 0, teamNo := 0
      level := 0, child := 0, roles := dawnRoles, ways := [], segs := [], cols := [], acc := 0, slotRegs := 1
      bars := [], nb := [], handles := [], tseq := 0, moduli := Moduli.default, stash := [], stashLines := [], cow := [], image := none
      ftz := false, linked := false, superstep := false, curfew := none, yAcc := 0, yLocal := 0, engGen := 0
      halted := false, restored := [] }
  formGroup { s with teams := s.teams ++ [t], nextTid := s.nextTid + 1 } t 0 0 live idx st

end Sys2Proof.Machine
end

