-- ==== Sys2Proof/Machine/Spawn.lean ====
section
/-! DEFINITION. Spawning: SPAWN and SPAWNF, uniform OP 18, the bins of a core, and groups parked for private rows
(R62 to R66, R74 to R77). -/

namespace Sys2Proof.Machine

/-! ### Bins (R62, R63) -/

/-- The period of a core's bin timer. -/
def binPeriod (s : State) (core : Nat) : Nat := max 64 (s.core core).binTimer.toNat

/-- Empty group slots of a role that no bin reserves and no group holds, ascending. -/
def spawnSlots (s : State) (t : Team) (role : Nat) : List Nat :=
  let lo := rolesGroups (t.roles.take role)
  let n := ((t.roles[role]?).map (·.groups)).getD 0
  ((List.range n).map (lo + ·)).filter fun i =>
    !(s.groups.any fun g => g.tid == t.tid && g.gslot == i) && !(s.core t.core).bins.any fun b => b.tid == t.tid && b.gslot == i

def Bin.keyed (b : Bin) (tid role entry : Nat) : Bool := b.tid == tid && b.role == role && b.entry == entry
def Bin.isOpen (b : Bin) : Bool := !b.full && decide (b.fibs.length < 32)

/-- Room left in the open bins of a key. -/
def openRoom (s : State) (t : Team) (role entry : Nat) : Nat :=
  (((s.core t.core).bins.filter fun b => b.keyed t.tid role entry && b.isOpen).map fun b => 32 - b.fibs.length).sum

def setBins (s : State) (core : Nat) (bs : List Bin) : State := s.modCore core fun x => { x with bins := bs }
def replaceBin (s : State) (core : Nat) (b : Bin) : State :=
  setBins s core ((s.core core).bins.map fun x => if x.tid == b.tid && x.gslot == b.gslot then b else x)

/-- What the uniform set, predicates and window of a bin's group start with (R61, R74). -/
def binStart (s : State) (t : Team) (entry : Nat) : State × Option Start :=
  match t.image with
  | none =>
    let arg := match s.launch? t.seq with | some L => L.pktVa | none => 0
    (s, some { pc := entry, pred := 0, s := NMap.set 0 0 (BitVec.ofNat 64 arg) [], k := 0, img := none })
  | some r =>
    match readImage s r 0 0x400 with
    | (s, none) => (s, none)
    | (s, some hdr) =>
      match imageSlot s t.core r hdr with
      | (s, slot) => (s, some { imageStart hdr slot with pc := entry })

-- DEDUCED: notes/assumptions/55
/-- A curfew window of the team has closed. -/
def Team.closed (t : Team) : Bool := match t.curfew with | some c => c.closed | none => false

-- DEDUCED: notes/assumptions/89
/-- Form the group of a bin: the physical slot, the registers or the two rows, and the fibres; none while one of them cannot
be had (R63). -/
def formBin (s : State) (core : Nat) (b : Bin) : Option State :=
  match s.team? b.tid with
  | none => none
  | some t =>
    let win := ((t.roles[b.role]?).map (·.win)).getD 60
    let regsOk := t.image.isSome || t.slotRegs.getLsbD b.gslot || decide (32 * win ≤ s.regFreeFor core t.seq)
    let alive := s.groups.any fun g => g.tid == t.tid
    if (t.closed && alive) || s.groupFreeFor core t.seq = 0 || (s.freeSlot core).isNone || !regsOk then none
    else
      match binStart s t b.entry with
      | (_, none) => none
      | (s, some st) =>
        let live := maskOf fun l => decide (l < b.fibs.length)
        let idx := (List.range 32).map fun l => ((b.fibs[l]?).map (·.idx)).getD noIndex
        let gid := s.nextGid
        let s1 := formGroup s t b.gslot b.role live idx st
        let s1 := if t.image.isSome then s1 else s1.modTeam t.tid fun t => { t with slotRegs := t.slotRegs ||| (1#32 <<< b.gslot) }
        match privatise gid s1 [0, 1] live with
        | none => none
        | some s2 =>
          let s3 := s2.modGroup gid fun g =>
            let g := g.setRow 0 live fun l => ((b.fibs[l]?).map (·.arg)).getD 0
            let g := g.setRow 1 live fun l => BitVec.ofNat 32 (((b.fibs[l]?).map (·.ord)).getD 0)
            if t.closed then { g with subs := g.subs.map fun u => { u with wait := .stopped 0 } } else g
          some (setBins s3 core ((s3.core core).bins.filter fun x => !(x.tid == b.tid && x.gslot == b.gslot)))

/-- Close a bin and form its group, now or when it can. -/
def closeBin (s : State) (core : Nat) (b : Bin) : State :=
  let b1 := { b with full := true }
  let s1 := replaceBin s core b1
  (formBin s1 core b1).getD s1

/-- Put one fibre into the fullest open bin of the key, else into a new bin (R65). -/
def spawnOne (s : State) (t : Team) (role entry : Nat) (arg : Word) (ord : Nat) (src : Index) : State :=
  let bs := (s.core t.core).bins
  let best := (bs.filter fun b => b.keyed t.tid role entry && b.isOpen).foldl (fun (a : Option Bin) b =>
    match a with
    | none => some b
    | some x => if x.fibs.length < b.fibs.length then some b else some x) none
  let fresh : Option Bin := (spawnSlots s t role).head?.map fun g => ⟨t.tid, role, entry, g, [], s.cycles + binPeriod s t.core, false⟩
  let put := fun (b : Bin) (isNew : Bool) =>
    let i : Index := { src with role := role, fib := 32 * b.gslot + b.fibs.length }
    let b1 := { b with fibs := b.fibs ++ [⟨arg, ord, i⟩] }
    let s1 := if isNew then setBins s t.core (bs ++ [b1]) else replaceBin s t.core b1
    if b1.fibs.length = 32 then closeBin s1 t.core b1 else s1
  match best, fresh with
  | some b, _ => put b false
  | none, some b => put b true
  | none, none => s

/-- SPAWN and SPAWNF (R65). -/
def spawnWith (force : Bool) (f : UniR) (s : State) : Res :=
  uniform {} f.g s fun c s =>
    let entry := c.sReg f.a
    let x := (c.sReg f.b).toNat
    let n := bitsN x 15 0
    let arg := BitVec.ofNat 32 (bitsN x 63 32)
    if !targetOk entry then trapAll c s cILLEGAL
    else
      let role := c.g.role
      let slots := (spawnSlots s c.t role).length
      let room := openRoom s c.t role entry.toNat + 32 * min slots (Config.binsPerCore - (s.core c.core).bins.length)
      if n ≠ 0 && room = 0 && slots ≠ 0 then stall c s
      else
        let m := min n room
        let src := c.g.index (lowestLane c.active)
        let s1 := (List.range m).foldl (fun s i => spawnOne s ((s.team? c.t.tid).getD c.t) role entry.toNat arg i src) s
        let s2 := if force then
            ((s1.core c.core).bins.filter fun b => b.keyed c.t.tid role entry.toNat && !b.full).foldl (fun s b => closeBin s c.core b) s1
          else s1
        finS c s2 f.d (BitVec.ofNat 64 m)

def execSpawn (f : UniR) (s : State) : Res := spawnWith false f s
def execSpawnf (f : UniR) (s : State) : Res := spawnWith true f s

/-- BIN_TIMER_EXPIRY (R63): an open bin whose timer has run out closes and forms its group. -/
def execBinTimerExpiry (core bin : Nat) (s : State) : Res :=
  match (s.core core).bins[bin]? with
  | none => .next s
  | some b => .next (if !b.full && decide (b.expires ≤ s.cycles) then closeBin s core b else s)

/-- BIN_GROUP_FORMATION (R63): a closed bin forms its group once slot, registers and rows are free. -/
def execBinGroupFormation (core bin : Nat) (s : State) : Res :=
  match (s.core core).bins[bin]? with
  | none => .next s
  | some b => .next (if b.full then (formBin s core b).getD s else s)

/-! ### Groups parked for rows (R77) -/

/-- Could the group obtain `need` rows (R76)? -/
def rowsToHave (s : State) (g : Group) (need : Nat) : Bool :=
  match s.team? g.tid with
  | none => false
  | some t => decide (need ≤ ((t.roles[g.role]?).map (·.left)).getD 0 + s.regFreeFor t.core t.seq / 32)

/-- The sub-group whose wait this is still waits, or has been let go and has not tried yet, and could have its rows. -/
def RowWait.could (s : State) (r : RowWait) : Bool :=
  match s.group? r.gid with
  | some g => (g.subs.any fun u => u.mask == r.mask && (u.mayIssue || u.wait == .rows)) && rowsToHave s g r.need
  | none => false

/-- PARKED_ROW_RETRY (R77): a parked sub-group tries its instruction again, after every older one of its core that could, one that has
been let go but has not tried yet included. -/
def execParkedRowRetry (gid lane : Nat) (s : State) : Res :=
  match s.ctxOf gid lane with
  | none => .next s
  | some c =>
    let ws := (s.core c.core).rowWait
    let older := ws.any fun q => decide (q.gid < gid) && q.could s
    let need := ((ws.find? (RowWait.of c)).map (·.need)).getD 1
    if c.u.wait == .rows && rowsToHave s c.g need && !older then .next (c.setSub s { c.u with wait := .ready }) else .next s

end Sys2Proof.Machine
end

