-- ==== Sys2Proof/Machine/Template.lean ====
section
/-! DEFINITION. Dawn templates: FREEZE and FREEZEN, uniform OP 19, and NEST, uniform OP 1A (R67 to R72, R82 to R87). -/

namespace Sys2Proof.Machine

/-! ### The image record (R69) -/

/-- Four bytes the spec does not state: a register beyond the window. -/
def freeWord (n : Nat) : Word := BitVec.ofNat 32 (leNat ((List.range 4).map fun i => Config.freeByte (n + i)))

def zeros (n : Nat) : List Byte := List.replicate n 0

/-- Bytes of a bank's entries 0 to 255. -/
def bankBytes (b : Bank) : List Byte := (List.range 256).flatMap fun e => natLe 16 (NMap.get 0 e b.ents).toNat

-- DESIGN CHOICE: notes/assumptions/28
/-- The record of lane `l` of a group, with the banks it carries; `fresh` numbers the free bytes. -/
def imageRecord (g : Group) (l resume level fresh : Nat) (carried : Nat → Option Bank) : List Byte :=
  let mask := (List.range 8).foldl (fun a i => if (carried i).isSome then a + 2 ^ i else a) 0
  natLe 8 resume ++ natLe 1 level ++ natLe 1 mask ++ natLe 1 g.k.toNat ++ zeros 1 ++ natLe 4 (g.predOf l).toNat ++
  (List.range 8).flatMap (fun i => natLe 1 (match carried i with | some b => b.kind.toNat | none => 0)) ++
  (List.range 8).flatMap (fun i => natLe 2 (match carried i with | some b => b.valid | none => 0)) ++ zeros 216 ++
  (List.range 60).flatMap (fun r => natLe 4 (if r < g.win then g.lane r l else freeWord (fresh + 4 * r)).toNat) ++ zeros 16 ++
  (List.range 64).flatMap (fun i => natLe 8 (g.sReg i).toNat) ++ zeros 3072 ++
  (List.range 8).flatMap (fun i => match carried i with | some b => bankBytes b | none => zeros 4096) ++ zeros 28672

def modRegion (s : State) (entry : Nat) (f : Region → Region) : State :=
  { s with regions := s.regions.map fun r => if r.entry == entry then f r else r }

/-- Report the entries of the carried banks that fail their parity; the record holds them as read (R222, R223). -/
def reportCarried (s : State) (core : Nat) (carried : Nat → Option Bank) : State :=
  (List.range 8).foldl (fun s i =>
    match carried i with
    | some b => (b.badEntries).foldl (fun s e => parityError s core i e 0) s
    | none => s) s

-- DEDUCED: notes/assumptions/43
/-- Write the record, wait for its stores, then `k`. The wait is no switch point: the instruction has begun (R22). A store that fails
is a trap of the instruction (notes/assumptions 43). -/
def withImage (c : Ctx) (s : State) (r : Region) (level : Nat) (carried : Nat → Option Bank) (k : Ctx → State → State) : Res :=
  if !r.written then
    let bs := imageRecord c.g (lowestLane c.active) ((c.u.pc + 4) % Config.maxVa) level s.fresh carried
    let s1 := modRegion { s with fresh := s.fresh + 240 } r.entry fun r => { r with written := true }
    parkAs c (agentWrite 513 (reportCarried s1 c.core carried) 8 r.entry c.core r.asid r.base bs) .saving
  else if agentBusy s 8 r.entry then parkAs c s .saving
  else
    let s1 := dropFails s 8 r.entry
    match firstFail s 8 r.entry with
    | some (_, va, cause) => trapAllMem c (modRegion s1 r.entry fun r => { r with written := false }) cause va
    | none => .next (k c s1)

/-- The lone active fibre of the sub-group waits for its stores, and takes its pending records (R71). -/
def afterStores (c : Ctx) (s : State) (k : Ctx → State → Res) : Res :=
  if pendingStores s c.gid c.active true then stall c s else deliver 0 c s k

/-! ### FREEZE (R70 to R72) -/

-- DEDUCED: notes/assumptions/40
def execFreeze (f : UniR) (s : State) : Res :=
  uniform { waitPt := true, feat := some 0 } f.g s fun c s =>
    let region := match s.launch? c.t.seq with
      | some L => L.region.bind fun e => s.regions.find? fun r => r.entry == e
      | none => none
    match c.t.kind, region with
    | .dawn, some r =>
      if (lanesOf c.active).length ≠ 1 || !c.u.calls.isEmpty || !c.u.loops.isEmpty || c.g.j.any (· != 0) then
        trapAll c s cTMPLSTATE
      else
        afterStores c s fun c s =>
          let carried := fun (i : Nat) => if bitN (pCb ((s.launch? c.t.seq).elim [] (·.pkt))) i && (s.bank c.core i).ownedBy c.t then some (s.bank c.core i) else none
          withImage c s r 0 carried fun c s =>
            let s1 := s.modLaunch c.t.seq fun L => { L with frozen := true, image := some ⟨r.base, r.asid⟩ }
            endFibres (modRegion s1 r.entry fun r => { r with frozen := true }) c.gid c.active
    | _, _ => trapAll c s cTMPLSTATE

/-! ### NEST (R82 to R84) -/

def freeTmpl (s : State) : Option Nat := firstFrom (fun e => !s.regions.any fun r => r.entry == e) 0 Config.tmplEntries

/-- The template entry that the fibre of a lane has open. -/
def Group.nestOf (g : Group) (lane : Nat) : Option Nat := (g.nest.find? fun q => q.1 == lane).map (·.2)

def execNest (f : UniR) (s : State) : Res :=
  uniform { feat := some 0 } f.g s fun c s =>
    let base := (c.sReg f.a).toNat
    let b := (c.sReg f.b).toNat
    let size := bitsN b 63 19 * 2 ^ 19
    let lane := lowestLane c.active
    if (lanesOf c.active).length ≠ 1 || c.t.kind == .dawn || (c.g.nestOf lane).isSome || c.t.level = 3 then trapAll c s cTMPLSTATE
    else if base % 2 ^ 19 ≠ 0 || bitsN b 18 1 ≠ 0 || size = 0 then trapAll c s cTMPLSTATE
    else if s.regions.any fun r => r.asid == c.t.asid.toNat && overlap r.base r.size base size then trapAll c s cTMPLSTATE
    else
      match freeTmpl s with
      | none => stall c s
      | some e =>
        let r : Region :=
          { entry := e, asid := c.t.asid.toNat, base := base, size := size, cow := bitN b 0, seq := c.t.seq, frozen := false,
            dawn := c.gid, dawnLane := lane, child := 0, written := false, nested := true }
        let s1 : State := { s with regions := s.regions ++ [r] }
        fin c (s1.modGroup c.gid fun g => { g with nest := g.nest ++ [(lane, e)] })

/-! ### FREEZEN (R85 to R87, R114) -/

/-- The launch of a FREEZEN is LINKED or SUPERSTEP. -/
def gangLaunch (s : State) (seq : Nat) : Bool :=
  match s.launch? seq with
  | some L => pLinked L.pkt || pSuper L.pkt
  | none => false

-- DEDUCED: notes/assumptions/41
/-- The fibre ends as the image of a child grid of `count` work items. A team of no launch has no packet that shapes children: none is made, and
the region's entry returns. -/
def stamp (c : Ctx) (s : State) (r : Region) (lane count : Nat) : State :=
  let k : ChildGrid := { id := s.nextChild, count := count, level := c.t.level + 1, next := 0, live := 0, region := r.entry, image := ⟨r.base, r.asid⟩ }
  let s1 : State := { s with nextChild := s.nextChild + 1 }
  let s2 := s1.modLaunch c.t.seq fun L => { L with children := L.children ++ [k] }
  let s3 := modRegion s2 r.entry fun r => { r with frozen := true, child := k.id }
  let s3 : State := if (s.launch? c.t.seq).isSome then s3 else { s3 with regions := s3.regions.filter fun x => x.entry != r.entry }
  let s4 := s3.modGroup c.gid fun g => { g with nest := g.nest.filter fun q => q.1 != lane }
  returnRegions (endFibres s4 c.gid c.active) c.t.seq

def execFreezen (f : UniR) (s : State) : Res :=
  uniform { waitPt := true, feat := some 0 } f.g s fun c s =>
    let count := (c.sReg f.a).toNat
    let lane := lowestLane c.active
    match (c.g.nestOf lane).bind fun e => s.regions.find? fun r => r.entry == e with
    | none => trapAll c s cTMPLSTATE
    | some r =>
      if (lanesOf c.active).length ≠ 1 || !c.u.calls.isEmpty || !c.u.loops.isEmpty || 65536 < count || gangLaunch s c.t.seq then
        trapAll c s cTMPLSTATE
      else
        afterStores c s fun c s =>
          if tileWork s c.core c.gid c.active then stall c s
          else withImage c s r (c.t.level + 1) (fun _ => none) fun c s => stamp c s r lane count

end Sys2Proof.Machine
end

