-- ==== Sys2Proof/Machine/Sched.lean ====
section
/-! DEFINITION. The launch queue: LAUNCH and LWAIT, uniform OPs 1C and 1D, late launches, placement, gangs and completion
(R103 to R117, R198, R417). -/

namespace Sys2Proof.Machine

/-! ### Queue entries, handles and completion (R106, R107, R111 to R113) -/

/-- Entries in use (`LQ_DEPTH`). -/
def lqDepth (s : State) : Nat := (s.launches.filter (·.active)).length

/-- R106: the free entry that completed earliest; entries never taken come first, in ascending order. -/
def takeEntry (s : State) : Option Nat :=
  match firstFrom (fun e => !s.launches.any fun L => L.entry == e) 0 Config.launchEntries with
  | some e => some e
  | none =>
    (s.launches.filter fun L => !L.active).foldl (fun (b : Option Launch) L =>
      match b with
      | none => some L
      | some x => if L.doneAt < x.doneAt then some L else some x) none |>.map (·.entry)

-- DESIGN CHOICE: notes/assumptions/113
def Launch.handle (L : Launch) : Nat := L.seq * 256 + L.entry

-- DEDUCED: notes/assumptions/46
/-- Steps 3 to 5 of R113; what was held for the launch is released (R115). -/
def completeLaunch (s : State) (seq code : Nat) : State :=
  match s.launch? seq with
  | none => s
  | some L =>
    let s1 := s.modLaunch seq fun L =>
      { L with active := false, status := code + (if L.late then 256 else 0), doneAt := s.doneClock }
    let s2 : State := { s1 with doneClock := s.doneClock + 1, held := s1.held.filter fun h => h.seq != seq }
    if pCen L.pkt then raiseCounter s2 L.asid (pCompl L.pkt) else s2

def noDeadline : Nat := 2 ^ 64 - 1
def Launch.overdue (L : Launch) (now : Nat) : Bool := pDeadline L.pkt != noDeadline && decide (pDeadline L.pkt ≤ now)

/-- The launch becomes late (R111), and is dropped if it may be (R112). -/
def markLate (s : State) (seq : Nat) : State :=
  match s.launch? seq with
  | none => s
  | some L =>
    if L.late then s
    else
      let s1 := s.modLaunch seq fun L => { L with late := true }
      let s2 : State := { s1 with regs := { s1.regs with missCount := addSat32 s1.regs.missCount 1 } }
      if pDropLate L.pkt && !L.placedAny then completeLaunch s2 seq 2 else s2

/-- LAUNCH_LATE (R111). -/
def execLaunchLate (entry : Nat) (s : State) : Res :=
  match s.launches.find? fun L => L.entry == entry && L.active with
  | none => .next s
  | some L => .next (if L.overdue s.meridian then markLate s L.seq else s)

/-! ### The test of R117 -/

/-- The device with no team resident anywhere, under the carve maps. -/
def emptied (s : State) : State :=
  { s with teams := [], groups := [], held := [], regions := [], cores := s.cores.map fun q => (q.1, CoreSt.reset) }

/-- What placing a team takes of a core, without its contents. -/
def occupy (s : State) (L : Launch) (p : Plan) (no core : Nat) : State :=
  match takeParts s core L.seq (pWays L.pkt) (pTbuf L.pkt) (pColb L.pkt) with
  | (s, ways, segs, cols) =>
    let t := mkTeam s L p no core ways segs cols
    let s := (banksOf (pCb L.pkt)).foldl (fun s b => s.setBank core b { Bank.free with owner := some t.tid }) s
    let s := match t.image with
      | some r => if holdsImage s core (some r) then s else s.modCore core fun (y : CoreSt) => { y with images := y.images ++ [ImageSlot.mk r [] 0] }
      | none => s
    formItems t L.pkt false (p.items L) { pc := 0, pred := 0, s := [], k := 0, img := none } (List.range (rolesGroups t.roles))
      { s with teams := s.teams ++ [t], nextTid := s.nextTid + 1 }

/-- Cores for teams `no`, `no + 1`, … of a gang, one after the other (R114). -/
def gangFits (L : Launch) (p : Plan) : Nat → Nat → State → Bool
  | 0, _, _ => true
  | n + 1, no, s =>
    match chooseCore s L.seq (planNeed L p no) with
    | none => false
    | some c => gangFits L p n (no + 1) (occupy s L p no c)

/-- The lowest (cluster, c) at which every team of a LINKED grid fits (R114). -/
def ringPlace (s : State) (L : Launch) (p : Plan) : Option (Nat × Nat) :=
  let ok := fun (x : Nat) => (List.range (pTeams L.pkt)).all fun i => fits s L.seq (planNeed L p i) (16 * (x / 16) + (x % 16 + i) % 16)
  (firstFrom ok 0 256).map fun x => (x / 16, x % 16)

/-- More teams than the device has team slots fit nowhere as one gang. -/
def gangOk (s : State) (L : Launch) (p : Plan) : Bool :=
  decide (pTeams L.pkt ≤ Config.computeCores * Config.teamSlots) && gangFits L p (pTeams L.pkt) 0 s

def unplaceable (s : State) (L : Launch) : Bool :=
  let s := emptied s
  let L1 := if pT L.pkt then { L with image := some ⟨pTBase L.pkt, L.asid.toNat⟩ } else L
  (chooseCore s L.seq (planNeed L1 .grid 0)).isNone
    || (pT L.pkt && (chooseCore s L.seq (planNeed L .dawn 0)).isNone)
    || (pLinked L.pkt && (ringPlace s L1 .grid).isNone)
    || (pSuper L.pkt && !gangOk s L1 .grid)

/-! ### LAUNCH (R103 to R106) -/

def newLaunch (seq entry : Nat) (asid : BitVec 16) (pkt : List Byte) (va : Nat) : Launch :=
  { entry := entry, seq := seq, asid := asid, pkt := pkt, active := true, status := 1, late := false, doneAt := 0
    placedAny := false, next := 0, live := 0, frozen := !pT pkt, dawnPlaced := false, dawnEnded := false, region := none
    image := none, children := [], stats := [], moduli := none, ended := [], code := none, pass := 0, pktVa := va
    ssForm := none, ssTag := 0, ssCount := 0, ssGen := 0, ssReported := false, finishing := false }

/-- The launch takes entry `e`. -/
def queueLaunch (s : State) (e : Nat) (asid : BitVec 16) (pkt : List Byte) (va : Nat) : State :=
  let L := newLaunch s.nextSeq e asid pkt va
  let s : State :=
    { s with launches := s.launches.filter (fun x => x.entry != e) ++ [L], nextSeq := s.nextSeq + 1
             regs := { s.regs with launched := true } }
  if !packetOk s.regs.featAccept pkt then completeLaunch s L.seq 3
  else if unplaceable s L then completeLaunch s L.seq 4
  else if L.overdue s.meridian then markLate s L.seq
  else s

def launchWith (try_ : Bool) (f : UniR) (s : State) : Res :=
  uniform {} f.g s fun c s =>
    let va := (c.sReg f.a).toNat
    if va % 64 ≠ 0 then trapAllMem c s cMISALIGNED va
    else if pendingStores s c.gid c.active true then stall c s
    else
      match heldOr c s (fun s => readRecord 8 s c (lowestLane c.active) va) with
      | (s, .error (k, a)) => recordFault c s k a
      | (s, .ok pkt) =>
        match (if s.regs.bootStatus = 4 then takeEntry s else none) with
        | none => if try_ then finS c s f.d 0 else hold pkt c s
        | some e => finS c (queueLaunch s e c.t.asid pkt va) f.d (BitVec.ofNat 64 (s.nextSeq * 256 + e))

def execLaunch (f : UniR) (s : State) : Res := launchWith false f s
def execLaunchTry (f : UniR) (s : State) : Res := launchWith true f s

/-! ### LWAIT (R108, R109) -/

-- DEDUCED: notes/assumptions/47
def lwaitWith (poll : Bool) (f : UniR) (s : State) : Res :=
  uniform { waitPt := true } f.g s fun c s =>
    deliver 0 c s fun c s =>
      let h := (c.sReg f.a).toNat
      if h = 0 || bitsN h 63 56 ≠ 0 then finS c s f.d 9
      else
        match s.launches.find? fun L => L.entry == h % 256 && L.seq == bitsN h 55 8 with
        | none => finS c s f.d 8
        | some L =>
          if L.active then (if poll then finS c s f.d 1 else stall c s) else finS c s f.d (BitVec.ofNat 64 L.status)

def execLwait (f : UniR) (s : State) : Res := lwaitWith false f s
def execLwaitPoll (f : UniR) (s : State) : Res := lwaitWith true f s

/-! ### Placing (R96, R114, R115) -/

/-- The moduli descriptor read as LD.d reads, in the launch's address space: its set, `some none` for a bad one, and none while the read
waits for the pod's time (R225, R444). -/
def readModuli (s : State) (L : Launch) : State × Option (Option Moduli) :=
  let va := pModuli L.pkt
  if va = 0 then (s, some (some Moduli.default))
  else if s.sluice.any fun e => e.asid == L.asid && e.ranges.any fun r => !r.cryst && r.mode == 1 && overlap r.base r.len va 64 then (s, some none)
  else
    match engRead s none L.asid.toNat va 64 with
    | (s, .error (_, k)) => (s, if k = cAWAY then none else some none)
    | (s, .ok d) => (s, some (parseModuli d))

/-- The launch's dawn team, its template region, or team `no` of a plan has been placed: what the launch records. -/
def notePlaced (s : State) (L : Launch) (p : Plan) (m : Moduli) : State :=
  let s1 : State := { s with held := s.held.filter fun h => h.seq != L.seq }
  let s2 := s1.modLaunch L.seq fun L => { L with placedAny := true, moduli := some m }
  match p with
  | .dawn => s2.modLaunch L.seq fun L => { L with dawnPlaced := true }
  | .grid => s2.modLaunch L.seq fun L => { L with next := L.next + 1, live := L.live + 1 }
  | .child k => s2.modLaunch L.seq fun L =>
      { L with children := L.children.map fun x => if x.id == k.id then { x with next := x.next + 1, live := x.live + 1 } else x }

/-- Take a template-range entry for the dawn team just formed (R68). -/
def takeRegion (s : State) (L : Launch) (e : Nat) : State :=
  let gid := s.nextGid - 1
  let r : Region :=
    { entry := e, asid := L.asid.toNat, base := pTBase L.pkt, size := pTSize L.pkt, cow := pCow L.pkt, seq := L.seq, frozen := false,
      dawn := gid, dawnLane := 0, child := 0, written := false }
  ({ s with regions := s.regions ++ [r] }).modLaunch L.seq fun L => { L with region := some e }

/-- The launch's moduli, read when its first team is placed. -/
def launchModuli (s : State) (L : Launch) : State × Option (Option Moduli) :=
  match L.moduli with
  | some m => (s, some (some m))
  | none => readModuli s L

-- DEDUCED: notes/assumptions/42
/-- Place one team of a plan where it fits; a launch that cannot start completes. None: it fits nowhere. -/
def placeOne (s : State) (L : Launch) (p : Plan) : Option State :=
  let no := p.next L
  match chooseCore s L.seq (planNeed L p no), (if p == .dawn then freeTmpl s else some 0) with
  | some core, some e =>
    if p == .dawn && s.regions.any (fun r => r.asid == L.asid.toNat && overlap r.base r.size (pTBase L.pkt) (pTSize L.pkt)) then
      some (completeLaunch s L.seq 6)
    else
      match launchModuli s L with
      | (_, none) => none
      | (s, some none) => some (completeLaunch s L.seq 7)
      | (s, some (some m)) =>
        (placeTeam s { L with moduli := some m } p no core).map fun s =>
          notePlaced (if p == .dawn then takeRegion s L e else s) L p m
  | _, _ => none

/-- Place team `no` and the ones after it, each where `core` says; none unless all are placed. -/
def placeAll (L : Launch) (m : Moduli) (core : State → Nat → Option Nat) : Nat → Nat → State → Option State
  | 0, _, s => some s
  | n + 1, no, s =>
    match core s no with
    | none => none
    | some c =>
      match placeTeam s { L with moduli := some m } .grid no c with
      | none => none
      | some s => placeAll L m core n (no + 1) (notePlaced s L .grid m)

-- DEDUCED: notes/assumptions/44
/-- Place a LINKED or SUPERSTEP grid as one gang (R114). -/
def placeGang (s : State) (L : Launch) : Option State :=
  let where_ : Option (State → Nat → Option Nat) :=
    if pLinked L.pkt then (ringPlace s L .grid).map fun x => fun _ i => some (16 * x.1 + (x.2 + i) % 16)
    else if gangOk s L .grid then some fun s i => chooseCore s L.seq (planNeed L .grid i)
    else none
  match where_ with
  | none => none
  | some core =>
    match launchModuli s L with
    | (_, none) => none
    | (s, some none) => some (completeLaunch s L.seq 7)
    | (s, some (some m)) => placeAll L m core (pTeams L.pkt) 0 s

/-- What the launch would place next, saved teams apart: children of the highest level, then its dawn or grid (R87, R115). -/
def nextPlan (L : Launch) : Option Plan :=
  let open_ := L.children.filter fun k => decide (k.next < childTeams L k)
  let best := open_.foldl (fun (b : Option ChildGrid) k =>
    match b with
    | none => some k
    | some x => if x.level < k.level || (x.level == k.level && decide (k.id < x.id)) then some k else some x) none
  match best with
  | some k => some (.child k)
  | none =>
    if pT L.pkt && !L.dawnPlaced then some .dawn
    else if L.frozen && decide (L.next < pTeams L.pkt) then some .grid
    else none

/-- Place what comes next. `some s`: something was placed, or the launch completed. -/
def placeNext (s : State) (L : Launch) : Option State :=
  match nextPlan L with
  | none => none
  | some .grid => if pLinked L.pkt || pSuper L.pkt then placeGang s L else placeOne s L .grid
  | some p => placeOne s L p

/-! ### Completion (R91, R113, R198) -/

/-- The record of tensor identifier `i`. -/
def statBytes (L : Launch) (i : Nat) : List Byte :=
  (List.range 3).flatMap (fun k => natLe 4 (NMap.get 0 (i * 3 + k) L.stats).toNat) ++ zeros 4

/-- Everything of the launch has ended (R91). -/
def launchOver (s : State) (L : Launch) : Bool :=
  (L.gridDone || (L.code.isSome && L.dawnEnded)) && L.children.isEmpty && !(s.regions.any fun r => r.seq == L.seq) &&
  !(s.teams.any fun t => t.seq == L.seq) && !(s.saved.any fun t => t.seq == L.seq) && decide (L.pass ≤ s.meridian) &&
  !agentBusy s 6 L.seq

-- DESIGN CHOICE: notes/assumptions/48
/-- A KIND 3 record (R417): the lowest address of a statistics record that was not written. Its CLUSTER, POS, PC and LANES are free. -/
def statsFault (s : State) (L : Launch) (va : Nat) : State :=
  let r : TrapRec :=
    { seq := s.nextRec, core := 512, addr := va, pc := freeNat (s.fresh + 2) 8, cause := cSTATSFAULT, kind := 3, pos := (Config.freeByte (s.fresh + 1)).toNat,
      cluster := (Config.freeByte s.fresh).toNat % 16, asid := L.asid.toNat, groups := 0, lanes := BitVec.ofNat 32 (freeNat (s.fresh + 10) 4)
      time := s.meridian, drec := none, info := L.handle, info2 := 0, opened := s.cycles, closed := true, ring := none, stuck := false }
  { s with recs := s.recs ++ [r], nextRec := s.nextRec + 1, fresh := s.fresh + 14 }

/-- Failed writes of the statistics area. -/
def statFails (s : State) (L : Launch) : List Nat :=
  (s.fails.filter fun f => f.agent == 6 && f.id == L.seq && decide (pArea L.pkt ≤ f.va) && decide (f.va < pArea L.pkt + 1024)).map (·.va)

/-- LAUNCH_COMPLETION (R113): the statistics area first, the status once its writes are complete. -/
def execLaunchCompletion (entry : Nat) (s : State) : Res :=
  match s.launches.find? fun L => L.entry == entry && L.active with
  | none => .next s
  | some L =>
    if !launchOver s L then .next s
    else if !L.finishing then
      let s1 := dropFails (s.modLaunch L.seq fun L => { L with finishing := true }) 6 L.seq
      .next (if L.placedAny && pArea L.pkt ≠ 0 then
          (List.range 64).foldl (fun s i => agentStore s 6 L.seq 512 L.asid.toNat (pArea L.pkt + 16 * i) (statBytes L i)) s1
        else s1)
    else
      let s1 := dropFails s 6 L.seq
      let s2 := match (statFails s L).min? with
        | some va => statsFault s1 L va
        | none => s1
      .next (completeLaunch s2 L.seq (L.code.getD 0))

end Sys2Proof.Machine
end

