-- ==== Sys2Proof/Machine/Curfew.lean ====
section
/-! DEFINITION. Curfew: YIELD and CURF, uniform OP 1E, the raise, and the stop of a team's groups when the window closes
(R121 to R125, R127, R150, R155, R484). -/

namespace Sys2Proof.Machine

/-! ### YIELD and CURF (R123, R124) -/

def execCurf (f : UniR) (s : State) : Res := uniK {} f.g f.d s fun c => c.t.curfew.isSome

def execYield (f : UniR) (s : State) : Res :=
  uniform { waitPt := true } f.g s fun c s =>
    if pendingStores s c.gid c.active true then stall c s
    else
      deliver 0 c s fun c s =>
        if c.t.curfew.isNone then fin c s
        else
          let a := c.sReg f.a
          let s1 := s.modGroup c.gid fun g => { g with yRows := g.yRows ||| a.extractLsb' 0 60, yS := g.yS ||| c.sReg f.b }
          let s2 := s1.modTeam c.t.tid fun t =>
            { t with yAcc := t.yAcc ||| a.extractLsb' 60 4, yLocal := t.yLocal ||| (c.sReg f.d).extractLsb' 0 62 }
          finSub c s2 { c.u.dropChain.next c.u.pc with wait := .yielded }

/-! ### Stopping sub-groups (R125) -/

/-- A provisional arrival is withdrawn (R150); the mask stays while any arrival of the generation does, a final one of a group that has
ended or was restored included. -/
def withdraw (s : State) (g : Group) (u : Sub) (n : Nat) : State :=
  let lanes := NMap.get 0 n g.arrive &&& ~~~u.mask
  let s1 := s.modGroup g.gid fun g => { g with arrive := NMap.set 0 n lanes g.arrive }
  let others := s1.groups.any fun h => h.tid == g.tid && NMap.get 0 n h.arrive != 0
  s1.modTeam g.tid fun t =>
    let b := t.barrier n
    let arr := b.arr &&& ~~~(1#32 <<< g.gslot)
    { t with bars := NMap.set Barrier.init n ⟨b.gen, arr, if others || arr != 0 then b.mask else 0⟩ t.bars }

/-- Stop a sub-group at its boundary, with the WAIT of R130, or mark it to stop at its next switch point. -/
def stopOne (s : State) (gid lane : Nat) : State :=
  match s.ctxOf gid lane with
  | none => s
  | some c =>
    let halt := fun (s : State) (k : Nat) => c.setSub s { c.u.dropChain with wait := .stopped k, stopPending := false }
    if c.u.endPending then s
    else
      match c.u.wait with
      | .trapped _ | .stopped _ | .yielded => s
      | .ready | .stall | .saving =>
        if atSwitchPoint s c then halt s (if c.u.wait == .ready then 0 else 5) else c.setSub s { c.u with stopPending := true }
      | .bar n _ arrived _ => halt (if arrived then withdraw s c.g c.u n else s) 3
      | .rejoin _ => halt s 2
      | .napUntil _ | .napWake | .napCyc _ => halt s 4
      | _ => halt s 5

/-- A sub-group that was to stop has reached a switch point. -/
def settleStop (s : State) (gid lane : Nat) : State :=
  match s.ctxOf gid lane with
  | none => s
  | some c => if c.u.stopPending && atSwitchPoint s c then stopOne (c.setSub s { c.u with stopPending := false }) gid lane else s

/-- Group and lowest lane of every sub-group of a team. -/
def teamSubs (s : State) (tid : Nat) : List (Nat × Nat) :=
  (s.groups.filter fun g => g.tid == tid).flatMap fun g => g.subs.map fun u => (g.gid, lowestLane u.mask)

def teamParked (s : State) (tid : Nat) : Bool := s.groups.any fun g => g.tid == tid && g.subs.any parkedInTrap

/-- CURFEW_WINDOW_CLOSE (R125). -/
def execCurfewWindowClose (tid : Nat) (s : State) : Res :=
  match s.team? tid with
  | none => .next s
  | some t =>
    match t.curfew with
    | none => .next s
    | some c =>
      if c.closed || s.cycles < c.until_ then .next s
      else
        let s1 := s.modTeam tid fun t => { t with curfew := some { c with closed := true, blocked := teamParked s tid } }
        .next ((teamSubs s1 tid).foldl (fun s q => stopOne s q.1 q.2) s1)

/-! ### What a launch waits to place (R115, R116) -/

/-- What a saved team needs of a core (R116, R132, R271). -/
def savedNeed (x : SavedTeam) : Need :=
  let held := fun (r : Nat) => (x.groups.filter fun g => g.role == r).length
  { slots := x.groups.length
    regs := ((List.range x.team.roles.length).map fun r =>
      match x.team.roles[r]? with
      | none => 0
      | some ro =>
        if x.team.image.isSome then
          32 * max ro.reserve (((x.groups.filter fun g => g.role == r).map fun g => popN 60 g.priv.toNat).sum)
        else 32 * ro.win * max (held r) (countBelow (fun i => x.team.slotRegs.getLsbD (rolesGroups (x.team.roles.take r) + i)) ro.groups)).sum
    ways := x.team.ways.length, segs := x.team.segs.length, cols := x.team.cols.length, acc := x.team.acc
    banks := x.banks.map (·.1), image := x.team.image, bins := x.bins.length, cow := x.team.cow }

/-- R110. -/
def edfBefore (a b : Launch) : Bool :=
  decide (pDeadline a.pkt < pDeadline b.pkt) || (pDeadline a.pkt == pDeadline b.pkt && decide (a.seq < b.seq))

/-- Insert in R110 order. -/
def edfInsert (x : Launch) : List Launch → List Launch
  | [] => [x]
  | y :: ys => if edfBefore x y then x :: y :: ys else y :: edfInsert x ys

/-- The queued, incomplete launches in R110 order. -/
def edf (s : State) : List Launch := (s.launches.filter (·.active)).foldr edfInsert []

-- DESIGN CHOICE: notes/assumptions/114
/-- The saved team of a launch that is restored first. -/
def nextSaved (s : State) (seq : Nat) : Option SavedTeam :=
  (s.saved.filter fun x => x.seq == seq).foldl (fun (b : Option SavedTeam) x =>
    match b with
    | none => some x
    | some y => if x.team.teamNo < y.team.teamNo then some x else some y) none

/-- What the launch's waiting team needs. -/
def waitNeed (s : State) (L : Launch) : Option Need :=
  match nextSaved s L.seq with
  | some x => some (savedNeed x)
  | none => (nextPlan L).map fun p => planNeed L p (p.next L)

/-! ### The save arena (R127, R264, R484) -/

def granulesTotal (s : State) : Nat := s.regs.saveSize.toNat / Config.granule
def granulesUsed (s : State) : Nat := (s.granules.map (·.2)).sum
def saveFree (s : State) : Nat := granulesTotal s - granulesUsed s
/-- The lowest contiguous room for `n` granules. -/
def granuleRun (s : State) (n : Nat) : Option Nat :=
  if granulesTotal s < n then none
  else firstFrom (fun i => s.granules.all fun g => !overlap g.1 g.2 i n) 0 (granulesTotal s + 1 - n)

def pad64 (n : Nat) : Nat := roundUp n 64

/-- R264: granules of a record of SIZE bytes. -/
def recordGranules (size groups slots : Nat) : Nat := ceilDiv (size + 256 + 160 * groups + 0x140 + 2112 * slots) Config.granule

-- DEDUCED: notes/assumptions/50
/-- R484. What may still grow is at its limit: the core's teams, this one too, may unpin their ways, and MODSET may give a slot six channels. -/
def largestRecord (s : State) (t : Team) : Nat :=
  let accs := popN 4 t.acc.toNat
  let groups := (t.roles.map fun r => r.groups * pad64 (0x6C0 + 32 * (96 + 8 * 32) + 128 * r.win)).sum
  let parts := t.ways.length * Config.wayBytes + t.segs.length * Config.segBytes + t.cols.length * Config.colBytes + accs * 6 * 8192
  let ls := if parts = 0 then 0 else pad64 (64 + parts)
  let banks := countBelow (fun b => (s.bank t.core b).ownedBy t) 8
  let cow := (16 - 1) * 384
  let size := 128 + groups + ls + pad64 (banks * (16 + 4096)) + pad64 (cow * 144) + pad64 (16 * (16 + 32 * 32)) + pad64 (288 * 32) + pad64 (2752 * 16)
  recordGranules size (rolesGroups t.roles) accs

/-! ### The raise (R121, R122) -/

/-- The state with a team gone from its core. -/
def without (s : State) (t : Team) : State :=
  let s1 := releaseAllot s t
  setBins s1 t.core ((s1.core t.core).bins.filter fun b => b.tid != t.tid)

def eligible (s : State) (L : Launch) (need : Need) (t : Team) : Bool :=
  (t.kind == .grid || t.kind == .dawn) && !t.superstep && t.curfew.isNone && !teamParked s t.tid &&
  (match s.launch? t.seq with
    | some M => edfBefore L M && !pLinked M.pkt && !pSuper M.pkt
    | none => false) &&
  (granuleRun s (largestRecord s t)).isSome && fits (without s t) L.seq need t.core

/-- Of two eligible teams, is `a` the victim rather than `b`? -/
def rather (s : State) (a b : Team) : Bool :=
  match s.launch? a.seq, s.launch? b.seq with
  | some x, some y =>
    if x.seq ≠ y.seq then edfBefore y x
    else if a.teamNo ≠ b.teamNo then decide (b.teamNo < a.teamNo)
    else decide (a.core < b.core)
  | _, _ => false

def victim (s : State) (L : Launch) (need : Need) : Option Team :=
  (s.teams.filter (eligible s L need)).foldl (fun (b : Option Team) t =>
    match b with
    | none => some t
    | some x => if rather s t x then some t else some x) none

/-- Curfew on a team: the window, the reservation, and NAP.wake ends (R122, R127, R153). -/
def curfewOn (s : State) (L : Launch) (t : Team) (base n : Nat) : State :=
  let s1 := s.modTeam t.tid fun t =>
    { t with curfew := some { until_ := s.cycles + s.regs.curfewWin.toNat, forSeq := L.seq, closed := false, blocked := false, granBase := base, granules := n, since := none, stashed := false }
             yAcc := 0, yLocal := 0 }
  { s1 with granules := s1.granules ++ [(base, n)]
            groups := s1.groups.map fun g =>
              if g.tid == t.tid then
                { g with yRows := 0, yS := 0, subs := g.subs.map fun u => if u.wait == .napWake then u.resume else u }
              else g }

/-- A curfew for the launch is open, other than a blocked one. -/
def curfewOpenFor (s : State) (seq : Nat) : Bool :=
  s.teams.any fun t => match t.curfew with | some c => c.forSeq == seq && !c.blocked | none => false

-- DEDUCED: notes/assumptions/54
/-- R121: a team of `L` fits no core. -/
def raiseCurfew (s : State) (L : Launch) : State :=
  match waitNeed s L with
  | none => s
  | some need =>
    if curfewOpenFor s L.seq then s
    else
      match victim s L need with
      | none => s
      | some t =>
        match granuleRun s (largestRecord s t) with
        | none => s
        | some base => curfewOn s L t base (largestRecord s t)

end Sys2Proof.Machine
end

