-- ==== Sys2Proof/Machine/Sluice.lean ====
section
/-! DEFINITION. The sluice tables: ranges, conflicts and SLUICE, uniform OP 36 (R335, R356 to R361). -/

namespace Sys2Proof.Machine

/-! ### Ranges and conflicts (R356, R359) -/

/-- Two registered ranges overlap: crystallizer ranges of the device, virtual ones of one address space. -/
def rangesMeet (asid bsid : BitVec 16) (a b : SRange) : Bool :=
  a.cryst == b.cryst && (a.cryst || asid == bsid) && overlap a.base a.len b.base b.len
def rangesConflict (asid bsid : BitVec 16) (a b : SRange) : Bool := rangesMeet asid bsid a b && (a.written || b.written)

/-- The base of a range of `rs` that conflicts with an explicit entry of another team. -/
def lockedBy (s : State) (tid : Nat) (asid : BitVec 16) (rs : List SRange) : Option Nat :=
  (rs.find? fun r => s.sluice.any fun e => e.team.isSome && e.team != some tid && e.ranges.any (rangesConflict asid e.asid r)).map (·.base)

/-- Does an earlier engine operation hold back the one of order `n` (R359)? -/
def heldBack (s : State) (n : Nat) : Bool :=
  match s.sluice.find? fun e => e.team.isNone && e.order == n with
  | none => false
  | some e => s.sluice.any fun x => x.team.isNone && decide (x.order < n) &&
      e.ranges.any fun r => x.ranges.any (rangesConflict e.asid x.asid r)

/-- R444: an operation that touches another device's pages waits for the lock. -/
def awaitsPod (s : State) (n : Nat) : Bool :=
  s.sluice.any fun e => e.team.isNone && e.order == n && e.ranges.any fun r => !r.cryst && podRange s e.asid.toNat r.base r.len

/-- The lowest free entry of a cluster's table. -/
def freeSluice (s : State) (cluster : Nat) : Option Nat :=
  firstFrom (fun i => !s.sluice.any fun e => e.cluster == cluster && e.entry == i) 0 Config.sluiceEntries

/-- The entry of an engine operation returns. -/
def dropEngineEntry (s : State) (order : Nat) : State :=
  cleanSnaps { s with sluice := s.sluice.filter fun e => !(e.team.isNone && e.order == order) }

/-! ### SLUICE (R360) -/

def teamEntries (s : State) (tid : Nat) : List Sluice := s.sluice.filter fun e => e.team == some tid

def sluiceLock (mode : Nat) (f : UniR) (s : State) : Res :=
  uniform {} f.g s fun c s =>
    let base := (c.sReg f.a).toNat
    let len := bitsN (c.sReg f.b).toNat 31 0
    let mine : SRange := ⟨base, len, mode, false, false, false⟩
    let cl := clusterOf c.core
    if len = 0 || Config.maxVa < base + len then finS c s f.d 2
    else if Config.teamSluice ≤ (teamEntries s c.t.tid).length then finS c s f.d 3
    else if s.sluice.any fun e => e.team.isSome && e.team != some c.t.tid && e.ranges.any (rangesMeet c.t.asid e.asid mine) then
      finS c s f.d 1
    else if s.sluice.any fun e => e.team.isNone && e.ranges.any (rangesMeet c.t.asid e.asid mine) then stall c s
    else
      match freeSluice s cl with
      | none => stall c s
      | some i =>
        let e : Sluice :=
          { cluster := cl, entry := i, seq := s.sluiceSeq, asid := c.t.asid, ranges := [mine], team := some c.t.tid, order := 0, snapAt := s.meridian }
        finS c { s with sluice := s.sluice ++ [e], sluiceSeq := s.sluiceSeq + 1 } f.d
          (BitVec.ofNat 64 (2 ^ 63 + e.seq % 2 ^ 47 * 2 ^ 16 + cl * 2 ^ 8 + i))

def execSluiceExcl (f : UniR) (s : State) : Res := sluiceLock 1 f s
def execSluiceWrite (f : UniR) (s : State) : Res := sluiceLock 0 f s
def execSluiceSnap (f : UniR) (s : State) : Res := sluiceLock 2 f s

def execSluiceUnlock (f : UniR) (s : State) : Res :=
  uniform {} f.g s fun c s =>
    let x := (c.sReg f.a).toNat
    let named := fun (e : Sluice) => e.team == some c.t.tid && x == 2 ^ 63 + e.seq % 2 ^ 47 * 2 ^ 16 + e.cluster * 2 ^ 8 + e.entry
    fin c (cleanSnaps { s with sluice := s.sluice.filter fun e => !named e })

end Sys2Proof.Machine
end

