-- ==== Sys2Proof/Machine/Cryst.lean ====
section
/-! DEFINITION. Writing the crystallizer: lines, wear levelling, spares and headers (R419, R421, R422, R424 to R426). -/

namespace Sys2Proof.Machine

def crystSlotBytes (s : State) (r slot : Nat) : List Byte := (List.range 256).map fun i => NMap.get 0 (crystKey r slot i) s.crystMem
def putCrystSlot (s : State) (r slot : Nat) (bs : List Byte) : State :=
  { s with crystMem := (List.range 256).foldl (fun m i => NMap.set 0 (crystKey r slot i) (bs.getD i 0) m) s.crystMem }
def State.setRegion (s : State) (r : Nat) (x : CrystRegion) : State := { s with cryst := NMap.set CrystRegion.new r x s.cryst }

/-- The physical slot that stands for data or gap slot `b`. -/
def CrystRegion.phys (x : CrystRegion) (b : Nat) : Nat :=
  match x.remap.find? fun e => e.1 == b with
  | some (_, spare) => Config.regionLines + 1 + spare
  | none => b

/-- Slot number, before remapping, of logical line `l` (R424). -/
def CrystRegion.baseSlot (x : CrystRegion) (l : Nat) : Nat :=
  let a := (l + x.start) % Config.regionLines
  if x.gap ≤ a then a + 1 else a

-- DEDUCED: notes/assumptions/86
/-- The two lines of a header copy (R425): the remap list, oldest entry first, goes on at the start of the second. -/
def headerBytes (x : CrystRegion) (seq : Nat) : List Byte :=
  let maps := x.remap.reverse.map fun e => natLe 4 (e.2 * 2 ^ 26 + e.1)
  let lo := (maps.take 56).flatten
  let hi := (maps.drop 56).flatten
  let body := natLe 4 seq ++ natLe 4 x.start ++ natLe 4 x.gap ++ natLe 1 x.wcount ++ natLe 1 x.remap.length ++ natLe 2 0 ++
    natLe 8 x.writes ++ lo ++ List.replicate (228 - lo.length) 0
  body ++ natLe 4 (crc32c body) ++ hi ++ List.replicate (256 - hi.length) 0
def headerSeq (h : List Byte) : Nat := fieldN h 0 4
/-- Its CRC is good; a copy as made at manufacture counts as good. -/
def headerGood (h : List Byte) : Bool := h.isEmpty || crc32c (h.take 252) == fieldN h 252 4
/-- A header write goes to the copy with the lower SEQ (R425). -/
def writeHeader (x : CrystRegion) : CrystRegion :=
  let a := headerSeq x.hdrA
  let b := headerSeq x.hdrB
  if a ≤ b then { x with hdrA := headerBytes x (b + 1) } else { x with hdrB := headerBytes x (a + 1) }
/-- A region at power-up (R425): from the copy with a good CRC and the higher SEQ. WRITES is kept (R429). -/
def fromHeader (x : CrystRegion) : CrystRegion :=
  let a := headerGood x.hdrA
  let h := if a && (!headerGood x.hdrB || decide (headerSeq x.hdrB ≤ headerSeq x.hdrA)) then x.hdrA else x.hdrB
  if h.isEmpty then { CrystRegion.new with writes := x.writes, hdrA := x.hdrA, hdrB := x.hdrB }
  else
    let entry := fun (i : Nat) => fieldN h (if i < 56 then 0x18 + 4 * i else 256 + 4 * (i - 56)) 4
    { x with
      start := fieldN h 4 4, gap := fieldN h 8 4, wcount := fieldN h 12 1
      remap := ((List.range (fieldN h 13 1)).map fun i => (entry i % 2 ^ 26, entry i / 2 ^ 26)).reverse }

/-- A slot whose writes fail verification (R426). -/
def slotFails (s : State) (r slot : Nat) : Bool := s.badCryst.contains (r * 2 ^ 20 + slot)

-- DEDUCED: notes/assumptions/96
/-- Write the bytes to the slot of base slot `b`, or once to a free spare. False: an uncorrectable error (R426), the line as it was
(R422): the spare of a failed retry is entered too, and answers with the line's old bytes. -/
def putLine (s : State) (r b : Nat) (bs : List Byte) : State × Bool :=
  let x := s.region r
  if !slotFails s r (x.phys b) then (putCrystSlot s r (x.phys b) bs, true)
  else
    match firstFrom (fun i => !(x.remap.any fun e => e.2 == i)) 0 64 with
    | none => (s, false)
    | some i =>
      let y := writeHeader { x with remap := (b, i) :: x.remap }
      let old := crystSlotBytes s r (x.phys b)
      let s := (s.setRegion r y).noteHealth s.healthValue
      if slotFails s r (y.phys b) then (putCrystSlot s r (y.phys b) old, false) else (putCrystSlot s r (y.phys b) bs, true)

/-- The gap moves by one slot and the header is written (R424); a copy that cannot be written leaves the gap where it is and is an
uncorrectable error as any line write is (R426). -/
def moveGap (s : State) (r : Nat) : State × Bool :=
  let x := s.region r
  let a := if x.gap = 0 then Config.regionLines else x.gap - 1
  match putLine (s.setRegion r { x with wcount := 0 }) r x.gap (crystSlotBytes s r (x.phys a)) with
  | (s, false) => (s, false)
  | (s, true) =>
    let x := s.region r
    let y := { x with gap := a, writes := x.writes + 1, start := if x.gap = 0 then (x.start + 1) % Config.regionLines else x.start }
    (s.setRegion r (writeHeader y), true)

/-- Cached copies of a crystallizer line go; the time by which the leases on them have ended. -/
def dropCrystLines (s : State) (c : Nat) : State × Nat :=
  let pa := Config.crystBase + c / 256 * 256
  let hit := fun (x : L2Line) => x.owner.isNone && decide (pa ≤ x.pa) && decide (x.pa < pa + 256)
  let end_ := ((s.l2.filter hit).map fun x => if x.lease = 0 then 0 else x.lease + Config.skewDev).foldl max 0
  ({ s with l2 := s.l2.filter fun x => !hit x }, end_)

-- DEDUCED: notes/assumptions/129
/-- Before a crystallizer line changes, the readers of live snapshots get its value (R335, R358). -/
def preserveCryst (s : State) (c : Nat) : State :=
  let pa := Config.crystBase + c / 256 * 256
  (linesAt s pa ++ linesAt s (pa + 128)).foldl preserve s

/-- One line write at crystallizer address `c` (R422, R424): done or not, and when its old copies are gone. What no ECC could correct in
the old line has gone with it (R423). -/
def crystLineWrite (s : State) (c : Nat) (bs : List Byte) : State × Bool × Nat :=
  let r := c / 2 ^ 26
  let pa := Config.crystBase + c / 256 * 256
  let s := preserveCryst s c
  match putLine s r ((s.region r).baseSlot (c / 256 % Config.regionLines)) bs with
  | (s, false) => (s, false, 0)
  | (s, true) =>
    let x := s.region r
    let s := { s.setRegion r { x with wcount := x.wcount + 1, writes := x.writes + 1 } with badMem := s.badMem.filter fun b => b != pa / 128 && b != pa / 128 + 1 }
    let m := if x.wcount + 1 = 64 then moveGap s r else (s, true)
    match dropCrystLines m.1 c with
    | (s, t) => (s, m.2, t)

/-- Is the region granted to the ASID (R421)? -/
def granted (s : State) (r : Nat) (asid : BitVec 16) : Bool :=
  let g := (NMap.get 0 r s.grants).toNat
  bitN g 16 && g % 2 ^ 16 == asid.toNat

end Sys2Proof.Machine
end

