-- ==== Sys2Proof/Machine/Copy.lean ====
section
/-! DEFINITION. Copy engines: COPY and CWAIT, uniform OPs 34 and 35, with their device steps (R345 to R355, R422). -/

namespace Sys2Proof.Machine

/-! ### The copy record (R346, R347) -/

def qCtl (r : List Byte) : Nat := fieldN r 0 4
def qLen (r : List Byte) : Nat := fieldN r 4 4
def qRows (r : List Byte) : Nat := fieldN r 8 4
def qL (r : List Byte) : Nat := fieldN r 0x0C 2
def qSrc (r : List Byte) : Nat := fieldN r 0x10 8
def qDst (r : List Byte) : Nat := fieldN r 0x18 8
def qSstr (r : List Byte) : Nat := fieldN r 0x20 4
def qDstr (r : List Byte) : Nat := fieldN r 0x24 4
def qAux (r : List Byte) : Nat := fieldN r 0x28 8
def qAstr (r : List Byte) : Nat := fieldN r 0x30 4
def qXstr (r : List Byte) : Nat := fieldN r 0x34 4
def qCompl (r : List Byte) : Nat := fieldN r 0x38 4
def qCen (r : List Byte) : Bool := bitN (qCtl r) 31
def qSlocal (r : List Byte) : Bool := bitN (qCtl r) 30
def qDlocal (r : List Byte) : Bool := bitN (qCtl r) 29
def qErrfb (r : List Byte) : Bool := bitN (qCtl r) 28
def qSmode (r : List Byte) : Nat := bitsN (qCtl r) 27 26
def qDmode (r : List Byte) : Nat := bitsN (qCtl r) 25 25
def qSfmt (r : List Byte) : Bool := bitN (qCtl r) 24
def qStatid (r : List Byte) : Nat := bitsN (qCtl r) 23 18

def kPLAIN : Nat := 0
def kSB12 : Nat := 1
def kRP16 : Nat := 2
def kBF16 : Nat := 3
def kGATHER : Nat := 4
def kDRAIN : Nat := 5

/-- Is the source SB12, and the destination (R348)? -/
def srcSb (kind : Nat) (r : List Byte) : Bool := kind == kBF16 || (kind == kRP16 && !qSfmt r)
def dstSb (kind : Nat) : Bool := kind == kSB12
def anySb (kind : Nat) (r : List Byte) : Bool := srcSb kind r || dstSb kind

/-- Bytes of `n` units of a source row, and of a destination row (one plane, for RP16). -/
def srcBytes (kind : Nat) (r : List Byte) (n : Nat) : Nat :=
  if srcSb kind r then 3 * n / 2
  else if kind = kSB12 then n * (if qSfmt r then 2 else 4)
  else if kind = kRP16 then 4 * n
  else n
def dstBytes (kind n : Nat) : Nat := if kind = kSB12 then 3 * n / 2 else if kind = kRP16 || kind = kBF16 then 2 * n else n

/-- Alignment of the source and of the destination (R348). -/
def srcAlign (kind : Nat) (r : List Byte) : Nat :=
  if srcSb kind r then 1 else if kind = kSB12 then (if qSfmt r then 2 else 4) else if kind = kRP16 then 4 else 1
def dstAlign (kind : Nat) : Nat := if kind = kRP16 || kind = kBF16 then 2 else if kind = kDRAIN then 256 else 1

-- DEDUCED: notes/assumptions/14
/-- R350. -/
def copyOk (kind : Nat) (r : List Byte) : Bool :=
  let fits := fun (loc : Bool) (a : Nat) => if loc then decide (a < 2 ^ 32) else decide (a < Config.maxVa)
  let auxLocal := if dstSb kind then qDlocal r else qSlocal r
  bitsN (qCtl r) 17 0 == 0 && fieldN r 0x0E 2 == 0 && fieldN r 0x3C 4 == 0 && bitsN (qCompl r) 31 12 == 0 &&
  decide (1 ≤ qLen r) && decide (qLen r ≤ 2 ^ 24) && decide (1 ≤ qRows r) && decide (qRows r ≤ 65536) && qSmode r != 3 &&
  (if anySb kind r then qL r % 24 == 0 && decide (24 ≤ qL r) && decide (qL r ≤ 12288) && qLen r % qL r == 0 && qAstr r % 4 == 0
   else qL r == 0 && qAstr r == 0) &&
  (anySb kind r || kind == kGATHER || qAux r == 0) &&
  (if kind = kRP16 then qXstr r % 2 == 0 else kind == kGATHER || qXstr r == 0) &&
  fits (qSlocal r) (qSrc r) && (if kind = kDRAIN then decide (qDst r < 2 ^ 32) else fits (qDlocal r) (qDst r)) && fits auxLocal (qAux r) &&
  qSrc r % srcAlign kind r == 0 && qSstr r % srcAlign kind r == 0 && qDst r % dstAlign kind == 0 && qDstr r % dstAlign kind == 0 &&
  (kind != kDRAIN || (!qSlocal r && !qDlocal r && qLen r % 256 == 0))

/-! ### Ranges (R351, R356) -/

/-- Base and length of a strided array of `rows` rows. -/
def span (base stride rows n : Nat) : Nat × Nat := (base, (rows - 1) * stride + n)

-- DEDUCED: notes/assumptions/126
/-- What an operation registers: sources, then destinations; the scale array belongs to its side (R351). -/
def copyRanges (kind : Nat) (r : List Byte) (chans : Nat) : List SRange :=
  let mk := fun (mode : Nat) (w cryst : Bool) (p : Nat × Nat) => (⟨p.1, p.2, mode, w, cryst, false⟩ : SRange)
  let scales := if anySb kind r then [span (qAux r) (qAstr r) (qRows r) (4 * (qLen r / qL r))] else []
  let src := (if kind = kGATHER then (qSrc r, qXstr r) else span (qSrc r) (qSstr r) (qRows r) (srcBytes kind r (qLen r))) ::
    (if srcSb kind r then scales else [])
  let row := dstBytes kind (qLen r)
  let planes := if kind = kRP16 then (List.range chans).map fun c => span (qDst r + c * qXstr r) (qDstr r) (qRows r) row
    else [span (qDst r) (qDstr r) (qRows r) row]
  let dst := planes ++ (if dstSb kind then scales else [])
  (if qSlocal r then [] else src.map (mk (if kind = kDRAIN then 2 else qSmode r) false false)) ++
  (if qDlocal r then [] else dst.map (mk (qDmode r) true (kind == kDRAIN)))

/-! ### Owner tags (R269) -/

/-- Parts of one core under a view: the part as an address names it, core and part, tag. -/
def viewTags (s : State) (view core : Nat) (parts : List (Nat × Nat × Nat)) : List (Nat × Nat × Nat) :=
  parts.map fun p => (view * 64 + partKey p.1 p.2.1, core * 64 + p.2.2, s.tagOf core p.1 p.2.2)

/-- The tags of the team's own parts, and, for `peer`, of the parts of its launch in the cluster. -/
def issueTags (s : State) (t : Team) (peer : Bool) : List (Nat × Nat × Nat) :=
  let own := [0, 1, 2].flatMap fun kind =>
    (List.range (t.parts kind).length).map fun i => (kind, i, (t.parts kind).getD i 0)
  let all := [(0, 14), (1, 16), (2, 32)].flatMap fun q => (List.range q.2).map fun i => (q.1, i)
  let cl := clusterOf t.core
  viewTags s 0 t.core own ++
  (if peer then
    (List.range 16).flatMap fun pos =>
      let core := 16 * cl + pos
      viewTags s (16 + pos) core ((all.filter fun q =>
        match s.partOwner core q.1 q.2 with
        | some o => sameLaunch o t
        | none => false).map fun q => (q.1, q.2, q.2))
   else [])

/-- Where a local address of an operation lies now: its status and cause, or the place (R268, R269, R355). -/
def tagPlace (s : State) (tags : List (Nat × Nat × Nat)) (cluster lseq a n : Nat) : Except (Nat × Nat) LPlace :=
  let peer := bitN a 27
  let pos := a / 2 ^ 23 % 16
  if 2 ^ 28 ≤ a || (!peer && pos ≠ 0) then .error (3, cLRANGE)
  else
    match splitOffset (a % 2 ^ 23) with
    | none => .error (3, cLRANGE)
    | some (kind, i, off) =>
      if partSize kind < off + n then .error (3, cLRANGE)
      else
        match tags.find? fun q => q.1 == a / 2 ^ 23 * 64 + partKey kind i with
        | some (_, phys, tag) =>
          let core := phys / 64
          let part := phys % 64
          if s.tagOf core kind part = tag then .ok ⟨core, kind, part, off⟩ else .error (4, 0)
        | none =>
          let core := 16 * cluster + pos
          let there := (kind == 0 && decide (i < 14)) || kind == 1 || (kind == 2 && decide (i < s.colBanks core))
          if !peer || !there then .error (3, cLRANGE)
          else
            match s.partOwner core kind i with
            | some o => if o.seq = lseq && lseq ≠ 0 then .error (4, 0) else .error (3, cLOWNER)
            | none => .error (3, cLOWNER)

/-! ### Reads and writes of a running operation (R334, R335, R355) -/

/-- Status and cause of a failed read. -/
def readFail (cause : Nat) : Nat × Nat := if cause = cMUNCORR || cause = cLUNCORR then (9, 0) else (3, cause)

def stashHome (s : State) (p : LPlace) : State × Except Nat Unit :=
  match s.partOwner p.core p.kind p.part with
  | none => (s, .ok ())
  | some t => stashFillWith (fun s base => engHome s t.asid.toNat base 128) s p

def opLocalPiece (o : CopyOp) (s : State) (a n : Nat) : State × Except (Nat × Nat) (List Byte) :=
  match tagPlace s o.tags (clusterOf o.core) o.lseq a n with
  | .error e => (s, .error e)
  | .ok p =>
    match stashHome s p with
    | (s, .error k) => (s, .error (readFail k))
    | (s, .ok _) => if localBad s p then (localError s p o.asid.toNat, .error (9, 0)) else (s, .ok (s.localN p.core p.phys n))

/-- A global read; `snap` when the source is held in SNAP mode. -/
def opGlobalPiece (o : CopyOp) (snap : Bool) (s : State) (a n : Nat) : State × Except (Nat × Nat) (List Byte) :=
  match (if snap then s.snaps.find? fun q => q.asid == o.asid.toNat && q.line == a / lineBytes && decide (o.snapAt < q.before) else none) with
  | some q =>
    (match engPage s o.asid.toNat a with
     | (s, .error k) => (s, .error (readFail k))
     | (s, .ok e) =>
       if q.bad then (memError s (controllerOf (e.pa a)) 31 o.asid.toNat a (e.pa a / 128 * 128) 1, .error (9, 0))
       else (s, .ok (slice q.data (a % lineBytes) n)))
  | none =>
    match engPiece s (s.team? o.tid) o.asid.toNat a n with
    | (s, .ok bs) => (s, .ok bs)
    | (s, .error (_, k)) => (s, .error (readFail k))

def copyRead (o : CopyOp) (loc snap : Bool) (s : State) (a n : Nat) : State × Except (Nat × Nat) (List Byte) :=
  readPieces (fun s a k => if loc then opLocalPiece o s a k else opGlobalPiece o snap s a k) (pieces a n) s

-- DEDUCED: notes/assumptions/59
def CopyOp.fail (o : CopyOp) (e : Nat × Nat) : CopyOp := { o with code := e.1, cause := e.2 }

/-- May the operation write the line of `a`: its fault, if any. -/
def writeCheck (s : State) (asid a : Nat) : State × Option Nat :=
  match translate s asid a with
  | (s, .error k) => (s, some k)
  | (s, .ok e) => (s, if e.red then some cREDREAD else if !e.w then some (if e.cow then cCOWWRITE else cPROT) else none)

/-- One piece of a write; nothing once the operation has failed. -/
def copyWritePiece (loc : Bool) (acc : State × CopyOp) (a : Nat) (bs : List Byte) : State × CopyOp :=
  let s := acc.1
  let o := acc.2
  if o.code ≠ 0 then acc
  else if loc then
    match tagPlace s o.tags (clusterOf o.core) o.lseq a bs.length with
    | .error e => (s, o.fail e)
    | .ok p =>
      match stashHome s p with
      | (s, .error k) => (s, o.fail (readFail k))
      | (s, .ok _) => (stashDirty (landLocal s p.core p.phys bs) p bs.length, { o with bytes := o.bytes + bs.length })
  else
    match writeCheck s o.asid.toNat a with
    | (s, some k) => (s, o.fail (3, k))
    | (s, none) => (agentStore s 1 o.order o.core o.asid.toNat a bs, { o with bytes := o.bytes + bs.length })

def copyWrite (loc : Bool) (acc : State × CopyOp) (a : Nat) (bs : List Byte) : State × CopyOp :=
  (pieces a bs.length).foldl (fun acc p => copyWritePiece loc acc p.1 (slice bs (p.1 - a) p.2)) acc

/-! ### Conversions (R189 to R193, R349) -/

def unpack12 (bs : List Byte) (n : Nat) : List Nat :=
  (List.range n).map fun i => bitsN (fieldN bs (3 * (i / 2)) 3) (12 * (i % 2) + 11) (12 * (i % 2))
def pack12 (qs : List Nat) : List Byte :=
  (List.range (qs.length / 2)).flatMap fun i => natLe 3 (qs.getD (2 * i) 0 % 4096 + qs.getD (2 * i + 1) 0 % 4096 * 4096)

/-- Elements of `size` bytes; two-byte ones are BF16 widened. -/
def fpElems (bs : List Byte) (size n : Nat) : List Nat :=
  (List.range n).map fun i => fieldN bs (size * i) size * (if size = 2 then 65536 else 1)

/-- Quantise a block, the residual chained when `fb`. -/
def quantAll (fb : Bool) (w : Nat) : List Nat → Nat → List QRes
  | [], _ => []
  | x :: xs, r =>
    let q := quant false x w (if fb then r else 0)
    q :: quantAll fb w xs q.r

/-- A block to SB12: mantissa codes, scale word, and the SAT and NAN counts. -/
def blockToSb (fb : Bool) (xs : List Nat) : List Nat × Nat × Nat × Nat :=
  let special := fun (x : Nat) => fpIsNan 23 x || fpIsInf 23 x
  let m := (xs.filter fun x => !special x).foldl (fun (a : Dy) x =>
    let d : Dy := ⟨(fpDy 23 x).m.natAbs, (fpDy 23 x).e⟩
    if Dy.lt a d then d else a) ⟨0, 0⟩
  let sp := xs.filter special
  let ef := if m.m = 0 && !sp.isEmpty then 4096 else scaleWord m
  let sk := if sp.isEmpty then 0 else if sp.all (· == fpInf 23 false) then 1 else if sp.all (· == fpInf 23 true) then 2 else 3
  let qs := quantAll fb ef xs 0
  (qs.map fun q => (ofI 12 q.q).toNat, sk * 2 ^ 20 + ef, (qs.filter (·.sat)).length, if sk = 3 then (sp.filter (fpIsInf 23)).length else 0)

/-- An SB12 element as BF16, rounded once. -/
def sbToBf (code w : Nat) : Nat :=
  if scaleE w = 0 then 0
  else if scaleE w = 255 then fpCanon 7
  else if code = 2048 then (match scaleSK w with | 1 => fpInf 7 false | 2 => fpInf 7 true | _ => fpCanon 7)
  else roundDy 7 .rne false (Dy.mul ⟨(BitVec.ofNat 12 code).toInt, 0⟩ (scaleDy w))

/-- The integer an SB12 element gives, none for one that counts SAT. -/
def sbToInt (code w : Nat) : Option Int :=
  if scaleE w = 0 then some 0 else if scaleE w = 255 || code = 2048 then none else some (BitVec.ofNat 12 code).toInt

/-- The integer an FP32 element gives in the signed raw range, and whether it counts SAT. -/
def fpToRange (mp x : Nat) : Option Int × Bool :=
  match fpVal 23 x with
  | .fin neg m e =>
    let i := signedM neg (roundAt .rne neg (m * pow2N e) (pow2D e) 0)
    let g := legitRaw true mp
    (some (satI i g.lo g.hi), decide (i < g.lo) || decide (g.hi < i))
  | _ => (none, true)

/-- Containers of channel `c`. -/
def plane (m : Moduli) (c : Nat) (xs : List (Option Int)) : List Byte :=
  xs.flatMap fun x => natLe 2 (match x with | some i => modI i (m.mods.getD c 1) | none => 0)

/-! ### Rows (R348, R349, R352) -/

/-- Read with `k` on the bytes; a failure ends the operation. -/
def withRead (acc : State × CopyOp) (loc snap : Bool) (a n : Nat) (k : State × CopyOp → List Byte → State × CopyOp) : State × CopyOp :=
  if acc.2.code ≠ 0 then acc
  else
    match copyRead acc.2 loc snap acc.1 a n with
    | (s, .error e) => (s, acc.2.fail e)
    | (s, .ok bs) => k (s, acc.2) bs

def countOp (acc : State × CopyOp) (kind n : Nat) : State × CopyOp := (acc.1.countFor acc.2.lseq (qStatid acc.2.record) kind n, acc.2)

/-- The scale word of element `i` of a row. -/
def scaleAt (r sc : List Byte) (i : Nat) : Nat := fieldN sc (4 * (i / qL r)) 4
def badScales (sc : List Byte) : Bool := (List.range (sc.length / 4)).any fun b => bitsN (fieldN sc (4 * b) 4) 31 22 != 0

def rowSb12 (r : List Byte) (row : Nat) (acc : State × CopyOp) (src : List Byte) : State × CopyOp :=
  let n := qLen r
  let xs := fpElems src (if qSfmt r then 2 else 4) n
  (List.range (n / qL r)).foldl (fun acc b =>
    if acc.2.code ≠ 0 then acc
    else
      match blockToSb (qErrfb r) ((xs.drop (b * qL r)).take (qL r)) with
      | (qs, w, sat, nan) =>
        let acc := countOp (countOp acc kSAT sat) kNAN nan
        let acc := copyWrite (qDlocal r) acc (qDst r + row * qDstr r + 3 * qL r * b / 2) (pack12 qs)
        copyWrite (qDlocal r) acc (qAux r + row * qAstr r + 4 * b) (natLe 4 w)) acc

def rowRp16 (r : List Byte) (row : Nat) (acc : State × CopyOp) (src sc : List Byte) : State × CopyOp :=
  let n := qLen r
  let m := acc.2.mods
  let xs : List (Option Int × Bool) :=
    if qSfmt r then (fpElems src 4 n).map (fpToRange m.prod)
    else
      let codes := unpack12 src n
      (List.range n).map fun i =>
        let x := sbToInt (codes.getD i 0) (scaleAt r sc i)
        (x, x.isNone)
  let acc := countOp acc kSAT (xs.filter (·.2)).length
  (List.range m.count).foldl (fun acc c => copyWrite (qDlocal r) acc (qDst r + c * qXstr r + row * qDstr r) (plane m c (xs.map (·.1)))) acc

def rowBf16 (r : List Byte) (row : Nat) (acc : State × CopyOp) (src sc : List Byte) : State × CopyOp :=
  let codes := unpack12 src (qLen r)
  copyWrite (qDlocal r) acc (qDst r + row * qDstr r) ((List.range (qLen r)).flatMap fun i => natLe 2 (sbToBf (codes.getD i 0) (scaleAt r sc i)))

/-- The lines of a DRAIN row (R421, R422). -/
def rowDrain (r : List Byte) (row : Nat) (acc : State × CopyOp) : State × CopyOp :=
  (List.range (qLen r / 256)).foldl (fun acc i =>
    let c := qDst r + row * qDstr r + 256 * i
    if acc.2.code ≠ 0 then acc
    else if 2 ^ 32 ≤ c || !granted acc.1 (c / 2 ^ 26) acc.2.asid then (acc.1, acc.2.fail (8, 0))
    else
      withRead acc false true (qSrc r + row * qSstr r + 256 * i) 256 fun acc bs =>
        match crystLineWrite acc.1 c bs with
        | (s, false, t) =>
          (memError s 0 31 acc.2.asid.toNat 0 (Config.crystBase + c / 256 * 256) 4, { acc.2 with waitTo := max acc.2.waitTo t }.fail (9, 0))
        | (s, true, t) => (s, { acc.2 with bytes := acc.2.bytes + 256, waitTo := max acc.2.waitTo t })) acc

def copyRow (idx : List Byte) (acc : State × CopyOp) (row : Nat) : State × CopyOp :=
  let r := acc.2.record
  let kind := acc.2.kind
  let snap := qSmode r == 2
  let loc := qSlocal r
  let src := qSrc r + row * qSstr r
  let n := srcBytes kind r (qLen r)
  let scales := fun (acc : State × CopyOp) (k : State × CopyOp → List Byte → State × CopyOp) =>
    if srcSb kind r then
      withRead acc loc snap (qAux r + row * qAstr r) (4 * (qLen r / qL r)) fun acc sc =>
        if badScales sc then (acc.1, acc.2.fail (6, 0)) else k acc sc
    else k acc []
  if kind = kDRAIN then rowDrain r row acc
  else if kind = kGATHER then
    withRead acc loc snap (qSrc r + fieldN idx (4 * row) 4 * qSstr r) (qLen r) fun acc bs => copyWrite (qDlocal r) acc (qDst r + row * qDstr r) bs
  else
    withRead acc loc snap src n fun acc bs =>
      if kind = kSB12 then rowSb12 r row acc bs
      else if kind = kRP16 then scales acc fun acc sc => rowRp16 r row acc bs sc
      else if kind = kBF16 then scales acc fun acc sc => rowBf16 r row acc bs sc
      else copyWrite (qDlocal r) acc (qDst r + row * qDstr r) bs

-- DEDUCED: notes/assumptions/58
/-- Steps 2 and 3 of R352. -/
def runCopy (s : State) (o : CopyOp) : State × CopyOp :=
  let r := o.record
  let rows := List.range (qRows r)
  if o.kind = kGATHER then
    withRead (s, o) (qSlocal r) (qSmode r == 2) (qAux r) (4 * qRows r) fun acc idx =>
      if rows.any fun i => decide (qXstr r < fieldN idx (4 * i) 4 * qSstr r + qLen r) then (acc.1, acc.2.fail (7, 0))
      else rows.foldl (copyRow idx) acc
  else rows.foldl (copyRow []) (s, o)

/-! ### Queues, handles and completion (R345, R352, R353) -/

def State.copyTicket (s : State) (unit_ e : Nat) : Ticket := NMap.get Ticket.idle (unit_ * 64 + e) s.copyTickets

-- DEDUCED: notes/assumptions/45
/-- Of `n` entries, the free one that completed earliest, lowest number on a tie (notes/assumptions 45). -/
def takeTicket (get : Nat → Ticket) (n : Nat) : Option Nat :=
  ((List.range n).filter fun e => (get e).done).foldl (fun (b : Option Nat) e =>
    match b with
    | none => some e
    | some x => if (get e).doneAt < (get x).doneAt then some e else some x) none

def queued (s : State) (unit_ : Nat) : Nat := (s.copies.filter fun o => o.unit_ == unit_).length
/-- The engine COPY chooses (R345). -/
def chooseEngine (s : State) (core : Nat) : Nat :=
  let u := 2 * clusterOf core
  if queued s (u + 1) < queued s u then u + 1 else u

/-- Sequence numbers run from 1 to 2^32 - 1 (R353). -/
def nextSeqOf (m : NMap Nat) (k : Nat) : Nat := NMap.get 0 k m % (2 ^ 32 - 1) + 1

def copyHandle (unit_ e seq : Nat) : Nat := seq * 2 ^ 16 + unit_ / 2 * 2 ^ 8 + unit_ % 2 * 2 ^ 6 + e

def setCopyTicket (s : State) (unit_ e : Nat) (t : Ticket) : State :=
  { s with copyTickets := NMap.set Ticket.idle (unit_ * 64 + e) t s.copyTickets }

/-- The ticket of an operation is done with a status. -/
def doneCopy (s : State) (unit_ e status : Nat) : State :=
  let s1 := setCopyTicket s unit_ e { s.copyTicket unit_ e with done := true, status := status, doneAt := s.doneClock }
  { s1 with doneClock := s.doneClock + 1 }

def copyStatus (bytes cause code : Nat) : Nat := bytes % 2 ^ 40 * 2 ^ 24 + cause * 2 ^ 16 + code

/-- The operation leaves its queue with a status; its sluice entry returns. -/
def endCopy (s : State) (o : CopyOp) (bytes cause code : Nat) : State :=
  let s := dropFails (dropEngineEntry s o.order) 1 o.order
  let s := if code = 0 && qCen o.record then raiseCounter s o.asid (qCompl o.record % 4096) else s
  doneCopy (opEnded { s with copies := s.copies.filter fun x => x.order != o.order } o.lseq) o.unit_ o.entry (copyStatus bytes cause code)

/-- An operation of the team's earlier FENCE.ENG generations has not completed (R343). -/
def olderWork (s : State) (tid gen : Nat) : Bool :=
  s.copies.any (fun o => o.tid == tid && decide (o.gen < gen)) || s.brine.any (fun o => o.tid == tid && decide (o.gen < gen)) ||
  s.transfers.any (fun o => o.tid == tid && !o.fired && decide (o.gen < gen)) || s.colls.any fun o => o.tid == tid && decide (o.gen < gen)

/-- The operation has read its source: lines kept for it leave the slices (R358). -/
def readAll (s : State) (order : Nat) : State :=
  cleanSnaps { s with sluice := s.sluice.map fun e =>
    if e.team.isNone && e.order == order then { e with ranges := e.ranges.map fun r => { r with read := r.mode == 2 && !r.written } } else e }

/-- COPY_OPERATION_START (R352). -/
def execCopyOperationStart (engine : Nat) (s : State) : Res :=
  match s.copies.find? fun o => o.unit_ == engine with
  | none => .next s
  | some o =>
    if o.running || heldBack s o.order || awaitsPod s o.order || olderWork s o.tid o.gen then .next s
    else
      match runCopy s { o with running := true } with
      | (s1, o) => .next <| if o.code = 3 && o.cause = cAWAY then s else
          (readAll { s1 with copies := s1.copies.map fun x => if x.order == o.order then o else x } o.order)

/-- COPY_OPERATION_COMPLETE (R352 to R355). -/
def execCopyOperationComplete (engine : Nat) (s : State) : Res :=
  match s.copies.find? fun o => o.unit_ == engine with
  | none => .next s
  | some o =>
    if !o.running || agentBusy s 1 o.order || s.meridian < o.waitTo then .next s
    else
      let lost := ((s.fails.filter fun f => f.agent == 1 && f.id == o.order).map (·.len)).sum
      let out : Nat × Nat := if o.cancelled then (5, 0) else if o.code ≠ 0 then (o.code, o.cause)
        else match firstFail s 1 o.order with | some (_, _, k) => (3, k) | none => (0, 0)
      .next (endCopy s o (o.bytes - lost) out.2 out.1)

/-! ### COPY (R351) -/

/-- Take an entry of an engine for an operation that starts out done or queued. -/
def newCopy (s : State) (unit_ e : Nat) (asid : BitVec 16) : State × Nat :=
  let seq := nextSeqOf s.copySeq unit_
  (setCopyTicket { s with copySeq := NMap.set 0 unit_ seq s.copySeq } unit_ e ⟨seq, asid, 1, false, 0⟩, copyHandle unit_ e seq)

def copyWith (kind : Nat) (f : UniR) (s : State) : Res :=
  uniform {} f.g s fun c s =>
    let va := (c.sReg f.a).toNat
    if va % 64 ≠ 0 then trapAllMem c s cMISALIGNED va
    else if pendingStores s c.gid c.active true then stall c s
    else
      match heldOr c s (fun s => readRecord 8 s c (lowestLane c.active) va) with
      | (s, .error (k, a)) => recordFault c s k a
      | (s, .ok r) =>
        let u := chooseEngine s c.core
        if !copyOk kind r then
          match takeTicket (s.copyTicket u) 64 with
          | none => hold r c s
          | some e =>
            match newCopy s u e c.t.asid with
            | (s, h) => finS c (doneCopy s u e 2) f.d (BitVec.ofNat 64 h)
        else
          let rs := copyRanges kind r c.t.moduli.count
          match rs.find? fun x => x.written && !x.cryst && intoTemplate s c.t x.base x.len with
          | some x => trapAllMem c s cTMPLWRITE x.base
          | none =>
            match lockedBy s c.t.tid c.t.asid rs, takeTicket (s.copyTicket u) 64, freeSluice s (clusterOf c.core) with
            | some a, _, _ => trapAllMem c s cLOCKED a
            | none, some e, some i =>
              match newCopy s u e c.t.asid with
              | (s, h) =>
                let peer := (qSlocal r && (bitN (qSrc r) 27 || bitN (qAux r) 27)) || (qDlocal r && (bitN (qDst r) 27 || bitN (qAux r) 27))
                let o : CopyOp :=
                  { unit_ := u, entry := e, seq := (s.copyTicket u e).seq, order := s.engOrder, kind := kind, record := r, asid := c.t.asid
                    tid := c.t.tid, lseq := c.t.seq, core := c.core, gen := c.t.engGen, snapAt := s.meridian
                    tags := if qSlocal r || qDlocal r then issueTags s c.t peer else [], mods := c.t.moduli, running := false
                    cancelled := false, code := 0, cause := 0, bytes := 0, waitTo := 0 }
                let x : Sluice :=
                  { cluster := clusterOf c.core, entry := i, seq := s.sluiceSeq, asid := c.t.asid, ranges := rs, team := none, order := s.engOrder, snapAt := s.meridian }
                finS c { s with copies := s.copies ++ [o], sluice := s.sluice ++ [x], sluiceSeq := s.sluiceSeq + 1, engOrder := s.engOrder + 1 } f.d
                  (BitVec.ofNat 64 h)
            | none, _, _ => hold r c s

def execCopyPlain (f : UniR) (s : State) : Res := copyWith kPLAIN f s
def execCopySb12 (f : UniR) (s : State) : Res := copyWith kSB12 f s
def execCopyRp16 (f : UniR) (s : State) : Res := copyWith kRP16 f s
def execCopyBf16 (f : UniR) (s : State) : Res := copyWith kBF16 f s
def execCopyGather (f : UniR) (s : State) : Res := copyWith kGATHER f s
def execCopyDrain (f : UniR) (s : State) : Res := copyWith kDRAIN f s

/-! ### CWAIT (R354) -/

def cwaitDone (c : Ctx) (d : BitVec 6) (s : State) (status : Nat) : Res :=
  deliver 0 c s fun c s => finS c s d (BitVec.ofNat 64 status)

def cwaitWith (mode : Nat) (f : UniR) (s : State) : Res :=
  uniform { waitPt := true } f.g s fun c s =>
    let h := (c.sReg f.a).toNat
    let u := 2 * bitsN h 11 8 + bitsN h 6 6
    let e := h % 64
    let t := s.copyTicket u e
    if h = 0 || bitsN h 63 48 ≠ 0 || bitsN h 15 12 ≠ 0 || bitN h 7 then finS c s f.d 11
    else if t.seq = 0 || t.seq ≠ bitsN h 47 16 || t.asid != c.t.asid then finS c s f.d 10
    else if t.done then cwaitDone c f.d s t.status
    else if mode = 1 then finS c s f.d 1
    else if mode = 0 then stall c s
    else
      match s.copies.find? fun o => o.unit_ == u && o.entry == e with
      | none => stall c s
      | some o =>
        if o.running then begun c { s with copies := s.copies.map fun x => if x.order == o.order then { x with cancelled := true } else x }
        else cwaitDone c f.d (endCopy s o 0 0 5) (copyStatus 0 0 5)

def execCwait (f : UniR) (s : State) : Res := cwaitWith 0 f s
def execCwaitPoll (f : UniR) (s : State) : Res := cwaitWith 1 f s
def execCwaitCancel (f : UniR) (s : State) : Res := cwaitWith 2 f s

end Sys2Proof.Machine
end

