-- ==== Sys2Proof/Machine/Brine.lean ====
section
/-! DEFINITION. Brine lanes: BRINE, BWAIT and BTBL, uniform OPs 37 to 39, decoding, and the lanes' steps (R363 to R370). -/

namespace Sys2Proof.Machine

/-! ### Transition tables (R363 to R365) -/

def tStates (t : List Byte) : Nat := fieldN t 0 2
def tStart (t : List Byte) : Nat := fieldN t 2 2
def tEnts (t : List Byte) : Nat := fieldN t 4 4
def tState (t : List Byte) (s : Nat) : Nat := fieldN t (16 + 4 * s) 4
def tEntry (t : List Byte) (i : Nat) : Nat := fieldN t (16 + 4 * tStates t + 4 * i) 4
def stK (w : Nat) : Nat := bitsN w 31 30
def stBase (w : Nat) : Nat := bitsN w 13 0

/-- The limits of the header alone. -/
def tableHeadOk (h : List Byte) : Bool :=
  decide (1 ≤ tStates h) && decide (tStates h ≤ 4096) && decide (16 + 4 * (tStates h + tEnts h) ≤ 65536) && decide (tStart h < tStates h)

-- DESIGN CHOICE: notes/assumptions/110
def tableOk (t : List Byte) : Bool :=
  tableHeadOk t &&
  ((List.range (tStates t)).all fun i => decide (stBase (tState t i) + 2 ^ stK (tState t i) - 1 < tEnts t)) &&
  (List.range (tEnts t)).all fun i => decide (bitsN (tEntry t i) 27 16 < tStates t) && decide (bitsN (tEntry t i) 31 28 ≤ 9)

def State.brineTable (s : State) (lane : Nat) : Option BrineTable := NMap.get none lane s.brineTables

/-- The image at `va`, header and then the body that the header gives, as far as a table may be long (R363, R365), with the engine
operations before it; a waiting BTBL has read it. -/
def readTableImage (s : State) (c : Ctx) (va : Nat) : State × Except (Nat × Nat) (Nat × List Byte) :=
  match c.u.wait with
  | .table n image => (s, .ok (n, image))
  | _ =>
    match readRecord 2 s c (lowestLane c.active) va with
    | (s, .error e) => (s, .error e)
    | (s, .ok h) =>
      let n := min 65536 (16 + 4 * (tStates h + tEnts h))
      match readRecord ((n + 7) / 8) s c (lowestLane c.active) va with
      | (s, .error e) => (s, .error e)
      | (s, .ok bs) => (s, .ok (s.engOrder, bs.take n))

/-- BTBL (R365). -/
def execBtbl (f : UniR) (s : State) : Res :=
  uniform { priv := true, feat := some 3 } f.g s fun c s =>
    let va := (c.sReg f.a).toNat
    let lane := bitsN (c.sReg f.b).toNat 4 0
    let id := bitsN (c.sReg f.b).toNat 31 16
    if va % 16 ≠ 0 then trapAllMem c s cMISALIGNED va
    else
      match readTableImage s c va with
      | (s, .error (k, a)) => recordFault c s k a
      | (s, .ok (before, image)) =>
        if !tableOk image then finS c s f.d 1
        else if s.brine.any fun j => j.lane == lane && decide (j.order < before) then
          .next (c.setSub s { c.u with wait := .table before image })
        else finS c { s with brineTables := NMap.set none lane (some ⟨id, image⟩) s.brineTables } f.d 0

/-! ### Decoding a chunk (R364, R367) -/

def bBACKREF : Nat := 4
def bBADCODE : Nat := 5
def bCRC : Nat := 6
def bLENGTH : Nat := 7
def bTRUNC : Nat := 8
def bTABLE : Nat := 9

/-- A decode under way: input position in bits, output with the last byte first, registers, state, idle steps. -/
structure Dec where
  pos : Nat
  out : List Byte
  count : Nat
  len : Nat
  dist : Nat
  st : Nat
  idle : Nat
  deriving DecidableEq, Repr

/-- `Bits(n)`: the value and the position after it. -/
def takeBits (inp bits pos n : Nat) : Except Nat (Nat × Nat) :=
  if bits < pos + n then .error bTRUNC else .ok (inp / 2 ^ pos % 2 ^ n, pos + n)

def emit (outLen : Nat) (d : Dec) (b : Byte) : Except Nat Dec :=
  if outLen ≤ d.count then .error bLENGTH else .ok { d with out := b :: d.out, count := d.count + 1 }

/-- Emit `n` bytes, each `dist` back. -/
def emitBack (outLen : Nat) : Nat → Dec → Except Nat Dec
  | 0, d => .ok d
  | n + 1, d =>
    match emit outLen d (d.out.getD (d.dist - 1) 0) with
    | .error e => .error e
    | .ok d => emitBack outLen n d

/-- Emit the next `n` input bytes. -/
def emitRaw (inp bits outLen : Nat) : Nat → Dec → Except Nat Dec
  | 0, d => .ok d
  | n + 1, d =>
    match takeBits inp bits d.pos 8 with
    | .error e => .error e
    | .ok (v, pos) =>
      match emit outLen d (BitVec.ofNat 8 v) with
      | .error e => .error e
      | .ok d => emitRaw inp bits outLen n { d with pos := pos }

/-- The action of an entry; the flag is true at END. -/
def action (inp bits outLen ent : Nat) (d : Dec) : Except Nat (Dec × Bool) :=
  let arg := ent % 65536
  let byte := fun (k : Nat) => BitVec.ofNat 8 (arg / 2 ^ (8 * k))
  let go := fun (x : Except Nat Dec) => match x with | .error e => (Except.error e : Except Nat (Dec × Bool)) | .ok d => .ok (d, false)
  let extra := fun (k : Nat → Dec → Dec) =>
    match takeBits inp bits d.pos (arg / 4096) with
    | .error e => (Except.error e : Except Nat (Dec × Bool))
    | .ok (v, pos) => .ok ({ k (arg % 4096 + v) d with pos := pos }, false)
  match ent / 2 ^ 28 % 16 with
  | 0 => .ok (d, false)
  | 1 => go (emit outLen d (byte 0))
  | 2 => match emit outLen d (byte 0) with | .error e => .error e | .ok d => go (emit outLen d (byte 1))
  | 3 => extra fun v d => { d with len := v }
  | 4 => extra fun v d => { d with dist := v }
  | 5 => if d.dist = 0 || d.count < d.dist then .error bBACKREF else go (emitBack outLen d.len d)
  | 7 => .ok (d, true)
  | 8 => .ok ({ d with pos := roundUp d.pos 8 }, false)
  | 9 =>
    match takeBits inp bits (roundUp d.pos 8) 16 with
    | .error e => .error e
    | .ok (n, pos) => go (emitRaw inp bits outLen n { d with pos := pos, len := n })
  | _ => .error bBADCODE

-- DEDUCED: notes/assumptions/97
/-- Steps until END; `fuel` bounds them. -/
def decodeSteps (t : List Byte) (inp bits outLen : Nat) : Nat → Dec → Except Nat Dec
  | 0, _ => .error bBADCODE
  | fuel + 1, d =>
    let w := tState t d.st
    match takeBits inp bits d.pos (stK w) with
    | .error e => .error e
    | .ok (way, pos) =>
      let ent := tEntry t (stBase w + way)
      match action inp bits outLen ent { d with pos := pos } with
      | .error e => .error e
      | .ok (d1, true) => .ok d1
      | .ok (d1, false) =>
        let read := stK w != 0 || d1.count != d.count || ((ent / 2 ^ 28 == 3 || ent / 2 ^ 28 == 4) && ent / 4096 % 16 != 0) || ent / 2 ^ 28 == 9
        let idle := if read then 0 else d.idle + 1
        if 16 < idle then .error bBADCODE
        else decodeSteps t inp bits outLen fuel { d1 with st := ent / 2 ^ 16 % 4096, idle := idle }

/-- The emitted bytes of a chunk, in stream order. `len0` is LEN before anything sets it. -/
def decodeChunk (t : List Byte) (input : List Byte) (outLen len0 : Nat) : Except Nat (List Byte) :=
  let bits := 8 * input.length
  match decodeSteps t (leNat input) bits outLen (17 * (bits + outLen + 2)) ⟨0, [], 0, len0, 0, tStart t, 0⟩ with
  | .error e => .error e
  | .ok d => if d.count = outLen then .ok d.out.reverse else .error bLENGTH

/-! ### The job record (R366) -/

def jCtl (r : List Byte) : Nat := fieldN r 0 4
def jChunks (r : List Byte) : Nat := fieldN r 4 4
def jIn (r : List Byte) : Nat := fieldN r 8 8
def jInspan (r : List Byte) : Nat := fieldN r 0x10 4
def jCompl (r : List Byte) : Nat := fieldN r 0x14 4
def jDesc (r : List Byte) : Nat := fieldN r 0x18 8
def jDst (r : List Byte) : Nat := fieldN r 0x20 8
def jTstr (r : List Byte) : Nat := fieldN r 0x28 4
def jTr (r : List Byte) : Nat := fieldN r 0x2C 2
def jTc (r : List Byte) : Nat := fieldN r 0x2E 2
def jXmode (r : List Byte) : Nat := bitsN (jCtl r) 30 29
def jIsize (r : List Byte) : Nat := 2 ^ bitsN (jCtl r) 28 27
def jTable (r : List Byte) : Nat := bitsN (jCtl r) 15 0
def jOsize (r : List Byte) : Nat := if jXmode r = 2 then 4 else jIsize r

def jobOk (r : List Byte) : Bool :=
  bitsN (jCtl r) 26 16 == 0 && jXmode r != 3 && (jXmode r != 2 || jIsize r == 2) && decide (1 ≤ jChunks r) && decide (jChunks r ≤ 65536) &&
  bitsN (jCompl r) 31 12 == 0 && jDesc r % 16 == 0 && (if jXmode r = 0 then jTr r == 0 && jTc r == 0 else jTr r != 0 && jTc r != 0) &&
  fieldN r 0x30 16 == 0 && decide (jIn r < Config.maxVa) && decide (jDesc r < Config.maxVa) && decide (jDst r < Config.maxVa)

/-- Both ranges in WRITE mode (R368). -/
def jobRanges (r : List Byte) : List SRange :=
  [⟨jIn r, jInspan r, 0, false, false, false⟩, ⟨jDst r, jChunks r * jTstr r, 0, true, false, false⟩]

/-- Stream elements as they are written: widened and transposed (R367). -/
def chunkImage (r : List Byte) (bs : List Byte) : List Byte :=
  if jXmode r = 0 then bs
  else
    (List.range (jTr r * jTc r)).flatMap fun p =>
      let k := p % jTr r * jTc r + p / jTr r
      (if jXmode r = 2 then zeros 2 else []) ++ slice bs (k * jIsize r) (jIsize r)

/-! ### Running a job (R367) -/

def BrineJob.fail (j : BrineJob) (e : Nat × Nat) : BrineJob := { j with code := e.1, cause := e.2 }
def jobFail (cause : Nat) : Nat × Nat := if cause = cMUNCORR then (10, 0) else (3, cause)

def jobRead (j : BrineJob) (s : State) (a n : Nat) : State × Except (Nat × Nat) (List Byte) :=
  match engRead s (s.team? j.tid) j.asid.toNat a n with
  | (s, .ok bs) => (s, .ok bs)
  | (s, .error (_, k)) => (s, .error (jobFail k))

/-- The first fault of the pieces of a destination. -/
def destFault (asid : Nat) : List (Nat × Nat) → State → State × Option Nat
  | [], s => (s, none)
  | (a, _) :: ps, s =>
    match writeCheck s asid a with
    | (s, some k) => (s, some k)
    | (s, none) => destFault asid ps s

/-- Release a chunk: every piece is checked before the first is written. -/
def release (s : State) (j : BrineJob) (chunk : Nat) (bs : List Byte) : State × BrineJob :=
  let a := jDst j.record + chunk * jTstr j.record
  match destFault j.asid.toNat (pieces a bs.length) s with
  | (s, some k) => (s, j.fail (3, k))
  | (s, none) =>
    let s := (pieces a bs.length).foldl (fun s p => agentStore s 2 j.order j.core j.asid.toNat p.1 (slice bs (p.1 - a) p.2)) s
    (s, { j with chunks := chunk + 1, released := j.released ++ [(chunk, s.nextStore - 1)] })

def runChunk (t : List Byte) (acc : State × BrineJob) (chunk : Nat) : State × BrineJob :=
  let r := acc.2.record
  if acc.2.code ≠ 0 then acc
  else
    match jobRead acc.2 acc.1 (jDesc r + 16 * chunk) 16 with
    | (s, .error e) => (s, acc.2.fail e)
    | (s, .ok d) =>
      let off := fieldN d 0 4
      let inLen := fieldN d 4 4
      let outLen := fieldN d 8 4
      let size := jTr r * jTc r * jIsize r
      if jInspan r < off + inLen || outLen = 0 || 262144 < outLen ||
          (jXmode r ≠ 0 && (outLen ≠ size || jTstr r < jTr r * jTc r * jOsize r)) then (s, acc.2.fail (bLENGTH, 0))
      else
        match jobRead acc.2 s (jIn r + off) inLen with
        | (s, .error e) => (s, acc.2.fail e)
        | (s, .ok input) =>
          let s1 : State := { s with fresh := s.fresh + 4 }
          match decodeChunk t input outLen ((freeWord s.fresh).toNat % 65536) with
          | .error e => (s1, acc.2.fail (e, 0))
          | .ok bs => if crc32c bs ≠ fieldN d 12 4 then (s1, acc.2.fail (bCRC, 0)) else release s1 acc.2 chunk (chunkImage r bs)

def runJob (s : State) (j : BrineJob) : State × BrineJob :=
  match s.brineTable j.lane with
  | none => (s, j.fail (bTABLE, 0))
  | some t => if t.id ≠ jTable j.record then (s, j.fail (bTABLE, 0)) else (List.range (jChunks j.record)).foldl (runChunk t.image) (s, j)

/-! ### Queues and completion (R353, R369) -/

def State.brineTicket (s : State) (lane e : Nat) : Ticket := NMap.get Ticket.idle (lane * 16 + e) s.brineTickets
def setBrineTicket (s : State) (lane e : Nat) (t : Ticket) : State := { s with brineTickets := NMap.set Ticket.idle (lane * 16 + e) t s.brineTickets }
def brineHandle (lane e seq : Nat) : Nat := seq * 2 ^ 16 + lane * 2 ^ 8 + e
def brineStatus (chunks cause code : Nat) : Nat := chunks * 2 ^ 32 + cause * 2 ^ 24 + code

def doneBrine (s : State) (lane e status : Nat) : State :=
  let s1 := setBrineTicket s lane e { s.brineTicket lane e with done := true, status := status, doneAt := s.doneClock }
  { s1 with doneClock := s.doneClock + 1 }

def newBrine (s : State) (lane e : Nat) (asid : BitVec 16) : State × Nat :=
  let seq := nextSeqOf s.brineSeq lane
  (setBrineTicket { s with brineSeq := NMap.set 0 lane seq s.brineSeq } lane e ⟨seq, asid, 1, false, 0⟩, brineHandle lane e seq)

/-- BRINE_JOB_START (R367). -/
def execBrineJobStart (lane : Nat) (s : State) : Res :=
  match s.brine.find? fun j => j.lane == lane with
  | none => .next s
  | some j =>
    if j.running || heldBack s j.order || awaitsPod s j.order || olderWork s j.tid j.gen then .next s
    else
      match runJob s { j with running := true } with
      -- a read of another device before the lock waits (R444)
      | (s1, j) => .next <| if j.code = 3 && j.cause = cAWAY then s else { s1 with brine := s1.brine.map fun x => if x.order == j.order then j else x }

/-- The chunk whose release holds a failed store. -/
def BrineJob.chunkOf (j : BrineJob) (store : Nat) : Nat := ((j.released.find? fun q => decide (store ≤ q.2)).map (·.1)).getD 0

/-- BRINE_JOB_COMPLETE (R369). -/
def execBrineJobComplete (lane : Nat) (s : State) : Res :=
  match s.brine.find? fun j => j.lane == lane with
  | none => .next s
  | some j =>
    if !j.running || agentBusy s 2 j.order then .next s
    else
      let out : Nat × Nat × Nat := match firstFail s 2 j.order with
        | some (id, _, k) => (j.chunkOf id, k, 3)
        | none => (j.chunks, j.cause, j.code)
      let s := dropFails (dropEngineEntry s j.order) 2 j.order
      let s := if out.2.2 = 0 && bitN (jCtl j.record) 31 then raiseCounter s j.asid (jCompl j.record % 4096) else s
      .next (doneBrine (opEnded { s with brine := s.brine.filter fun x => x.order != j.order } j.lseq) lane j.entry (brineStatus out.1 out.2.1 out.2.2))

/-! ### BRINE and BWAIT (R368, R369) -/

/-- The lane of the named table with the fewest queued jobs, lowest number on a tie. -/
def matchLane (s : State) (id : Nat) : Option Nat :=
  let n := fun (l : Nat) => (s.brine.filter fun j => j.lane == l).length
  ((List.range Config.brineLanes).filter fun l => match s.brineTable l with | some t => t.id == id | none => false).foldl (fun (b : Option Nat) l =>
    match b with
    | none => some l
    | some x => if n l < n x then some l else some x) none

def execBrine (f : UniR) (s : State) : Res :=
  uniform { feat := some 3 } f.g s fun c s =>
    let va := (c.sReg f.a).toNat
    let sel := (c.sReg f.b).toNat
    if va % 64 ≠ 0 then trapAllMem c s cMISALIGNED va
    else if pendingStores s c.gid c.active true then stall c s
    else
      match heldOr c s (fun s => readRecord 8 s c (lowestLane c.active) va) with
      | (s, .error (k, a)) => recordFault c s k a
      | (s, .ok r) =>
        let found := if bitN sel 5 then matchLane s (jTable r) else some (sel % 32)
        let lane := found.getD (sel % 32)
        let now := fun (s : State) (code : Nat) =>
          match takeTicket (s.brineTicket lane) 16 with
          | none => hold r c s
          | some e =>
            match newBrine s lane e c.t.asid with
            | (s, h) => finS c (doneBrine s lane e code) f.d (BitVec.ofNat 64 h)
        if !jobOk r then now s 2
        else if found.isNone then now s bTABLE
        else
          let rs := jobRanges r
          match rs.find? fun x => x.written && intoTemplate s c.t x.base x.len with
          | some x => trapAllMem c s cTMPLWRITE x.base
          | none =>
            match lockedBy s c.t.tid c.t.asid rs, takeTicket (s.brineTicket lane) 16, freeSluice s (clusterOf c.core) with
            | some a, _, _ => trapAllMem c s cLOCKED a
            | none, some e, some i =>
              match newBrine s lane e c.t.asid with
              | (s, h) =>
                let j : BrineJob :=
                  { lane := lane, entry := e, seq := (s.brineTicket lane e).seq, order := s.engOrder, record := r, asid := c.t.asid, tid := c.t.tid
                    lseq := c.t.seq, core := c.core, gen := c.t.engGen, running := false, code := 0, cause := 0, chunks := 0, released := [] }
                let x : Sluice :=
                  { cluster := clusterOf c.core, entry := i, seq := s.sluiceSeq, asid := c.t.asid, ranges := rs, team := none, order := s.engOrder, snapAt := s.meridian }
                finS c { s with brine := s.brine ++ [j], sluice := s.sluice ++ [x], sluiceSeq := s.sluiceSeq + 1, engOrder := s.engOrder + 1 } f.d
                  (BitVec.ofNat 64 h)
            | none, _, _ => hold r c s

def bwaitWith (poll : Bool) (f : UniR) (s : State) : Res :=
  uniform { waitPt := true, feat := some 3 } f.g s fun c s =>
    let h := (c.sReg f.a).toNat
    let t := s.brineTicket (bitsN h 12 8) (h % 16)
    if h = 0 || bitsN h 63 48 ≠ 0 || bitsN h 15 13 ≠ 0 || bitsN h 7 4 ≠ 0 then finS c s f.d 12
    else if t.seq = 0 || t.seq ≠ bitsN h 47 16 || t.asid != c.t.asid then finS c s f.d 11
    else if t.done then cwaitDone c f.d s t.status
    else if poll then finS c s f.d 1
    else stall c s

def execBwait (f : UniR) (s : State) : Res := bwaitWith false f s
def execBwaitPoll (f : UniR) (s : State) : Res := bwaitWith true f s

end Sys2Proof.Machine
end

