-- ==== Sys2Proof/Machine/Fabric.lean ====
section
/-! DEFINITION. Transfers, receive counters and triggered sends: uniform OPs 3A to 3C, transfers of other devices, and the
fabric's own steps (R371 to R387, R444). -/

namespace Sys2Proof.Machine

/-! ### The transfer record (R375 to R377) -/

def xCtl (r : List Byte) : Nat := fieldN r 0 4
def xKind (r : List Byte) : Nat := bitsN (xCtl r) 31 30
def xLlocal (r : List Byte) : Bool := bitN (xCtl r) 29
def xCen (r : List Byte) : Bool := bitN (xCtl r) 28
def xAop (r : List Byte) : Nat := bitsN (xCtl r) 27 24
def xDev (r : List Byte) : Nat := fieldN r 4 2
def xRctr (r : List Byte) : Nat := fieldN r 6 2
def xLen (r : List Byte) : Nat := fieldN r 8 4
def xRinc (r : List Byte) : Nat := fieldN r 0x0C 4
def xLaddr (r : List Byte) : Nat := fieldN r 0x10 8
def xRaddr (r : List Byte) : Nat := fieldN r 0x18 8
def xOpnd (r : List Byte) : Nat := fieldN r 0x20 8
def xCmpv (r : List Byte) : Nat := fieldN r 0x28 8
def xLctr (r : List Byte) : Nat := fieldN r 0x30 2

def xPUT : Nat := 0
def xGET : Nat := 1
def xPUTC : Nat := 2
def xATOMR : Nat := 3

/-- Bytes of an operation of R376. -/
def aopSize (aop : Nat) : Nat := if aop = 1 || aop = 3 || aop = 5 then 8 else 4
def aopCas (aop : Nat) : Bool := aop == 4 || aop == 5

/-- The new value of R376, none when nothing is applied. -/
def aopNew (aop x cmp old : Nat) : Option Nat :=
  let m := 2 ^ (8 * aopSize aop)
  if aop ≤ 1 then some ((old + x) % m)
  else if aop ≤ 3 then some (x % m)
  else if aop ≤ 5 then (if old = cmp % m then some (x % m) else none)
  else some (pickS (aop == 6) old (x % m))

/-- A valid record (R377); TCTR and THRESH are read by TSEND only. -/
def transferOk (r : List Byte) : Bool :=
  let k := xKind r
  let atom := k == xATOMR
  bitsN (xCtl r) 23 0 == 0 && (atom || xAop r == 0) && decide (xAop r < 8) && bitsN (xDev r) 15 10 == 0 &&
  decide (xRctr r < 4096) && (k == xPUTC || xRctr r == 0) &&
  (if atom then xLen r == 0 else decide (xLen r ≤ 2 ^ 24) && (k == xPUTC || xLen r != 0)) &&
  (if k = xPUTC then xRinc r != 0 else xRinc r == 0) &&
  (atom || xOpnd r == 0) && ((atom && aopCas (xAop r)) || xCmpv r == 0) &&
  decide (xLctr r < 4096) && fieldN r 0x34 4 == 0 && decide (xRaddr r < Config.maxVa) &&
  (if xLlocal r then decide (xLaddr r < 2 ^ 32) else decide (xLaddr r < Config.maxVa)) &&
  (!atom || (xRaddr r % aopSize (xAop r) == 0 && xLaddr r % aopSize (xAop r) == 0))

/-! ### Entries and handles (R379, R380) -/

def xBADRECORD : Nat := 2
def xFAULT : Nat := 3
def xCTROWNER : Nat := 5
def xUNREACHABLE : Nat := 6
def xUNCORRECTABLE : Nat := 7

/-- Key of a collective's entry. -/
def collKey (e : Nat) : Nat := 2048 + e
def State.fabTicket (s : State) (k : Nat) : Ticket := NMap.get Ticket.idle k s.fabTickets
def setFabTicket (s : State) (k : Nat) (t : Ticket) : State := { s with fabTickets := NMap.set Ticket.idle k t s.fabTickets }

def fabHandle (k seq : Nat) : Nat := seq * 2 ^ 16 + (if k < 2048 then k else 2 ^ 15 + (k - 2048))
def fabStatus (detail cause code : Nat) : Nat := detail % 2 ^ 32 * 2 ^ 32 + cause * 2 ^ 24 + code

/-- A fabric operation takes the entry of key `k` and the next number of the device. -/
def newFab (s : State) (k : Nat) (asid : BitVec 16) : State × Nat :=
  (setFabTicket { s with fabSeq := s.fabSeq % (2 ^ 32 - 1) + 1 } k ⟨s.fabSeq, asid, 1, false, 0⟩, fabHandle k s.fabSeq)

def doneFab (s : State) (k status : Nat) : State :=
  let s1 := setFabTicket s k { s.fabTicket k with done := true, status := status, doneAt := s.doneClock }
  { s1 with doneClock := s.doneClock + 1 }

def freeTransfer (s : State) : Option Nat := takeTicket s.fabTicket Config.transferEntries
def freeColl (s : State) : Option Nat := takeTicket (fun e => s.fabTicket (collKey e)) Config.collEntries

/-! ### Starting a transfer (R377, R387) -/

/-- The owner tags of the local parts a record names (R269). -/
def recordTags (s : State) (t : Team) (r : List Byte) : List (Nat × Nat × Nat) :=
  if xLlocal r then issueTags s t (bitN (xLaddr r) 27) else []

/-- A transfer in entry `e`. -/
def addTransfer (s : State) (x : Transfer) : State :=
  { s with transfers := s.transfers ++ [{ x with order := s.engOrder }], engOrder := s.engOrder + 1 }

def transferWith (kind : Nat) (f : UniR) (s : State) : Res :=
  uniform { feat := some 4 } f.g s fun c s =>
    let va := (c.sReg f.a).toNat
    if va % 64 ≠ 0 then trapAllMem c s cMISALIGNED va
    else if pendingStores s c.gid c.active true then stall c s
    else
      match heldOr c s (fun s => readRecord 8 s c (lowestLane c.active) va) with
      | (s, .error (k, a)) => recordFault c s k a
      | (s, .ok r) =>
        let valid := transferOk r && xKind r == kind
        if valid && kind == xGET && !xLlocal r && intoTemplate s c.t (xLaddr r) (xLen r) then trapAllMem c s cTMPLWRITE (xLaddr r)
        else
          match freeTransfer s with
          | none => hold r c s
          | some e =>
            match newFab s e c.t.asid with
            | (s, h) =>
              if !valid then finS c (doneFab s e xBADRECORD) f.d (BitVec.ofNat 64 h)
              else
                finS c (addTransfer s
                  { entry := e, order := 0, asid := c.t.asid, record := r, tid := c.t.tid, lseq := c.t.seq, core := c.core, gen := c.t.engGen
                    fired := false, tags := recordTags s c.t r, moved := false, code := 0, cause := 0, bytes := 0 }) f.d (BitVec.ofNat 64 h)

def execPutX (f : UniR) (s : State) : Res := transferWith xPUT f s
def execGetX (f : UniR) (s : State) : Res := transferWith xGET f s
def execPutc (f : UniR) (s : State) : Res := transferWith xPUTC f s
def execAtomr (f : UniR) (s : State) : Res := transferWith xATOMR f s

/-! ### At the target (R374, R376, R378) -/

/-- The checks of a page that a transfer touches. -/
def targetPage (s : State) (asid a : Nat) (reads writes : Bool) : State × Except Nat Tlb :=
  match translate s asid a with
  | (s, .error k) => (s, .error k)
  | (s, .ok e) =>
    if reads && !e.r then (s, .error cPROT)
    else if writes && !e.w then (s, .error (if e.cow then cCOWWRITE else cPROT))
    else if e.red then (s, .error cREDREAD)
    else if e.replica || e.remote then (s, .error cPROT)
    else (s, .ok e)

/-- May the home change the line of `a` now (R324)? A line that must wait grants no later lease. -/
def targetReady (asid : Nat) (acc : State × Bool) (a : Nat) : State × Bool :=
  match translate acc.1 asid a with
  | (s, .error _) => (s, acc.2)
  | (s, .ok e) =>
    if e.uc then (s, acc.2 && (!snapNeeds s (frameLine s e a) || snapRoom s (frameLine s e a)))
    else
      match homeLine s asid (a / lineBytes) with
      | (s, .error _) => (s, acc.2)
      | (s, .ok x) => if atomicReady s x then (s, acc.2) else (capLine s x, false)

/-- Write bytes of one line at their home, for an agent that waits there. -/
def homeWrite (s : State) (asid a : Nat) (bs : List Byte) : State × Option Nat :=
  match targetPage s asid a false true with
  | (s, .error k) => (s, some k)
  | (s, .ok e) =>
    if e.uc then (frameWrite s e a bs, none)
    else
      match dirtyLine s asid (a / lineBytes) with
      | (s, .error k) => (s, some k)
      | (s, .ok x) => (applyLine s x a bs, none)

-- DEDUCED: notes/assumptions/68
/-- Issue the writes of a PUT or PUTC piece by piece, up to the first page that fails its checks: bytes issued, and that cause. -/
def putWrites (agent id asid : Nat) (bs : List Byte) (base : Nat) : List (Nat × Nat) → State → State × Nat × Option Nat
  | [], s => (s, 0, none)
  | (a, n) :: ps, s =>
    match targetPage s asid a false true with
    | (s, .error k) => (s, 0, some k)
    | (s, .ok _) =>
      match putWrites agent id asid bs base ps (agentStore s agent id 512 asid a (slice bs (a - base) n)) with
      | (s, m, k) => (s, n + m, k)

def targetReads (asid : Nat) : List (Nat × Nat) → State → State × Except Nat (List Byte)
  | [], s => (s, .ok [])
  | (a, n) :: ps, s =>
    match targetPage s asid a true false with
    | (s, .error k) => (s, .error k)
    | (s, .ok _) =>
      match homeRead s asid a n with
      | (s, .error k) => (s, .error k)
      | (s, .ok bs) =>
        match targetReads asid ps s with
        | (s, .error k) => (s, .error k)
        | (s, .ok more) => (s, .ok (bs ++ more))

/-- Status and cause of a failed access of a transfer. -/
def fabFail (cause : Nat) : Nat × Nat := if cause = cMUNCORR || cause = cLUNCORR then (xUNCORRECTABLE, 0) else (xFAULT, cause)

def targetAtom (s : State) (q : InboundReq) : State × FabricResp :=
  let asid := q.asid.toNat
  let a := q.raddr.toNat
  let n := aopSize q.aop.toNat
  match targetPage s asid a true true with
  | (s, .error k) => (s, ⟨xFAULT, k, 0, []⟩)
  | (s, .ok _) =>
    match homeRead s asid a n with
    | (s, .error k) => (s, ⟨(fabFail k).1, (fabFail k).2, 0, []⟩)
    | (s, .ok bs) =>
      match aopNew q.aop.toNat q.opnd.toNat q.cmpv.toNat (leNat bs) with
      | none => (s, ⟨0, 0, n, bs⟩)
      | some v =>
        match homeWrite s asid a (natLe n v) with
        | (s, some k) => (s, ⟨xFAULT, k, 0, []⟩)
        | (s, none) => (s, ⟨0, 0, n, bs⟩)

-- DEDUCED: notes/assumptions/67
/-- What this device answers a GET or an ATOMR that names it; none while a line of it must wait. -/
def serve (s : State) (q : InboundReq) : State × Option FabricResp :=
  let asid := q.asid.toNat
  let a := q.raddr.toNat
  if q.kind = xGET then
    match targetReads asid (pieces a q.len) s with
    | (s, .error k) => (s, some ⟨(fabFail k).1, (fabFail k).2, 0, []⟩)
    | (s, .ok bs) => (s, some ⟨0, 0, 0, bs⟩)
  else
    match (pieces a (aopSize q.aop.toNat)).foldl (fun acc p => targetReady asid acc p.1) (s, true) with
    | (s, false) => (s, none)
    | (s, true) => match targetAtom s q with | (s, x) => (s, some x)

/-- What this device's part in a PUT or PUTC comes to: refused by the counter's tag, or its writes issued as those of operation
`(agent, id)`, as far as the first page that fails. -/
def putHere (s : State) (agent id : Nat) (q : InboundReq) : State × Nat × Nat × Nat :=
  if q.kind = xPUTC && !counterTagged s q.asid q.rctr.toNat then (s, xCTROWNER, 0, 0)
  else
    match putWrites agent id q.asid.toNat q.data q.raddr.toNat (pieces q.raddr.toNat q.len) s with
    | (s, m, some k) => (s, (fabFail k).1, (fabFail k).2, m)
    | (s, m, none) => (s, 0, 0, m)

/-- How the writes of operation `(agent, id)` ended, after `code` and `cause`: status, cause, and bytes that were not written. -/
def putOutcome (s : State) (agent id code cause : Nat) : Nat × Nat × Nat :=
  let lost := ((s.fails.filter fun f => f.agent == agent && f.id == id).map (·.len)).sum
  if code ≠ 0 then (code, cause, lost)
  else match firstFail s agent id with
    | some (_, _, k) => ((fabFail k).1, (fabFail k).2, lost)
    | none => (0, 0, lost)

-- DEDUCED: notes/assumptions/64
/-- Does any UALink port work, and is the device locked to the pod's time (R371, R444)? -/
def portUp (s : State) : Bool := s.portsDown != BitVec.allOnes 16
def podReady (s : State) : Bool := s.regs.merLocked

/-- A request that a transfer record can make. -/
def requestOk (q : InboundReq) : Bool :=
  decide (q.raddr.toNat < Config.maxVa) &&
  (if q.kind = xATOMR then decide (q.aop.toNat < 8) && q.raddr.toNat % aopSize q.aop.toNat == 0
   else decide (q.kind < 3) && decide (q.len ≤ 2 ^ 24) && (q.kind == xGET || q.data.length == q.len))

/-! ### Other devices' accesses to lines of this one (R304, R318, R324, R332, R333) -/

-- DESIGN CHOICE: notes/assumptions/108
/-- An access that a device can make of a line of another: inside one line, with the bytes it needs. -/
def lineReqOk (s : State) (q : InboundReq) : Bool :=
  let a := q.raddr.toNat
  let inLine := decide (0 < q.len) && decide (q.len ≤ lineBytes - a % lineBytes)
  match q.kind with
  | 4 => isHbm a && inLine
  | 5 => isHbm a && inLine && q.data.length == q.len
  | 6 => isHbm a && (q.len == 4 || (q.aop == 8 && (q.len == 8 || q.len == 16))) && a % q.len == 0 && decide (q.aop.toNat ≤ 8) &&
      q.data.length == (if q.aop = 8 then 2 * q.len else q.len)
  | 7 => decide (a < Config.maxVa) && inLine && q.data.length == q.len
  | 9 => decide (q.rctr.toNat < 1024) && q.rctr.toNat != bitsN s.regs.deviceId.toNat 9 0 && inLine && q.data.length == q.len
  | _ => false

/-- The line's bytes at its home: those in L2, else the frame's. -/
def homeBytes (s : State) (pa : Nat) : List Byte :=
  ((linesAt s pa).head?.map (·.data)).getD (s.peekN (pa / lineBytes * lineBytes) lineBytes)

/-- A read of the line for another device: an error that ECC corrects, of L2 or of HBM, is counted (R416). -/
def homeCount (s : State) (pa : Nat) : State :=
  match s.l2.find? fun x => x.owner.isNone && x.pa == pa / lineBytes * lineBytes with
  | some x => countSoft s 1 x.line
  | none => countRead s pa

/-- The unit whose ECC cannot correct the line. -/
def homeBad (s : State) (pa : Nat) : Option Nat :=
  match (linesAt s pa).findSome? (lineBad s) with
  | some u => some u
  | none => if s.isBad pa then some 0 else none

/-- The end of a lease granted to another device now: stores held at the line and waiting atomics cap it (R324). -/
def grantUntil (s : State) (pa : Nat) : Nat :=
  (linesAt s pa).foldl (fun a x =>
    min (if x.cap = 0 then a else min a (x.cap - Config.skewPod)) (podLeaseEnd s x.asid x.line))
    ((s.podCaps.filter fun q => q.1 == pa / lineBytes).foldl (fun a q => min a (q.2 - Config.skewPod)) (s.meridian + Config.podLease))

/-- May the home apply another device's store or atomic to the line now (R324, R358)? -/
def homeReady (s : State) (pa : Nat) : Bool :=
  (linesAt s pa).all (atomicReady s) && (grantEnd s pa = 0 || decide (grantEnd s pa + Config.skewPod ≤ s.meridian))

/-- It must wait: the home grants no lease on the line that ends later than it may be applied (R324). -/
def capHome (s : State) (pa : Nat) : State :=
  if s.podCaps.any fun q => q.1 == pa / lineBytes then s
  else
    let t := (linesAt s pa).foldl (fun a x => max a (applyBound s x 0)) (max s.meridian (grantEnd s pa + Config.skewPod))
    { s with podCaps := (pa / lineBytes, t) :: s.podCaps }

/-- It applies it: to the frame, and to the lines of it that L2 holds. -/
def podWrite (s : State) (pa : Nat) (bs : List Byte) : State :=
  let s1 := (linesAt s pa).foldl preserve s
  let s2 := s1.pokeN pa bs
  let put := fun (x : L2Line) =>
    if x.owner.isNone && x.pa == pa / lineBytes * lineBytes then
      { x with data := mergeLine x.data (pa % lineBytes) bs, cap := 0, last := s.meridian, stored := x.stored ||| byteMask (pa % lineBytes) bs.length [] }
    else x
  let whole := bs.length == lineBytes
  tick { s2 with l2 := s2.l2.map put
                 podCaps := s2.podCaps.filter fun q => q.1 != pa / lineBytes
                 badMem := if whole then s2.badMem.filter fun l => l != pa / lineBytes else s2.badMem
                 badL2 := if whole then s2.badL2.filter fun q => !(s2.l2.any fun x => x.is q.1 q.2 && x.owner.isNone && x.pa == pa) else s2.badL2 } 0

/-- The new value of another device's atomic (R339, R340); none when nothing is applied. -/
def podAtomic (aop n : Nat) (data : List Byte) (old : Nat) : Option Nat :=
  let x := leNat (data.take n)
  match aop with
  | 0 => some (old + x)
  | 1 => some (pickS true old x)
  | 2 => some (pickS false old x)
  | 3 => some x
  | 4 => some (Nat.land old x)
  | 5 => some (Nat.lor old x)
  | 6 => some (Nat.xor old x)
  | 7 => some (fAdd false .rne old x).v
  | _ => if old = x then some (leNat (data.drop n)) else none

def lineReply (s : State) (bs : List Byte) (time : Nat) : State := { s with out := s.out ++ [.lineReply bs time] }

/-- An uncorrectable line makes a record here, and answers without bytes (R416). -/
def lineRead (s : State) (pa : Nat) (k : List Byte → State) : State :=
  match homeBad s pa with
  | some u => lineReply (memError s (controllerOf pa) 31 0 pa (pa / lineBytes * lineBytes) u) [] s.meridian
  | none => k (homeBytes s pa)

/-- One access of another device; unchanged while the home must wait. -/
def lineAccess (s : State) (q : InboundReq) : State :=
  let a := q.raddr.toNat
  let asid := q.asid.toNat
  match q.kind with
  | 4 =>
    lineRead s a fun d =>
      let end_ := if q.len = lineBytes then grantUntil s a else 0
      let s1 : State := if s.meridian < end_ then { s with podGrants := (a / lineBytes, end_) :: s.podGrants } else s
      lineReply (homeCount s1 a) (slice d (a % lineBytes) q.len) (max s.meridian end_)
  | 5 => if homeReady s a then lineReply (podWrite s a q.data) [] s.meridian else capHome s a
  | 6 =>
    if homeReady s a then
      lineRead (homeCount s a) a fun d =>
        let s := homeCount s a
        let old := slice d (a % lineBytes) q.len
        match podAtomic q.aop.toNat q.len q.data (leNat old) with
        | some v => lineReply (podWrite s a (natLe q.len v)) old s.meridian
        | none => lineReply { s with podCaps := s.podCaps.filter fun q => q.1 != a / lineBytes } old s.meridian
    else capHome s a
  | 7 =>
    match reach s asid a with
    | (_, .error _) => s
    | (s1, .ok e) =>
      if !e.replica then s
      else if e.uc then frameWrite s1 e a q.data
      else
        match homeLine s1 asid (a / lineBytes) with
        | (_, .error _) => s
        | (s2, .ok x) =>
          if !atomicReady s2 x then capLine s2 x
          else applyLine (setDirty (s2.setL2 { x with wtag := true }) e) { x with wtag := true } a q.data
  | _ =>
    let d := q.rctr.toNat
    let lines := s.l2.filter fun x => x.owner == some d && x.pa == a / lineBytes * lineBytes
    if lines.all fun x => x.podEnd = 0 || decide (x.podEnd + Config.skewPod ≤ s.meridian) then s.framePokeN (some d) a q.data else s

/-! ### Inbound requests (R378) -/

/-- A PUT or PUTC begins: refused by its counter's tag, or its writes are issued. -/
def inboundPut (s : State) (q : InboundReq) : State :=
  match putHere s 4 s.engOrder q with
  | (s1, code, cause, m) =>
    if code = xCTROWNER then { s with out := s.out ++ [.fabricReply code cause 0 []] }
    else { s1 with inbound := s1.inbound ++ [⟨s.engOrder, q, code, cause, m⟩], engOrder := s.engOrder + 1 }

/-- It ends once its writes have returned: the counter rises, and the device answers. -/
def inboundDone (s : State) (order : Nat) : State :=
  match s.inbound.find? fun x => x.order == order with
  | none => s
  | some x =>
    if agentBusy s 4 order then s
    else
      match putOutcome s 4 order x.code x.cause with
      | (code, cause, lost) =>
        let s1 := dropFails { s with inbound := s.inbound.filter fun y => y.order != order } 4 order
        let s2 := if code = 0 && x.req.kind == xPUTC then addCounter s1 x.req.rctr.toNat (x.req.rinc.zeroExtend 64) else s1
        { s2 with out := s2.out ++ [.fabricReply code cause (x.bytes - lost) []] }

/-- When a store was given its place in its page's sequence. -/
def Store.placed (st : Store) : Option Nat := match st.stage with | .sequenced t => some t | _ => none

/-- Has a store to the same bytes an earlier place in the sequence, and not been applied everywhere? Replicas apply in sequence order (R320, R333). -/
def sequencedBefore (s : State) (st : Store) : Bool :=
  s.stores.any fun x => x.id != st.id && x.asid == st.asid && overlap x.va x.data.length st.va st.data.length &&
    (match x.placed, st.placed with | some a, some b => decide (a < b) || (a == b && decide (x.id < st.id)) | _, _ => false)

/-- Every other replica has applied a store of this device (R333); no report comes before those of the stores sequenced earlier there. -/
def replicasDone (s : State) (id : Nat) : State :=
  { s with stores := s.stores.map fun st =>
      if st.id == id && st.placed.isSome && !sequencedBefore s st then { st with stage := .applied s.meridian } else st }

/-- INBOUND_FABRIC_REQUEST: a transfer of another device (R378), its access to a line of this one, or news of stores elsewhere. -/
def execInboundFabricRequest (q : InboundReq) (s : State) : Res :=
  if q.kind = 10 then .next (if podReady s then inboundDone s q.len else s)
  else if !podReady s || !portUp s then .next s
  else if q.kind = 8 then .next (replicasDone s q.len)
  else if 4 ≤ q.kind then .next (if lineReqOk s q then lineAccess s q else s)
  else if !requestOk q then .next s
  else if q.kind = xPUT || q.kind = xPUTC then .next (inboundPut s q)
  else
    match serve s q with
    | (s, none) => .next s
    | (s, some x) => .next { s with out := s.out ++ [.fabricReply x.code x.cause x.written x.data] }

/-! ### At the issuing device (R378) -/

/-- The operation whose local and global accesses a transfer makes. -/
def Transfer.op (x : Transfer) : CopyOp :=
  { unit_ := 0, entry := x.entry, seq := 0, order := x.order, kind := kPLAIN, record := x.record, asid := x.asid, tid := x.tid, lseq := x.lseq
    core := x.core, gen := x.gen, snapAt := 0, tags := x.tags, mods := Moduli.default, running := true, cancelled := false, code := 0
    cause := 0, bytes := 0, waitTo := 0 }

def Transfer.fail (x : Transfer) (code cause : Nat) : Transfer := { x with moved := true, code := code, cause := cause }
/-- A copy engine's status of an access as a transfer's. -/
def fromCopy (e : Nat × Nat) : Nat × Nat := if e.1 = 9 then (xUNCORRECTABLE, 0) else e

def ownDevice (s : State) (dev : Nat) : Bool := dev == bitsN s.regs.deviceId.toNat 9 0

def Transfer.request (x : Transfer) (data : List Byte) : InboundReq :=
  let r := x.record
  { kind := xKind r, asid := x.asid, raddr := BitVec.ofNat 64 (xRaddr r), len := xLen r, data := data, rctr := BitVec.ofNat 12 (xRctr r)
    rinc := BitVec.ofNat 32 (xRinc r), aop := BitVec.ofNat 4 (xAop r), opnd := BitVec.ofNat 64 (xOpnd r), cmpv := BitVec.ofNat 64 (xCmpv r) }

-- DESIGN CHOICE: notes/assumptions/63
/-- An answer that the target of this record can give. -/
def answerOk (r : List Byte) (x : FabricResp) : Bool :=
  if x.code = 0 then
    (if xKind r = xGET then x.data.length == xLen r else if xKind r = xATOMR then x.data.length == aopSize (xAop r) else x.data == [])
  else x.code == xFAULT || x.code == xUNREACHABLE || x.code == xUNCORRECTABLE || (x.code == xCTROWNER && xKind r == xPUTC)

/-- The target's answer: this device's own to a GET or an ATOMR, or `r`; none while it cannot be given. -/
def answer (s : State) (x : Transfer) (data : List Byte) (r : FabricResp) : State × Option FabricResp :=
  if !portUp s then (s, some ⟨xUNREACHABLE, 0, 0, []⟩)
  else if ownDevice s (xDev x.record) then serve s (x.request data)
  else if !answerOk x.record r then (s, none)
  else ({ s with out := s.out ++ [.fabricRequest x.asid.toNat x.record data] }, some r)

/-- Would the write go into the frozen template region of its own launch, where it is discarded (R78)? -/
def ownTemplate (s : State) (lseq : Nat) (asid : BitVec 16) (va n : Nat) : Bool :=
  lseq != 0 && s.regions.any fun r => r.seq == lseq && r.asid == asid.toNat && r.frozen && overlap r.base r.size va n

/-- What a GET or an ATOMR brings is written at LADDR. -/
def bringHome (s : State) (x : Transfer) (bs : List Byte) : State × Transfer :=
  if !xLlocal x.record && ownTemplate s x.lseq x.asid (xLaddr x.record) bs.length then (s, { x with moved := true })
  else
  match copyWrite (xLlocal x.record) (s, x.op) (xLaddr x.record) bs with
  | (s, o) => (s, { x with moved := true, code := (fromCopy (o.code, o.cause)).1, cause := (fromCopy (o.code, o.cause)).2, bytes := o.bytes })

/-- Does the transfer write at this device for a PUT or PUTC that names it? -/
def Transfer.putsHere (s : State) (x : Transfer) : Bool := ownDevice s (xDev x.record) && (xKind x.record == xPUT || xKind x.record == xPUTC)

/-- The accesses of a transfer; unchanged while they must wait. -/
def moveTransfer (s0 : State) (x : Transfer) (r : FabricResp) : State × Transfer :=
  let rec_ := x.record
  let sends := xKind rec_ = xPUT || xKind rec_ = xPUTC
  match (if sends then copyRead x.op (xLlocal rec_) false s0 (xLaddr rec_) (xLen rec_) else (s0, .ok [])) with
  | (s, .error e) => (s, x.fail (fromCopy e).1 (fromCopy e).2)
  | (s, .ok data) =>
    if x.putsHere s && portUp s then
      match putHere s 1 x.order (x.request data) with
      | (s, code, cause, m) => (s, { x with moved := true, code := code, cause := cause, bytes := m })
    else
    match answer s x data r with
    | (s, none) => (s, x)
    | (s, some y) =>
      if y.code ≠ 0 then (s, { x.fail y.code y.cause with bytes := if sends then min y.written (xLen rec_) else 0 })
      else if sends then (s, { x with moved := true, bytes := xLen rec_ })
      else bringHome s x y.data

/-- DETAIL of R380. -/
def transferDetail (x : Transfer) (code bytes : Nat) : Nat :=
  if xKind x.record = xATOMR then (if code = 0 then aopSize (xAop x.record) else 0) else bytes

/-- TRANSFER_COMPLETE (R378): the accesses first, the status once its own writes have returned their times. -/
def execTransferComplete (entry : Nat) (r : FabricResp) (s : State) : Res :=
  match s.transfers.find? fun x => x.entry == entry with
  | none => .next s
  | some x =>
    if !x.moved then
      if !x.fired && olderWork s x.tid x.gen then .next s
      else if !podReady s then
        -- it waits for the pod's time, unless no port can ever take it (R371, R444)
        .next (if portUp s then s
          else { s with transfers := s.transfers.map fun z => if z.order == x.order then x.fail xUNREACHABLE 0 else z })
      else
        match moveTransfer s x r with
        | (s, y) => .next { s with transfers := s.transfers.map fun z => if z.order == x.order then y else z }
    else if agentBusy s 1 x.order then .next s
    else
      match putOutcome s 1 x.order x.code x.cause with
      | (code, cause, lost) =>
        let s := dropFails s 1 x.order
        let s := if code = 0 && xKind x.record = xPUTC && ownDevice s (xDev x.record) then
            addCounter s (xRctr x.record) (BitVec.ofNat 64 (xRinc x.record)) else s
        let s := if code = 0 && xCen x.record then raiseCounter s x.asid (xLctr x.record) else s
        .next (doneFab (opEnded { s with transfers := s.transfers.filter fun z => z.order != x.order } x.lseq) x.entry
          (fabStatus (transferDetail x code (x.bytes - lost)) cause code))

/-! ### Receive counters (R382 to R384) -/

def ctrOf (c : Ctx) (a : BitVec 6) : Nat := (c.sReg a).toNat % 4096
/-- May the team name the counter? -/
def mayName (s : State) (t : Team) (n : Nat) : Bool := t.priv || counterTagged s t.asid n

def counterOp (f : UniR) (s : State) (k : Ctx → State → Nat → Res) : Res :=
  uniform { feat := some 4 } f.g s fun c s =>
    if mayName s c.t (ctrOf c f.a) then k c s (ctrOf c f.a) else trapAll c s cCTROWNER

def execCtrrd (f : UniR) (s : State) : Res := counterOp f s fun c s n => finS c s f.d (s.counter n).val

/-- The counter's update comes after the sub-group has gone on, so that the update finds the state it leaves. -/
def execCtrset (f : UniR) (s : State) : Res :=
  counterOp f s fun c s n =>
    if pendingStores s c.gid c.active true then stall c s else fin c (setCounter s n (c.sReg f.b))

def execCtrwait (f : UniR) (s : State) : Res :=
  counterOp f s fun c s n =>
    if c.sReg f.b ≤ (s.counter n).val then finS c s f.d (s.counter n).val
    else parkAs c s (.ctr n (c.sReg f.b).toNat f.d.toNat)

def execCtradd (f : UniR) (s : State) : Res :=
  counterOp f s fun c s n =>
    if pendingStores s c.gid c.active true then stall c s
    else
      let old := (s.counter n).val
      finS c (setCounter s n (old + c.sReg f.b)) f.d old

/-! ### Triggered sends (R385 to R387) -/

def TSlot.busy (x : TSlot) : Bool := x.armed || (x.fired && x.handle == 0)
def tsendFree (s : State) : Nat := Config.tsendSlots - (s.tsend.filter TSlot.busy).length
def freeTslotEntry (s : State) : Option Nat :=
  firstFrom (fun i => !s.tsend.any fun x => x.slot == i && x.busy) 0 Config.tsendSlots
def TSlot.token (x : TSlot) : Nat := 2 ^ 63 + x.seq * 2 ^ 16 + x.slot

def execTsend (f : UniR) (s : State) : Res :=
  uniform { feat := some 4 } f.g s fun c s =>
    let va := (c.sReg f.a).toNat
    if va % 64 ≠ 0 then trapAllMem c s cMISALIGNED va
    else if pendingStores s c.gid c.active true then stall c s
    else
      match readRecord 8 s c (lowestLane c.active) va with
      | (s, .error (k, a)) => recordFault c s k a
      | (s, .ok r) =>
        let tctr := fieldN r 0x32 2
        if !transferOk r || 4096 ≤ tctr then finS c s f.d 2
        else if !mayName s c.t tctr then trapAll c s cCTROWNER
        else
          match freeTslotEntry s with
          | none => finS c s f.d 1
          | some i =>
            let met := decide (fieldN r 0x38 8 ≤ (s.counter tctr).val.toNat)
            let x : TSlot :=
              { slot := i, seq := s.tsendSeq, asid := c.t.asid, record := r, core := c.core, tid := c.t.tid, lseq := c.t.seq
                tags := recordTags s c.t r, armed := !met, fired := met, handle := 0 }
            finS c { s with tsend := s.tsend.filter (fun y => y.slot != i) ++ [x], tsendSeq := s.tsendSeq % (2 ^ 32 - 1) + 1 } f.d
              (BitVec.ofNat 64 x.token)

-- DEDUCED: notes/assumptions/66
def execTsendCancel (f : UniR) (s : State) : Res :=
  uniform { feat := some 4 } f.g s fun c s =>
    match s.tsend.find? fun x => x.token == (c.sReg f.a).toNat && x.asid == c.t.asid with
    | none => finS c s f.d 1
    | some x =>
      if x.armed then finS c { s with tsend := s.tsend.filter fun y => y.slot != x.slot } f.d 0
      else if !x.fired then finS c s f.d 1
      else if x.handle = 0 then stall c s
      else finS c s f.d (BitVec.ofNat 64 x.handle)

-- DEDUCED: notes/assumptions/65
/-- TRIGGERED_TRANSFER_START (R387): a fired slot's transfer takes an entry, in arm-sequence order. -/
def execTriggeredTransferStart (slot : Nat) (s : State) : Res :=
  match s.tsend.find? fun x => x.slot == slot && x.fired && x.handle == 0 with
  | none => .next s
  | some x =>
    if s.tsend.any fun y => y.fired && y.handle == 0 && decide (y.seq < x.seq) then .next s
    else
      match freeTransfer s with
      | none => .next s
      | some e =>
        match newFab s e x.asid with
        | (s, h) =>
          let s1 : State := { s with tsend := s.tsend.map fun y => if y.slot == slot then { y with handle := h } else y }
          .next (addTransfer s1
            { entry := e, order := 0, asid := x.asid, record := x.record, tid := x.tid, lseq := x.lseq, core := x.core, gen := 0
              fired := true, tags := x.tags, moved := false, code := 0, cause := 0, bytes := 0 })

/-! ### Ports and queue pairs (R371, R373, R444) -/

def execFabricPortDown (port : Nat) (s : State) : Res :=
  .next (if port < 16 then { s with portsDown := s.portsDown ||| (1#16 <<< port) } else s)
def execFabricPortUp (port : Nat) (s : State) : Res :=
  .next (if port < 16 then { s with portsDown := s.portsDown &&& ~~~(1#16 <<< port) } else s)

/-- Bytes of the pod route table (R373, R431). -/
def routeByte (s : State) (o : Nat) : Nat := (NMap.get 0 (o / 8) s.routes).toNat / 2 ^ (8 * (o % 8)) % 256
def routePod (s : State) (e : Nat) : Nat := routeByte s (32 * e) + 256 * routeByte s (32 * e + 1)
/-- PORTS of an entry: the Ethernet ports that may carry traffic to the pod. -/
def routePorts (s : State) (e : Nat) : Nat := routeByte s (32 * e + 3) % 4
-- DESIGN CHOICE: notes/assumptions/94
/-- Does a valid entry describe the pod? -/
def routed (s : State) (pod : Nat) : Bool :=
  (List.range 1024).any fun e => bitN (routeByte s (32 * e + 2)) 0 && routePod s e == pod
/-- May a port carry traffic to the pod, by a valid entry? -/
def reachable (s : State) (pod : Nat) : Bool :=
  (List.range 1024).any fun e => bitN (routeByte s (32 * e + 2)) 0 && routePod s e == pod && routePorts s e != 0
def ownPod (s : State) : Nat := bitsN s.regs.deviceId.toNat 31 16

/-- QUEUE_PAIR_SETUP (R373): both pods have a valid entry, ports may carry the traffic, and a collective names a participant of the pod. -/
def execQueuePairSetup (pod : Nat) (s : State) : Res :=
  let named := s.colls.any fun x => x.ranks.any fun r => bitsN r 31 16 == pod
  .next (if pod ≠ ownPod s && named && reachable s pod && routed s (ownPod s) && !s.qpairs.contains pod then { s with qpairs := s.qpairs ++ [pod] } else s)

end Sys2Proof.Machine
end

