-- ==== Sys2Proof/Machine/MemEvents.lean ====
section
/-! DEFINITION. The memory system's own steps: stores reach L2, are applied and return, walks, fills and lease ends
(R284, R296, R298, R299, R320, R323 to R325, R333). -/

namespace Sys2Proof.Machine

def State.store? (s : State) (id : Nat) : Option Store := s.stores.find? fun st => st.id == id
def State.setStore (s : State) (st : Store) : State := { s with stores := s.stores.map fun x => if x.id == st.id then st else x }
def State.dropStore (s : State) (id : Nat) : State := { s with stores := s.stores.filter fun x => x.id != id }

def Store.pending (st : Store) : Bool := match st.stage with | .retired => true | .held _ => true | _ => false

/-- An earlier store of the same core to the same bytes that is not applied yet (R320). -/
def blockedBy (s : State) (st : Store) : Bool :=
  s.stores.any fun x => decide (x.id < st.id) && x.core == st.core && x.asid == st.asid && x.agent == st.agent &&
    x.peer.isSome == st.peer.isSome && overlap x.va x.data.length st.va st.data.length && x.pending

/-- STORE_AT_L2 (R298): translate where needed; the store is then held at its home or has failed. -/
def execStoreAtL2 (id : Nat) (s : State) : Res :=
  match s.store? id with
  | none => .next s
  | some st =>
    if st.stage != .retired || st.peer.isSome then .next s
    else
      let line := st.va / lineBytes
      match (s.l2? st.asid line).filter fun x => x.wtag && x.owner.isNone with
      | some x => .next (s.setStore { st with stage := .held (max s.meridian st.floor), uc := false, red := false, replica := x.replica })
      | none =>
        match reach s st.asid st.va with
        | (s, .error k) => .next (s.setStore { st with stage := .failed k })
        | (s, .ok e) =>
          let st := { st with uc := e.uc, red := e.red, replica := e.replica, remote := e.remote }
          let held := fun (s : State) (t : Nat) => Host.Outcome.next (s.setStore { st with stage := .held t })
          if (e.remote || e.replica) && !s.regs.merLocked then .next s
          else if !e.w then .next (s.setStore { st with stage := .failed (if e.cow then cCOWWRITE else cPROT) })
          else if e.red || e.uc then held s (max s.meridian st.floor)
          else
            match dirtyLine s st.asid line with
            | (s, .error k) => .next (s.setStore { st with stage := .failed k })
            | (s, .ok x) => held s (applyBound s x st.floor)

/-- A held store is applied to its cached line, or waits on (R324, R358). -/
def applyCached (done : Stage) (s : State) (st : Store) : State :=
  let line := st.va / lineBytes
  match s.l2? st.asid line with
  | none => s.setStore { st with stage := .retired }
  | some x =>
    let t := applyBound s x st.floor
    -- cleaned since it was held (WBL2): it needs a write tag again (R298)
    if !x.wtag then s.setStore { st with stage := .retired }
    else if s.meridian < t then s.setStore { st with stage := .held t }
    else if snapNeeds s x && !snapRoom s x then s
    else
      let s := if st.remote then
          match translate s st.asid st.va with
          | (s, .ok e) => remoteCount s e st.va
          | (s, .error _) => s
        else s
      (applyLine s x st.va st.data st.skip).setStore { st with stage := done }

/-- A held store to a UC page performs at the owning controller. -/
def applyUc (done : Stage) (s : State) (st : Store) : State :=
  match reach s st.asid st.va with
  | (s, .error k) => s.setStore { st with stage := .failed k }
  | (s, .ok e) =>
    if !e.uc then s.setStore { st with stage := .retired }
    else if !e.w then s.setStore { st with stage := .failed (if e.cow then cCOWWRITE else cPROT) }
    else if snapNeeds s (frameLine s e st.va) && !snapRoom s (frameLine s e st.va) then s
    else (frameWrite (remoteCount s e st.va) e st.va st.data st.skip).setStore { st with stage := done }

def isHeld (st : Store) (now : Nat) : Bool := match st.stage with | .held t => decide (t ≤ now) | _ => false

/-- STORE_APPLICATION (R324). -/
def execStoreApplication (id : Nat) (s : State) : Res :=
  match s.store? id with
  | none => .next s
  | some st =>
    if !isHeld st s.meridian || st.red || st.replica || blockedBy s st || (st.remote && !s.regs.merLocked) then .next s
    else if st.uc then .next (applyUc (.applied s.meridian) s st)
    else .next (applyCached (.applied s.meridian) s st)

-- DESIGN CHOICE: notes/assumptions/106
/-- REPLICA_STORE (R333): the sequencer gives the store its place in the page's sequence and multicasts it; this device's replica, the
frame its leaf names, applies it. It completes when the other replicas have applied it, which they report. -/
def execReplicaStore (id : Nat) (s : State) : Res :=
  match s.store? id with
  | none => .next s
  | some st =>
    if !isHeld st s.meridian || !st.replica || blockedBy s st || !s.regs.merLocked then .next s
    else
      let s1 := (if st.uc then applyUc else applyCached) (.sequenced s.meridian) s st
      let sent := (s1.store? id).any fun x => x.stage == .sequenced s.meridian
      .next (if sent then { s1 with out := s1.out ++ [.replica st.asid st.va st.data st.skip id] } else s1)

/-- A completion time of a launch's own write (R91, R325); `far` when its home is on another device. -/
def launchTime (s : State) (seq t : Nat) (far : Bool) : State :=
  { s with launches := s.launches.map fun L =>
      if L.seq == seq then { L with pass := max L.pass (t + if far then Config.skewPod else Config.skewDev) } else L }

-- DEDUCED: notes/assumptions/128
/-- An earlier store of the same core to the same bytes whose time or failure has not returned: the core then learns of it first, so that no
load returns its older value after the later store's (R326). -/
def returnsAfter (s : State) (st : Store) : Bool :=
  st.agent == 0 && s.stores.any fun x => decide (x.id < st.id) && x.agent == 0 && x.core == st.core && x.asid == st.asid &&
    x.peer.isSome == st.peer.isSome && overlap x.va x.data.length st.va st.data.length

/-- STORE_TIME_RETURN (R325): the buffer entry is freed (R299). -/
def execStoreTimeReturn (id : Nat) (s : State) : Res :=
  match s.store? id with
  | none => .next s
  | some st =>
    match st.stage with
    | .applied t =>
      if returnsAfter s st then .next s
      else
      let s := s.dropStore id
      .next (if st.agent = 0 then addTime s st.gid st.lane t st.remote
        else if st.agent = 6 then launchTime s st.agentId t st.remote else s)
    | _ => .next s

/-- STORE_FAILURE_RETURN (R299): a fibre's store leaves a pending deferred record; an engine's failure is kept for its operation. -/
def execStoreFailureReturn (id : Nat) (s : State) : Res :=
  match s.store? id with
  | none => .next s
  | some st =>
    match st.stage with
    | .failed k =>
      let s := s.dropStore id
      if st.agent = 0 then
        .next (addDefer s st.gid st.lane st.va st.pc st.asid st.tslot st.gslot k st.data.length st.kind st.id st.issue)
      else .next { s with fails := s.fails ++ [⟨st.agent, st.agentId, st.id, st.va, k, st.data.length⟩] }
    | _ => .next s

/-- PEER_STORE_PERFORM (R269, R284): at the target core, unless the part's tag has changed. -/
def execPeerStorePerform (id : Nat) (s : State) : Res :=
  match s.store? id with
  | none => .next s
  | some st =>
    match st.stage, st.peer with
    | .retired, some (core, off, tag) =>
      if blockedBy s st then .next s
      else
        match splitOffset off with
        | some (kind, part, o) =>
          if s.tagOf core kind part = tag then
            .next ((localWrite s ⟨core, kind, part, o⟩ st.data).setStore { st with stage := .applied s.meridian })
          else .next (s.setStore { st with stage := .failed cLOWNER })
        | none => .next (s.setStore { st with stage := .failed cLOWNER })
    | _, _ => .next s

/-- PAGE_TABLE_WALK (R296): a walk installs its entry at the controller, and in the core's lookaside. -/
def execPageTableWalk (core asid : Nat) (va : DWord) (s : State) : Res :=
  .next (if core < 272 then (permission s core asid va.toNat).1 else (translate s asid va.toNat).1)

/-- LINE_FILL (R323, R324): a fill of a core's cache way, as a load would make it; UC and RED lines are never filled. -/
def execLineFill (core asid : Nat) (va : DWord) (s : State) : Res :=
  match translate s asid va.toNat with
  | (s, .error _) => .next s
  | (s, .ok e) => .next (if e.uc || e.red || !e.r || (e.remote && !s.regs.merLocked) then s else (coreLine s core asid (va.toNat / lineBytes)).1)

/-- LEASE_EXPIRY (R323): a line whose lease has ended leaves the cache ways. -/
def execLeaseExpiry (core asid : Nat) (va : DWord) (s : State) : Res :=
  .next (s.modCore core fun x =>
    { x with l1 := x.l1.filter fun z => !(z.asid == asid && z.line == va.toNat / lineBytes && decide (z.lease ≤ s.meridian)) })

end Sys2Proof.Machine
end

