-- ==== Sys2Proof/Machine/Coll.lean ====
section
/-! DEFINITION. Collectives and reduction pages: uniform OP 3D and the collectives' own steps (R388 to R398). -/

namespace Sys2Proof.Machine

/-! ### The collective record (R389, R390) -/

def kCtl (r : List Byte) : Nat := fieldN r 0 4
def kOpk (r : List Byte) : Nat := bitsN (kCtl r) 31 30
def kType (r : List Byte) : Nat := bitsN (kCtl r) 29 27
def kSkip (r : List Byte) : Nat := bitsN (kCtl r) 26 25
def kSmode (r : List Byte) : Bool := bitN (kCtl r) 24
def kCen (r : List Byte) : Bool := bitN (kCtl r) 22
def kFs (r : List Byte) : Nat := bitsN (kCtl r) 21 16
def kN (r : List Byte) : Nat := fieldN r 4 2
def kRank (r : List Byte) : Nat := fieldN r 6 2
def kRoot (r : List Byte) : Nat := fieldN r 8 2
def kLctr (r : List Byte) : Nat := fieldN r 0x0A 2
def kLen (r : List Byte) : Nat := fieldN r 0x0C 4
def kRanks (r : List Byte) : Nat := fieldN r 0x10 8
def kSrc (r : List Byte) : Nat := fieldN r 0x18 8
def kDst (r : List Byte) : Nat := fieldN r 0x20 8
def kCount (r : List Byte) : Nat := fieldN r 0x28 8
def kDone (r : List Byte) : Nat := fieldN r 0x30 8
def kMcDest (r : List Byte) : Nat := fieldN r 0x38 4
def kMcMask (r : List Byte) : Nat := fieldN r 0x3C 2
def kMcCluster (r : List Byte) : Nat := fieldN r 0x3E 1
def kMcCtr (r : List Byte) : Nat := fieldN r 0x40 2
def kTag (r : List Byte) : Nat := fieldN r 0x48 8

def oALLREDUCE : Nat := 0
def oREDUCE : Nat := 1
def oSCATTER : Nat := 2
def tFP32 : Nat := 0
def tBF16 : Nat := 1
def tINT32 : Nat := 2
def tINT64 : Nat := 3
def tFXP : Nat := 4

def elemSize (r : List Byte) : Nat := if kType r = tBF16 then 2 else if kType r = tINT64 then 8 else 4
/-- Does the participant write a result? -/
def writesResult (r : List Byte) : Bool := kOpk r != oREDUCE || kRank r == kRoot r
/-- Elements of its result, and the first of them. -/
def resElems (r : List Byte) : Nat := if kOpk r = oSCATTER then kLen r / kN r else kLen r
def resFirst (r : List Byte) : Nat := if kOpk r = oSCATTER then kRank r * (kLen r / kN r) else 0
def resBytes (r : List Byte) : Nat := resElems r * elemSize r

/-- Chunks of 64 KiB, and the elements of one (R393). -/
def chunkBytes : Nat := 65536
def chunkCount (r : List Byte) : Nat := ceilDiv (resBytes r) chunkBytes
def chunkFirst (r : List Byte) (i : Nat) : Nat := chunkBytes * i / elemSize r
def chunkElems (r : List Byte) (i : Nat) : Nat := min (chunkFirst r (i + 1)) (resElems r) - chunkFirst r i

/-- R389 to R391, but for the RANKS entry. -/
def collOk (r : List Byte) : Bool :=
  let addr := fun (a : Nat) => decide (a < Config.maxVa)
  let mc := kMcMask r != 0
  bitsN (kCtl r) 15 0 == 0 && kOpk r != 3 && decide (kType r ≤ 4) && kSkip r != 3 &&
  (kSkip r == 0 || kType r == tFP32 || kType r == tBF16 || kType r == tFXP) && (kType r == tFXP || kFs r == 0) &&
  decide (2 ≤ kN r) && decide (kN r ≤ 1024) && decide (kRank r < kN r) &&
  (if kOpk r = oREDUCE then decide (kRoot r < kN r) else kRoot r == 0) && decide (kLctr r < 4096) &&
  decide (1 ≤ kLen r) && decide (kLen r ≤ 2 ^ 30) && (kOpk r != oSCATTER || kLen r % kN r == 0) &&
  addr (kRanks r) && addr (kSrc r) && addr (kDst r) && addr (kCount r) && addr (kDone r) && (kSkip r != 0 || kCount r == 0) &&
  bitsN (kMcCluster r) 7 4 == 0 && fieldN r 0x3F 1 == 0 && decide (kMcCtr r < 4096) && fieldN r 0x42 6 == 0 && fieldN r 0x50 48 == 0 &&
  (if mc then kMcDest r % 128 == 0 && decide (Config.segBase ≤ kMcDest r) && decide (kMcDest r + resBytes r ≤ Config.colBase)
   else kMcDest r == 0) &&
  (if writesResult r then kDst r != 0 || mc
   else kDst r == 0 && kCount r == 0 && kMcDest r == 0 && !mc && kMcCluster r == 0 && kMcCtr r == 0)

def cBADCOLL : Nat := 9
def cABORTED : Nat := 8
def cMCOWNER : Nat := 10

/-- A RANKS entry names this device. -/
def namesMe (s : State) (e : Nat) : Bool := bitsN e 31 16 == ownPod s && ownDevice s (bitsN e 9 0)

/-! ### COLL (R392, R398) -/

/-- The RANKS entries. -/
def ranksOf (r bs : List Byte) : List Nat := (List.range (kN r)).map fun i => fieldN bs (4 * i) 4

-- DEDUCED: notes/assumptions/69
def execColl (f : UniR) (s : State) : Res :=
  uniform { feat := some 4 } f.g s fun c s =>
    let va := (c.sReg f.a).toNat
    if va % 128 ≠ 0 then trapAllMem c s cMISALIGNED va
    else if pendingStores s c.gid c.active true then stall c s
    else
      match heldOr c s (fun s => readRecord 16 s c (lowestLane c.active) va) with
      | (s, .error (k, a)) => recordFault c s k a
      | (s, .ok r) =>
        match freeColl s with
        | none => hold r c s
        | some e =>
          let started := fun (s : State) (k : State → State) =>
            match newFab s (collKey e) c.t.asid with
            | (s, h) => finS c (k s) f.d (BitVec.ofNat 64 h)
          let ended := fun (s : State) (code cause : Nat) => started s fun s => doneFab s (collKey e) (fabStatus 0 cause code)
          if !collOk r then ended s xBADRECORD 0
          else
            match engRead s (some c.t) c.t.asid.toNat (kRanks r) (4 * kN r) with
            | (s1, .error (_, k)) => if k = cAWAY then hold r c s else ended s1 (fabFail k).1 (fabFail k).2
            | (s, .ok bs) =>
              if !namesMe s ((ranksOf r bs).getD (kRank r) 0) || (ranksOf r bs).any (fun e => bitsN e 15 10 != 0) then ended s xBADRECORD 0
              else
                started s fun s =>
                  { s with
                    colls := s.colls ++ [{ entry := e, order := s.engOrder, asid := c.t.asid, record := r, ranks := ranksOf r bs, tid := c.t.tid
                                           lseq := c.t.seq, core := c.core, gen := c.t.engGen, met := false, src := [], given := [], took := []
                                           chunks := [], skipped := false, stop := none, mapped := false }]
                    engOrder := s.engOrder + 1 }

-- DEDUCED: notes/assumptions/72
/-- What a handle names: a code at once, or the key of its entry (R392). -/
def fabNamed (s : State) (asid : BitVec 16) (h : Nat) : Except Nat Nat :=
  if h = 0 || bitsN h 63 48 ≠ 0 || bitsN h 14 11 ≠ 0 then .error 12
  else
    let k := if bitN h 15 then collKey (bitsN h 10 0) else bitsN h 10 0
    let t := s.fabTicket k
    if bitsN h 47 16 = 0 || t.seq ≠ bitsN h 47 16 || t.asid != asid then .error 11 else .ok k

def collWaitWith (poll : Bool) (f : UniR) (s : State) : Res :=
  uniform { feat := some 4 } f.g s fun c s =>
    match fabNamed s c.t.asid (c.sReg f.a).toNat with
    | .error code => finS c s f.d (BitVec.ofNat 64 code)
    | .ok k =>
      if (s.fabTicket k).done then finS c s f.d (BitVec.ofNat 64 (s.fabTicket k).status)
      else if poll then finS c s f.d 1
      else stall c s

def execCollWait (f : UniR) (s : State) : Res := collWaitWith false f s
def execCollPoll (f : UniR) (s : State) : Res := collWaitWith true f s

def State.modColl (s : State) (order : Nat) (g : Coll → Coll) : State :=
  { s with colls := s.colls.map fun x => if x.order == order then g x else x }

def execCollAbort (f : UniR) (s : State) : Res :=
  uniform { feat := some 4 } f.g s fun c s =>
    match fabNamed s c.t.asid (c.sReg f.a).toNat with
    | .error code => finS c s f.d (BitVec.ofNat 64 code)
    | .ok k =>
      if k < 2048 then finS c s f.d 12
      else if (s.fabTicket k).done then finS c s f.d (BitVec.ofNat 64 (s.fabTicket k).status)
      else
        match s.colls.find? fun x => collKey x.entry == k with
        | none => stall c s
        | some x =>
          if x.stop.isSome then underWay c s
          -- its message goes to the pod (R444), where a port can take it
          else if !podReady s && portUp s then stall c s
          else
            underWay c { (s.modColl x.order fun x => { x with stop := some (cABORTED, 0) }) with
              out := if portUp s then s.out ++ [.collAbort (kTag x.record) (kRank x.record)] else s.out }

/-! ### Meeting (R371, R373, R391, R393) -/

def foreignPods (s : State) (x : Coll) : List Nat := (x.ranks.map fun e => bitsN e 31 16).filter fun p => p != ownPod s

-- DEDUCED: notes/assumptions/62
/-- Does no path lead to some participant (R371, R373)? -/
def pathless (s : State) (x : Coll) : Bool :=
  let far := foreignPods s x
  (!far.isEmpty && !routed s (ownPod s)) || far.any (fun p => !reachable s p) ||
  (!portUp s && x.ranks.any fun e => bitsN e 31 16 == ownPod s && !namesMe s e)

/-- The bytes a participant contributes, for its whole record. -/
def Coll.own (x : Coll) : List Byte :=
  if kSmode x.record then (List.range (kLen x.record * elemSize x.record)).map fun i => NMap.get 0 i x.given else x.src

/-- The contribution is closed: SMODE 0 when it has been read, SMODE 1 when every element was accepted. -/
def Coll.closed (x : Coll) : Bool := if kSmode x.record then x.took.length == kLen x.record else x.met

def tell (s : State) (x : Coll) : State := { s with out := s.out ++ [.contribution (kTag x.record) (kRank x.record) x.own] }

/-- Chunk buffers of the Ramkor dies that no collective holds. -/
def freeBufs (s : State) : Nat := Config.chunkBuffers - (s.colls.map (·.bufs)).sum

-- DESIGN CHOICE: notes/assumptions/109
/-- The buffers that a collective takes when it runs: one for each of its chunks, as far as they go. -/
def takeBufs (s : State) (x : Coll) : Nat := min (chunkCount x.record) (freeBufs s)

/-- COLLECTIVE_MEET (R391): it waits in the sequencer while no chunk buffer is free (R393). -/
def execCollectiveMeet (entry : Nat) (m : MeetResp) (s : State) : Res :=
  match s.colls.find? fun x => x.entry == entry with
  | none => .next s
  | some x =>
    let r := x.record
    let stop := fun (s : State) (code cause : Nat) => Host.Outcome.next (s.modColl x.order fun x => { x with stop := some (code, cause) })
    if x.met || x.stop.isSome || olderWork s x.tid x.gen then .next s
    else if !podReady s then (if pathless s x then stop s xUNREACHABLE 0 else .next s)
    else if m.aborted then stop s cABORTED 0
    else if pathless s x || !m.reachable then stop s xUNREACHABLE 0
    else if !m.agree || x.ranks.eraseDups.length ≠ x.ranks.length then stop s cBADCOLL 0
    else if freeBufs s = 0 || (foreignPods s x).any fun p => !s.qpairs.contains p then .next s
    else if kSmode r then
      .next ((if x.closed then tell s x else s).modColl x.order fun x => { x with met := true, bufs := takeBufs s x })
    else
      match engRead s (s.team? x.tid) x.asid.toNat (kSrc r) (kLen r * elemSize r) with
      | (s, .error (_, k)) => stop s (fabFail k).1 (fabFail k).2
      | (s, .ok bs) =>
        let y := { x with met := true, src := bs, bufs := takeBufs s x }
        .next ((tell s y).modColl x.order fun _ => y)

/-! ### Reduction pages (R388) -/

-- DEDUCED: notes/assumptions/60
/-- Element numbers of the bound range that a store's bytes form, or none where they do not form whole new elements. -/
def contributed (x : Coll) (st : Store) : Option (List Nat) :=
  let n := elemSize x.record
  let off := st.va - kSrc x.record
  let offs := (List.range st.data.length).filter fun i => !st.skip.contains i
  let els := (offs.map fun i => (off + i) / n).eraseDups
  if offs.length == els.length * n && els.all fun e => !NMap.get false e x.took then some els else none

def boundTo (x : Coll) (st : Store) : Bool :=
  kSmode x.record && x.asid.toNat == st.asid && decide (kSrc x.record ≤ st.va) &&
    decide (st.va + st.data.length ≤ kSrc x.record + kLen x.record * elemSize x.record)

/-- RED_CONTRIBUTION (R388). -/
def execRedContribution (id : Nat) (s : State) : Res :=
  match s.store? id with
  | none => .next s
  | some st =>
    if !st.red || !isHeld st s.meridian || blockedBy s st then .next s
    else
      match (s.colls.filter fun x => boundTo x st).findSome? fun x => (contributed x st).map fun e => (x, e) with
      | none => .next (s.setStore { st with stage := .failed cREDSTORE })
      | some (x, els) =>
        let off := st.va - kSrc x.record
        let y : Coll :=
          { x with
            took := els.foldl (fun m e => NMap.set false e true m) x.took
            given := (List.range st.data.length).foldl (fun m i =>
              if st.skip.contains i then m else NMap.set 0 (off + i) (st.data.getD i 0) m) x.given }
        let s1 := (s.modColl x.order fun _ => y).setStore { st with stage := .applied s.meridian }
        -- the element that closes the contribution sends it to the others (R444)
        .next (if !(y.closed && y.met) then s1 else if podReady s then tell s1 y else s)

/-! ### Reduction (R394 to R396) -/

/-- −0.0. -/
def negZero : Nat := 2 ^ 31

/-- The next power of two, by at most `fuel` doublings. -/
def powerFrom : Nat → Nat → Nat → Nat
  | 0, p, _ => p
  | f + 1, p, n => if n ≤ p then p else powerFrom f (2 * p) n

/-- Levels of the tree until one node is left. -/
def treeAll : Nat → List FRes → List FRes
  | 0, l => l
  | f + 1, l => if l.length ≤ 1 then l else treeAll f (treeLevel (fAdd false .rne) l)

/-- The tree of R394 over FP32 patterns. -/
def fpTree (xs : List Nat) : Nat :=
  let leaves := xs ++ List.replicate (powerFrom 11 1 xs.length - xs.length) negZero
  match treeAll 11 (leaves.map fun v => ({ v := v } : FRes)) with
  | a :: _ => a.v
  | [] => negZero

/-- R395. -/
def fxpSum (fs : Nat) (xs : List Nat) : Nat :=
  let pos := xs.any (· == fpInf 23 false)
  let neg := xs.any (· == fpInf 23 true)
  if xs.any (fpIsNan 23) || (pos && neg) then fpCanon 23
  else if pos || neg then fpInf 23 neg
  else
    let n := fun (x : Nat) =>
      match fpVal 23 x with
      | .fin s m e => satI (signedM s (roundAt .rne s (m * pow2N (e + fs)) (pow2D (e + fs)) 0)) (-(2 ^ 63 - 1)) (2 ^ 63 - 1)
      | _ => 0
    roundDy 23 .rne false ⟨(xs.map n).sum, -(fs : Int)⟩

/-- The result of one element from the contributions in rank order; `skip` says which are replaced. -/
def reduceElem (r : List Byte) (xs : List Nat) (skip : List Bool) : Nat :=
  let at_ := fun (id : Nat) => (List.range xs.length).map fun i => if skip.getD i false then id else xs.getD i 0
  if kType r = tFP32 then fpTree (at_ negZero)
  else if kType r = tBF16 then (f2bf false (fpTree ((List.range xs.length).map fun i => if skip.getD i false then negZero else xs.getD i 0 * 65536))).v
  else if kType r = tFXP then fxpSum (kFs r) (at_ 0)
  else xs.sum % 2 ^ (8 * elemSize r)

def elemNan (r : List Byte) (x : Nat) : Bool := if kType r = tBF16 then fpIsNan 7 x else fpIsNan 23 x

/-- A chunk of `n` elements: its result bytes and its counts, from the contributions `cs` in rank order. -/
def reduceChunk (r : List Byte) (n : Nat) (cs : List (List Byte)) : List Byte × List Byte :=
  let size := elemSize r
  let el := fun (c : List Byte) (i : Nat) => fieldN c (size * i) size
  let nanAt := fun (c : List Byte) (i : Nat) => elemNan r (el c i)
  let skipped := fun (i : Nat) (c : List Byte) =>
    if kSkip r = 1 then nanAt c i
    else if kSkip r = 2 then (List.range 64).any fun j => decide (i / 64 * 64 + j < n) && nanAt c (i / 64 * 64 + j)
    else false
  let res := (List.range n).flatMap fun i => natLe size (reduceElem r (cs.map fun c => el c i) (cs.map (skipped i)))
  let kept := fun (i : Nat) => (cs.filter fun c => !skipped i c).length
  let counts := if kSkip r = 1 then (List.range n).flatMap fun i => natLe 2 (kept i)
    else if kSkip r = 2 then (List.range (ceilDiv n 64)).flatMap fun b => natLe 2 (kept (64 * b)) else []
  (res, counts)

/-! ### Chunks (R393, R397) -/

-- DEDUCED: notes/assumptions/61
/-- The landing range of a consumer, that of the whole result, belongs to teams of the launch (R397). -/
def mcOwned (s : State) (x : Coll) (core : Nat) : Bool :=
  let off := kMcDest x.record
  let n := resBytes x.record
  x.lseq != 0 && ((List.range 16).filter fun i => overlap (Config.segBase + i * Config.segBytes) Config.segBytes off n).all fun i =>
    match s.partOwner core 1 i with
    | some o => o.seq == x.lseq
    | none => false

/-- Land a chunk at each consumer; the flag is true when one was skipped. -/
def landChunk (s : State) (x : Coll) (i : Nat) (bs : List Byte) : State × Bool :=
  let r := x.record
  let off := kMcDest r + chunkBytes * i
  let acc := ((List.range 16).filter fun p => bitN (kMcMask r) p).foldl (fun (acc : State × Bool) p =>
    let core := 16 * kMcCluster r + p
    if mcOwned acc.1 x core then (landLocal acc.1 core off bs, acc.2) else (acc.1, true)) (s, false)
  (if kMcMask r = 0 then s else raiseCounter acc.1 x.asid (kMcCtr r), acc.2)

/-- The contributions of every rank to a chunk, when the others' are there. -/
def gather (x : Coll) (i : Nat) (r : ChunkResp) : Option (List (List Byte)) :=
  let rec_ := x.record
  let n := chunkElems rec_ i * elemSize rec_
  let mine := slice x.own ((resFirst rec_ + chunkFirst rec_ i) * elemSize rec_) n
  let got := (List.range (kN rec_)).map fun k =>
    if k = kRank rec_ then some mine else (r.contrib.find? fun q => q.1 == k && q.2.length == n).map (·.2)
  if got.all Option.isSome then some (got.filterMap id) else none

/-- The writes of a chunk's result. -/
def writeChunk (s : State) (x : Coll) (i : Nat) (res counts : List Byte) : State × Bool :=
  let r := x.record
  let put := fun (s : State) (a : Nat) (bs : List Byte) =>
    if ownTemplate s x.lseq x.asid a bs.length then s else agentWrite 600 s 5 x.order x.core x.asid.toNat a bs
  let s := if kDst r = 0 then s else put s (kDst r + chunkBytes * i) res
  let at_ := chunkFirst r i / (if kSkip r = 2 then 64 else 1)
  let s := if kSkip r = 0 then s else put s (kCount r + 2 * at_) counts
  landChunk s x i res

/-- COLLECTIVE_CHUNK_REDUCE (R393). -/
def execCollectiveChunkReduce (entry chunk : Nat) (m : ChunkResp) (s : State) : Res :=
  match s.colls.find? fun x => x.entry == entry with
  | none => .next s
  | some x =>
    let r := x.record
    if !x.met || x.stop.isSome || !podReady s then .next s
    else if m.aborted then .next (s.modColl x.order fun x => { x with stop := some (cABORTED, 0) })
    else if !x.closed || chunkCount r ≤ chunk || x.chunks.contains chunk then .next s
    else
      let done := fun (s : State) (skipped : Bool) =>
        s.modColl x.order fun x => { x with chunks := x.chunks ++ [chunk], skipped := x.skipped || skipped }
      match gather x chunk m with
      | none => .next s
      | some cs =>
        if !writesResult r then .next (done s false)
        else
          match reduceChunk r (chunkElems r chunk) cs with
          | (res, counts) =>
            match writeChunk s x chunk res counts with
            | (s, skipped) => .next (done s skipped)

/-! ### The end (R380, R393, R398) -/

/-- The bytes of the participant's result, and of its counts, that a chunk writes: address and length. -/
def chunkRanges (r : List Byte) (i : Nat) : List (Nat × Nat) :=
  let n := chunkElems r i
  [(kDst r + chunkBytes * i, n * elemSize r),
   (kCount r + 2 * (chunkFirst r i / (if kSkip r = 2 then 64 else 1)), if kSkip r = 0 then 0 else 2 * (if kSkip r = 2 then ceilDiv n 64 else n))]

/-- A chunk all of whose writes have come through (R398). -/
def chunkWhole (s : State) (x : Coll) (i : Nat) : Bool :=
  !s.fails.any fun f => f.agent == 5 && f.id == x.order && (chunkRanges x.record i).any fun q => overlap q.1 q.2 f.va f.len

/-- The byte array of DONEMAP. -/
def doneMap (x : Coll) : List Byte :=
  (List.range (ceilDiv (chunkCount x.record) 8)).map fun b =>
    BitVec.ofNat 8 ((List.range 8).foldl (fun a i => if x.chunks.contains (8 * b + i) then a + 2 ^ i else a) 0)

-- DEDUCED: notes/assumptions/70
/-- Is DONEMAP to be written first? BAD_COLL writes nothing. -/
def mapFirst (x : Coll) : Bool :=
  kDone x.record != 0 && !x.mapped && (match x.stop with | some (code, _) => code != cBADCOLL | none => false)

-- DEDUCED: notes/assumptions/71
/-- COLLECTIVE_COMPLETE (R393, R398): every chunk is finished, or the collective stops and its chunks have settled. -/
def execCollectiveComplete (entry : Nat) (s : State) : Res :=
  match s.colls.find? fun x => x.entry == entry with
  | none => .next s
  | some x =>
    let r := x.record
    if agentBusy s 5 x.order then .next s
    else
      match firstFail s 5 x.order, x.mapped with
      | some (_, _, k), false =>
        .next ((dropFails s 5 x.order).modColl x.order fun x =>
          { x with stop := some (x.stop.getD (fabFail k)), chunks := x.chunks.filter (chunkWhole s x) })
      | _, _ =>
        if x.stop.isNone && !(x.met && x.chunks.length == chunkCount r) then .next s
        else if mapFirst x then
          .next (agentWrite 600 (s.modColl x.order fun x => { x with mapped := true }) 5 x.order x.core x.asid.toNat (kDone r) (doneMap x))
        else
          let out := x.stop.getD (if x.skipped then cMCOWNER else 0, 0)
          let s := dropFails s 5 x.order
          let s := if kCen r then raiseCounter s x.asid (kLctr r) else s
          .next (doneFab (opEnded { s with colls := s.colls.filter fun y => y.order != x.order } x.lseq) (collKey x.entry)
            (fabStatus x.chunks.length out.2 out.1))

/-- PARTICIPANT_UNREACHABLE (R398). -/
def execParticipantUnreachable (entry : Nat) (s : State) : Res :=
  match s.colls.find? fun x => x.entry == entry with
  | none => .next s
  | some x => .next (if x.stop.isSome then s else s.modColl x.order fun x => { x with stop := some (xUNREACHABLE, 0) })

end Sys2Proof.Machine
end

