-- ==== Sys2Proof/Machine/Superstep.lean ====
section
/-! DEFINITION. Supersteps: SSTEP, uniform OP 16, and the completion of a step (R399, R400). -/

namespace Sys2Proof.Machine

/-- Key of a group's superstep arrivals. -/
def ssKey : Nat := 16
def Group.ssLanes (g : Group) : Word := NMap.get 0 ssKey g.arrive

/-- Groups of a launch. -/
def launchGroups (s : State) (seq : Nat) : List Group :=
  s.groups.filter fun g => match s.team? g.tid with | some t => t.seq == seq | none => false

def waitsStep (u : Sub) : Bool := match u.wait with | .sstep _ => true | _ => false

/-- Arrivals of the step are withdrawn, and the sub-groups that wait for it trap (R400). -/
def breakStep (s : State) (seq : Nat) : State :=
  let gs := launchGroups s seq
  let s1 := s.modLaunch seq fun L => { L with ssForm := none, ssReported := false }
  let s2 := gs.foldl (fun s g => s.modGroup g.gid fun g => { g with arrive := NMap.set 0 ssKey 0 g.arrive }) s1
  (gs.flatMap fun g => (g.subs.filter waitsStep).map fun u => (g.gid, lowestLane u.mask)).foldl (fun s q =>
    match s.ctxOf q.1 q.2 with
    | some c => trapWith false c s ((lanesOf c.active).map fun l => ⟨l, cSSTEP, c.u.pc, c.u.pc, none, 0⟩) id
    | none => s) s2

-- DEDUCED: notes/assumptions/73
/-- SSTEP of a form, with a tag and a count of devices (0 for the device form). -/
def sstepWith (form : Nat) (f : UniR) (s : State) (tag count : Ctx → Nat) : Res :=
  uniform { waitPt := true, feat := if form = 1 then some 4 else none } f.g s fun c s =>
    match s.launch? c.t.seq with
    | none => trapAll c s cSSTEP
    | some _ =>
      if !c.t.superstep then trapAll c s cSSTEP
      else
        deliver 0 c s fun c s =>
          match s.launch? c.t.seq with
          | none => trapAll c s cSSTEP
          | some L =>
            let same := match L.ssForm with
              | none => true
              | some k => k == form && (form == 0 || (L.ssTag == tag c && L.ssCount == count c))
            if !same then
              let s1 := breakStep s c.t.seq
              trapAll (c.refresh s1) s1 cSSTEP
            else
              let s1 := s.modLaunch c.t.seq fun L => { L with ssForm := some form, ssTag := tag c, ssCount := count c }
              let s2 := s1.modGroup c.gid fun g => { g with arrive := NMap.set 0 ssKey (g.ssLanes ||| c.active) g.arrive }
              .next (c.setSub s2 { c.u.dropChain with wait := .sstep L.ssGen })

def execSstep (f : UniR) (s : State) : Res := sstepWith 0 f s (fun _ => 0) (fun _ => 0)
def execSstepPod (f : UniR) (s : State) : Res :=
  sstepWith 1 f s (fun c => bitsN (c.sReg f.a).toNat 15 0) (fun c => bitsN (c.sReg f.a).toNat 25 16 + 1)

/-- Work of the launch's fibres that a step waits for. -/
def launchWork (s : State) (seq : Nat) : Bool :=
  s.copies.any (fun o => o.lseq == seq) || s.brine.any (fun j => j.lseq == seq) || s.transfers.any (fun x => x.lseq == seq) ||
  s.tsend.any (fun x => x.lseq == seq && x.fired && x.handle == 0) || s.colls.any (fun x => x.lseq == seq) ||
  s.teams.any fun t => t.seq == seq && (s.core t.core).tileQ.any fun o => o.tid == t.tid

/-- The completion times of a group's fibres have all returned and passed. -/
def timesPassed (s : State) (g : Group) : Bool :=
  !pendingStores s g.gid g.live true && (lanesOf g.live).all fun l => decide (g.passAt.getD l 0 ≤ s.meridian)

/-- The device step is complete (R400). -/
def deviceStep (s : State) (L : Launch) : Bool :=
  let gs := launchGroups s L.seq
  !gs.isEmpty && (gs.all fun g => (g.live &&& ~~~g.ssLanes) == 0 && timesPassed s g) && !launchWork s L.seq && decide (L.pass ≤ s.meridian)

/-- Every participant goes on, as after FENCE.SC at P scope. -/
def endStep (s : State) (L : Launch) : State :=
  let s1 := s.modLaunch L.seq fun L => { L with ssForm := none, ssReported := false, ssGen := L.ssGen + 1 }
  (launchGroups s1 L.seq).foldl (fun s g => s.modGroup g.gid fun g =>
    let g1 := (g.subs.filter waitsStep).foldl (fun (h : Group) u => h.setSub u.mask u.resume) (raiseFloor g (g.live &&& g.ssLanes))
    { g1 with arrive := NMap.set 0 ssKey 0 g1.arrive }) s1

/-- SUPERSTEP_COMPLETE (R400). -/
def execSuperstepComplete (entry others first : Nat) (s : State) : Res :=
  match s.launches.find? fun L => L.entry == entry && L.active with
  | none => .next s
  | some L =>
    match L.ssForm with
    | none => .next s
    | some form =>
      if !deviceStep s L then .next s
      else if form = 0 then .next (endStep s L)
      else if !podReady s then .next s
      else if !L.ssReported && first ≠ 0 && first ≠ L.ssCount then .next (breakStep s L.seq)
      else
        let s1 : State := if L.ssReported then s else
          { (s.modLaunch L.seq fun L => { L with ssReported := true }) with out := s.out ++ [.superstep L.ssTag L.ssCount] }
        .next (if L.ssCount ≤ others + 1 then endStep s1 L else s1)

end Sys2Proof.Machine
end

