-- ==== Sys2Proof/Machine/Traps.lean ====
section
/-! DEFINITION. Trap records, the trap queue and the host signal ring: TRAP, TRESUME, SAVE, RESTORE and HOSTSIG, uniform OP 3E,
with their device steps (R404 to R417, R433). -/

namespace Sys2Proof.Machine

/-! ### Host signals (R413, R414, R433) -/

def signalRingFull (s : State) : Bool := (s.regs.hsigHead - s.regs.hsigTail).toNat == 256

def signalBytes (value asid cluster pos kind : Nat) : List Byte :=
  natLe 4 value ++ natLe 2 asid ++ natLe 1 cluster ++ natLe 1 pos ++ natLe 1 kind ++ zeros 7

/-- HOST_SIGNAL_POST: the entry, then `HSIG_HEAD` and vector 0. The ring is not full. -/
def postSignal (s : State) (value asid cluster pos kind : Nat) : State :=
  let s1 := s.pokeN (s.regs.hsigBase.toNat + 16 * (s.regs.hsigHead.toNat % 256)) (signalBytes value asid cluster pos kind)
  { s1 with regs := { s1.regs with hsigHead := s1.regs.hsigHead + 1 }, out := s1.out ++ [.msix 0] }

/-- SERVICE_FAULT_POST (R414). -/
def execServiceFaultPost (s : State) : Res :=
  match s.sigWait with
  | [] => .next s
  | (value, asid, cluster, pos, kind) :: rest =>
    .next (if signalRingFull s then s else postSignal { s with sigWait := rest } value asid cluster pos kind)

def execHostsig (f : UniR) (s : State) : Res :=
  uniform {} f.g s fun c s =>
    if pendingStores s c.gid c.active true || signalRingFull s then stall c s
    else fin c (postSignal s (bitsN (c.sReg f.a).toNat 31 0) c.t.asid.toNat (clusterOf c.core) (posOf c.core) 0)

/-! ### TRAP and back-off (R404, R412) -/

def execTrapI (f : UniR) (s : State) : Res :=
  uniform {} f.g s fun c s => trapAllAt c s cSOFT c.u.pc c.u.pc (bitsN (c.sReg f.a).toNat 31 0)

/-- TRAP_BACKOFF_EXPIRY (R404). -/
def execTrapBackoffExpiry (gid lane : Nat) (s : State) : Res :=
  .next (s.modSub gid lane fun u =>
    match u.wait with
    | .backoff t => if t ≤ s.cycles then { u with wait := .ready } else u
    | _ => u)

/-! ### Records (R300, R405 to R407, R417) -/

def State.rec? (s : State) (seq : Nat) : Option TrapRec := s.recs.find? fun r => r.seq == seq
def State.modRec (s : State) (seq : Nat) (f : TrapRec → TrapRec) : State :=
  { s with recs := s.recs.map fun r => if r.seq == seq then f r else r }

/-- R300. -/
def deferBytes (d : Defer) : List Byte :=
  natLe 8 d.va ++ natLe 8 d.pc ++ natLe 4 (d.asid * 2 ^ 16 + d.tslot * 2 ^ 10 + d.gslot * 2 ^ 5 + d.lane) ++ natLe 1 d.cause ++
  natLe 1 d.size ++ natLe 1 d.kind ++ natLe 1 d.flags ++ natLe 8 d.time

def maybeDefer (d : Option Defer) : List Byte := match d with | some d => deferBytes d | none => zeros 32

/-- R407, with V = 1. -/
def recordBytes (r : TrapRec) : List Byte :=
  natLe 8 r.addr ++ natLe 8 r.pc ++ natLe 1 r.cause ++ natLe 1 r.kind ++ natLe 1 r.cluster ++ natLe 1 r.pos ++ natLe 2 r.asid ++
  natLe 1 (if r.drec.isSome then 1 else 0) ++ natLe 1 (popN 48 r.groups.toNat) ++ natLe 8 r.groups.toNat ++ natLe 4 r.seq ++
  natLe 4 r.lanes.toNat ++ natLe 8 r.time ++ maybeDefer r.drec ++ natLe 8 r.info ++ natLe 8 r.info2 ++ zeros 31 ++ natLe 1 1

/-- COALESCER_CLOSE (R405). -/
def execCoalescerClose (seq : Nat) (s : State) : Res :=
  .next (s.modRec seq fun r => if r.kind == 0 && !r.closed && decide (r.opened + 256 ≤ s.cycles) then { r with closed := true } else r)

-- DEDUCED: notes/assumptions/79
/-- The error summary keeps the first record and marks later ones (R260, R417); vector 1 fires. -/
def toSummary (s : State) (r : TrapRec) : State :=
  let s1 : State := { s with recs := s.recs.filter (fun q => q.seq != r.seq), out := s.out ++ [.msix 1] }
  { s1 with regs := if s1.regs.errCtl.getLsbD 0 then { s1.regs with errCtl := s1.regs.errCtl ||| 8 }
                    else { s1.regs with errCtl := 1, errRec := recordBytes r } }

/-- The first free slot after the one filled last (R406). -/
def ringSlot (s : State) : Option Nat :=
  (firstFrom (fun i => NMap.get 0 (i % Config.ringSlots) s.ringUse == 0) (s.ringLast + 1) Config.ringSlots).map (· % Config.ringSlots)

/-- Write bytes of one line at their home for the device, where the page is mapped writable. -/
def deviceWrite (s : State) (asid a : Nat) (bs : List Byte) : State × Option Nat :=
  match translate s asid a with
  | (s, .error k) => (s, some k)
  | (s, .ok e) =>
    if !e.w then (s, some (if e.cow then cCOWWRITE else cPROT))
    else if e.uc then (frameWrite s e a bs, none)
    else
      match dirtyLine s asid (a / lineBytes) with
      | (s, .error k) => (s, some k)
      | (s, .ok x) => (applyLine s x a bs, none)

/-- A COPY_EXHAUSTED record that waited on the core takes the coalescer record that has come free (R405). -/
def makeWaiting (s : State) (core : Nat) : State :=
  match (s.core core).exhaustWait with
  | [] => s
  | info :: rest =>
    if Config.coalescers ≤ s.coalUsed core then s
    else exhaustedRecord (s.modCore core fun x => { x with exhaustWait := rest }) core info

/-- The service team of a cluster is woken (R406). -/
def wakeService (s : State) (cluster : Nat) : State :=
  { s with groups := s.groups.map fun g =>
      if g.gslot == 0 && (match s.team? g.tid with | some t => t.kind == .service cluster | none => false) then wakeGroup g else g }

-- DESIGN CHOICE: notes/assumptions/75
/-- A record's ring write faults (R406). -/
def ringFault (s : State) (r : TrapRec) (cause : Nat) : State :=
  let s1 := if s.ringFaulted then s
    else { (s.signalFault cause s.regs.svcAsid.toNat r.cluster (Config.freeByte s.fresh).toNat) with ringFaulted := true, fresh := s.fresh + 1 }
  if r.kind < 2 then s1.modRec r.seq fun r => { r with stuck := true } else toSummary s1 r

def slotVa (s : State) (slot : Nat) : Nat := s.regs.tqBase.toNat + 128 * slot

/-- TRAP_QUEUE_WRITE (R406). -/
def execTrapQueueWrite (seq : Nat) (s : State) : Res :=
  match s.rec? seq with
  | none => .next s
  | some r =>
    if !r.closed || r.ring.isSome || r.stuck then .next s
    else
      match ringSlot s with
      | none => .next (if r.kind < 2 then s else toSummary s r)
      | some slot =>
        if agentBusy s 10 slot || podRange s s.regs.svcAsid.toNat (slotVa s slot) 128 then .next s
        else
          match targetReady s.regs.svcAsid.toNat (s, true) (slotVa s slot) with
          | (s, false) => .next s
          | (s, true) =>
            match deviceWrite s s.regs.svcAsid.toNat (slotVa s slot) (recordBytes r) with
            | (s, some k) => .next (ringFault s r k)
            | (s, none) =>
              let s1 : State := { s.modRec seq (fun r => { r with ring := some slot }) with ringUse := NMap.set 0 slot seq s.ringUse, ringLast := slot }
              .next (makeWaiting (wakeService s1 r.cluster) r.core)

/-! ### Tickets (R410, R411) -/

/-- The record that a ticket names. -/
def ticketRec (s : State) (t : Nat) : Option TrapRec :=
  if bitsN t 63 48 ≠ 0 then none
  else s.recs.find? fun r => r.ring == some (bitsN t 9 0) && r.seq % 2 ^ 32 == bitsN t 47 16

/-- Group and lowest lane of the sub-groups parked in a record, of physical slot `g` or of any (63). -/
def parkedSubs (s : State) (seq g : Nat) : List (Nat × Nat) :=
  s.groups.flatMap fun h => (h.subs.filter fun u => u.wait == .trapped seq && (g == 63 || u.slot == g)).map fun u => (h.gid, lowestLane u.mask)

/-- One parked sub-group is released by an action (R410); a raised curfew stops it where it resumes, its window open or closed: no team
with a parked sub-group comes under curfew (R121), so it trapped after the raise (R125). -/
def releaseSub (act target : Nat) (s : State) (q : Nat × Nat) : State :=
  match s.ctxOf q.1 q.2 with
  | none => s
  | some c =>
    let u : Sub :=
      if c.u.endPending || act = 3 then { c.u with wait := .stopped 0, endPending := true }
      else if act = 0 then { c.u with wait := .ready }
      else { c.u with wait := .ready, pc := if act = 1 then (c.u.pc + 4) % Config.maxVa else target }
    let s1 := (c.setSub s u).modGroup c.gid fun g => { g with delivered := g.delivered.filter fun x => !c.active.getLsbD x.1 }
    match c.t.curfew with
    | some _ => stopOne s1 q.1 q.2
    | none => s1

/-- The record leaves the ring once nothing is parked in it. -/
def freeRecord (s : State) (r : TrapRec) : State :=
  if s.isParkedIn r.seq then s
  else
    let slot := r.ring.getD 0
    let s1 : State := { s with recs := s.recs.filter (fun q => q.seq != r.seq), ringUse := NMap.set 0 slot 0 s.ringUse }
    agentStore s1 10 slot 513 s.regs.svcAsid.toNat (slotVa s slot + 0x7F) [0]

-- DEDUCED: notes/assumptions/74
def execTresume (f : UniR) (s : State) : Res :=
  uniform { priv := true } f.g s fun c s =>
    let t := (c.sReg f.a).toNat
    let b := (c.sReg f.b).toNat
    let g := bitsN t 15 10
    let act := bitsN b 1 0
    match ticketRec s t with
    | none => finS c s f.d 1
    | some r =>
      if act = 2 && bitsN b 63 55 ≠ 0 then finS c s f.d 3
      else if g ≠ 63 && (r.kind ≠ 0 || (parkedSubs s r.seq g).isEmpty) then finS c s f.d 2
      else finS c (freeRecord ((parkedSubs s r.seq g).foldl (releaseSub act (bitsN b 54 2 * 4)) s) r) f.d 0

/-! ### SAVE and RESTORE (R411) -/

/-- The parked sub-group that a ticket and a block operand name: a status, or the record and the sub-group's context. -/
def namedSub (s : State) (t b : Nat) : Except Nat (TrapRec × Ctx) :=
  match ticketRec s t with
  | none => .error 1
  | some r =>
    let g := bitsN t 15 10
    if g = 63 then .error 2
    else
      match (parkedSubs s r.seq g).findSome? fun q => (s.ctxOf q.1 q.2).bind fun x => if x.active.getLsbD (bitsN b 4 0) then some x else none with
      | none => .error 2
      | some x => .ok (r, x)

def blockLen (w : Nat) : Nat := 0x4C0 + 128 * w

def blockBytes (r : TrapRec) (x : Ctx) : List Byte :=
  natLe 8 x.u.pc ++ natLe 4 x.u.mask.toNat ++ natLe 1 x.g.win ++ natLe 1 r.cause ++ natLe 2 x.t.asid.toNat ++ natLe 1 x.t.tslot ++
  natLe 1 x.g.gslot ++ natLe 1 x.g.role ++ zeros 45 ++ (List.range 32).flatMap (fun l => natLe 4 (x.g.predOf l).toNat) ++
  (List.range 32).flatMap (fun l => maybeDefer ((x.g.delivered.find? fun q => q.1 == l).map (·.2))) ++
  (List.range x.g.win).flatMap fun v => (List.range 32).flatMap fun l => natLe 4 (x.g.lane v l).toNat

/-- The pages of the block are checked as ST would (R411). -/
def checkPages (c : Ctx) : List Nat → State → State × Option (Nat × Nat)
  | [], s => (s, none)
  | a :: rest, s =>
    match checkAccess s c (lowestLane c.active) .store a 1 with
    | (s, .error k) => (s, some (k, a))
    | (s, .ok _) => checkPages c rest s

def saveId (c : Ctx) : Nat := c.gid * 32 + lowestLane c.active

def execSaveBlk (f : UniR) (s : State) : Res :=
  uniform { priv := true } f.g s fun c s =>
    let base := (c.sReg f.b).toNat / 64 * 64
    if c.u.wait == .saving then
      if agentBusy s 9 (saveId c) then .next s
      else
        let s1 := dropFails s 9 (saveId c)
        match firstFail s 9 (saveId c) with
        | some (_, va, k) => trapAllMem c s1 k va
        | none => finS c s1 f.d 0
    else
      match namedSub s (c.sReg f.a).toNat (c.sReg f.b).toNat with
      | .error k => finS c s f.d (BitVec.ofNat 64 k)
      | .ok (r, x) =>
        match checkPages c (pagesOf base (blockLen x.g.win)) s with
        | (s, some (k, a)) => recordFault c s k a
        | (s, none) =>
          parkAs c (agentWrite 80 s 9 (saveId c) c.core c.t.asid.toNat base (blockBytes r x)) .saving

-- DEDUCED: notes/assumptions/116
/-- What RESTORE writes back into the sub-group. -/
def restoreInto (x : Ctx) (s : State) (bs : List Byte) : State :=
  let m := x.active &&& BitVec.ofNat 32 (fieldN bs 8 4)
  let word := fun (off : Nat) => (BitVec.ofNat 32 (fieldN bs off 4) : Word)
  s.modGroup x.gid fun g =>
    let g1 := (List.range g.win).foldl (fun (g : Group) v => g.setRow v m fun l => word (0x4C0 + 128 * v + 4 * l)) g
    { (g1.setPredWord m fun l => word (0x40 + 4 * l)) with
      subs := g1.subs.map fun u => if u.mask == x.u.mask then { u with pc := fieldN bs 0 8 / 4 * 4 } else u }

def execRestoreBlk (f : UniR) (s : State) : Res :=
  uniform { priv := true } f.g s fun c s =>
    let base := (c.sReg f.b).toNat / 64 * 64
    match namedSub s (c.sReg f.a).toNat (c.sReg f.b).toNat with
    | .error k => finS c s f.d (BitVec.ofNat 64 k)
    | .ok (_, x) =>
      match readRecord (blockLen x.g.win / 8) s c (lowestLane c.active) base with
      | (s, .error (k, a)) => recordFault c s k a
      | (s, .ok bs) =>
        if fieldN bs 0x0C 1 ≠ x.g.win then finS c s f.d 4
        else
          match privatise x.gid s (List.range x.g.win) (x.active &&& BitVec.ofNat 32 (fieldN bs 8 4)) with
          | none => finS c s f.d 3
          | some s => finS c (restoreInto x s bs) f.d 0

end Sys2Proof.Machine
end

