-- ==== Sys2Proof/Machine/SysRegs.lean ====
section
/-! DEFINITION. System registers: USREAD and USWRITE, uniform OPs 0A and 0B, the host program slots and trap service teams
(R92 to R94, R179, R180, R433, R440). -/

namespace Sys2Proof.Machine

/-! ### Host program slots (R92 to R94) -/

def State.slotOf (s : State) (n : Nat) : Hps := NMap.get Hps.reset n s.hps
def State.setSlot (s : State) (n : Nat) (h : Hps) : State := { s with hps := NMap.set Hps.reset n h s.hps }

/-- The team of the running command program. -/
def commandTeam (s : State) (n : Nat) : Option Team := s.teams.find? fun t => t.kind == .command n && !t.halted

/-- Is a sub-group of an aborted command program of the slot parked in a trap handler (R93, R94)? -/
def abortedParked (s : State) (n : Nat) : Bool :=
  s.teams.any fun t => t.kind == .command n && t.halted && s.groups.any fun g => g.tid == t.tid && g.subs.any parkedInTrap

/-- Start the command program of slot `n`. -/
def startCommand (s : State) (n : Nat) (h : Hps) : State :=
  placeService (s.setSlot n { h with st := 1, refused := false }) (256 + n) 0 (.command n) h.asid h.priv 1 (List.replicate 32 noIndex)
    { pc := bitsN h.entry.toNat 54 2 * 4, pred := 0, s := NMap.set 0 1 (BitVec.ofNat 64 n) (NMap.set 0 0 h.arg []), k := 0, img := none }

/-- Its sub-groups end at their next switch points, with pending records discarded. -/
def abortCommand (s : State) (n : Nat) (h : Hps) : State :=
  let s1 := s.setSlot n { h with st := 3 }
  match commandTeam s n with
  | none => s1
  | some t =>
    { s1.modTeam t.tid (fun t => { t with halted := true }) with
      groups := s1.groups.map fun g => if g.tid == t.tid then { g with defer := [], subs := g.subs.map fun u => { u with endPending := true } } else g }

-- DEDUCED: notes/assumptions/76
/-- A write to `HPS_CTL` of slot `n`. -/
def hpsControl (s : State) (n : Nat) (v : DWord) : State :=
  let h := s.slotOf n
  let start := v.getLsbD 0
  let abort := v.getLsbD 2
  let held := { h with asid := v.extractLsb' 32 16, priv := v.getLsbD 1 }
  if start then
    if h.st == 1 || abort || (h.st == 3 && abortedParked s n) then s.setSlot n { h with refused := true }
    else if s.regs.bootStatus != 4 then s
    else startCommand s n held
  else if abort then (if h.st == 1 then abortCommand s n held else s)
  else s.setSlot n held

/-- HOST_PROGRAM_START (R93): the host writes `HPS_CTL` with START. -/
def execHostProgramStart (slot : Nat) (v : DWord) (s : State) : Res := .next (if slot < 16 then hpsControl s slot (v ||| 1) else s)
/-- HOST_PROGRAM_ABORT (R94). -/
def execHostProgramAbort (slot : Nat) (v : DWord) (s : State) : Res := .next (if slot < 16 then hpsControl s slot ((v ||| 4) &&& ~~~1) else s)

/-! ### Trap service teams (R408, R433) -/

def serviceTeam (s : State) (n : Nat) : Option Team := s.teams.find? fun t => t.kind == .service n
def serviceRuns (s : State) (n : Nat) : Bool := match serviceTeam s n with | some t => !t.halted | none => false

/-- A stopped team is gone. -/
def dropService (s : State) (n : Nat) : State :=
  match serviceTeam s n with
  | some t => releaseAllot s t
  | none => s

def startService (s : State) (n : Nat) : State :=
  if serviceRuns s n then s
  else
    placeService (dropService s n) (256 + n) 1 (.service n) s.regs.svcAsid true (BitVec.allOnes 32)
      ((List.range 32).map fun l => ⟨l, 0, 0, l, 0, l, 0, 0⟩)
      { pc := s.regs.svcEntry.toNat, pred := 0, s := NMap.set 0 1 (BitVec.ofNat 64 n) (NMap.set 0 0 s.regs.tqBase []), k := 0, img := none }

/-- A write to `SVC_CTL`. -/
def serviceControl (s : State) (v : DWord) : State :=
  let s1 : State := { s with regs := { s.regs with svcAsid := v.extractLsb' 32 16 } }
  (List.range 16).foldl (fun s n => if v.getLsbD n then startService s n else s) s1

/-- SERVICE_TEAM_START (R433). -/
def execServiceTeamStart (v : DWord) (s : State) : Res := .next (serviceControl s v)

/-! ### Listed registers (R180) -/

/-- Access in user mode and in privileged mode: 0 none, 1 read, 2 read and write. Not listed: none. -/
def sysAccess (i : Nat) : Option (Nat × Nat) :=
  if i ≤ 3 || (0x10 ≤ i && i ≤ 0x17) || i = 0x20 || (0x100 ≤ i && i ≤ 0x110 && (i ≤ 0x104 && i ≠ 0x101 || i = 0x10B || i = 0x10C || i = 0x110)) then
    some (1, 1)
  else if i = 0x18 || i = 0x21 || i = 0x101 || i = 0x105 || i = 0x106 || i = 0x10A || i = 0x10D then some (1, 2)
  else if i = 0x107 || i = 0x108 then some (0, 2)
  else if i = 0x109 then some (0, 1)
  else if 0x200 ≤ i && i < 0x240 then some (0, if i % 4 = 3 then 1 else 2)
  else none

def computeOnly (i : Nat) : Bool := i == 0x15 || i == 0x16 || i == 0x20

/-- Registers whose scope is the device. -/
def deviceReg (i : Nat) : Bool :=
  i == 1 || i == 0x21 || (decide (0x100 ≤ i) && decide (i ≤ 0x10D)) || (decide (0x200 ≤ i) && decide (i < 0x240))

def hpsCtlValue (h : Hps) : Nat := h.asid.toNat * 2 ^ 32 + (if h.priv then 2 else 0)
def hpsStateValue (h : Hps) : Nat := h.st.toNat + (if h.refused then 4 else 0)

def deviceValue (s : State) (i : Nat) : Nat :=
  let r := s.regs
  if i = 1 then s.meridian
  else if i = 0x21 then r.ceThresh.toNat
  else if i = 0x100 then lqDepth s
  else if i = 0x101 then r.missCount.toNat
  else if i = 0x102 then (List.range 16).foldl (fun a n => if (s.slotOf n).st = 1 then a + 2 ^ n else a) 0
  else if i = 0x103 then s.ringUse.length
  else if i = 0x104 then tsendFree s
  else if i = 0x105 then r.migDropped.toNat
  else if i = 0x106 then r.curfewWin.toNat
  else if i = 0x107 then r.saveBase.toNat
  else if i = 0x108 then r.saveSize.toNat
  else if i = 0x109 then saveFree s
  else if i = 0x10A then r.leaseL1.toNat
  else if i = 0x10B then s.healthValue.toNat
  else if i = 0x10C then r.featOffer.toNat
  else if i = 0x10D then r.featAccept.toNat
  else
    let h := s.slotOf ((i - 0x200) / 4)
    match i % 4 with
    | 0 => h.entry.toNat
    | 1 => h.arg.toNat
    | 2 => hpsCtlValue h
    | _ => hpsStateValue h

-- DEDUCED: notes/assumptions/77
/-- Team slots of a core that are free; a service core keeps two. -/
def teamFree (s : State) (core : Nat) : Nat :=
  Config.teamSlots - ((s.teams.filter fun (t : Team) => t.core == core).map Team.tslot ++ (if isService core then [0, 1] else [])).eraseDups.length

def lsFree (s : State) (core : Nat) : Nat :=
  let n := fun (kind top : Nat) => ((List.range top).filter fun i => (s.partOwner core kind i).isNone).length
  (if isService core then 0 else n 2 (s.colBanks core) * 2 ^ 9 + n 1 16 * 2 ^ 4) + n 0 14

def sysValue (s : State) (c : Ctx) (i : Nat) : Nat :=
  if deviceReg i then deviceValue s i
  else if i = 0 then 2 ^ 16 + clusterOf c.core * 2 ^ 8 + posOf c.core
  else if i = 2 then s.cycles
  else if i = 3 then c.t.asid.toNat * 2 ^ 16 + (if c.t.priv then 16 else 0) + c.t.tslot
  else if i = 0x10 then teamFree s c.core
  else if i = 0x11 then s.groupFree c.core
  else if i = 0x12 then (s.core c.core).bins.length
  else if i = 0x13 then s.regFree c.core
  else if i = 0x14 then lsFree s c.core
  else if i = 0x15 then c.t.acc.toNat
  else if i = 0x16 then (List.range 8).foldl (fun a b => if (s.bank c.core b).ownedBy c.t then a + 2 ^ b else a) 0
  else if i = 0x17 then Config.permits - s.permitsUsed c.core
  else if i = 0x18 then (s.core c.core).binTimer.toNat
  else if i = 0x20 then (ctnValue s c.core).toNat
  else (s.sluice.filter fun e => e.cluster == clusterOf c.core).length

/-! ### Writes (R122, R127, R323, R440, R443) -/

def clampN (lo hi x : Nat) : Nat := max lo (min hi x)

def modRegs (s : State) (f : Regs → Regs) : State := { s with regs := f s.regs }

/-- A write of `CURFEW_WIN` (R122). -/
def writeCurfewWin (s : State) (v : DWord) : State := modRegs s fun r => { r with curfewWin := BitVec.ofNat 21 (clampN 1000 2000000 (bitsN v.toNat 20 0)) }
/-- A write of `LEASE_L1` (R323). -/
def writeLeaseL1 (s : State) (v : DWord) : State := modRegs s fun r => { r with leaseL1 := BitVec.ofNat 13 (clampN 64 4096 (bitsN v.toNat 12 0)) }
/-- A write of `FEAT_ACCEPT` (R440): frozen by the first launch. -/
def writeFeatAccept (s : State) (v : DWord) : State :=
  if s.regs.launched then s else modRegs s fun r => { r with featAccept := v &&& r.featOffer }

def deviceStore (s : State) (i : Nat) (v : DWord) : State :=
  if i = 0x21 then markWorn (modRegs s fun r => { r with ceThresh := v.extractLsb' 0 16 })
  else if i = 0x101 then modRegs s fun r => { r with missCount := v.extractLsb' 0 32 }
  else if i = 0x105 then modRegs s fun r => { r with migDropped := v.extractLsb' 0 32 }
  else if i = 0x106 then writeCurfewWin s v
  else if i = 0x107 then modRegs s fun r => { r with saveBase := v &&& 0x000FFFFFFFFF0000 }
  else if i = 0x108 then modRegs s fun r => { r with saveSize := v &&& 0x000FFFFFFFFF0000 }
  else if i = 0x10A then writeLeaseL1 s v
  else if i = 0x10D then writeFeatAccept s v
  else if 0x200 ≤ i && i < 0x240 then
    let n := (i - 0x200) / 4
    match i % 4 with
    | 0 => s.setSlot n { s.slotOf n with entry := v &&& 0x007FFFFFFFFFFFFC }
    | 1 => s.setSlot n { s.slotOf n with arg := v }
    | 2 => hpsControl s n v
    | _ => s
  else s

def sysStore (s : State) (c : Ctx) (i : Nat) (v : DWord) : State :=
  if i = 0x18 then s.modCore c.core fun x => { x with binTimer := v.extractLsb' 0 16 } else deviceStore s i v

/-! ### USREAD and USWRITE (R179) -/

/-- The access checks, once the uniform guard holds: `write` is 1 for USWRITE. -/
def sysOp (write : Bool) (f : UniI) (s : State) (k : Ctx → State → Nat → Res) : Res :=
  uniform {} f.g s fun c s =>
    let i := f.i.toNat % 4096
    match (if f.i.toNat < 4096 && !(computeOnly i && isService c.core) then sysAccess i else none) with
    | none => trapAll c s cILLEGAL
    | some (user, priv) =>
      let need := if write then 2 else 1
      if priv < need then trapAll c s cILLEGAL
      else if !c.t.priv && user < need then trapAll c s cPRIV
      else k c s i

def execUsread (f : UniI) (s : State) : Res := sysOp false f s fun c s i => finS c s f.d (BitVec.ofNat 64 (sysValue s c i))
def execUswrite (f : UniI) (s : State) : Res := sysOp true f s fun c s i => let s1 := sysStore s c i (c.sReg f.d); fin (c.refresh s1) s1

end Sys2Proof.Machine
end

