-- ==== Sys2Proof/Machine/Zone.lean ====
section
/-! DEFINITION. The compressed zone: candidates, ageing, the choice of a victim, and its compression (R306, R307). -/

namespace Sys2Proof.Machine

/-! ### Candidates (R306) -/

/-- A level-3 leaf that may be compressed: ASID, virtual page, and where the leaf stands. -/
structure ZoneLeaf where
  asid : Nat
  vpage : Nat
  pte : Nat
  deriving DecidableEq, Repr

/-- Indices of the 16-byte entries in `[base, base + n)` whose V bit is set. Memory lists every byte that is not zero. -/
def validEntries (s : State) (base n : Nat) : List Nat :=
  s.mem.filterMap fun q =>
    if base ≤ q.1 && q.1 < base + n && (q.1 - base) % 16 == 0 && q.2.getLsbD 0 then some ((q.1 - base) / 16) else none

/-- The candidates below a table, in order of virtual address; `page` is the virtual page of its first entry, at its level. -/
def zoneLeaves (s : State) (asid : Nat) : Nat → Nat → Nat → List ZoneLeaf
  | 0, table, page =>
    (validEntries s table 8192).filterMap fun i =>
      let w0 := s.peekLe (table + 16 * i) 8
      if bitN w0 1 && bitN w0 12 && !bitN w0 7 && leafOk (bitsN s.regs.deviceId.toNat 9 0) 3 w0 (s.peekLe (table + 16 * i + 8) 8) then
        some ⟨asid, page + i, table + 16 * i⟩ else none
  | n + 1, table, page =>
    (validEntries s table 8192).foldl (fun acc i =>
      let w0 := s.peekLe (table + 16 * i) 8
      if w0 % 2 ^ 13 == 1 && bitsN w0 63 52 == 0 then acc ++ zoneLeaves s asid n (bitsN w0 51 13 * 2 ^ 13) ((page + i) * 512) else acc) []

/-- Every candidate, in order of ASID and then virtual address. -/
def zoneCandidates (s : State) : List ZoneLeaf :=
  if !bitN s.regs.asidTable.toNat 0 then []
  else
    let base := bitsN s.regs.asidTable.toNat 51 20 * 2 ^ 20
    (validEntries s base (2 ^ 20)).foldl (fun acc a =>
      let w0 := s.peekLe (base + 16 * a) 8
      if bitN w0 1 then acc ++ zoneLeaves s a 3 (bitsN w0 51 13 * 2 ^ 13) 0 else acc) []

def ZoneLeaf.key (z : ZoneLeaf) : Nat := z.asid * 2 ^ 36 + z.vpage

/-- The next `n` visits of the cyclic order, from the cursor on. -/
def zoneWindow (s : State) (n : Nat) (cs : List ZoneLeaf) : List ZoneLeaf :=
  let order := cs.filter (fun z => decide (s.zoneCursor ≤ z.key)) ++ cs.filter fun z => decide (z.key < s.zoneCursor)
  (List.range n).filterMap fun i => order[i % order.length]?

def leafAge (s : State) (z : ZoneLeaf) : Nat := bitsN (s.peekLe (z.pte + 8) 8) 47 40

/-- A visit halves AGE. -/
def visitLeaf (s : State) (z : ZoneLeaf) : State :=
  writePte s z.pte (s.peekLe z.pte 8) (withBits (s.peekLe (z.pte + 8) 8) 47 40 (leafAge s z / 2))

/-- The candidate with the lowest AGE, the first visited on a tie. -/
def lowestAge (s : State) : List ZoneLeaf → Option ZoneLeaf
  | [] => none
  | z :: zs =>
    match lowestAge s zs with
    | none => some z
    | some y => if leafAge s y < leafAge s z then some y else some z

/-! ### Compression (R307) -/

/-- Is the next slot of the notice ring free? -/
def noticeFree (s : State) : Bool := !bitN (s.peekLe (s.regs.noticeBase.toNat + 16 * s.noticeNext + 8) 8) 63

-- DEDUCED: notes/assumptions/83
/-- The lowest unit of the zone from which `n` units are free. -/
def zoneRoom (s : State) (n : Nat) : Option Nat :=
  let total := s.regs.zoneSize.toNat / 4096
  let fits := fun o => decide (o + n ≤ total) && !s.zone.any fun z => overlap z.1 z.2.1 o n
  (0 :: s.zone.map fun z => z.1 + z.2.1).foldl (fun best o =>
    if fits o then (match best with | some b => some (min b o) | none => some o) else best) none

/-- Step 3: write back the page's lines, and take its lines and its TLB entries away; lookaside entries stay. -/
def clearPage (s : State) (z : ZoneLeaf) : State :=
  let line := fun (asid l : Nat) => asid == z.asid && l / 4096 == z.vpage
  let s1 := (s.l2.filter fun x => line x.asid x.line).foldl flushLine s
  let s2 : State :=
    { s1 with l2 := s1.l2.filter (fun x => !line x.asid x.line)
              tlb := s1.tlb.filter (fun e => !(e.asid == z.asid && e.level == 3 && e.vpage == z.vpage))
              frames := s1.frames.filter fun q => !(q.asid == z.asid && q.n == 1 && q.vpage == z.vpage) }
  (s2.cores.map (·.1)).foldl (fun s k => s.modCore k fun y => { y with l1 := y.l1.filter fun q => !line q.asid q.line }) s2

/-- Steps 4 to 6: the image goes into zone space, the leaf is marked, and a FREED notice names the frame. -/
def compress (s : State) (z : ZoneLeaf) : State :=
  let s := clearPage s z
  let n := max 1 (Config.zoneImageUnits s.fresh)
  let s := { s with fresh := s.fresh + 1 }
  match zoneRoom s n with
  | none => { s with regs := { s.regs with zoneReq := 0, zoneFull := true } }
  | some off =>
    let w0 := s.peekLe z.pte 8
    let w1 := s.peekLe (z.pte + 8) 8
    let frame := bitsN w0 51 19 * 2 ^ 19
    let bytes := (s.mem.filter fun q => decide (frame ≤ q.1) && decide (q.1 < frame + 2 ^ 19)).map fun q => (q.1 - frame, q.2)
    let bad := (s.badMem.filter fun l => l / 4096 == frame / 2 ^ 19).map fun l => l % 4096
    let s := bad.foldl (fun s l => memError s (controllerOf frame) 31 z.asid (z.vpage * 2 ^ 19 + l * 128) (frame + l * 128) 0) s
    let s := { s with zone := s.zone ++ [(off, n, bytes, bad)] }
    -- the image's own layout is not architectural: its bytes are free values
    let s := s.pokeN (s.regs.zoneBase.toNat + 4096 * off) ((List.range (4096 * n)).map fun i => Config.freeByte (s.fresh + i))
    let s := { s with fresh := s.fresh + 4096 * n }
    let s := writePte s z.pte (withBits w0 7 7 1) (withBits (withBits w1 25 0 off) 47 40 0)
    let slot := s.regs.noticeBase.toNat + 16 * s.noticeNext
    let s := s.pokeN slot (natLe 8 (frame + 2))
    let s := s.pokeN (slot + 8) (natLe 8 (2 ^ 63 + z.asid))
    { s with noticeNext := (s.noticeNext + 1) % Config.noticeSlots, regs := { s.regs with zoneReq := s.regs.zoneReq - 1 } }

/-- May the engine compress a page now? -/
def zoneReady (s : State) : Bool := s.regs.zoneReq != 0 && noticeFree s && !(zoneCandidates s).isEmpty

/-- ZONE_COMPRESSION (R306, R307): one window of visits, and its victim. -/
def execZoneCompression (s : State) : Res :=
  if !zoneReady s then .next s
  else
    let window := zoneWindow s 64 (zoneCandidates s)
    let s1 := window.foldl visitLeaf s
    let s2 := { s1 with zoneCursor := (window.getLast?.elim 0 ZoneLeaf.key) + 1 }
    .next (match lowestAge s2 window with
      | some z => compress s2 z
      | none => s2)

end Sys2Proof.Machine
end

