-- ==== Sys2Proof/Machine/Device.lean ====
section
/-! DEFINITION. The host's side of the device: the control window and its registers, boot and resets, firmware updates,
attestation, power and heat, and the pod's time (R306, R373, R421, R429 to R444). -/

namespace Sys2Proof.Machine

/-! ### Device registers (R432) -/

/-- A write of `PWR_CAP` (R443). -/
def execPwrCapWrite (v : DWord) (s : State) : Res :=
  .next (modRegs s fun r => { r with pwrCap := BitVec.ofNat 16 (clampN 600 1500 (bitsN v.toNat 15 0)) })
/-- A write of `ZONE_REQ` sets the count and clears FULL. -/
def execZoneReqWrite (v : DWord) (s : State) : Res := .next (modRegs s fun r => { r with zoneReq := v.extractLsb' 0 32, zoneFull := false })
/-- A write of `TQ_BASE`: records whose ring write faulted are written again (R406). -/
def execTqBaseWrite (v : DWord) (s : State) : Res :=
  .next { (modRegs s fun r => { r with tqBase := v &&& 0x007FFFFFFFFE0000 }) with
    recs := s.recs.map (fun r => { r with stuck := false }), ringFaulted := false }
/-- A write of `HSIG_TAIL` that would make the ring hold fewer than none or more than 256 entries is ignored (R433). -/
def execHsigTailWrite (v : DWord) (s : State) : Res :=
  let t := v.extractLsb' 0 32
  .next (if 256 < (s.regs.hsigHead - t).toNat then s else modRegs s fun r => { r with hsigTail := t })
/-- Writing 0 to `ERR_SUM_CTL` clears the summary. -/
def execErrSumCtlWrite (v : DWord) (s : State) : Res := .next (if v = 0 then modRegs s fun r => { r with errCtl := 0, errRec := [] } else s)
/-- A write of `MER_CTL`: the master is locked at once (R444). -/
def execMerCtlWrite (v : DWord) (s : State) : Res :=
  .next (modRegs s fun r => { r with merMaster := v.getLsbD 0, merLocked := r.merLocked || v.getLsbD 0, merSlow := r.merSlow && !v.getLsbD 0 })
/-- A write of `ATT_CTL` (R437): 1 starts a report, over the nonce as it stands, unless one is under way. -/
def execAttCtlStart (v : DWord) (s : State) : Res :=
  .next (if v.extractLsb' 0 2 = 1 && s.regs.attCtl != 1 then
      modRegs s fun r => { r with attCtl := 1, attReport := [], attTaken := r.attNonce }
    else s)
/-- A write of `FW_UPD` (R435). -/
def execFwUpdStart (v : DWord) (s : State) : Res :=
  .next (if s.regs.fwUpd = 1 then s
    else modRegs s fun r => { r with fwUpdLen := v.extractLsb' 32 32, fwUpd := if v.extractLsb' 0 2 = 1 then 1 else r.fwUpd })
def execFeatAcceptWrite (v : DWord) (s : State) : Res := .next (writeFeatAccept s v)
def execCurfewWinWrite (v : DWord) (s : State) : Res := .next (writeCurfewWin s v)
def execLeaseL1Write (v : DWord) (s : State) : Res := .next (writeLeaseL1 s v)

/-! ### Reports and updates (R435 to R439) -/

/-- Bytes 0x000 to 0x0BF of a report (R439). -/
def reportBody (s : State) : List Byte :=
  let r := s.regs
  natLe 2 1 ++ zeros 2 ++ natLe 4 r.fwSvn.toNat ++ natLe 8 s.meridian ++ r.attTaken.flatMap (fun x => natLe 8 x.toNat) ++
  (List.range 64).map (fun i => Config.imageDigest r.running i) ++ natLe 8 r.featOffer.toNat ++ natLe 8 r.featAccept.toNat ++
  natLe 8 s.healthValue.toNat ++ natLe 8 r.deviceId.toNat ++ (List.range 16).map Config.serialByte ++ zeros 32
/-- R439. -/
def reportBytes (s : State) : List Byte :=
  reportBody s ++ (List.range 114).map (Config.signatureByte (reportBody s)) ++ zeros 14

/-- ATTESTATION_COMPLETE (R437, R438). -/
def execAttestationComplete (s : State) : Res :=
  .next (if s.regs.attCtl != 1 then s
    else if Config.identityOk s.regs.attCount && s.regs.bootStatus == 4 then
      modRegs s fun r => { r with attCtl := 2, attReport := reportBytes s, attCount := r.attCount + 1 }
    else modRegs s fun r => { r with attCtl := 3, attReport := [], attCount := r.attCount + 1 })

/-- The image staged for an update. -/
def staged (s : State) : List Byte := s.peekN s.regs.fwUpdSrc.toNat s.regs.fwUpdLen.toNat
/-- It passes the checks of R434. -/
def stagedOk (s : State) : Bool := Config.imageSigned (staged s) && decide (s.regs.fwMin.toNat ≤ (Config.imageSvn (staged s)).toNat)
/-- FW_UPDATE_COMPLETE (R435). -/
def execFwUpdateComplete (s : State) : Res :=
  .next (if s.regs.fwUpd != 1 then s
    else if stagedOk s && Config.flashWritable s.regs.fwCount then
      modRegs s fun r =>
        { r with fwUpd := 2, flash := staged s, flashGood := true, flashSvn := Config.imageSvn (staged s), fwCount := r.fwCount + 1 }
    else modRegs s fun r => { r with fwUpd := 3, fwCount := r.fwCount + 1 })

/-! ### Resets, power and heat (R429, R432, R434, R441, R443) -/

-- DESIGN CHOICE: notes/assumptions/29
/-- Dirty L2 lines are lost: what memory holds of each afterwards is free. -/
def loseLines (s : State) : State :=
  s.l2.foldl (fun (s : State) x =>
    if x.wtag && x.owner.isNone then
      { (s.pokeN x.pa ((List.range lineBytes).map fun i => Config.freeByte (s.fresh + i))) with fresh := s.fresh + lineBytes }
    else s) s

/-- What any reset leaves: the crystallizer, the mark of an erased die, fuses, flash, health and the facts of the environment. -/
def afterReset (s : State) : State :=
  { State.reset with
    agenda := s.agenda, fresh := s.fresh, podMem := s.podMem, cryst := s.cryst, crystMem := s.crystMem, badCryst := s.badCryst
    erasedDie := s.erasedDie, portsDown := s.portsDown, out := s.out, fuses := s.fuses
    retiredLines := s.retiredLines ++ s.ueLines.filter fun l => !s.retiredLines.contains l
    regs := { Regs.reset with
      health := s.regs.health, fwMin := s.regs.fwMin, flash := s.regs.flash, flashGood := s.regs.flashGood
      flashSvn := s.regs.flashSvn, attCount := s.regs.attCount, fwCount := s.regs.fwCount } }

-- DEDUCED: notes/assumptions/82
/-- A warm reset: HBM, meridian and the firmware's version stay too. -/
def warmReset (s : State) : State :=
  let s := loseLines s
  let x := afterReset s
  { x with
    meridian := s.meridian, mem := s.mem, badMem := s.badMem, zone := s.zone
    regs := { x.regs with fwSvn := s.regs.fwSvn, running := s.regs.running, merSlow := s.regs.merSlow, merLocked := s.regs.merLocked, merMaster := s.regs.merMaster } }

/-- WARM_RESET (R432). -/
def execWarmReset (s : State) : Res := .next (warmReset s)
/-- THERMAL_TRIP (R443). -/
def execThermalTrip (s : State) : Res := .next (warmReset s)
/-- POWER_LOSS (R429): only what is not volatile stays; the boot ROM starts again after power-up, at meridian 0. -/
def execPowerLoss (s : State) : Res :=
  .next { afterReset s with cryst := s.cryst.foldl (fun m q => NMap.set CrystRegion.new q.1 (fromHeader q.2) m) [] }
-- DEDUCED: notes/assumptions/80
/-- CLOCK_THROTTLE (R443): the next `cycles` run at a lowered clock, and each is counted as it runs (`tick`). -/
def execClockThrottle (cycles : Nat) (s : State) : Res :=
  .next { s with slow := s.slow + cycles }

/-- The pseudo-channels retired so far (R441). -/
def retiredChannels (s : State) : List Nat := (s.retiredLines.map fun l => Config.channelOf (l * lineBytes / 2 ^ 19)).eraseDups
/-- The memory map that firmware makes (R431): at most 63 ascending entries of whole frames below firmware's own part, which hold every frame
but those of retired pseudo-channels, and none of these. -/
def mapOk (s : State) (m : List (Nat × Nat)) : Bool :=
  decide (m.length ≤ 63) &&
    (m.all fun e => decide (0 < e.2) && e.1 % 2 ^ 19 == 0 && e.2 % 2 ^ 19 == 0 && decide (e.1 + e.2 ≤ Config.firmwareBase)) &&
    ((m.zip (m.drop 1)).all fun q => decide (q.1.1 + q.1.2 ≤ q.2.1)) &&
    let gone := retiredChannels s
    (List.range (Config.firmwareBase / 2 ^ 19)).all fun f =>
      (m.any fun e => decide (e.1 ≤ f * 2 ^ 19) && decide (f * 2 ^ 19 < e.1 + e.2)) != gone.contains (Config.channelOf f)

/-- Self-test has passed (R427, R431, R440, R441): the carve map, the memory map, the features and `HEALTH`. -/
def bootReady (s : State) (b : BootFacts) : State :=
  let s1 := { s with
    softRepair := (b.faulty.filter fun q => decide (q.1 < Config.computeCores)).foldl
      (fun (m : NMap Word) q => NMap.set 0 q.1 (NMap.get 0 q.1 m ||| q.2) m) []
    memMap := if s.retiredLines.isEmpty then [(0, Config.firmwareBase)] else b.memMap }
  let few := ((b.faulty.map Prod.fst) ++ (s.fuses.map Prod.fst)).any fun c => decide (c < Config.computeCores) && decide (s1.colBanks c < 24)
  let low := if few then (4 : DWord) else 0
  let hbm := if s.retiredLines.isEmpty then (0 : DWord) else 8 ||| BitVec.ofNat 64 (min 255 (retiredChannels s).length * 2 ^ 16)
  (modRegs s1 fun r =>
    { r with bootStatus := 4, featOffer := Config.featAll, health := (r.health &&& 0x0C) ||| low ||| hbm }).noteHealth s.healthValue

-- DESIGN CHOICE: notes/assumptions/81
/-- POWER_UP (R434): the boot ROM or firmware ends its stage. A self-test whose memory map firmware could not make does not happen. -/
def execPowerUp (b : BootFacts) (s : State) : Res :=
  let r := s.regs
  .next (if r.bootStatus == 1 then modRegs s fun r => { r with bootStatus := 2 }
    else if r.bootStatus == 2 then
      if !r.flashGood then modRegs s fun r => { r with bootStatus := 0x81 }
      else if r.flashSvn.toNat < r.fwMin.toNat then modRegs s fun r => { r with bootStatus := 0x82 }
      else modRegs s fun r => { r with bootStatus := 3, fwSvn := r.flashSvn, fwMin := r.flashSvn, running := r.flash }
    else if r.bootStatus == 3 then
      if !b.testOk then modRegs s fun r => { r with bootStatus := 0x83 }
      else if s.retiredLines.isEmpty || mapOk s b.memMap then bootReady s b
      else s
    else s)

/-! ### The pod's time (R444) -/

-- DEDUCED: notes/assumptions/85
/-- MERIDIAN_LOCK: meridian comes to the master's and never runs backwards. A device ahead of it by more than the bound counts at a
reduced rate until it is within. -/
def execMeridianLock (ns : Nat) (s : State) : Res :=
  .next (if s.regs.merMaster || !s.regs.idWritten || !portUp s then s
    else if ns + Config.skewPod < s.meridian then modRegs s fun r => { r with merSlow := true }
    else { (modRegs s fun r => { r with merLocked := true, merSlow := false }) with meridian := max s.meridian ns })
/-- MERIDIAN_LOCK_LOSS. -/
def execMeridianLockLoss (s : State) : Res := .next (if s.regs.merMaster then s else modRegs s fun r => { r with merLocked := false })

/-! ### The control window (R430 to R432) -/

/-- A device register's value. -/
def deviceRegister (s : State) (off : Nat) : Nat :=
  let r := s.regs
  if off = 0x8000 then r.bootStatus.toNat
  else if 0x81 ≤ r.bootStatus.toNat then 0
  else if off = 0x8008 then r.deviceId.toNat
  else if off = 0x8018 then r.aperBase.toNat
  else if off = 0x8020 then r.asidTable.toNat
  else if off = 0x8028 then r.noticeBase.toNat
  else if off = 0x8030 then r.zoneBase.toNat
  else if off = 0x8038 then r.zoneSize.toNat
  else if off = 0x8040 then r.poolBase.toNat
  else if off = 0x8048 then r.zoneReq.toNat
  else if off = 0x8050 then (if r.zoneFull then 1 else 0)
  else if off = 0x8058 then r.tqBase.toNat
  else if off = 0x8060 then r.svcEntry.toNat
  else if off = 0x8068 then r.svcAsid.toNat * 2 ^ 32 + (List.range 16).foldl (fun a n => if serviceRuns s n then a + 2 ^ n else a) 0
  else if off = 0x8070 then r.hsigBase.toNat
  else if off = 0x8078 then r.hsigHead.toNat
  else if off = 0x8080 then r.hsigTail.toNat
  else if off = 0x8088 then r.errCtl.toNat
  else if off = 0x8090 then r.ceHbm.toNat
  else if off = 0x8098 then r.ceL2.toNat
  else if off = 0x80A0 then r.ceCryst.toNat
  else if off = 0x80A8 then r.pwrCap.toNat * 2 ^ 16 + (Config.powerWatts s.meridian).toNat
  else if off = 0x80B0 then r.pwrCap.toNat
  else if off = 0x80B8 then r.throttled.toNat * 2 ^ 40 + (Config.hottestDie s.meridian).toNat
  else if off = 0x80C0 then r.attCtl.toNat
  else if 0x80C8 ≤ off && off < 0x80E8 then (r.attNonce.getD ((off - 0x80C8) / 8) 0).toNat
  else if off = 0x80E8 then (if r.merLocked then 1 else 0)
  else if off = 0x80F0 then r.fwSvn.toNat
  else if 0x8100 ≤ off && off < 0x8180 then fieldN (r.errRec ++ zeros 128) (off - 0x8100) 8
  else if off = 0x8180 then r.poolNext.toNat
  else if off = 0x8188 then (if r.merMaster then 1 else 0)
  else if off = 0x8190 then r.fwUpdLen.toNat * 2 ^ 32 + r.fwUpd.toNat
  else if off = 0x8198 then r.fwUpdSrc.toNat
  else if off = 0x81A0 then r.ethGw0.toNat
  else if off = 0x81A8 then r.ethGw1.toNat
  else 0

/-- An aligned 8-byte read of a register area. -/
def windowValue (s : State) (off : Nat) : Nat :=
  if off < 0x8000 then (if deviceReg (off / 8) then deviceValue s (off / 8) else 0)
  else if off < 0x9000 then deviceRegister s off
  else if 0x10000 ≤ off && off < 0x18000 then
    let c := s.counter ((off - 0x10000) / 8)
    c.tag.toNat + if c.v then 2 ^ 16 else 0
  else if 0x18000 ≤ off && off < 0x18200 then (NMap.get 0 ((off - 0x18000) / 8) s.grants).toNat
  else if 0x18200 ≤ off && off < 0x18400 then (s.region ((off - 0x18200) / 8)).writes
  else if 0x20000 ≤ off && off < 0x20140 then fieldN (s.regs.attReport ++ zeros 320) (off - 0x20000) 8
  else if 0x21000 ≤ off && off < 0x21400 then
    let e := s.memMap.getD ((off - 0x21000) / 16) (0, 0)
    if off % 16 = 0 then e.1 else e.2
  else if 0x24000 ≤ off && off < 0x2C000 then (NMap.get 0 ((off - 0x24000) / 8) s.routes).toNat
  else if 0x30000 ≤ off && off < 0x34000 then
    let a := off - 0x30000
    leNat ((List.range 8).map fun i => if a + i < Config.certLen then Config.certByte (a + i) else 0)
  else 0

/-- Bits that each 8-byte register of a pod route table entry keeps (R373). -/
def routeMask (i : Nat) : DWord :=
  match i % 4 with
  | 0 => 0x0000FFFF0301FFFF
  | 1 => 0
  | 2 => 0xFFFFFFFFFFFFFFFF
  | _ => 0x0000FFFFFFFFFFFF

/-- A write of a route register: the queue pairs of the pods its entry described and describes are set up afresh, and every pair
where the entry is the own pod's (R373). -/
def writeRoute (s : State) (i : Nat) (v : DWord) : State :=
  let s1 : State := { s with routes := NMap.set 0 i (v &&& routeMask i) s.routes }
  let pods := [routePod s (i / 4), routePod s1 (i / 4)]
  { s1 with qpairs := if pods.contains (ownPod s) then [] else s1.qpairs.filter fun p => !pods.contains p }

/-- A write of a device register that only keeps bits of its value. -/
def plainWrite (s : State) (off : Nat) (v : DWord) : State :=
  let put := modRegs s
  if off = 0x8008 then (if s.regs.launched then s else put fun r => { r with deviceId := v &&& 0xFFFF03FF, idWritten := true })
  else if off = 0x8018 then put fun r => { r with aperBase := v &&& 0x000FFFFFFFF80000 }
  else if off = 0x8020 then put fun r => { r with asidTable := v &&& 0x000FFFFFFFF00001 }
  else if off = 0x8028 then put fun r => { r with noticeBase := v &&& 0x000FFFFFFFFF0000 }
  else if off = 0x8030 then put fun r => { r with zoneBase := v &&& 0x000FFFFFFFF80000 }
  else if off = 0x8038 then put fun r => { r with zoneSize := v &&& 0x000FFFFFFFF80000 }
  else if off = 0x8040 then put fun r => { r with poolBase := v &&& 0x000FFFFFFFFF8000 }
  else if off = 0x8060 then put fun r => { r with svcEntry := v &&& 0x007FFFFFFFFFFFFC }
  else if off = 0x8070 then put fun r => { r with hsigBase := v &&& 0x000FFFFFFFFFF000 }
  else if off = 0x8090 then put fun r => { r with ceHbm := if v = 0 then 0 else r.ceHbm }
  else if off = 0x8098 then put fun r => { r with ceL2 := if v = 0 then 0 else r.ceL2 }
  else if off = 0x80A0 then put fun r => { r with ceCryst := if v = 0 then 0 else r.ceCryst }
  else if 0x80C8 ≤ off && off < 0x80E8 then put fun r => { r with attNonce := r.attNonce.set ((off - 0x80C8) / 8) v }
  else if off = 0x8198 then put fun r => { r with fwUpdSrc := v &&& 0x000FFFFFFFFFF000 }
  else if off = 0x81A0 then put fun r => { r with ethGw0 := v &&& 0x0000FFFFFFFFFFFF }
  else if off = 0x81A8 then put fun r => { r with ethGw1 := v &&& 0x0000FFFFFFFFFFFF }
  else s

/-- REGISTER_WRITE (R430 to R432): an aligned 8-byte write of a register area; any other is dropped. -/
def execRegisterWrite (off : Nat) (v : DWord) (s : State) : Res :=
  if off % 8 ≠ 0 then .next s
  else if off < 0x8000 then .next (if deviceReg (off / 8) then deviceStore s (off / 8) v else s)
  else if off = 0x8010 then .next (if v.getLsbD 0 then warmReset s else s)
  else if off = 0x8048 then execZoneReqWrite v s
  else if off = 0x8058 then execTqBaseWrite v s
  else if off = 0x8068 then .next (serviceControl s v)
  else if off = 0x8080 then execHsigTailWrite v s
  else if off = 0x8088 then execErrSumCtlWrite v s
  else if off = 0x80B0 then execPwrCapWrite v s
  else if off = 0x80C0 then execAttCtlStart v s
  else if off = 0x8188 then execMerCtlWrite v s
  else if off = 0x8190 then execFwUpdStart v s
  else if off < 0x9000 then .next (plainWrite s off v)
  else if 0x10000 ≤ off && off < 0x18000 then
    let n := (off - 0x10000) / 8
    .next { s with counters := NMap.set Counter.reset n { s.counter n with tag := v.extractLsb' 0 16, v := v.getLsbD 16 } s.counters }
  else if 0x18000 ≤ off && off < 0x18200 then .next { s with grants := NMap.set 0 ((off - 0x18000) / 8) (v &&& 0x1FFFF) s.grants }
  else if 0x24000 ≤ off && off < 0x2C000 then .next (writeRoute s ((off - 0x24000) / 8) v)
  else .next s

/-- APERTURE_ACCESS (R430, R431): HBM at `APER_BASE`, but for firmware's part and a device that failed to boot. An access of a
register area is one of 8 aligned bytes, or reads zero and writes nothing. A read counts the errors that ECC corrects (R416). -/
def execApertureAccess (a : ApertureReq) (s : State) : Res :=
  let answer := fun (bs : List Byte) => Host.Outcome.next { s with out := s.out ++ [.readData a.off bs] }
  if a.off < 0x80000 then
    match a.write with
    | some bs => if a.size = 8 && bs.length == 8 then execRegisterWrite a.off (BitVec.ofNat 64 (leNat bs)) s else .next s
    | none => answer (natLe a.size (if a.size = 8 && a.off % 8 == 0 then windowValue s a.off else 0))
  else
    let pa := fun (i : Nat) => s.regs.aperBase.toNat + (a.off - 0x80000) + i
    let there := fun (i : Nat) => decide (a.off + i < 0x100000) && isHbm (pa i) && decide (s.regs.bootStatus.toNat < 0x81)
    match a.write with
    | some bs => .next ((List.range bs.length).foldl (fun s i => if there i then s.poke (pa i) (bs.getD i 0) else s) s)
    | none =>
      let lines := ((List.range a.size).filter there).map fun i => pa i / lineBytes * lineBytes
      .next { (lines.eraseDups.foldl countRead s) with
        out := s.out ++ [.readData a.off ((List.range a.size).map fun i => if there i then s.peek (pa i) else 0)] }

end Sys2Proof.Machine
end

