-- ==== Sys2Proof/Machine/Drain.lean ====
section
/-! DEFINITION. TDRAIN (uniform OP 22) and the drain's own steps: reconstruction and output of an accumulator slot
(R246 to R253). -/

namespace Sys2Proof.Machine

/-! ### TDRAIN (R247) -/

/-- Element size by form: FP32, BF16, accumulate, INT64, planes. -/
def drainSize (form : Nat) : Nat := if form = 3 then 8 else if form = 1 ∨ form = 4 then 2 else 4

def tdrain (f : UniR) (form : Nat) (s : State) : Res :=
  uniform { cc := true, feat := if 3 ≤ form then some 2 else none } f.g s fun c s =>
    let lane := lowestLane c.active
    let a := (c.sReg f.a).toNat
    let slot := f.b.toNat
    if (lanesOf c.active).length ≠ 1 then trapAll c s cTILE
    else if a % 32 ≠ 0 then trapAllMem c s cMISALIGNED a
    else if pendingStores s c.gid c.active true then stall c s
    else
      match heldOr c s (fun s => readRecord 4 s c lane a) with
      | (s, .error (k, va)) => recordFault c s k va
      | (s, .ok r) =>
        if !ownsSlot c.t slot then trapAll c s cACCOWNER else queueOp c s f.d r (.drain form r) slot (drainSize form) []

def execTdrainFp32 (f : UniR) (s : State) : Res := tdrain f 0 s
def execTdrainBf16 (f : UniR) (s : State) : Res := tdrain f 1 s
def execTdrainAcc (f : UniR) (s : State) : Res := tdrain f 2 s
def execTdrainI64 (f : UniR) (s : State) : Res := tdrain f 3 s
def execTdrainPlanes (f : UniR) (s : State) : Res := tdrain f 4 s

/-! ### The record (R246, R248) -/

def rDest (r : List Byte) : Nat := fieldN r 0 8
def rStride (r : List Byte) : Nat := fieldN r 8 4
def rLocal (r : List Byte) : Bool := bitN (fieldN r 0x0C 4) 0
def rPstride (r : List Byte) : Nat := fieldN r 0x10 4

def drainStatus (x : Acc) (form : Nat) (r : List Byte) : Nat :=
  let size := drainSize form
  if !x.valid then 10
  else if (decide (3 ≤ form) && !x.raw) || decide (2 ≤ fieldN r 0x0C 4) || (slice r 0x14 12).any (· != 0) ||
      !addrOk (rLocal r) (rDest r) || (form != 4 && rPstride r != 0) || rStride r % size != 0 ||
      (form == 4 && rPstride r % 2 != 0) || rDest r % size != 0 then 3
  else 0

/-! ### Elements (R249 to R251) -/

def Acc.legit (x : Acc) (m : Moduli) : Legit := if x.raw then legitRaw x.signed m.prod else legitSb x.ktot

/-- The stored residues of element (i, j), each modulo its channel. -/
def Acc.elem (x : Acc) (m : Moduli) (i j : Nat) : List Nat :=
  (List.range m.count).map fun ch => NMap.get 0 (ch * 4096 + i * 64 + j) x.res % m.mods.getD ch 1

/-- Scale of a word, 0 for E = 0. -/
def scaleOr0 (w : Nat) : Dy := if scaleE w = 0 then ⟨0, 0⟩ else scaleDy w

/-- X × Scale(sA_i) × Scale(sB_j). -/
def Acc.scaled (x : Acc) (i j : Nat) (v : Int) : Dy :=
  if x.raw then ⟨v, 0⟩
  else Dy.mul ⟨v, 0⟩ (Dy.mul (scaleOr0 (NMap.get 0 i x.rs)) (scaleOr0 (NMap.get 0 j x.cs)))

-- DEDUCED: notes/assumptions/37
/-- R251: the FP output of an element and whether it counts a NAN; `y` is the old destination of an accumulate. -/
def drainFp (fb : Nat) (flags : BitVec 4) (v : Dy) (y : Option Nat) : Nat × Bool :=
  let both := flags.getLsbD 1 && flags.getLsbD 2
  if flags.getLsbD 0 || both then (fpCanon fb, both || flags.getLsbD 3)
  else if flags.getLsbD 1 || flags.getLsbD 2 then
    let i := fpInf fb (flags.getLsbD 2)
    match y with
    | some y =>
      if fpIsNan fb y then (fpQuiet fb y, false)
      else if fpIsInf fb y && y != i then (fpCanon fb, true) else (i, false)
    | none => (i, false)
  else
    match y with
    | some y =>
      if fpIsNan fb y then (fpQuiet fb y, false)
      else if fpIsInf fb y then (y, false) else (roundDy fb .rne false (Dy.add (fpDy fb y) v), false)
    | none => (roundDy fb .rne false v, false)

/-- The bytes of an element's writes, with their offsets from the element's address, and its NAN count. -/
def drainBytes (m : Moduli) (x : Acc) (form : Nat) (r : List Byte) (i j : Nat) (v : Int) (y : Option Nat) : List (Nat × List Byte) × Bool :=
  let flags := NMap.get 0 (i * 64 + j) x.flags
  match form with
  | 3 => ([(0, natLe 8 (ofI 64 v).toNat)], false)
  | 4 => ((List.range m.count).map fun ch => (ch * rPstride r, natLe 2 (modI v (m.mods.getD ch 1))), false)
  | _ =>
    let fb := if form = 1 then 7 else 23
    let o := drainFp fb flags (x.scaled i j v) (if form = 2 then y else none)
    ([(0, natLe (drainSize form) o.1)], o.2)

/-! ### Running (R248, R252) -/

-- DESIGN CHOICE: notes/assumptions/104
/-- Note a failure of the drain that comes before every store made after it. Data that no ECC can correct is no fault: it has no deferred
record (R402), and the drain completes UNCORRECTABLE. -/
def noteFault (s : State) (o : TileOp) (va cause : Nat) : State × TileOp :=
  if cause = cMUNCORR || cause = cLUNCORR then (s, { o with code := 13 })
  else
    match o.fault with
    | some _ => (s, o)
    | none => ({ s with nextStore := s.nextStore + 1 }, { o with fault := some (s.nextStore, va, cause) })

/-- What `agentId` a drain's stores carry. -/
def drainId (o : TileOp) : Nat := o.tid * 32 + o.entry

/-- One piece of an element's output. What would fall into the frozen template of the launch is discarded (R78). -/
def drainWrite (t : Team) (loc : Bool) (s : State) (o : TileOp) (a : Nat) (bs : List Byte) : State × TileOp :=
  if loc then
    match localPlace s t a bs.length 1 with
    | .error k => noteFault s o a k
    | .ok p =>
      match stashFillWith (fun s base => engHome s t.asid.toNat base 128) s p with
      | (s, .error k) => noteFault s o a k
      | (s, .ok _) => (localWrite s p bs, o)
  else if intoTemplate s t a bs.length then (s, o)
  else (agentStore s 3 (drainId o) t.core t.asid.toNat a bs, o)

/-- The old destination of an accumulate. -/
def drainOld (handle : Nat) (t : Team) (loc : Bool) (s : State) (a : Nat) : State × Except (Nat × Nat) Nat :=
  match (if loc then engLocalRead handle s t a 4 else engRead s (some t) t.asid.toNat a 4) with
  | (s, .ok bs) => (s, .ok (leNat bs))
  | (s, .error e) => (s, .error e)

/-- R242, R251: both infinities, or an invalid product: an element that counts a NAN whatever is written. -/
def nanMarked (flags : BitVec 4) : Bool := (flags.getLsbD 1 && flags.getLsbD 2) || flags.getLsbD 3

/-- Write element (i, j) with value `v`. -/
def drainElem (m : Moduli) (t : Team) (x : Acc) (form : Nat) (r : List Byte) (i j : Nat) (v : Int) (s : State) (o : TileOp) : State × TileOp :=
  let loc := rLocal r
  let a := rDest r + i * rStride r + j * drainSize form
  match (if form = 2 then (match drainOld (t.opHandle o) t loc s a with
      | (s, .ok y) => (s, Except.ok (some y))
      | (s, .error e) => (s, Except.error e)) else (s, Except.ok none)) with
  | (s, .error (va, k)) =>
    noteFault (s.countFor t.seq x.statid kNAN (if nanMarked (NMap.get 0 (i * 64 + j) x.flags) then 1 else 0)) o va k
  | (s, .ok y) =>
    let out := drainBytes m x form r i j v y
    let s := s.countFor t.seq x.statid kNAN (if out.2 then 1 else 0)
    out.1.foldl (fun acc p => drainWrite t loc acc.1 acc.2 (a + p.1) p.2) (s, o)

/-- Elements of a slot in row, then column order. -/
def Acc.elems (x : Acc) : List (Nat × Nat) := (List.range (x.m * x.n)).map fun k => (k / x.n, k % x.n)

/-- DRAIN_RUN (R248). -/
def runDrain (s : State) (t : Team) (o : TileOp) (form : Nat) (r : List Byte) : State × TileOp :=
  let x := s.opAcc t.core o
  let st := drainStatus x form r
  if st ≠ 0 then (s, { o with code := st })
  else
    let m := t.moduli
    let handle := t.opHandle o
    let found := x.elems.map fun e => (e, reconstruct m (x.legit m) (erasedChans s m) (x.elem m e.1 e.2))
    let s := found.foldl (fun s q => recordRecon s t.core m q.2 0 handle o.slot q.1.1 q.1.2) s
    if found.any fun q => match q.2 with | .ue _ => true | _ => false then
      (s.setOpAcc t.core o { x with valid := false }, { o with code := 13 })
    else
      let value := fun (q : Recon) => match q with | .good v => v | .fixed v _ => v | .ue _ => 0
      let res := found.foldl (fun res q =>
        match q.2 with
        | .fixed v ch => NMap.set 0 (ch * 4096 + q.1.1 * 64 + q.1.2) (modI v (m.mods.getD ch 1)) res
        | _ => res) x.res
      let s := s.setOpAcc t.core o { x with res := res }
      found.foldl (fun acc q => drainElem m t x form r q.1.1 q.1.2 (value q.2) acc.1 acc.2) (s, o)

def execDrainRun (core : Nat) (s : State) : Res :=
  match nextToStart s core with
  | none => .next s
  | some o =>
    match o.kind with
    | .drain form r =>
      if (s.core core).tileQ.any fun q => q.running && q.isDrain then .next s
      else
        match runDrain s (s.opTeam o) o form r with
        | (s1, o) => .next <| if o.fault.any (·.2.2 == cAWAY) then s else (s1.modCore core fun y => { y with tileQ := startedQ { o with running := true } y.tileQ })
    | _ => .next s

/-- DRAIN_COMPLETE (R252). -/
def execDrainComplete (core : Nat) (s : State) : Res :=
  match (s.core core).tileQ.find? fun q => q.running && q.isDrain with
  | none => .next s
  | some o =>
    if agentBusy s 3 (drainId o) then .next s
    else
      let first := match o.fault, firstFail s 3 (drainId o) with
        | some a, some b => if a.1 < b.1 then some a else some b
        | some a, none => some a
        | none, b => b
      let s := dropFails s 3 (drainId o)
      let code := if first.isSome then 11 else o.code
      -- a failed drain leaves its slot invalid, but for one that failed the checks of R248 (R239)
      let s := if code = 11 || code = 13 then s.setOpAcc core o { s.opAcc core o with valid := false } else s
      .next (finishOp s core o code 5 first)

end Sys2Proof.Machine
end

