-- ==== Sys2Proof/Machine/Frag.lean ====
section
/-! DEFINITION. Fragment products and residue lane instructions: lane OPs 28 to 2B, with the end of a fragment
(R254 to R258). -/

namespace Sys2Proof.Machine

/-! ### Residues of one lane (R257, R258) -/

def execRmod (f : LaneR) (s : State) : Res :=
  let reads := regOf f.a ++ regOf f.b
  laneOp { regs := regOf f.d ++ reads, reads := reads, cc := true, feat := some 2 } f.g s fun c ex s =>
    let chan := fun (l : Nat) => ((c.reg f.b l).extractLsb' 0 3).toNat
    let ok := maskOf fun l => ex.getLsbD l && decide (chan l < c.t.moduli.count)
    let its := (lanesOf (ex &&& ~~~ok)).map fun l => (⟨l, cNOCHAN, c.u.pc, c.u.pc, none, 0⟩ : TrapItem)
    withRows c s [f.d.toNat] ok fun c s =>
      finTraps c (s.modGroup c.gid fun g => g.setRow f.d.toNat ok fun l =>
        BitVec.ofNat 32 (modI (c.reg f.a l).toInt (c.t.moduli.mods.getD (chan l) 1))) its

def rmad (f : LaneR) (n : Nat) (s : State) : Res :=
  let reads := regOf f.a ++ regOf f.b ++ regOf f.d
  laneOp { regs := reads, reads := reads, cc := true, feat := some 2 } f.g s fun c ex s =>
    if c.t.moduli.count ≤ n then
      finTraps c s ((lanesOf ex).map fun l => ⟨l, cNOCHAN, c.u.pc, c.u.pc, none, 0⟩)
    else
      let m := c.t.moduli.mods.getD n 1
      withRows c s [f.d.toNat] ex fun c s =>
        fin c (s.modGroup c.gid fun g => g.setRow f.d.toNat ex fun l =>
          BitVec.ofNat 32 (((c.reg f.a l).toNat % m * ((c.reg f.b l).toNat % m) + (c.reg f.d l).toNat % m) % m))

def execRmadC03 (f : LaneR) (n : BitVec 2) (s : State) : Res := rmad f n.toNat s
def execRmadC45 (f : LaneR) (n : BitVec 1) (s : State) : Res := rmad f (4 + n.toNat) s

/-- The tuple of a lane: channel 2i and 2i + 1 in `vA+i`. -/
def tupleOf (c : Ctx) (a : BitVec 6) (l : Nat) : List Nat :=
  (List.range 6).map fun i => ((c.g.lane (a.toNat + i / 2) l).extractLsb' (16 * (i % 2)) 12).toNat

/-- What R258 computes on a lane's tuple. -/
def laneRecon (s : State) (c : Ctx) (f : LaneR) (l : Nat) : Recon :=
  reconstruct c.t.moduli (legitRaw ((c.reg f.b l).getLsbD 0) c.t.moduli.prod) (erasedChans s c.t.moduli) (tupleOf c f.a l)

def Recon.val : Recon → Int
  | .good x => x
  | .fixed x _ => x
  | .ue _ => 0

def Recon.isUe : Recon → Bool
  | .ue _ => true
  | _ => false

def execRrec (f : LaneR) (s : State) : Res :=
  let reads := groupOf f.a 3 ++ regOf f.b
  laneOp { regs := pairOf f.d ++ reads, reads := reads, cc := true, feat := some 2 } f.g s fun c ex s =>
    let r := laneRecon s c f
    let ok := maskOf fun l => ex.getLsbD l && !(r l).isUe
    let its := (lanesOf (ex &&& ~~~ok)).map fun l => (⟨l, cMATRIX, c.u.pc, c.u.pc, none, 0⟩ : TrapItem)
    withRows c s (pairOf f.d) ok fun c s =>
      let s := (lanesOf ex).foldl (fun s l => recordRecon s c.core c.t.moduli (r l) 2 0 0 l 0) s
      let x := fun (l : Nat) => ofI 64 (r l).val
      finTraps c (s.modGroup c.gid fun g =>
        (g.setRow f.d.toNat ok fun l => (x l).extractLsb' 0 32).setRow (f.d.toNat + 1) ok fun l => (x l).extractLsb' 32 32) its

/-- RCHK's word (R258). -/
def rchkWord (s : State) (c : Ctx) (f : LaneR) (l : Nat) : Word :=
  let m := c.t.moduli
  let g := legitRaw ((c.reg f.b l).getLsbD 0) m.prod
  let er := erasedChans s m
  let xs := tupleOf c f.a l
  let t := tryRec m g xs er
  if t.x.isSome then 1
  else
    match soleFix m g er xs with
    | some k => BitVec.ofNat 32 (2 + 4 * 2 ^ k)
    | none => BitVec.ofNat 32 (4 * chanMask t.bad)

def execRchk (f : LaneR) (s : State) : Res :=
  let reads := groupOf f.a 3 ++ regOf f.b
  laneOp { regs := regOf f.d ++ reads, reads := reads, cc := true, feat := some 2 } f.g s fun c ex s =>
    withRows c s [f.d.toNat] ex fun c s =>
      fin c (s.modGroup c.gid fun g => g.setRow f.d.toNat ex (rchkWord s c f))

/-! ### Fragments (R254 to R256) -/

/-- The 12-bit field of an element: even in [11:0], odd in [27:16]. -/
def fragField (w : Word) (k : Nat) : Int := (w.extractLsb' (16 * (k % 2)) 12).toInt

def liveWord (g : Group) (r l : Nat) : Word := if g.live.getLsbD l then g.lane r l else 0

def fragA (g : Group) (a : BitVec 6) (r k : Nat) : Int := fragField (liveWord g (a.toNat + k % 24 / 2) (r + 16 * (k / 24))) k
def fragB (g : Group) (b : BitVec 6) (k col : Nat) : Int := fragField (liveWord g (b.toNat + k % 24 / 2) (col + 16 * (k / 24))) k

/-- The bank and the index of byte `t` of a lane's MFRAGX operand. -/
def fragBank (w : Word) : Nat := (w.extractLsb' 24 3).toNat
def fragIndex (w : Word) (t : Nat) : Nat := (w.extractLsb' (8 * t) 8).toNat

-- DESIGN CHOICE: notes/assumptions/32
/-- Element (k, col) of MFRAGX's B; one whose entry fails its parity is free: the KZ-9 substitutes no value (R222). -/
def fragBx (s : State) (c : Ctx) (b : BitVec 6) (k col : Nat) : Int :=
  let l := col + 16 * (k / 24)
  let w := c.reg b l
  let x := s.bank c.core (fragBank w)
  let e := fragIndex w (k % 24 / 8)
  if c.g.live.getLsbD l then
    (BitVec.ofNat 12 (if x.badEntry e then freeNat (s.fresh + 2 * (16 * k + col)) 2 else slotOf 2 (x.entry e) (k % 8))).toInt
  else 0

/-- R255: the legitimate range of a result. -/
def fragLegit : Legit := ⟨-(48 * 2048 * 2048 : Nat), (48 * 2048 * 2048 : Nat)⟩

/-- The residues of every result, with the faults the environment puts into this product. -/
def fragElems (m : Moduli) (bad : List (Nat × Nat × Nat)) (ea eb : Nat → Nat → Int) : List (List Nat) :=
  (List.range 256).map fun e =>
    let sum := (List.range 48).foldl (fun acc k => acc + ea (e / 16) k * eb k (e % 16)) 0
    (List.range m.count).map fun ch =>
      bad.foldl (fun x q => if q.1 = e && q.2.1 = ch then Nat.xor x q.2.2 % 4096 else x) (modI sum (m.mods.getD ch 1))

/-- The executing lanes whose results read a cell with an error (R254, R416): lane `l` holds the rows `8 (l / 16)` to `8 (l / 16) + 7` of
column `l % 16`, so it reads A of those rows' lanes and B, in `nb` registers, of its column's; and its old result, where that is added. -/
def fragErrs (f : LaneR) (add : Bool) (nb : Nat) (c : Ctx) (ex : Word) (cell : Nat → Nat → Bool) : List Nat :=
  let bad := fun (rs : List Nat) (m : Nat) => c.g.live.getLsbD m && rs.any fun r => cell r m
  (lanesOf ex).filter fun l =>
    ((List.range 8).any fun i => bad (groupOf f.a 12) (8 * (l / 16) + i) || bad (groupOf f.a 12) (8 * (l / 16) + i + 16)) ||
    bad (groupOf f.b nb) (l % 16) || bad (groupOf f.b nb) (l % 16 + 16) || (add && bad (groupOf f.d 8) l)

/-- MFRAG and its kin after their operands' own tests; the lanes of `items` trap for the bank entries `bads`, those of `cells` for a
register cell, and the others complete (R10, R222, R416). -/
def frag (f : LaneR) (add : Bool) (cells : List Nat) (c : Ctx) (ex : Word) (s : State) (items : List TrapItem) (bads : List (Nat × Nat)) (eb : Ctx → State → Nat → Nat → Int) : Res :=
  if c.t.moduli.prod < 2 * 48 * 2048 * 2048 + 1 then trapAll c s cMODRANGE
  else
    let items := (lanesOf c.active).flatMap fun l => (cellTraps c cells ++ items).filter fun x => x.lane == l
    let out := maskOf fun l => items.any fun x => x.lane == l
    let ex := ex &&& ~~~out
    withRows c s (groupOf f.d 8) ex fun c s =>
      let bad := (s.badFrag.filter fun q => q.1 == c.core).map (·.2)
      let p : FragPending :=
        { sub := c.active &&& ~~~out, ex := ex, d := f.d.toNat, add := add, pc := c.u.pc, mods := c.t.moduli,
          elems := fragElems c.t.moduli bad (fragA c.g f.a) (eb c s), ue := false }
      let s : State := { s with badFrag := s.badFrag.filter (fun q => q.1 != c.core), fresh := if bads.isEmpty then s.fresh else s.fresh + 1536 }
      let s := bads.foldl (fun s q => parityError s c.core q.1 q.2 0) s
      finTraps c (cellRecords c cells (s.modGroup c.gid fun g => { g with frag := g.frag ++ [p] })) items

def fragWhole (c : Ctx) : Bool := (c.g.live &&& ~~~c.active) == 0

def mfrag (f : LaneR) (add : Bool) (s : State) : Res :=
  let reads := groupOf f.a 12 ++ groupOf f.b 12 ++ (if add then groupOf f.d 8 else [])
  laneOpOf (fun _ _ => []) { regs := groupOf f.d 8 ++ reads, reads := reads, cc := true } f.g s fun c ex s =>
    if fragWhole c then frag f add (fragErrs f add 12 c ex (s.badCell c.gid)) c ex s [] [] fun c _ => fragB c.g f.b else trapAll c s cFRAG

def execMfrag (f : LaneR) (s : State) : Res := mfrag f false s
def execMfraga (f : LaneR) (s : State) : Res := mfrag f true s

/-- The tests of R218 on a lane's bank and indices. -/
def fragCause (s : State) (c : Ctx) (w : Word) : Option Nat :=
  let x := s.bank c.core (fragBank w)
  if !x.ownedBy c.t then some cCBOWNER
  else if x.kind != 2 then some cCBKIND
  else if (List.range 3).any fun t => decide (x.valid ≤ fragIndex w t) then some cINDEX
  else none

/-- The bad entries that a lane's indices name: bank and entry (R222). -/
def fragBad (s : State) (c : Ctx) (w : Word) : List (Nat × Nat) :=
  ((List.range 3).filter fun t => (s.bank c.core (fragBank w)).badEntry (fragIndex w t)).map fun t => (fragBank w, fragIndex w t)

def execMfragx (f : LaneR) (s : State) : Res :=
  let reads := groupOf f.a 12 ++ regOf f.b
  laneOpOf (fun _ _ => []) { regs := groupOf f.d 8 ++ reads, reads := reads, cc := true, feat := some 1 } f.g s fun c ex s =>
    if fragWhole c then
      let cells := fragErrs f false 1 c ex (s.badCell c.gid)
      let lanes := (lanesOf c.active).filter fun l => !s.badCell c.gid f.b.toNat l
      if lanes.any fun l =>
          (s.bank c.core (fragBank (c.reg f.b l))).ownedBy c.t && (s.bank c.core (fragBank (c.reg f.b l))).load.isSome then stall c s
      else
        match lanes.filterMap fun l => fragCause s c (c.reg f.b l) with
        | k :: _ => trapAll c s k
        | [] =>
          let bads := (lanes.flatMap fun l => fragBad s c (c.reg f.b l)).eraseDups
          let items := (lanes.filter fun l => !(fragBad s c (c.reg f.b l)).isEmpty).map fun l => (⟨l, cCBPARITY, c.u.pc, c.u.pc, none, 0⟩ : TrapItem)
          frag f false cells c ex s (items.filter fun x => !cells.contains x.lane) bads fun c s => fragBx s c f.b
    else trapAll c s cFRAG

/-- Result (r, c) stands in lane c + 16 (r / 8), register m = r mod 8. -/
def fragOf (l m : Nat) : Nat := 16 * (m + 8 * (l / 16)) + l % 16

/-- FRAGMENT_COMPLETE (R255, R256): reconstruct every result; write the executing lanes, or leave an uncorrectable error
pending. -/
def execFragmentComplete (gid : Nat) (s : State) : Res :=
  match s.group? gid with
  | none => .next s
  | some g =>
    match g.frag.find? fun p => !p.ue with
    | none => .next s
    | some p =>
      let core := s.groupCore g
      let rs := p.elems.map fun xs => reconstruct p.mods fragLegit (erasedChans s p.mods) xs
      let s := (List.range 256).foldl (fun s e => recordRecon s core p.mods (rs.getD e (.good 0)) 1 0 0 (e / 16) (e % 16)) s
      if rs.any Recon.isUe then
        .next (s.modGroup gid fun g => { g with frag := g.frag.map fun q => if q == p then { p with ue := true } else q })
      else
        let v := fun (m l : Nat) => ofI 32 ((rs.getD (fragOf l m) (.good 0)).val)
        .next (s.modGroup gid fun g =>
          let g := { g with frag := g.frag.filter fun q => !(q == p) }
          (List.range 8).foldl (fun (g : Group) m =>
            g.setRow (p.d + m) p.ex fun l => if p.add then g.lane (p.d + m) l + v m l else v m l) g)

end Sys2Proof.Machine
end

