-- ==== Sys2Proof/Machine/IntLane.lean ====
section
/-! DEFINITION. Lane integer arithmetic, logic, bit fields, moves and immediates (R59, R161, R162, R165 to R167). -/

namespace Sys2Proof.Machine

/-- `Bits(S(a) op S(b), …)` on exact integers (R161). -/
def satWord (x : Int) : Word := ofI 32 (satI x (-2147483648) 2147483647)
def wideS (a b : Word) : Int := a.toInt * b.toInt
def hi32 (x : Int) : Word := (ofI 64 x).extractLsb' 32 32

/-- Signed byte `i` of a word (R161). -/
def sByte (a : Word) (i : Nat) : Int := (a.extractLsb' (8 * i) 8).toInt

/-- IDOT4 (R161). -/
def dot4 (a b d : Word) : Word :=
  ofI 32 (d.toInt + (List.range 4).foldl (fun acc i => acc + sByte a i * sByte b i) 0)

/-- Number of 1 bits, of leading zeros, and the reversed word (R161). -/
def popcount (a : Word) : Word := BitVec.ofNat 32 (popN 32 a.toNat)
def leadingZeros (a : Word) : Word := BitVec.ofNat 32 (((List.range 32).takeWhile fun i => !a.getLsbD (31 - i)).length)
def reverseBits (a : Word) : Word := maskOf fun i => a.getLsbD (31 - i)
def absWord (a : Word) : Word := if a.getLsbD 31 then -a else a

/-- Position and width of a bit field (R162). -/
def bfPos (b : Word) : Nat := (b.extractLsb' 0 5).toNat
def bfWidth (b : Word) : Nat := min (b.extractLsb' 5 5).toNat (32 - bfPos b)
def bfMask (b : Word) : Word := BitVec.ofNat 32 ((2 ^ bfWidth b - 1) * 2 ^ bfPos b)
def bfExtract (a b : Word) : Word := (a &&& bfMask b) >>> bfPos b
/-- BFXS (R162): sign-extended from the field's width, 0 when the width is 0. -/
def bfExtractS (a b : Word) : Word :=
  let w := bfWidth b
  let x := (bfExtract a b).toNat
  if w = 0 then 0 else if bitN x (w - 1) then ofI 32 ((x : Int) - 2 ^ w) else BitVec.ofNat 32 x
def bfInsert (a b d : Word) : Word := (d &&& ~~~(bfMask b)) ||| ((a <<< bfPos b) &&& bfMask b)


def execIadd (f : LaneR) (s : State) : Res := aluR f true s fun c l => c.src f.a l + c.src f.b l
def execIadds (f : LaneR) (s : State) : Res := aluR f true s fun c l => satWord ((c.src f.a l).toInt + (c.src f.b l).toInt)
def execIaddd (f : LaneR) (s : State) : Res :=
  aluPair f (pairOf f.a ++ pairOf f.b) [] s fun c l => c.pairReg f.a l + c.pairReg f.b l
def execIsub (f : LaneR) (s : State) : Res := aluR f true s fun c l => c.src f.a l - c.src f.b l
def execIsubs (f : LaneR) (s : State) : Res := aluR f true s fun c l => satWord ((c.src f.a l).toInt - (c.src f.b l).toInt)
def execIsubd (f : LaneR) (s : State) : Res :=
  aluPair f (pairOf f.a ++ pairOf f.b) [] s fun c l => c.pairReg f.a l - c.pairReg f.b l
def execImul (f : LaneR) (s : State) : Res := aluR f true s fun c l => c.src f.a l * c.src f.b l
def execImulh (f : LaneR) (s : State) : Res := aluR f true s fun c l => hi32 (wideS (c.src f.a l) (c.src f.b l))
def execImulhu (f : LaneR) (s : State) : Res :=
  aluR f true s fun c l => BitVec.ofNat 32 ((c.src f.a l).toNat * (c.src f.b l).toNat / 2 ^ 32)
def execImulw (f : LaneR) (s : State) : Res :=
  aluPair f (regOf f.a ++ regOf f.b) (latchOf f.a ++ latchOf f.b) s fun c l => ofI 64 (wideS (c.src f.a l) (c.src f.b l))
def execImad (f : LaneR) (s : State) : Res := aluRD f s fun c l => c.src f.a l * c.src f.b l + c.reg f.d l
def execImadw (f : LaneR) (s : State) : Res :=
  aluPair f (regOf f.a ++ regOf f.b ++ pairOf f.d) (latchOf f.a ++ latchOf f.b) s
    fun c l => ofI 64 (wideS (c.src f.a l) (c.src f.b l) + (c.pairReg f.d l).toInt)
def execIdot4 (f : LaneR) (s : State) : Res := aluRD f s fun c l => dot4 (c.src f.a l) (c.src f.b l) (c.reg f.d l)
def execImin (f : LaneR) (s : State) : Res :=
  aluR f true s fun c l => if (c.src f.a l).sle (c.src f.b l) then c.src f.a l else c.src f.b l
def execIminu (f : LaneR) (s : State) : Res :=
  aluR f true s fun c l => if (c.src f.a l).ule (c.src f.b l) then c.src f.a l else c.src f.b l
def execImax (f : LaneR) (s : State) : Res :=
  aluR f true s fun c l => if (c.src f.a l).sle (c.src f.b l) then c.src f.b l else c.src f.a l
def execImaxu (f : LaneR) (s : State) : Res :=
  aluR f true s fun c l => if (c.src f.a l).ule (c.src f.b l) then c.src f.b l else c.src f.a l
def execAndL (f : LaneR) (s : State) : Res := aluR f true s fun c l => c.src f.a l &&& c.src f.b l
def execOrL (f : LaneR) (s : State) : Res := aluR f true s fun c l => c.src f.a l ||| c.src f.b l
def execXorL (f : LaneR) (s : State) : Res := aluR f true s fun c l => c.src f.a l ^^^ c.src f.b l
def execAndn (f : LaneR) (s : State) : Res := aluR f true s fun c l => c.src f.a l &&& ~~~(c.src f.b l)
def execShl (f : LaneR) (s : State) : Res := aluR f true s fun c l => c.src f.a l <<< shAmt (c.src f.b l)
def execShr (f : LaneR) (s : State) : Res := aluR f true s fun c l => c.src f.a l >>> shAmt (c.src f.b l)
def execSar (f : LaneR) (s : State) : Res := aluR f true s fun c l => (c.src f.a l).sshiftRight (shAmt (c.src f.b l))
def execRotl (f : LaneR) (s : State) : Res := aluR f true s fun c l => (c.src f.a l).rotateLeft (shAmt (c.src f.b l))
def execPopc (f : LaneR) (s : State) : Res := aluR f false s fun c l => popcount (c.src f.a l)
def execClz (f : LaneR) (s : State) : Res := aluR f false s fun c l => leadingZeros (c.src f.a l)
def execBrev (f : LaneR) (s : State) : Res := aluR f false s fun c l => reverseBits (c.src f.a l)
def execIabs (f : LaneR) (s : State) : Res := aluR f false s fun c l => absWord (c.src f.a l)
def execBfx (f : LaneR) (s : State) : Res := aluR f true s fun c l => bfExtract (c.src f.a l) (c.src f.b l)
def execBfxs (f : LaneR) (s : State) : Res := aluR f true s fun c l => bfExtractS (c.src f.a l) (c.src f.b l)
def execBfi (f : LaneR) (s : State) : Res := aluRD f s fun c l => bfInsert (c.src f.a l) (c.src f.b l) (c.reg f.d l)

def execMov (f : LaneR) (s : State) : Res := aluR f false s fun c l => c.src f.a l
/-- MOVS (R165): A names an s register, B its half. -/
def execMovs (f : LaneR) (s : State) : Res :=
  classA { regs := regOf f.d } (fun c => c.execMask f.g) (if f.w then [] else [f.d.toNat]) true s
    (fun c ex g => if f.w then g else g.setRow f.d.toNat ex fun _ => (c.sReg f.a).extractLsb' (32 * f.b.toNat) 32)
    (fun c _ => (c.sReg f.a).extractLsb' (32 * f.b.toNat) 32)

/-- Component `n` of a fibre's index (R41, R59). -/
def Index.component (i : Index) (n : Nat) : Word :=
  BitVec.ofNat 32 (match n with
    | 0 => i.x
    | 1 => i.y
    | 2 => i.z
    | 3 => i.lin
    | 4 => i.team
    | 5 => i.fib
    | 6 => i.role
    | _ => i.level)

def execSelfIx (f : LaneR) (s : State) : Res :=
  classA { regs := regOf f.d } (fun c => c.execMask f.g) (if f.w then [] else [f.d.toNat]) true s
    (fun c ex g => if f.w then g else g.setRow f.d.toNat ex fun l => (c.g.index l).component f.a.toNat)
    (fun c l => (c.g.index l).component f.a.toNat)
def execLaneid (f : LaneR) (s : State) : Res :=
  classA { regs := regOf f.d } (fun c => c.execMask f.g) (if f.w then [] else [f.d.toNat]) true s
    (fun _ ex g => if f.w then g else g.setRow f.d.toNat ex fun l => BitVec.ofNat 32 l)
    (fun _ l => BitVec.ofNat 32 l)

def imm8 (f : LaneI) : Word := f.i.signExtend 32

/-- SELP (R167): G selects, every active fibre writes. -/
def execSelp (f : LaneI) (s : State) : Res :=
  let op := fun (c : Ctx) (l : Nat) => if (c.execMask f.g).getLsbD l then c.src f.a l else imm8 f
  classA { regs := regOf f.d ++ regOf f.a, reads := regOf f.a, latches := latchOf f.a } (fun c => c.active)
    (if f.w then [] else [f.d.toNat]) true s (fun c ex g => if f.w then g else g.setRow f.d.toNat ex (op c)) op
def execIaddi (f : LaneI) (s : State) : Res := aluI f.g f.w f.d f.a true s fun c l => c.src f.a l + imm8 f
def execMovi (f : LaneI) (s : State) : Res := aluI f.g f.w f.d f.a false s fun _ _ => imm8 f
def execShli (f : LaneSh) (s : State) : Res := aluI f.g f.w f.d f.a true s fun c l => c.src f.a l <<< f.n.toNat
def execShri (f : LaneSh) (s : State) : Res := aluI f.g f.w f.d f.a true s fun c l => c.src f.a l >>> f.n.toNat
def execSari (f : LaneSh) (s : State) : Res := aluI f.g f.w f.d f.a true s fun c l => (c.src f.a l).sshiftRight f.n.toNat
def execRotli (f : LaneSh) (s : State) : Res := aluI f.g f.w f.d f.a true s fun c l => (c.src f.a l).rotateLeft f.n.toNat
def execAndi (f : LaneI) (s : State) : Res := aluI f.g f.w f.d f.a true s fun c l => c.src f.a l &&& imm8 f

end Sys2Proof.Machine
end

