-- ==== Sys2Proof/Machine/PredLane.lean ====
section
/-! DEFINITION. Integer compares and predicate logic of the lane set (R163, R164). None of them pushes. -/

namespace Sys2Proof.Machine

def execIcmpEq (f : LaneR) (s : State) : Res := compare f s fun c l => cmpEq (c.src f.a l) (c.src f.b l)
def execIcmpNe (f : LaneR) (s : State) : Res := compare f s fun c l => cmpNe (c.src f.a l) (c.src f.b l)
def execIcmpLt (f : LaneR) (s : State) : Res := compare f s fun c l => cmpLt (c.src f.a l) (c.src f.b l)
def execIcmpLe (f : LaneR) (s : State) : Res := compare f s fun c l => cmpLe (c.src f.a l) (c.src f.b l)
def execIcmpuLt (f : LaneR) (s : State) : Res := compare f s fun c l => cmpuLt (c.src f.a l) (c.src f.b l)
def execIcmpuLe (f : LaneR) (s : State) : Res := compare f s fun c l => cmpuLe (c.src f.a l) (c.src f.b l)
def execIcmpuGt (f : LaneR) (s : State) : Res := compare f s fun c l => cmpuGt (c.src f.a l) (c.src f.b l)
def execIcmpuGe (f : LaneR) (s : State) : Res := compare f s fun c l => cmpuGe (c.src f.a l) (c.src f.b l)

/-- `pD := op (pA, pB)` (R164). -/
def predOp (f : LaneR) (s : State) (op : Bool → Bool → Bool) : Res :=
  classA {} (fun c => c.execMask f.g) [] false s
    (fun c ex g => g.setP f.d.toNat ex fun l => op (c.g.p f.a.toNat l) (c.g.p f.b.toNat l)) (fun _ _ => 0)

def execPand (f : LaneR) (s : State) : Res := predOp f s fun a b => a && b
def execPor (f : LaneR) (s : State) : Res := predOp f s fun a b => a || b
def execPxor (f : LaneR) (s : State) : Res := predOp f s fun a b => a != b
def execPnand (f : LaneR) (s : State) : Res := predOp f s fun a b => !(a && b)

def execPmovr (f : LaneR) (s : State) : Res :=
  classA { regs := regOf f.d } (fun c => c.execMask f.g) [f.d.toNat] false s
    (fun c ex g => g.setRow f.d.toNat ex fun l => c.g.predOf l) (fun _ _ => 0)
def execPmovw (f : LaneR) (s : State) : Res :=
  classA { regs := regOf f.a, reads := regOf f.a, latches := latchOf f.a } (fun c => c.execMask f.g) [] false s
    (fun c ex g => g.setPredWord ex fun l => c.src f.a l) (fun _ _ => 0)
def execPbit (f : LaneR) (s : State) : Res :=
  classA { regs := regOf f.a, reads := regOf f.a, latches := latchOf f.a } (fun c => c.execMask f.g) [] false s
    (fun c ex g => g.setP f.d.toNat ex fun l => (c.src f.a l).getLsbD f.b.toNat) (fun _ _ => 0)

end Sys2Proof.Machine
end

