-- ==== Sys2Proof/Machine/Save.lean ====
section
/-! DEFINITION. Saving a curfewed team, restoring it, and the scheduler's pass (R66, R76, R81, R115, R116, R125 to R132, R152,
R178, R223, R264, R276). -/

namespace Sys2Proof.Machine

/-! ### What is saved (R124, R125) -/

def Group.yielded (g : Group) : Bool := g.subs.all fun u => u.wait == .yielded
def rowBits (win : Nat) : BitVec 60 := BitVec.ofNat 60 (2 ^ win - 1)

/-- LIVE: the rows saved. -/
def Group.liveRows (g : Group) : BitVec 60 :=
  let held := if g.img.isSome then g.priv else rowBits g.win
  if g.yielded then g.yRows &&& held else held
/-- SLIVE: the uniform registers saved. -/
def Group.liveS (g : Group) : DWord := if g.yielded then g.yS else BitVec.allOnes 64

/-- Does the save keep part `i` of a kind? With every group yielded, only what the team declared live. -/
def keepsPart (t : Team) (all_ : Bool) (kind i : Nat) : Bool :=
  all_ || t.yLocal.getLsbD ((if kind = 0 then 0 else if kind = 1 then 14 else 30) + i)
def keepsAcc (t : Team) (all_ : Bool) (i : Nat) : Bool := t.acc.getLsbD i && (all_ || t.yAcc.getLsbD i)

def savedOrdinals (t : Team) (all_ : Bool) (kind : Nat) : List Nat := (List.range (t.parts kind).length).filter (keepsPart t all_ kind)

/-- The bytes of a part, by offset. -/
def partBytes (s : State) (core kind part : Nat) : NMap Byte :=
  let lo := localKey core (partBase kind + part * partSize kind)
  (s.localMem.filter fun q => decide (lo ≤ q.1) && decide (q.1 < lo + partSize kind)).map fun q => (q.1 - lo, q.2)

/-- The lines of a part that no ECC corrects, by line. -/
def partBad (s : State) (core kind part : Nat) : List (Nat × BitVec 128) :=
  let lo := localKey core (partBase kind + part * partSize kind) / 128
  (s.badLocal.filter fun q => decide (lo ≤ q.1) && decide (q.1 < lo + partSize kind / 128)).map fun q => (q.1 - lo, q.2)

-- DEDUCED: notes/assumptions/127
def savedParts (s : State) (t : Team) (all_ : Bool) : List SavedPart :=
  (List.range 3).flatMap fun k => (savedOrdinals t all_ k).map fun i =>
    let part := (t.parts k).getD i 0
    { kind := k, ord := i, bytes := partBytes s t.core k part, bad := partBad s t.core k part }

/-- Lines of the saved parts that no ECC corrects are reported as the save reads them (R416). -/
def reportParts (s : State) (t : Team) (ps : List SavedPart) : State :=
  ps.foldl (fun s p => p.bad.foldl (fun s q => localError s ⟨t.core, p.kind, (t.parts p.kind).getD p.ord 0, 128 * q.1⟩ t.asid.toNat) s) s

def savedAccs (s : State) (t : Team) (all_ : Bool) : List (Nat × Acc) :=
  ((List.range 4).filter (keepsAcc t all_)).map fun i =>
    let a := s.acc t.core i
    (i, { a with flags := a.flags.filterMap fun q => if q.2 &&& 7 = 0 then none else some (q.1, q.2 &&& 7) })

def ownedBanks (s : State) (t : Team) : List Nat := (List.range 8).filter fun b => (s.bank t.core b).ownedBy t

/-! ### The record's bytes (R128 to R131, R152, R178, R264) -/

def padTo64 (bs : List Byte) : List Byte := bs ++ zeros (pad64 bs.length - bs.length)

def callBytes (u : Sub) : List Byte := u.calls.reverse.flatMap fun a => natLe 8 a

def frameBytes (u : Sub) (n : Nat) : List Byte :=
  match u.loops.find? fun f => f.level == n with
  | some f => natLe 8 ((f.last - f.first) / 4 % 256 * 2 ^ 56 + f.first)
  | none => zeros 8

/-- The WAIT of a sub-group at its stop. -/
def Sub.waitCode (u : Sub) : Nat := match u.wait with | .yielded => 1 | .stopped k => k | _ => 5

/-- R130. -/
def subBytes (g : Group) (u : Sub) : List Byte :=
  natLe 8 u.pc ++ natLe 4 u.mask.toNat ++ natLe 1 u.waitCode ++ natLe 1 u.calls.length ++
  natLe 1 ((u.loops.map fun f => 2 ^ f.level).sum) ++ zeros 1 ++ u.lc.flatMap (fun w => natLe 4 w.toNat) ++ zeros 4 ++
  frameBytes u 0 ++ frameBytes u 1 ++ frameBytes u 2 ++ zeros 8 ++ g.j.flatMap (fun w => natLe 4 w.toNat) ++ callBytes u

def indexBytes (x : Index) : List Byte :=
  natLe 4 x.x ++ natLe 4 x.y ++ natLe 4 x.z ++ natLe 4 x.lin ++ natLe 4 x.team ++ natLe 2 x.fib ++ natLe 1 x.role ++ natLe 1 x.level ++ zeros 8

-- DEDUCED: notes/assumptions/105
/-- R129. `age` is the group's place in the order in which the saved groups formed. -/
def groupBytes (age : Nat) (g : Group) : List Byte :=
  let rows := (List.range 60).filter fun r => g.liveRows.getLsbD r
  padTo64 (natLe 1 g.gslot ++ natLe 1 g.role ++ natLe 1 (if g.yielded then 0 else 1) ++ natLe 1 g.subs.length ++ natLe 4 g.live.toNat ++
    natLe 8 g.liveRows.toNat ++ natLe 8 (if g.img.isSome then g.priv.toNat else 0) ++ natLe 8 g.liveS.toNat ++ natLe 1 g.k.toNat ++ zeros 7 ++
    natLe 8 age ++ zeros 16 ++ (List.range 32).flatMap (fun l => natLe 4 (g.predOf l).toNat) ++
    (List.range 32).flatMap (fun l => indexBytes (g.index l)) ++
    (List.range 64).flatMap (fun i => natLe 8 (if g.liveS.getLsbD i then (g.sReg i).toNat else 0)) ++
    g.subs.flatMap (subBytes g) ++ rows.flatMap fun r => (List.range 32).flatMap fun l => natLe 4 (g.lane r l).toNat)

/-- How many of the groups formed before this one. -/
def formedBefore (gs : List Group) (g : Group) : Nat := (gs.filter fun h => decide (h.gid < g.gid)).length

def maskNat (xs : List Nat) : Nat := (xs.map fun i => 2 ^ i).sum

/-- The OFF_LS section, empty when no part is saved. -/
def localSection (s : State) (t : Team) (all_ : Bool) : List Byte :=
  let ks := (List.range 3).map (savedOrdinals t all_)
  let accs := (savedAccs s t all_).map (·.1)
  if (ks.all List.isEmpty) && accs.isEmpty then []
  else
    padTo64 (natLe 2 (maskNat (ks.getD 0 [])) ++ natLe 2 (maskNat (ks.getD 1 [])) ++ natLe 4 (maskNat (ks.getD 2 [])) ++ natLe 1 (maskNat accs) ++
      natLe 1 t.moduli.count ++ zeros 54 ++
      (List.range 3).flatMap (fun k => (ks.getD k []).flatMap fun i => s.localN t.core (partBase k + (t.parts k).getD i 0 * partSize k) (partSize k)) ++
      accs.flatMap fun i => (List.range t.moduli.count).flatMap fun c =>
        (List.range 4096).flatMap fun e => natLe 2 (NMap.get 0 (c * 4096 + e) (s.acc t.core i).res))

def bankSection (s : State) (t : Team) : List Byte :=
  padTo64 ((ownedBanks s t).flatMap fun b =>
    let x := s.bank t.core b
    natLe 1 b ++ natLe 1 x.kind.toNat ++ natLe 2 x.valid ++ zeros 12 ++ (List.range 256).flatMap fun e => natLe 16 (NMap.get 0 e x.ents).toNat)

def cowSection (t : Team) : List Byte := padTo64 (t.cow.flatMap fun x => natLe 8 x.va ++ zeros 8 ++ x.data)

def spawnBytes (f : SpawnFib) : List Byte :=
  natLe 4 f.arg.toNat ++ natLe 4 f.ord ++ natLe 4 f.idx.x ++ natLe 4 f.idx.y ++ natLe 4 f.idx.z ++ natLe 4 f.idx.lin ++ natLe 4 f.idx.team ++
  natLe 1 f.idx.level ++ zeros 3

def binSection (bs : List Bin) : List Byte :=
  padTo64 (bs.flatMap fun b => natLe 8 b.entry ++ natLe 1 b.role ++ natLe 1 b.fibs.length ++ zeros 6 ++ b.fibs.flatMap spawnBytes)

/-- The team's operations in flight: handle and kind. -/
def inFlight (s : State) (tid : Nat) : List (Nat × Nat) :=
  ((s.copies.filter fun o => o.tid == tid).map fun o => (copyHandle o.unit_ o.entry o.seq, 0)) ++
  ((s.brine.filter fun j => j.tid == tid).map fun j => (brineHandle j.lane j.entry j.seq, 1)) ++
  ((s.transfers.filter fun x => x.tid == tid).map fun x => (fabHandle x.entry (NMap.get Ticket.idle x.entry s.fabTickets).seq, 2)) ++
  ((s.colls.filter fun x => x.tid == tid).map fun x => (fabHandle (collKey x.entry) (NMap.get Ticket.idle (collKey x.entry) s.fabTickets).seq, 3))

def flightSection (ops : List (Nat × Nat)) : List Byte := padTo64 (ops.flatMap fun q => natLe 8 q.1 ++ natLe 1 q.2 ++ zeros 7)

/-- Deferred records of the team, those that came during the save marked SAVED (R126, R300). -/
def savedDefers (gs : List Group) (since : Nat) : List Defer :=
  gs.flatMap fun g => g.defer.map fun d => if since ≤ d.time then { d with flags := d.flags ||| 1 } else d

/-- RES as the team holds it (R99). -/
def heldRes (s : State) (t : Team) : Nat :=
  (if t.linked then 2 ^ 30 else 0) + (if t.superstep then 2 ^ 29 else 0) + (if t.ftz then 2 ^ 28 else 0) +
  maskNat (ownedBanks s t) * 2 ^ 19 + t.acc.toNat * 2 ^ 15 + t.cols.length * 2 ^ 9 + t.segs.length * 2 ^ 4 + t.ways.length

/-- The flags of RES that only the packet gives. -/
def packetFlags (s : State) (t : Team) : Nat :=
  match s.launch? t.seq with
  | some L => (if pCen L.pkt then 2 ^ 31 else 0) + (if pDropLate L.pkt then 2 ^ 27 else 0)
  | none => 0

-- DESIGN CHOICE: notes/assumptions/121
/-- TMPL of an open nested prologue's region. -/
def nestRegion (s : State) (gs : List Group) : Option Nat :=
  (gs.findSome? fun g => g.nest.head?).bind fun q =>
    (s.regions.find? fun r => r.entry == q.2).map fun r => r.base + r.size / 2 ^ 19 * 4 + (if r.cow then 2 else 0) + 1

/-- R152. -/
def barrierBlock (t : Team) : List Byte :=
  (List.range 16).flatMap fun n =>
    let b := t.barrier n
    natLe 4 b.gen.toNat ++ natLe 4 b.arr.toNat ++ natLe 1 b.mask.toNat ++ zeros 7

/-- R178. -/
def nbBlock (t : Team) (g : Group) : List Byte :=
  let x := fun (l : Nat) => NMap.get Nb.none (32 * g.gslot + l) t.nb
  (List.range 32).flatMap (fun l => natLe 4 (x l).p.toNat) ++
  (List.range 32).flatMap fun l => natLe 1 ((x l).c % 4 + if (x l).n = (x l).c + 1 then 4 else 0)

def handleBytes (h : TileHandle) : List Byte := natLe 8 (h.seq * 2 ^ 32 + h.code)

/-- A slot's entry of the channel block. -/
def slotBlock (a : Acc) : List Byte :=
  natLe 1 ((if a.valid then 1 else 0) + (if a.raw then 2 else 0) + if a.signed then 4 else 0) ++ natLe 1 a.m ++ natLe 1 a.n ++ natLe 1 a.statid ++
  natLe 4 a.ktot ++ zeros 56 ++ (List.range 64).flatMap (fun i => natLe 4 (NMap.get 0 i a.rs)) ++
  (List.range 64).flatMap (fun i => natLe 4 (NMap.get 0 i a.cs)) ++
  natLe 1536 (a.flags.foldl (fun x q => x + (q.2 &&& 7).toNat * 8 ^ q.1) 0)

/-- R264. -/
def channelBlock (t : Team) (accs : List (Nat × Acc)) : List Byte :=
  moduliBytes t.moduli ++ (List.range 32).flatMap (fun i => ((t.handles[i]?).map handleBytes).getD (zeros 8)) ++ accs.flatMap fun q => slotBlock q.2

/-- Offsets of the sections that follow the header; 0 for an absent one. -/
def sectionOffsets : Nat → List (List Byte) → List Nat
  | _, [] => []
  | at_, x :: xs => (if x.isEmpty then 0 else at_) :: sectionOffsets (at_ + x.length) xs

-- DESIGN CHOICE: notes/assumptions/122
/-- The sections of the record, each padded to 64 bytes (R128). -/
def recordSections (s : State) (t : Team) (gs : List Group) (all_ : Bool) (bins : List Bin) (faults : List Defer) : List (List Byte) :=
  [gs.flatMap (fun g => groupBytes (formedBefore gs g) g), localSection s t all_, bankSection s t, cowSection t, binSection bins, padTo64 (faults.flatMap deferBytes),
   flightSection (inFlight s t.tid)]

def recordHeader (s : State) (t : Team) (gs : List Group) (kind size : Nat) (bins faults : Nat) (offs : List Nat) : List Byte :=
  natLe 2 1 ++ natLe 1 kind ++ natLe 1 t.level ++ natLe 4 size ++ natLe 8 (t.seq * 256 + t.launch) ++ natLe 4 t.teamNo ++ zeros 4 ++
  natLe 8 ((t.image.map (·.addr)).getD 0) ++ natLe 8 s.meridian ++ natLe 4 (heldRes s t + packetFlags s t) ++
  natLe 4 (if (nestRegion s gs).isSome then 1 else 0) ++ natLe 8 ((nestRegion s gs).getD 0) ++
  natLe 1 gs.length ++ natLe 1 bins ++ natLe 2 faults ++ natLe 2 (inFlight s t.tid).length ++ natLe 2 t.cow.length ++
  offs.flatMap (natLe 4) ++ zeros 36

/-! ### The save (R126, R127) -/

/-- What a saved group is made again from: rows, uniform registers and sub-groups as the record holds them. -/
def Group.forRecord (g : Group) : Group :=
  let live := g.liveRows
  { g with
    v := g.v.filter fun q => live.getLsbD q.1
    s := g.s.filter fun q => g.liveS.getLsbD q.1
    priv := if g.img.isSome then live else 0, rsv := 0, statid := 0, token := false, defer := [], delivered := [], frag := [], late := [], arrive := []
    yRows := 0, yS := 0
    subs := g.subs.map fun u => { u.dropChain with chain := [], wait := .ready, age := 0, boff := 64, endPending := false, stopPending := false, ahead := [] } }

-- DEDUCED: notes/assumptions/53
/-- A launch for which what a save frees is held (R115, R125). -/
def heldSeq (s : State) (c : Curfew) (core : Nat) : Option Nat :=
  if !c.blocked then ((s.launch? c.forSeq).bind fun L => if L.active then some L.seq else none)
  else ((edf s).find? fun L => match waitNeed s L with | some n => fits s L.seq n core | none => false).map (·.seq)

-- DESIGN CHOICE: notes/assumptions/49
/-- Step 3 and 4: the record is written, the allotment returns and is held. -/
def writeSave (s : State) (t : Team) (c : Curfew) : State :=
  let gs := s.groups.filter fun g => g.tid == t.tid
  let all_ := !gs.all Group.yielded
  let kind := if gs.all Group.yielded then 0 else if gs.any Group.yielded then 2 else 1
  let bins := (s.core t.core).bins.filter fun b => b.tid == t.tid
  let faults := savedDefers gs (c.since.getD s.meridian) ++ t.restored
  let secs := recordSections s t gs all_ bins faults
  let body := secs.flatten
  let size := 128 + body.length
  let accs := savedAccs s t all_
  let used := recordGranules size gs.length accs.length
  let base := s.regs.saveBase.toNat + Config.granule * c.granBase
  let top := base + Config.granule * used
  let blocks := channelBlock t accs ++ gs.flatMap (nbBlock t) ++ barrierBlock t
  let s1 := s.pokeN base (recordHeader s t gs kind size bins.length faults.length (sectionOffsets 128 secs) ++ body)
  let s2 := s1.pokeN (top - blocks.length) blocks
  -- an entry of a bank whose parity fails is written as read and reported (R223)
  let s3 := (ownedBanks s t).foldl (fun s b => (s.bank t.core b).badEntries.foldl (fun s e => parityError s t.core b e 0) s) s2
  let s3 := reportParts s3 t (savedParts s t all_)
  let banks := (ownedBanks s t).map fun b => (b, { s.bank t.core b with bad := [], load := none })
  let x : SavedTeam :=
    { seq := t.seq, entry := t.launch
      team := { t with stash := [], stashLines := [], curfew := none, yAcc := 0, yLocal := 0, restored := faults }
      groups := gs.map Group.forRecord, bins := bins, parts := savedParts s t all_, banks := banks, accs := accs
      fillV := t.image, base := c.granBase, granules := used }
  let slots := ((gs.flatMap fun g => g.subs.map Sub.slot).eraseDups).length
  let regs := s3.regFree t.core
  let s4 := releaseAllot (setBins s3 t.core ((s3.core t.core).bins.filter fun b => b.tid != t.tid)) t
  let s5 : State := checkExhausted
    { s4 with saved := s4.saved ++ [x], granules := s4.granules.map fun g => if g.1 == c.granBase then (c.granBase, used) else g } t.core
  match heldSeq s5 c t.core with
  | none => s5
  | some seq =>
    { s5 with held := s5.held ++
        [{ seq := seq, core := t.core, tslot := t.tslot, slots := slots, regs := s5.regFree t.core - regs, ways := t.ways, segs := t.segs
           cols := t.cols, acc := t.acc, banks := banks.map (·.1) }] }

/-- Every group has yielded or stopped. -/
def readyToSave (s : State) (t : Team) : Bool :=
  let gs := s.groups.filter fun g => g.tid == t.tid
  t.curfew.isSome && !gs.isEmpty &&
  gs.all fun g => g.subs.all fun u => !u.endPending && (match u.wait with | .yielded => true | .stopped _ => true | _ => false)

/-- What step 1 still waits for: stores, tile operations, codebook loads and fragments (R126, R223, R256, R264). -/
def saveWaits (s : State) (t : Team) : Bool :=
  s.stores.any (fun st => st.agent == 0 && st.tid == t.tid) || (s.core t.core).tileQ.any (fun o => o.tid == t.tid) ||
  (ownedBanks s t).any (fun b => (s.bank t.core b).load.isSome) || s.groups.any fun g => g.tid == t.tid && !g.frag.isEmpty

/-- A pending uncorrectable error of a fragment, which is taken before the save (R256). -/
def pendingUe (s : State) (tid : Nat) : Option (Nat × Nat × FragPending) :=
  (s.groups.filter fun g => g.tid == tid).findSome? fun g =>
    (g.frag.find? (·.ue)).bind fun f => (g.subs.find? fun u => (f.sub &&& u.mask) != 0).map fun u => (g.gid, lowestLane u.mask, f)

/-- The trap of that error: the sub-group resumes from it as from any trap. A sub-group that finds no permit stays stopped and takes it
later (R404); once the window has closed, a parked sub-group blocks the curfew (R125). -/
def takeUe (s : State) (q : Nat × Nat × FragPending) : State :=
  match s.ctxOf q.1 q.2.1 with
  | none => s
  | some c =>
    let s1 := takeFragTrap c s q.2.2
    if s1.parkedIn c.gid c.active then
      s1.modTeam c.t.tid fun t => { t with curfew := t.curfew.map fun k => { k with blocked := k.blocked || k.closed } }
    else s

/-- May a write-back of the save take an entry of the issue slot's store buffer (R299)? The team's own records go into the save record,
which frees their entries. -/
def saveRoom (s : State) (c : Ctx) : Bool :=
  let own := (s.groups.filter fun g => g.tid == c.t.tid).map fun g =>
    (g.defer.filter fun d => decide (d.kind < 4) && d.issue == c.u.issue).length
  decide (lateUsed s c.core c.u.issue < Config.lateEntries + own.sum)

-- DEDUCED: notes/assumptions/51
/-- Step 2: a stash line goes to memory as a store of the team's oldest fibre, or to a private copy (R79, R276), while the store buffer
has room. -/
def saveStash (s : State) (t : Team) : State :=
  match (teamSubs s t.tid).head?.bind fun q => s.ctxOf q.1 q.2 with
  | none => s
  | some c =>
    (dirtyLines t 0 t.ways.length).foldl (fun s q =>
      if saveRoom s c then writeBackLine c (lowestLane c.active) s q.1 q.2.1 q.2.2.1 q.2.2.2 else s) s

/-- Has the team no dirty stash line left? -/
def stashClean (s : State) (tid : Nat) : Bool :=
  match s.team? tid with
  | some t => (dirtyLines t 0 t.ways.length).isEmpty
  | none => true

def modCurfew (s : State) (tid : Nat) (f : Curfew → Curfew) : State := s.modTeam tid fun t => { t with curfew := t.curfew.map f }

-- DEDUCED: notes/assumptions/52
/-- TEAM_SAVE (R126), one step of it. -/
def execTeamSave (tid : Nat) (s : State) : Res :=
  match s.team? tid with
  | none => .next s
  | some t =>
    match t.curfew with
    | none => .next s
    | some c =>
      if !readyToSave s t then .next s
      else if c.since.isNone then .next (modCurfew s tid fun c => { c with since := some s.meridian })
      else
        match pendingUe s tid with
        | some q => .next (takeUe s q)
        | none =>
          if saveWaits s t then .next s
          else if !c.stashed then .next (modCurfew (saveStash s t) tid fun c => { c with stashed := stashClean (saveStash s t) tid })
          else .next (writeSave s t c)

/-! ### The restore (R76, R116, R132) -/

/-- A role's reserve serves its groups' private rows first, in group order. -/
def takeReserve (roles : List Role) : List Group → List Role × List Group
  | [] => (roles, [])
  | g :: gs =>
    let left := ((roles[g.role]?).map (·.left)).getD 0
    let rows := (List.range 60).filter fun r => g.priv.getLsbD r
    let mine := rows.take left
    let roles1 := (List.range roles.length).zipWith (fun i ro => if i = g.role then { ro with left := ro.left - mine.length } else ro) roles
    match takeReserve roles1 gs with
    | (r, hs) => (r, { g with rsv := mine.foldl (fun (a : BitVec 60) i => a ||| (1#60 <<< i)) 0 } :: hs)

/-- One group comes back, in the lowest free physical slot. -/
def restoreGroup (core : Nat) (img : Option (List Word)) (s : State) (g : Group) : State :=
  let slot := (s.freeSlot core).getD 0
  let issue := s.issueFor core
  let subs := g.subs.map fun u => { u with slot := slot, issue := issue }
  { s with groups := s.groups ++ [{ g with img := img, remap := (List.range 32).map (fun l => (slot, l)), subs := subs }] }

/-- The image the team starts from, if any, in an image slot of the core; none when it cannot be read. -/
def restoreImage (s : State) (core : Nat) (r : Option ImageRef) : Option (State × Option (List Word)) :=
  match r with
  | none => some (s, none)
  | some r =>
    match readImage s r 0 0x400 with
    | (_, none) => none
    | (s, some hdr) => match imageSlot s core r hdr with | (s, x) => some (s, some x.v)

/-- The physical part of an ordinal. -/
def partAt (t : Team) (kind i : Nat) : Nat := (t.parts kind).getD i 0

-- DEDUCED: notes/assumptions/78
/-- RESTORE of a saved team on a core where it fits. -/
def restoreTeam (s : State) (x : SavedTeam) (core : Nat) : Option State :=
  match restoreImage s core x.fillV with
  | none => none
  | some (s, img) =>
    let tslot := (freeTslot s core x.seq).getD 0
    match takeParts s core x.seq x.team.ways.length x.team.segs.length x.team.cols.length with
    | (s, ways, segs, cols) =>
      match takeReserve (x.team.roles.map fun r => { r with left := r.reserve }) x.groups with
      | (roles, groups) =>
        let t : Team :=
          { x.team with core := core, tslot := tslot, ways := ways, segs := segs, cols := cols, roles := roles
                        moduli := assignDies s.erasedDie x.team.moduli }
        let s : State := { s with teams := s.teams ++ [t], saved := s.saved.filter (fun y => y.team.tid != x.team.tid)
                                  granules := s.granules.filter (fun g => g.1 != x.base), held := s.held.filter fun h => h.seq != x.seq }
        let s := groups.foldl (restoreGroup core img) s
        let s := x.parts.foldl (fun s p =>
          let lo := localKey core (partBase p.kind + partAt t p.kind p.ord * partSize p.kind)
          { s with localMem := p.bytes.foldl (fun m q => NMap.set 0 (lo + q.1) q.2 m) s.localMem
                   badLocal := s.badLocal ++ p.bad.map fun q => (lo / 128 + q.1, q.2) }) s
        let s := x.banks.foldl (fun s q => s.setBank core q.1 { q.2 with owner := some t.tid }) s
        let s := (List.range 4).foldl (fun s i =>
          if t.acc.getLsbD i then s.setAcc core i (((x.accs.find? fun q => q.1 == i).map (·.2)).getD Acc.empty) else s) s
        some (setBins s core ((s.core core).bins ++ x.bins.map fun b =>
          { b with expires := s.cycles + max 64 (s.core core).binTimer.toNat, full := decide (32 ≤ b.fibs.length) }))

/-! ### The pass (R113, R115, R121) -/

/-- Saved teams first, then what is placed for the first time. -/
def placeStep (s : State) (L : Launch) : Option State :=
  match nextSaved s L.seq with
  | some x => (chooseCore s L.seq (savedNeed x)).bind fun core => restoreTeam s x core
  | none => placeNext s L

-- DEDUCED: notes/assumptions/115
/-- A team of the launch fits no core: curfew may be raised for it. -/
def waitForRoom (s : State) (L : Launch) : State :=
  match waitNeed s L with
  | none => s
  | some n => if (chooseCore s L.seq n).isSome then s else raiseCurfew s L

/-- Place for one launch while something fits. -/
def placeLoop : Nat → State → Nat → State
  | 0, s, _ => s
  | n + 1, s, seq =>
    match s.launch? seq with
    | none => s
    | some L =>
      if !L.active then s
      else
        match placeStep s L with
        | some s1 => placeLoop n s1 seq
        | none => waitForRoom s L

/-- One pass of the launch scheduler. -/
def schedulerPass (s : State) : State :=
  let s := (s.teams.map (·.tid)).foldl endIfEmpty s
  (edf s).foldl (fun s L => placeLoop (Config.computeCores * Config.teamSlots) s L.seq) s

/-- SCHEDULER_PASS (R115). -/
def execSchedulerPass (s : State) : Res := .next (schedulerPass s)

end Sys2Proof.Machine
end

