-- ==== Sys2Proof/Machine/UniInt.lean ====
section
/-! DEFINITION. Uniform integer work, compares, uniform predicates and masks: uniform OPs 00 to 09 (R42, R168 to R170), and
STATID (R197). -/

namespace Sys2Proof.Machine

/-- UNOP changes nothing but the latch chain (R42). -/
def execUnop (s : State) : Res := gated {} s fin

/-- `sD := op sA sB` (R168). -/
def uni2 (f : UniR) (s : State) (op : DWord → DWord → DWord) : Res := uniS {} f.g f.d s fun c => op (c.sReg f.a) (c.sReg f.b)

def sh64 (y : DWord) : Nat := (y.extractLsb' 0 6).toNat

def execUadd (f : UniR) (s : State) : Res := uni2 f s fun x y => x + y
def execUsub (f : UniR) (s : State) : Res := uni2 f s fun x y => x - y
def execUmul (f : UniR) (s : State) : Res := uni2 f s fun x y => x * y
def execUmulh (f : UniR) (s : State) : Res := uni2 f s fun x y => (ofI 128 (x.toInt * y.toInt)).extractLsb' 64 64
def execUmulhu (f : UniR) (s : State) : Res := uni2 f s fun x y => BitVec.ofNat 64 (x.toNat * y.toNat / 2 ^ 64)
def execUmin (f : UniR) (s : State) : Res := uni2 f s fun x y => if x.sle y then x else y
def execUmax (f : UniR) (s : State) : Res := uni2 f s fun x y => if x.sle y then y else x
def execUminu (f : UniR) (s : State) : Res := uni2 f s fun x y => if x.ule y then x else y
def execUand (f : UniR) (s : State) : Res := uni2 f s fun x y => x &&& y
def execUor (f : UniR) (s : State) : Res := uni2 f s fun x y => x ||| y
def execUxor (f : UniR) (s : State) : Res := uni2 f s fun x y => x ^^^ y
def execUandn (f : UniR) (s : State) : Res := uni2 f s fun x y => x &&& ~~~y
def execUshl (f : UniR) (s : State) : Res := uni2 f s fun x y => x <<< sh64 y
def execUshr (f : UniR) (s : State) : Res := uni2 f s fun x y => x >>> sh64 y
def execUsar (f : UniR) (s : State) : Res := uni2 f s fun x y => x.sshiftRight (sh64 y)
def execUrotl (f : UniR) (s : State) : Res := uni2 f s fun x y => x.rotateLeft (sh64 y)
def execUlea (f : UniR) (n : BitVec 3) (s : State) : Res := uni2 f s fun x y => x + (y <<< n.toNat)

def execUaddi (f : UniI) (s : State) : Res := uniS {} f.g f.d s fun c => c.sReg f.d + f.i.signExtend 64
def execUli (f : UniI) (s : State) : Res := uniS {} f.g f.d s fun _ => f.i.signExtend 64
def execUlih (f : UniI) (s : State) : Res := uniS {} f.g f.d s fun c => (c.sReg f.d <<< 15) ||| f.i.zeroExtend 64

/-- UCMP (R170). -/
def ucmp (f : UniR) (s : State) (r : DWord → DWord → Bool) : Res := uniK {} f.g f.d s fun c => r (c.sReg f.a) (c.sReg f.b)

def execUcmpEq (f : UniR) (s : State) : Res := ucmp f s fun x y => x == y
def execUcmpNe (f : UniR) (s : State) : Res := ucmp f s fun x y => x != y
def execUcmpLt (f : UniR) (s : State) : Res := ucmp f s fun x y => x.slt y
def execUcmpLe (f : UniR) (s : State) : Res := ucmp f s fun x y => x.sle y
def execUcmpLtu (f : UniR) (s : State) : Res := ucmp f s fun x y => x.ult y
def execUcmpLeu (f : UniR) (s : State) : Res := ucmp f s fun x y => x.ule y

def kBin (f : UniR) (s : State) (op : Bool → Bool → Bool) : Res :=
  uniK {} f.g f.d s fun c => op (c.g.kReg f.a.toNat) (c.g.kReg f.b.toNat)

def execKand (f : UniR) (s : State) : Res := kBin f s fun a b => a && b
def execKor (f : UniR) (s : State) : Res := kBin f s fun a b => a || b
def execKxor (f : UniR) (s : State) : Res := kBin f s fun a b => a != b
def execKnot (f : UniR) (s : State) : Res := uniK {} f.g f.d s fun c => !c.g.kReg f.a.toNat
def execKany (f : UniR) (s : State) : Res := uniK {} f.g f.d s fun c => (lanesOf c.active).any fun l => c.g.p f.a.toNat l
def execKall (f : UniR) (s : State) : Res := uniK {} f.g f.d s fun c => (lanesOf c.active).all fun l => c.g.p f.a.toNat l
def execKnone (f : UniR) (s : State) : Res := uniK {} f.g f.d s fun c => (lanesOf c.active).all fun l => !c.g.p f.a.toNat l

def execUmov (f : UniR) (s : State) : Res := uniS {} f.g f.d s fun c => c.sReg f.a
/-- UFIRST (R170) names a lane register, so the window and its cells' errors apply (R156, R416). -/
def execUfirst (f : UniR) (s : State) : Res :=
  uniform { regs := regOf f.a, reads := regOf f.a } f.g s fun c s =>
    let l := lowestLane c.active
    match regErrors s c.gid (regOf f.a) (maskOf fun i => i == l) with
    | [] => finS c s f.d ((c.reg f.a l).zeroExtend 64)
    | _ => trapAll c (memError s (clusterOf c.core) (posOf c.core) c.t.asid.toNat 0 0 5) cMUNCORR
def execUactive (f : UniR) (s : State) : Res := uniS {} f.g f.d s fun c => c.active.zeroExtend 64
def execUcount (f : UniR) (s : State) : Res := uniS {} f.g f.d s fun c => BitVec.ofNat 64 (lanesOf c.active).length

/-- STATID (R197). -/
def execStatid (f : UniR) (s : State) : Res :=
  uniform {} f.g s fun c s => fin c (s.modGroup c.gid fun g => { g with statid := (c.sReg f.a).extractLsb' 0 6 })

end Sys2Proof.Machine
end

