-- ==== Sys2Proof/Machine/Dispatch.lean ====
section
/-! DEFINITION. One arm per constructor of Instr: a direct call of its meaning. -/

namespace Sys2Proof.Machine

/-- The effect of one instruction of the issuing sub-group, or of one of the device's own steps. -/
def exec (i : Instr) (s : State) : Host.Outcome State Fault Refusal :=
  match i with
  | .iadd f => Sys2Proof.Machine.execIadd f s
  | .iadds f => Sys2Proof.Machine.execIadds f s
  | .iaddd f => Sys2Proof.Machine.execIaddd f s
  | .isub f => Sys2Proof.Machine.execIsub f s
  | .isubs f => Sys2Proof.Machine.execIsubs f s
  | .isubd f => Sys2Proof.Machine.execIsubd f s
  | .imul f => Sys2Proof.Machine.execImul f s
  | .imulh f => Sys2Proof.Machine.execImulh f s
  | .imulhu f => Sys2Proof.Machine.execImulhu f s
  | .imulw f => Sys2Proof.Machine.execImulw f s
  | .imad f => Sys2Proof.Machine.execImad f s
  | .imadw f => Sys2Proof.Machine.execImadw f s
  | .idot4 f => Sys2Proof.Machine.execIdot4 f s
  | .imin f => Sys2Proof.Machine.execImin f s
  | .iminu f => Sys2Proof.Machine.execIminu f s
  | .imax f => Sys2Proof.Machine.execImax f s
  | .imaxu f => Sys2Proof.Machine.execImaxu f s
  | .andL f => Sys2Proof.Machine.execAndL f s
  | .orL f => Sys2Proof.Machine.execOrL f s
  | .xorL f => Sys2Proof.Machine.execXorL f s
  | .andn f => Sys2Proof.Machine.execAndn f s
  | .shl f => Sys2Proof.Machine.execShl f s
  | .shr f => Sys2Proof.Machine.execShr f s
  | .sar f => Sys2Proof.Machine.execSar f s
  | .rotl f => Sys2Proof.Machine.execRotl f s
  | .popc f => Sys2Proof.Machine.execPopc f s
  | .clz f => Sys2Proof.Machine.execClz f s
  | .brev f => Sys2Proof.Machine.execBrev f s
  | .iabs f => Sys2Proof.Machine.execIabs f s
  | .bfx f => Sys2Proof.Machine.execBfx f s
  | .bfxs f => Sys2Proof.Machine.execBfxs f s
  | .bfi f => Sys2Proof.Machine.execBfi f s
  | .icmpEq f => Sys2Proof.Machine.execIcmpEq f s
  | .icmpNe f => Sys2Proof.Machine.execIcmpNe f s
  | .icmpLt f => Sys2Proof.Machine.execIcmpLt f s
  | .icmpLe f => Sys2Proof.Machine.execIcmpLe f s
  | .icmpuLt f => Sys2Proof.Machine.execIcmpuLt f s
  | .icmpuLe f => Sys2Proof.Machine.execIcmpuLe f s
  | .icmpuGt f => Sys2Proof.Machine.execIcmpuGt f s
  | .icmpuGe f => Sys2Proof.Machine.execIcmpuGe f s
  | .pand f => Sys2Proof.Machine.execPand f s
  | .por f => Sys2Proof.Machine.execPor f s
  | .pxor f => Sys2Proof.Machine.execPxor f s
  | .pnand f => Sys2Proof.Machine.execPnand f s
  | .pmovr f => Sys2Proof.Machine.execPmovr f s
  | .pmovw f => Sys2Proof.Machine.execPmovw f s
  | .pbit f => Sys2Proof.Machine.execPbit f s
  | .mov f => Sys2Proof.Machine.execMov f s
  | .movs f => Sys2Proof.Machine.execMovs f s
  | .selfIx f => Sys2Proof.Machine.execSelfIx f s
  | .laneid f => Sys2Proof.Machine.execLaneid f s
  | .selp f => Sys2Proof.Machine.execSelp f s
  | .iaddi f => Sys2Proof.Machine.execIaddi f s
  | .movi f => Sys2Proof.Machine.execMovi f s
  | .shli f => Sys2Proof.Machine.execShli f s
  | .shri f => Sys2Proof.Machine.execShri f s
  | .sari f => Sys2Proof.Machine.execSari f s
  | .rotli f => Sys2Proof.Machine.execRotli f s
  | .andi f => Sys2Proof.Machine.execAndi f s
  | .nbl f => Sys2Proof.Machine.execNbl f s
  | .nbr f => Sys2Proof.Machine.execNbr f s
  | .nblb f => Sys2Proof.Machine.execNblb f s
  | .nbrb f => Sys2Proof.Machine.execNbrb f s
  | .shflIdx f => Sys2Proof.Machine.execShflIdx f s
  | .shflXor f => Sys2Proof.Machine.execShflXor f s
  | .shflUp f => Sys2Proof.Machine.execShflUp f s
  | .shflDn f => Sys2Proof.Machine.execShflDn f s
  | .ballot f => Sys2Proof.Machine.execBallot f s
  | .anyP f => Sys2Proof.Machine.execAnyP f s
  | .allP f => Sys2Proof.Machine.execAllP f s
  | .elect f => Sys2Proof.Machine.execElect f s
  | .lredIadd f => Sys2Proof.Machine.execLredIadd f s
  | .lredImax f => Sys2Proof.Machine.execLredImax f s
  | .lredFadd f => Sys2Proof.Machine.execLredFadd f s
  | .lredFmax f => Sys2Proof.Machine.execLredFmax f s
  | .lscanIaddEx f => Sys2Proof.Machine.execLscanIaddEx f s
  | .lscanIaddIn f => Sys2Proof.Machine.execLscanIaddIn f s
  | .lscanFaddEx f => Sys2Proof.Machine.execLscanFaddEx f s
  | .lscanFaddIn f => Sys2Proof.Machine.execLscanFaddIn f s
  | .fadd f rm => Sys2Proof.Machine.execFadd f rm s
  | .fsub f rm => Sys2Proof.Machine.execFsub f rm s
  | .fmul f rm => Sys2Proof.Machine.execFmul f rm s
  | .ffma f rm => Sys2Proof.Machine.execFfma f rm s
  | .fmin f => Sys2Proof.Machine.execFmin f s
  | .fmax f => Sys2Proof.Machine.execFmax f s
  | .fminn f => Sys2Proof.Machine.execFminn f s
  | .fmaxn f => Sys2Proof.Machine.execFmaxn f s
  | .fcmpEq f => Sys2Proof.Machine.execFcmpEq f s
  | .fcmpLt f => Sys2Proof.Machine.execFcmpLt f s
  | .fcmpLe f => Sys2Proof.Machine.execFcmpLe f s
  | .fcmpUn f => Sys2Proof.Machine.execFcmpUn f s
  | .fabs f => Sys2Proof.Machine.execFabs f s
  | .fneg f => Sys2Proof.Machine.execFneg f s
  | .frint f => Sys2Proof.Machine.execFrint f s
  | .fclass f => Sys2Proof.Machine.execFclass f s
  | .frcp f => Sys2Proof.Machine.execFrcp f s
  | .frsq f => Sys2Proof.Machine.execFrsq f s
  | .fex2 f => Sys2Proof.Machine.execFex2 f s
  | .flg2 f => Sys2Proof.Machine.execFlg2 f s
  | .hadd2 f => Sys2Proof.Machine.execHadd2 f s
  | .hmul2 f => Sys2Proof.Machine.execHmul2 f s
  | .hfma2 f => Sys2Proof.Machine.execHfma2 f s
  | .hmax2 f => Sys2Proof.Machine.execHmax2 f s
  | .f2bf f => Sys2Proof.Machine.execF2bf f s
  | .bf2f f => Sys2Proof.Machine.execBf2f f s
  | .f2i f => Sys2Proof.Machine.execF2i f s
  | .i2f f => Sys2Proof.Machine.execI2f f s
  | .f2iz f => Sys2Proof.Machine.execF2iz f s
  | .u2f f => Sys2Proof.Machine.execU2f f s
  | .f2uz f => Sys2Proof.Machine.execF2uz f s
  | .bscale f => Sys2Proof.Machine.execBscale f s
  | .bsq f => Sys2Proof.Machine.execBsq f s
  | .bsqe f => Sys2Proof.Machine.execBsqe f s
  | .bsdq f => Sys2Proof.Machine.execBsdq f s
  | .cbxB8 f => Sys2Proof.Machine.execCbxB8 f s
  | .cbxN4 f => Sys2Proof.Machine.execCbxN4 f s
  | .xffma f k => Sys2Proof.Machine.execXffma f k s
  | .xfmul f k => Sys2Proof.Machine.execXfmul f k s
  | .mfrag f => Sys2Proof.Machine.execMfrag f s
  | .mfraga f => Sys2Proof.Machine.execMfraga f s
  | .mfragx f => Sys2Proof.Machine.execMfragx f s
  | .rmod f => Sys2Proof.Machine.execRmod f s
  | .rrec f => Sys2Proof.Machine.execRrec f s
  | .rchk f => Sys2Proof.Machine.execRchk f s
  | .rmadC03 f c => Sys2Proof.Machine.execRmadC03 f c s
  | .rmadC45 f c => Sys2Proof.Machine.execRmadC45 f c s
  | .ldl f sz => Sys2Proof.Machine.execLdl f sz s
  | .stl f sz => Sys2Proof.Machine.execStl f sz s
  | .ldlv f sz => Sys2Proof.Machine.execLdlv f sz s
  | .stlv f sz => Sys2Proof.Machine.execStlv f sz s
  | .atlAdd f => Sys2Proof.Machine.execAtlAdd f s
  | .atlMax f => Sys2Proof.Machine.execAtlMax f s
  | .atlMin f => Sys2Proof.Machine.execAtlMin f s
  | .atlExch f => Sys2Proof.Machine.execAtlExch f s
  | .casl f z => Sys2Proof.Machine.execCasl f z s
  | .ld f sz => Sys2Proof.Machine.execLd f sz s
  | .st f sz => Sys2Proof.Machine.execSt f sz s
  | .lda f fo => Sys2Proof.Machine.execLda f fo s
  | .str f fo => Sys2Proof.Machine.execStr f fo s
  | .atomAdd f => Sys2Proof.Machine.execAtomAdd f s
  | .atomMax f => Sys2Proof.Machine.execAtomMax f s
  | .atomMin f => Sys2Proof.Machine.execAtomMin f s
  | .atomExch f => Sys2Proof.Machine.execAtomExch f s
  | .atombAnd f => Sys2Proof.Machine.execAtombAnd f s
  | .atombOr f => Sys2Proof.Machine.execAtombOr f s
  | .atombXor f => Sys2Proof.Machine.execAtombXor f s
  | .atombAddf f => Sys2Proof.Machine.execAtombAddf f s
  | .casW f => Sys2Proof.Machine.execCasW f s
  | .casD f => Sys2Proof.Machine.execCasD f s
  | .casQ f => Sys2Proof.Machine.execCasQ f s
  | .casQAr f => Sys2Proof.Machine.execCasQAr f s
  | .unop => Sys2Proof.Machine.execUnop s
  | .uadd f => Sys2Proof.Machine.execUadd f s
  | .usub f => Sys2Proof.Machine.execUsub f s
  | .umul f => Sys2Proof.Machine.execUmul f s
  | .umulh f => Sys2Proof.Machine.execUmulh f s
  | .umulhu f => Sys2Proof.Machine.execUmulhu f s
  | .umin f => Sys2Proof.Machine.execUmin f s
  | .umax f => Sys2Proof.Machine.execUmax f s
  | .uminu f => Sys2Proof.Machine.execUminu f s
  | .uand f => Sys2Proof.Machine.execUand f s
  | .uor f => Sys2Proof.Machine.execUor f s
  | .uxor f => Sys2Proof.Machine.execUxor f s
  | .uandn f => Sys2Proof.Machine.execUandn f s
  | .ushl f => Sys2Proof.Machine.execUshl f s
  | .ushr f => Sys2Proof.Machine.execUshr f s
  | .usar f => Sys2Proof.Machine.execUsar f s
  | .urotl f => Sys2Proof.Machine.execUrotl f s
  | .uaddi f => Sys2Proof.Machine.execUaddi f s
  | .uli f => Sys2Proof.Machine.execUli f s
  | .ulih f => Sys2Proof.Machine.execUlih f s
  | .ucmpEq f => Sys2Proof.Machine.execUcmpEq f s
  | .ucmpNe f => Sys2Proof.Machine.execUcmpNe f s
  | .ucmpLt f => Sys2Proof.Machine.execUcmpLt f s
  | .ucmpLe f => Sys2Proof.Machine.execUcmpLe f s
  | .ucmpLtu f => Sys2Proof.Machine.execUcmpLtu f s
  | .ucmpLeu f => Sys2Proof.Machine.execUcmpLeu f s
  | .kand f => Sys2Proof.Machine.execKand f s
  | .kor f => Sys2Proof.Machine.execKor f s
  | .kxor f => Sys2Proof.Machine.execKxor f s
  | .knot f => Sys2Proof.Machine.execKnot f s
  | .kany f => Sys2Proof.Machine.execKany f s
  | .kall f => Sys2Proof.Machine.execKall f s
  | .knone f => Sys2Proof.Machine.execKnone f s
  | .umov f => Sys2Proof.Machine.execUmov f s
  | .ufirst f => Sys2Proof.Machine.execUfirst f s
  | .uactive f => Sys2Proof.Machine.execUactive f s
  | .ucount f => Sys2Proof.Machine.execUcount f s
  | .ulea f n => Sys2Proof.Machine.execUlea f n s
  | .usread f => Sys2Proof.Machine.execUsread f s
  | .uswrite f => Sys2Proof.Machine.execUswrite f s
  | .bra f => Sys2Proof.Machine.execBra f s
  | .brd f => Sys2Proof.Machine.execBrd f s
  | .call f => Sys2Proof.Machine.execCall f s
  | .ret f => Sys2Proof.Machine.execRet f s
  | .brx f => Sys2Proof.Machine.execBrx f s
  | .callx f => Sys2Proof.Machine.execCallx f s
  | .enrol f => Sys2Proof.Machine.execEnrol f s
  | .enrolMask f => Sys2Proof.Machine.execEnrolMask f s
  | .rejoin f => Sys2Proof.Machine.execRejoin f s
  | .strike f => Sys2Proof.Machine.execStrike f s
  | .loopImm f => Sys2Proof.Machine.execLoopImm f s
  | .loopReg f => Sys2Proof.Machine.execLoopReg f s
  | .lbrk g level => Sys2Proof.Machine.execLbrk g level s
  | .bar f => Sys2Proof.Machine.execBar f s
  | .arrive f => Sys2Proof.Machine.execArrive f s
  | .await f => Sys2Proof.Machine.execAwait f s
  | .arrwait f => Sys2Proof.Machine.execArrwait f s
  | .sstep f => Sys2Proof.Machine.execSstep f s
  | .sstepPod f => Sys2Proof.Machine.execSstepPod f s
  | .napUntil f => Sys2Proof.Machine.execNapUntil f s
  | .napWake f => Sys2Proof.Machine.execNapWake f s
  | .napCyc f => Sys2Proof.Machine.execNapCyc f s
  | .wake f => Sys2Proof.Machine.execWake f s
  | .spawn f => Sys2Proof.Machine.execSpawn f s
  | .spawnf f => Sys2Proof.Machine.execSpawnf f s
  | .freeze f => Sys2Proof.Machine.execFreeze f s
  | .freezen f => Sys2Proof.Machine.execFreezen f s
  | .nest f => Sys2Proof.Machine.execNest f s
  | .endU f => Sys2Proof.Machine.execEndU f s
  | .endl f => Sys2Proof.Machine.execEndl f s
  | .endlRemoteStop gid lane => Sys2Proof.Machine.execEndlRemoteStop gid lane s
  | .launch f => Sys2Proof.Machine.execLaunch f s
  | .launchTry f => Sys2Proof.Machine.execLaunchTry f s
  | .lwait f => Sys2Proof.Machine.execLwait f s
  | .lwaitPoll f => Sys2Proof.Machine.execLwaitPoll f s
  | .yield f => Sys2Proof.Machine.execYield f s
  | .curf f => Sys2Proof.Machine.execCurf f s
  | .statid f => Sys2Proof.Machine.execStatid f s
  | .tile f => Sys2Proof.Machine.execTile f s
  | .tileL f => Sys2Proof.Machine.execTileL f s
  | .twait f => Sys2Proof.Machine.execTwait f s
  | .twaitPoll f => Sys2Proof.Machine.execTwaitPoll f s
  | .tdrainFp32 f => Sys2Proof.Machine.execTdrainFp32 f s
  | .tdrainBf16 f => Sys2Proof.Machine.execTdrainBf16 f s
  | .tdrainAcc f => Sys2Proof.Machine.execTdrainAcc f s
  | .tdrainI64 f => Sys2Proof.Machine.execTdrainI64 f s
  | .tdrainPlanes f => Sys2Proof.Machine.execTdrainPlanes f s
  | .tzero f => Sys2Proof.Machine.execTzero f s
  | .modset f => Sys2Proof.Machine.execModset f s
  | .modsetRead f => Sys2Proof.Machine.execModsetRead f s
  | .modsetDefault f => Sys2Proof.Machine.execModsetDefault f s
  | .ctnrd f => Sys2Proof.Machine.execCtnrd f s
  | .ctnrdInject f => Sys2Proof.Machine.execCtnrdInject f s
  | .ctnrdClr f => Sys2Proof.Machine.execCtnrdClr f s
  | .cballoc f => Sys2Proof.Machine.execCballoc f s
  | .cballocFree f => Sys2Proof.Machine.execCballocFree f s
  | .cbfence f => Sys2Proof.Machine.execCbfence f s
  | .cbld f k => Sys2Proof.Machine.execCbld f k s
  | .cbw g d bank e h => Sys2Proof.Machine.execCbw g d bank e h s
  | .cbr g d e h bank => Sys2Proof.Machine.execCbr g d e h bank s
  | .pin f => Sys2Proof.Machine.execPin f s
  | .unpin f => Sys2Proof.Machine.execUnpin f s
  | .stash f => Sys2Proof.Machine.execStash f s
  | .stashWb f => Sys2Proof.Machine.execStashWb f s
  | .stashUnmap f => Sys2Proof.Machine.execStashUnmap f s
  | .stashDiscard f => Sys2Proof.Machine.execStashDiscard f s
  | .colinfo f => Sys2Proof.Machine.execColinfo f s
  | .fenceT f => Sys2Proof.Machine.execFenceT f s
  | .fenceD f => Sys2Proof.Machine.execFenceD f s
  | .fenceP f => Sys2Proof.Machine.execFenceP f s
  | .fenceSc f => Sys2Proof.Machine.execFenceSc f s
  | .fenceAcq f => Sys2Proof.Machine.execFenceAcq f s
  | .fenceEng f => Sys2Proof.Machine.execFenceEng f s
  | .pref2 f => Sys2Proof.Machine.execPref2 f s
  | .pref1 f => Sys2Proof.Machine.execPref1 f s
  | .evict1 f => Sys2Proof.Machine.execEvict1 f s
  | .wbl2 f => Sys2Proof.Machine.execWbl2 f s
  | .plq f => Sys2Proof.Machine.execPlq f s
  | .plinv f => Sys2Proof.Machine.execPlinv f s
  | .tlbi f => Sys2Proof.Machine.execTlbi f s
  | .tlbiVa f => Sys2Proof.Machine.execTlbiVa f s
  | .tlbiAll f => Sys2Proof.Machine.execTlbiAll f s
  | .copyPlain f => Sys2Proof.Machine.execCopyPlain f s
  | .copySb12 f => Sys2Proof.Machine.execCopySb12 f s
  | .copyRp16 f => Sys2Proof.Machine.execCopyRp16 f s
  | .copyBf16 f => Sys2Proof.Machine.execCopyBf16 f s
  | .copyGather f => Sys2Proof.Machine.execCopyGather f s
  | .copyDrain f => Sys2Proof.Machine.execCopyDrain f s
  | .cwait f => Sys2Proof.Machine.execCwait f s
  | .cwaitPoll f => Sys2Proof.Machine.execCwaitPoll f s
  | .cwaitCancel f => Sys2Proof.Machine.execCwaitCancel f s
  | .sluiceExcl f => Sys2Proof.Machine.execSluiceExcl f s
  | .sluiceWrite f => Sys2Proof.Machine.execSluiceWrite f s
  | .sluiceSnap f => Sys2Proof.Machine.execSluiceSnap f s
  | .sluiceUnlock f => Sys2Proof.Machine.execSluiceUnlock f s
  | .brine f => Sys2Proof.Machine.execBrine f s
  | .bwait f => Sys2Proof.Machine.execBwait f s
  | .bwaitPoll f => Sys2Proof.Machine.execBwaitPoll f s
  | .btbl f => Sys2Proof.Machine.execBtbl f s
  | .putX f => Sys2Proof.Machine.execPutX f s
  | .getX f => Sys2Proof.Machine.execGetX f s
  | .putc f => Sys2Proof.Machine.execPutc f s
  | .atomr f => Sys2Proof.Machine.execAtomr f s
  | .tsend f => Sys2Proof.Machine.execTsend f s
  | .tsendCancel f => Sys2Proof.Machine.execTsendCancel f s
  | .ctrrd f => Sys2Proof.Machine.execCtrrd f s
  | .ctrset f => Sys2Proof.Machine.execCtrset f s
  | .ctrwait f => Sys2Proof.Machine.execCtrwait f s
  | .ctradd f => Sys2Proof.Machine.execCtradd f s
  | .coll f => Sys2Proof.Machine.execColl f s
  | .collWait f => Sys2Proof.Machine.execCollWait f s
  | .collPoll f => Sys2Proof.Machine.execCollPoll f s
  | .collAbort f => Sys2Proof.Machine.execCollAbort f s
  | .trapI f => Sys2Proof.Machine.execTrapI f s
  | .tresume f => Sys2Proof.Machine.execTresume f s
  | .saveBlk f => Sys2Proof.Machine.execSaveBlk f s
  | .restoreBlk f => Sys2Proof.Machine.execRestoreBlk f s
  | .hostsig f => Sys2Proof.Machine.execHostsig f s
  | .trapBackoffExpiry gid lane => Sys2Proof.Machine.execTrapBackoffExpiry gid lane s
  | .coalescerClose rec => Sys2Proof.Machine.execCoalescerClose rec s
  | .trapQueueWrite rec => Sys2Proof.Machine.execTrapQueueWrite rec s
  | .serviceFaultPost => Sys2Proof.Machine.execServiceFaultPost s
  | .hostProgramStart slot v => Sys2Proof.Machine.execHostProgramStart slot v s
  | .hostProgramAbort slot v => Sys2Proof.Machine.execHostProgramAbort slot v s
  | .serviceTeamStart v => Sys2Proof.Machine.execServiceTeamStart v s
  | .registerWrite off v => Sys2Proof.Machine.execRegisterWrite off v s
  | .apertureAccess a => Sys2Proof.Machine.execApertureAccess a s
  | .featAcceptWrite v => Sys2Proof.Machine.execFeatAcceptWrite v s
  | .curfewWinWrite v => Sys2Proof.Machine.execCurfewWinWrite v s
  | .leaseL1Write v => Sys2Proof.Machine.execLeaseL1Write v s
  | .pwrCapWrite v => Sys2Proof.Machine.execPwrCapWrite v s
  | .zoneReqWrite v => Sys2Proof.Machine.execZoneReqWrite v s
  | .tqBaseWrite v => Sys2Proof.Machine.execTqBaseWrite v s
  | .hsigTailWrite v => Sys2Proof.Machine.execHsigTailWrite v s
  | .errSumCtlWrite v => Sys2Proof.Machine.execErrSumCtlWrite v s
  | .merCtlWrite v => Sys2Proof.Machine.execMerCtlWrite v s
  | .attCtlStart v => Sys2Proof.Machine.execAttCtlStart v s
  | .attestationComplete => Sys2Proof.Machine.execAttestationComplete s
  | .fwUpdStart v => Sys2Proof.Machine.execFwUpdStart v s
  | .fwUpdateComplete => Sys2Proof.Machine.execFwUpdateComplete s
  | .warmReset => Sys2Proof.Machine.execWarmReset s
  | .powerUp b => Sys2Proof.Machine.execPowerUp b s
  | .powerLoss => Sys2Proof.Machine.execPowerLoss s
  | .thermalTrip => Sys2Proof.Machine.execThermalTrip s
  | .clockThrottle cycles => Sys2Proof.Machine.execClockThrottle cycles s
  | .meridianLock ns => Sys2Proof.Machine.execMeridianLock ns s
  | .meridianLockLoss => Sys2Proof.Machine.execMeridianLockLoss s
  | .queuePairSetup pod => Sys2Proof.Machine.execQueuePairSetup pod s
  | .inboundFabricRequest r => Sys2Proof.Machine.execInboundFabricRequest r s
  | .redContribution store => Sys2Proof.Machine.execRedContribution store s
  | .replicaStore store => Sys2Proof.Machine.execReplicaStore store s
  | .schedulerPass => Sys2Proof.Machine.execSchedulerPass s
  | .curfewWindowClose team => Sys2Proof.Machine.execCurfewWindowClose team s
  | .teamSave team => Sys2Proof.Machine.execTeamSave team s
  | .launchLate entry => Sys2Proof.Machine.execLaunchLate entry s
  | .launchCompletion entry => Sys2Proof.Machine.execLaunchCompletion entry s
  | .binTimerExpiry core bin => Sys2Proof.Machine.execBinTimerExpiry core bin s
  | .binGroupFormation core bin => Sys2Proof.Machine.execBinGroupFormation core bin s
  | .parkedRowRetry gid lane => Sys2Proof.Machine.execParkedRowRetry gid lane s
  | .brdSlotTimeout gid lane => Sys2Proof.Machine.execBrdSlotTimeout gid lane s
  | .napUntilExpiry gid lane => Sys2Proof.Machine.execNapUntilExpiry gid lane s
  | .napCycleExpiry gid lane => Sys2Proof.Machine.execNapCycleExpiry gid lane s
  | .storeAtL2 store => Sys2Proof.Machine.execStoreAtL2 store s
  | .storeApplication store => Sys2Proof.Machine.execStoreApplication store s
  | .storeTimeReturn store => Sys2Proof.Machine.execStoreTimeReturn store s
  | .storeFailureReturn store => Sys2Proof.Machine.execStoreFailureReturn store s
  | .pageTableWalk core asid va => Sys2Proof.Machine.execPageTableWalk core asid va s
  | .lineFill core asid va => Sys2Proof.Machine.execLineFill core asid va s
  | .leaseExpiry core asid va => Sys2Proof.Machine.execLeaseExpiry core asid va s
  | .zoneCompression => Sys2Proof.Machine.execZoneCompression s
  | .cbldComplete core bank => Sys2Proof.Machine.execCbldComplete core bank s
  | .tileOperationStart core => Sys2Proof.Machine.execTileOperationStart core s
  | .tileOperationComplete core => Sys2Proof.Machine.execTileOperationComplete core s
  | .tzeroRun core => Sys2Proof.Machine.execTzeroRun core s
  | .ctnInjectionRun core => Sys2Proof.Machine.execCtnInjectionRun core s
  | .drainRun core => Sys2Proof.Machine.execDrainRun core s
  | .drainComplete core => Sys2Proof.Machine.execDrainComplete core s
  | .fragmentComplete gid => Sys2Proof.Machine.execFragmentComplete gid s
  | .copyOperationStart engine => Sys2Proof.Machine.execCopyOperationStart engine s
  | .copyOperationComplete engine => Sys2Proof.Machine.execCopyOperationComplete engine s
  | .brineJobStart brineLane => Sys2Proof.Machine.execBrineJobStart brineLane s
  | .brineJobComplete brineLane => Sys2Proof.Machine.execBrineJobComplete brineLane s
  | .transferComplete entry r => Sys2Proof.Machine.execTransferComplete entry r s
  | .triggeredTransferStart slot => Sys2Proof.Machine.execTriggeredTransferStart slot s
  | .collectiveMeet entry r => Sys2Proof.Machine.execCollectiveMeet entry r s
  | .collectiveChunkReduce entry chunk r => Sys2Proof.Machine.execCollectiveChunkReduce entry chunk r s
  | .collectiveComplete entry => Sys2Proof.Machine.execCollectiveComplete entry s
  | .participantUnreachable entry => Sys2Proof.Machine.execParticipantUnreachable entry s
  | .superstepComplete entry others first => Sys2Proof.Machine.execSuperstepComplete entry others first s
  | .fabricPortDown port => Sys2Proof.Machine.execFabricPortDown port s
  | .fabricPortUp port => Sys2Proof.Machine.execFabricPortUp port s
  | .peerStorePerform store => Sys2Proof.Machine.execPeerStorePerform store s

end Sys2Proof.Machine
end

