-- ==== Sys2Proof/Machine/Issue.lean ====
section
/-! DEFINITION. One move of the machine: time, fetching and issuing one instruction of a sub-group, and the order in which moves
come when none is prescribed (R21, R22, R31, R33, R35, R89, R118 to R120, R125, R132, R221, R316, R444, R483). -/

namespace Sys2Proof.Machine

noncomputable section

/-! ### Who may issue (R33, R118) -/

/-- A trap service team that has been stopped (R414). -/
def Ctx.stoppedService (c : Ctx) : Bool := c.t.halted && (match c.t.kind with | .service _ => true | _ => false)

/-- The last issuer of the slot's lane pipe stands before a latch reader: the pipe is not switched away from it. -/
def latchHeld (s : State) (c : Ctx) : Bool :=
  let p := NMap.get Pipe.idle (2 * c.u.issue) (s.core c.core).pipes
  !(p.gid == c.gid && c.active.getLsbD p.lane) &&
  (match s.ctxOf p.gid p.lane with
   | some d => d.core == c.core && d.u.issue == c.u.issue && (d.u.wait == .ready || d.u.wait == .stall) && !d.stoppedService &&
       !atSwitchPoint s d
   | none => false)

/-! ### Issuing (R20, R21, R31, R35, R118) -/

/-- The issue slot's pipe: 0 for lane instructions, 1 for uniform ones. -/
def pipeOf (w : Word) : Nat := if isUniformWord w then 1 else 0

/-- The sub-groups that share the issuing one's physical slot are one hardware group with it: a uniform instruction of one leaves
the others no chain (R31, R137, R160). -/
def dropShared (c : Ctx) (s : State) : State :=
  s.modGroup c.gid fun g => { g with subs := g.subs.map fun u => if u.slot == c.u.slot && !(u.mask == c.u.mask) then u.dropChain else u }

/-- The wait points (R301). -/
def isWaitPoint (i : Instr) : Bool :=
  match i with
  | .fenceT _ | .fenceD _ | .fenceP _ | .fenceSc _ | .fenceAcq _ | .fenceEng _ | .bar _ | .arrwait _ | .await _ | .rejoin _ | .endU _ | .endl _
  | .lwait _ | .lwaitPoll _ | .twait _ | .twaitPoll _ | .cwait _ | .cwaitPoll _ | .cwaitCancel _ | .bwait _ | .bwaitPoll _ | .yield _
  | .sstep _ | .sstepPod _ | .freeze _ | .freezen _ => true
  | _ => false

/-- Words fetched ahead of a wait point are fetched again after it, and one that has issued is not kept (R483). -/
def dropAhead (i : Instr) (c : Ctx) (s : State) : State :=
  if c.u.ahead.isEmpty then s
  else c.setSub s { c.u with ahead := if isWaitPoint i then [] else c.u.ahead.filter fun q => decide (c.u.pc < q.1) }

/-- What issuing a word does before the word's own meaning: the chains of others, the pipe's issuer, and the issuing sub-group. -/
def beforeIssue (c : Ctx) (i : Instr) (w : Word) (s : State) : State :=
  let key := 2 * c.u.issue + pipeOf w
  let s0 := dropAhead i c s
  let s1 := if isUniformWord w then dropShared c s0 else s0.switchPipe c.core c.u.issue c.gid c.u.mask
  let s2 : State := { s1 with cur := some (c.gid, c.lane) }
  s2.modCore c.core fun x =>
    let p := NMap.get Pipe.idle key x.pipes
    let run := if p.gid == c.gid && c.active.getLsbD p.lane then p.run + 1 else 1
    { x with pipes := NMap.set Pipe.idle key ⟨c.gid, lowestLane c.active, run⟩ x.pipes }

/-- The fetched bytes issue: an unassigned word traps ILLEGAL (R35). -/
def issueBytes (c : Ctx) (s : State) (bs : List Byte) : Res :=
  match decodeBytes bs with
  | .error _ => trapAll c s cILLEGAL
  | .ok (i, _) => exec i (beforeIssue c i (BitVec.ofNat 32 (leNat bs)) s)

/-- A lane instruction that the pipe is not free for (R33). -/
def pipeHeld (s : State) (c : Ctx) (w : Word) : Bool := !isUniformWord w && latchHeld s c

/-- A move of one sub-group: it ends or stops where that is ordered, takes a restored record, or issues its next instruction. -/
def issueAt (gid lane : Nat) (s : State) : Res :=
  match s.ctxOf gid lane with
  | none => .next s
  | some c =>
    if !c.u.mayIssue || c.stoppedService then .next s
    else if c.u.endPending && atSwitchPoint s c then execEndlRemoteStop gid lane s
    else if c.u.stopPending && atSwitchPoint s c then .next (settleStop s gid lane)
    else if !(restoredItems c).isEmpty then .next (deliverRestored c s)
    else if (heldWord s c).isNone && podWaits s c (lowestLane c.active) .fetch c.u.pc 4 then .next s
    else
      match fetchWord s c with
      | (s1, .error k) => trapAllMem c s1 k c.u.pc
      | (s1, .ok bs) => if pipeHeld s c (BitVec.ofNat 32 (leNat bs)) then .next s else issueBytes c s1 bs

/-! ### The choice of an issue slot (R118 to R120) -/

/-- The sub-groups that issue from one slot of a core. -/
def slotSubs (s : State) (core issue : Nat) : List Ctx :=
  (s.groups.flatMap fun g => g.subs.filterMap fun u => s.ctxOf g.gid (lowestLane u.mask)).filter fun c =>
    c.core == core && c.u.issue == issue

/-- The word at a sub-group's PC, if it can be fetched. -/
def nextWord? (s : State) (c : Ctx) : Option Word :=
  match fetchWord s c with
  | (_, .ok bs) => some (BitVec.ofNat 32 (leNat bs))
  | (_, .error _) => none

/-- The pipe of a sub-group's next instruction. -/
def nextPipe (s : State) (c : Ctx) : Nat := ((nextWord? s c).map pipeOf).getD 0

/-- Is the sub-group ready: does it move, and not merely wait (R118)? -/
def isReady (s : State) (c : Ctx) : Bool :=
  c.u.mayIssue &&
  (match issueAt c.gid c.lane s with
   | .next t =>
     (match t.ctxOf c.gid c.lane with
      | some d => d.u.wait != .stall && (if c.u.wait == .ready then t != s else d.u.pc != c.u.pc || d.u.wait != c.u.wait)
      | none => true)
   | _ => true)

/-- Of two ready sub-groups, does `a` come before `b` (R118)? -/
def issuesBefore (a b : Ctx) : Bool :=
  decide (b.u.age < a.u.age) || (a.u.age == b.u.age && (decide (a.gid < b.gid) || (a.gid == b.gid && decide (a.lane < b.lane))))

/-- The ready sub-group with the highest counter, ties as R118 says. -/
def highest : List Ctx → Option Ctx
  | [] => none
  | c :: cs =>
    match highest cs with
    | none => some c
    | some x => if issuesBefore x c then some x else some c

/-- A counter that has reached 4,096. -/
def Ctx.aged (c : Ctx) : Bool := decide (4096 ≤ c.u.age)

/-- The sub-group that issued on a pipe in the previous cycle, and how often in a row. -/
def onPipe (s : State) (core issue k : Nat) (cs : List Ctx) : Option (Ctx × Nat) :=
  let p := NMap.get Pipe.idle (2 * issue + k) (s.core core).pipes
  if p.run = 0 then none else (cs.find? fun c => c.gid == p.gid && c.active.getLsbD p.lane).map fun c => (c, p.run)

/-- R118: the choice of one pipe among the sub-groups that are ready for it. -/
def pickPipe (s : State) (core issue k : Nat) (cs : List Ctx) : Option Ctx :=
  match onPipe s core issue k cs with
  | none => highest cs
  | some (cur, run) =>
    if ((nextWord? s cur).map wordReadsLatch).getD false then some cur
    else
      match highest cs with
      | some x => if x.aged then some x else if run < 32 then some cur else some x
      | none => none

/-- The ports of a slot that a word needs (R119): register file, memory request. -/
def needsRegPort (w : Word) : Bool :=
  !isUniformWord w || (opOf w == 0x07 && 4 ≤ (f3Of w).toNat && (f3Of w).toNat ≤ 6) || (opOf w == 0x08 && f3Of w == 1)
def needsMemPort (w : Word) : Bool :=
  let op := (opOf w).toNat
  if isUniformWord w then (decide (0x20 ≤ op) && decide (op ≤ 0x2D)) || (decide (0x30 ≤ op) && decide (op ≤ 0x3D))
  else decide (0x30 ≤ op) && decide (op ≤ 0x3E)

/-- Do a lane and a uniform instruction need one port (R119)? -/
def portConflict (a b : Word) : Bool := (needsRegPort a && needsRegPort b) || (needsMemPort a && needsMemPort b)

/-- Does `a` win a port conflict with `b` (R119)? -/
def winsPort (a b : Ctx) : Bool := if a.aged != b.aged then a.aged else decide (a.gid < b.gid)

/-- R118, R119: the lane choice of a slot, then its uniform choice, of which a conflict leaves one. -/
def slotChoice (s : State) (core issue : Nat) : List Ctx :=
  let cs := (slotSubs s core issue).filter (isReady s)
  let lane := pickPipe s core issue 0 (cs.filter fun c => nextPipe s c == 0)
  let uni := pickPipe s core issue 1 (cs.filter fun c => nextPipe s c == 1 && lane.all fun a => a.gid != c.gid)
  match lane, uni with
  | some a, some b =>
    (match nextWord? s a, nextWord? s b with
     | some x, some y => if portConflict x y then (if winsPort a b then [a] else [b]) else [a, b]
     | _, _ => [a, b])
  | a, b => a.toList ++ b.toList

/-- The ageing counters after a cycle in which `chosen` issue: theirs return to 0, those of the other ready sub-groups of the slots
that chose rise; a pipe that nothing issues on has no last issuer (R118). -/
def ageCycle (slots : List (Nat × Nat)) (chosen : List Ctx) (s : State) : State :=
  let used := chosen.map fun c => (c.core, 2 * c.u.issue + nextPipe s c)
  let aged := fun (gid : Nat) (u : Sub) =>
    if chosen.any fun c => c.gid == gid && c.u.mask == u.mask then { u with age := 0 }
    else
      match s.ctxOf gid (lowestLane u.mask) with
      | some c => if slots.contains (c.core, u.issue) && isReady s c then { u with age := u.age + 1 } else u
      | none => u
  { s with
    groups := s.groups.map fun g => { g with subs := g.subs.map (aged g.gid) }
    cores := s.cores.map fun q =>
      (q.1, { q.2 with pipes := q.2.pipes.map fun r =>
        if slots.contains (q.1, r.1 / 2) && !used.contains (q.1, r.1) then (r.1, { r.2 with run := 0 }) else r }) }

/-- R118, R120: the sub-group that goes on a pipe before `c`, where the others are ready too: a latch continuation, the highest counter
of 4,096 or more, or the highest after 32 in a row. -/
def dueOnPipe (s : State) (c : Ctx) : Option Ctx :=
  let others := (slotSubs s c.core c.u.issue).filter fun d =>
    !(d.gid == c.gid && d.u.mask == c.u.mask) && nextPipe s d == nextPipe s c && isReady s d
  if others.isEmpty || !isReady s c then none
  else
    match pickPipe s c.core c.u.issue (nextPipe s c) (c :: others), highest (c :: others) with
    | some x, some y =>
      let spent := (onPipe s c.core c.u.issue (nextPipe s c) [c]).any fun q => decide (32 ≤ q.2)
      if (y.aged || spent || (nextWord? s c).any (pipeHeld s c)) && !(x.gid == c.gid && x.u.mask == c.u.mask) then some x
      else none
    | _, _ => none

/-- R120: a sub-group ready for the slot's other pipe whose counter has reached 4,096 goes before `c`, unless `c` continues its latches or
comes before it in age. -/
def dueOnOther (s : State) (c : Ctx) : Option Ctx :=
  let far := (slotSubs s c.core c.u.issue).filter fun d => d.aged && nextPipe s d != nextPipe s c && isReady s d
  (highest far).filter fun d => issuesBefore d c && !((nextWord? s c).any wordReadsLatch)

/-- The sub-group of its slot that is due before `c` (R118 to R120). -/
def dueInstead (s : State) (c : Ctx) : Option Ctx :=
  match dueOnPipe s c with
  | some d => some d
  | none => dueOnOther s c

/-- The named sub-group issues next on its slot, unless another is due before it (R118, R120). -/
def issueMove (gid lane : Nat) (s : State) : Res :=
  match s.ctxOf gid lane with
  | none => .next s
  | some c =>
    let d := (dueInstead s c).getD c
    issueAt d.gid d.lane (ageCycle [(d.core, d.u.issue)] [d] s)

/-- Does a word write a codebook bank: CBALLOC and its free form, CBLD, CBW (R221)? -/
def writesBank (w : Word) : Bool := isUniformWord w && ((opOf w == 0x28 && (f3Of w).toNat < 2) || opOf w == 0x29 || opOf w == 0x2A)

/-- Every issue slot of the device. -/
def issueSlots (s : State) : List (Nat × Nat) := s.teams.flatMap fun t => (List.range 4).map fun i => (t.core, i)

/-- What one cycle issues, in the order in which the effects apply: lane instructions, uniform ones, writes of banks (R119, R221). -/
def cycleChoice (s : State) : List Ctx :=
  let cs := (issueSlots s).eraseDups.flatMap fun q => slotChoice s q.1 q.2
  let writes := fun (c : Ctx) => ((nextWord? s c).map writesBank).getD false
  (cs.filter fun c => nextPipe s c == 0) ++ (cs.filter fun c => nextPipe s c == 1 && !writes c) ++ (cs.filter writes)

/-- Sub-groups move one after another. -/
def issueEach : List Ctx → State → Res
  | [], s => .next s
  | c :: cs, s =>
    match issueAt c.gid c.lane s with
    | .next t => issueEach cs t
    | r => r

/-- One cycle of every issue slot. -/
def cycleMove (s : State) : Res := issueEach (cycleChoice s) (ageCycle (issueSlots s) (cycleChoice s) s)

/-! ### Fetching ahead (R483) -/

/-- Up to `n` words from `pc` on as they are fetched now, with their addresses. -/
def wordsFrom (c : Ctx) : Nat → Nat → State → State × List (Nat × Word)
  | 0, _, s => (s, [])
  | n + 1, pc, s =>
    if podWaits s c (lowestLane c.active) .fetch pc 4 then (s, [])
    else
      match fetchNow s { c with u := { c.u with pc := pc } } with
      | (_, .error _) => (s, [])
      | (s, .ok bs) =>
        match wordsFrom c n (pc + 4) s with
        | (s, ws) => (s, (pc, BitVec.ofNat 32 (leNat bs)) :: ws)

/-- Words from the PC on are fetched ahead of it, but those that were. -/
def fetchAheadAt (gid lane n : Nat) (s : State) : State :=
  match s.ctxOf gid lane with
  | none => s
  | some c =>
    match wordsFrom c (min n 256) c.u.pc s with
    | (s1, ws) => c.setSub s1 { c.u with ahead := c.u.ahead ++ ws.filter fun q => !c.u.ahead.any fun r => r.1 == q.1 }

/-! ### Loads that perform late (R310, R328) -/

/-- A late load performs: each lane's registers take the value it returns now; one that can no longer be had leaves what they hold. -/
def performLate (gid order : Nat) (s : State) : State :=
  match s.group? gid with
  | none => s
  | some g =>
    match g.late.find? fun x => x.order == order with
    | none => s
    | some x =>
      let s1 := x.addrs.foldl (fun s q =>
        match s.ctxOf gid q.1 with
        | none => s
        | some c =>
          match fibreLoad s c q.1 false q.2 x.size with
          | (_, .error _) => s
          | (t, .ok bs) => t.modGroup gid fun g => g.setOuts x.d (regsOfSize x.size) [(q.1, wordsOf bs)]) s
      s1.modGroup gid fun g => { g with late := g.late.filter fun y => y.order != order }

/-- The load that has waited longest. -/
def nextLate (s : State) : Option Act :=
  (s.groups.find? fun g => !g.late.isEmpty).bind fun g => (g.late.head?).map fun x => .loadPerforms g.gid x.order

/-! ### Moves -/

/-- Is it one of the device's own steps, and not an instruction word? -/
def isEvent (i : Instr) : Bool := (encode i).isNone

/-- One move, of a sub-group or of the device. -/
def act (a : Act) (s : State) : Res :=
  match a with
  | .issue gid lane => issueMove gid lane s
  | .issueLate gid lane =>
    (match issueMove gid lane { s with issuesLate := true } with
     | .next t => .next { t with issuesLate := false }
     | r => r)
  | .loadPerforms gid order => .next (performLate gid order s)
  | .fetchAhead gid lane n => .next (fetchAheadAt gid lane n s)
  | .cycle => cycleMove s
  | .event i => if isEvent i then exec i s else .next s

/-! ### The order of moves when none is prescribed -/

/-- Steps of traps and of stores in flight. -/
def recSteps (r : TrapRec) : List Instr := [.coalescerClose r.seq, .trapQueueWrite r.seq]
def storeSteps (st : Store) : List Instr :=
  [.peerStorePerform st.id, .storeAtL2 st.id, .storeApplication st.id, .replicaStore st.id, .redContribution st.id, .storeTimeReturn st.id,
   .storeFailureReturn st.id]

/-- Steps that a sub-group's wait may be waiting for. -/
def waitSteps (gid l : Nat) (u : Sub) : List Instr :=
  match u.wait with
  | .backoff _ => [.trapBackoffExpiry gid l]
  | .rows => [.parkedRowRetry gid l]
  | .brdSlot _ => [.brdSlotTimeout gid l]
  | .napUntil _ => [.napUntilExpiry gid l]
  | .napCyc _ => [.napCycleExpiry gid l]
  | _ => []
/-- One that is to end does so before its wait goes on (R89). -/
def subSteps (gid : Nat) (u : Sub) : List Instr :=
  (if u.endPending then [.endlRemoteStop gid (lowestLane u.mask)] else []) ++ waitSteps gid (lowestLane u.mask) u
def groupSteps (g : Group) : List Instr := .fragmentComplete g.gid :: g.subs.flatMap (subSteps g.gid)

/-- Steps of a core's tile queue, codebook loads and bins. -/
def tileSteps (core : Nat) : List Instr :=
  [.tileOperationStart core, .tileOperationComplete core, .tzeroRun core, .ctnInjectionRun core, .drainRun core, .drainComplete core]
def binSteps (core i : Nat) : List Instr := [.binTimerExpiry core i, .binGroupFormation core i]
def coreSteps (q : Nat × CoreSt) : List Instr :=
  [if q.2.tileQ.isEmpty then [] else tileSteps q.1, (q.2.banks.filter fun b => b.2.load.isSome).map fun b => .cbldComplete q.1 b.1,
   (List.range q.2.bins.length).flatMap (binSteps q.1)].flatten

/-- Steps of the engines and the fabric. -/
def copySteps (o : CopyOp) : List Instr := [.copyOperationStart o.unit_, .copyOperationComplete o.unit_]
def brineSteps (j : BrineJob) : List Instr := [.brineJobStart j.lane, .brineJobComplete j.lane]
def transferSteps (s : State) : List Instr :=
  (s.transfers.filter fun x => x.moved || ownDevice s (xDev x.record)).map fun x => .transferComplete x.entry ⟨0, 0, 0, []⟩

/-- Steps of launches and curfewed teams. -/
def launchSteps (L : Launch) : List Instr := [.launchLate L.entry, .superstepComplete L.entry 0 0, .launchCompletion L.entry]
def curfewSteps (t : Team) : List Instr := [.curfewWindowClose t.tid, .teamSave t.tid]

/-- The device's own steps that need nothing from outside, in the order in which they are tried. -/
def ownSteps (s : State) : List Instr :=
  [[.serviceFaultPost], s.recs.flatMap recSteps, s.stores.flatMap storeSteps, s.groups.flatMap groupSteps, s.cores.flatMap coreSteps,
   s.copies.flatMap copySteps, s.brine.flatMap brineSteps, (s.tsend.filter (·.fired)).map (fun x => .triggeredTransferStart x.slot),
   transferSteps s, s.inbound.map (fun x => .inboundFabricRequest { x.req with kind := 10, len := x.order }), s.colls.map (fun x => .collectiveComplete x.entry), (s.launches.filter (·.active)).flatMap launchSteps,
   (s.teams.filter fun t => t.curfew.isSome).flatMap curfewSteps,
   [.schedulerPass, .zoneCompression, .attestationComplete, .fwUpdateComplete]].flatten

/-- Does a move change anything? -/
def changes (a : Act) (s : State) : Bool :=
  match act a s with
  | .next t => t != s
  | _ => true

/-- The move that comes next when none is prescribed. -/
def nextMove (s : State) : Option Act :=
  match (ownSteps s).find? fun i => changes (.event i) s with
  | some i => some (.event i)
  | none =>
    match nextLate s with
    | some a => some a
    | none => if (cycleChoice s).isEmpty then none else some .cycle

end

end Sys2Proof.Machine
end

