-- ==== Sys2Proof/Machine/Step.lean ====
section
/-! DEFINITION. One step of the machine, and the placing of one instruction for it to run. -/

namespace Sys2Proof.Machine

-- DESIGN CHOICE: notes/assumptions/7
/-- One step: the next prescribed move after its time, else the move that comes by itself, else time alone. -/
noncomputable def step (s : State) : Host.Outcome State Fault Refusal :=
  match s.agenda with
  | m :: rest => act m.act (tick { s with agenda := rest } m.dt)
  | [] =>
    match nextMove (tick s 0) with
    | some a => act a (tick s 0)
    | none => .next (tick s 0)

/-! ### A state whose next step runs a given word -/

/-- The team, address space and physical addresses that `withFetchWord` uses. -/
def probeAsid : Nat := 0xFFFF
def probeTables : Nat := 0x100000
def probeFrame : Nat := 0x280000

/-- The page tables of the address space, and the words at its virtual address 0. -/
def probeMemory (bytes : List Byte) (s : State) : State :=
  let entry := fun (s : State) (a w0 : Nat) => s.pokeN a (natLe 8 w0 ++ natLe 8 0)
  let s := entry s (probeTables + 16 * probeAsid) (0x200000 + 1)
  let s := entry s 0x200000 (0x202000 + 1)
  let s := entry s 0x202000 (0x204000 + 1)
  let s := entry s 0x204000 (0x206000 + 1)
  let s := entry s 0x206000 (probeFrame + 0x1F)
  s.pokeN probeFrame bytes

def probeTeam (s : State) : Team :=
  { tid := s.nextTid, core := 0, tslot := 0, asid := BitVec.ofNat 16 probeAsid, priv := true, kind := .grid, launch := 0, seq := 0, teamNo := 0
    level := 0, child := 0, roles := dawnRoles, ways := [], segs := [], cols := [], acc := 0, slotRegs := 1
    bars := [], nb := [], handles := [], tseq := 0, moduli := Moduli.default, stash := [], stashLines := [], cow := [], image := none
    ftz := false, linked := false, superstep := false, curfew := none, yAcc := 0, yLocal := 0, engGen := 0
    halted := false, restored := [] }

-- DESIGN CHOICE: notes/assumptions/8
/-- `s` with a team of one fibre, privileged and on compute core 0, that stands before the given word; the next step issues it. -/
def State.withFetchWord (s : State) (nbits w : Nat) : State :=
  let bytes := bytesOfWord (BitVec.ofNat 32 (w % 2 ^ nbits))
  let t := probeTeam s
  let g := newGroup s.nextGid s.nextTid 0 0 60 1 (List.replicate 32 noIndex)
    { pc := 0, pred := 0, s := [], k := 0, img := none } (newSub 0 1 0 0)
  let m := probeMemory bytes s
  { m with
    agenda := [⟨0, .issue s.nextGid 0⟩], groups := s.groups ++ [g], teams := s.teams ++ [t], nextGid := s.nextGid + 1, nextTid := s.nextTid + 1
    tlb := s.tlb.filter (fun e => e.asid != probeAsid), l2 := s.l2.filter (fun x => x.asid != probeAsid)
    frames := [], badMem := [], badL2 := []
    cores := NMap.set CoreSt.reset 0 { s.core 0 with plb := [], l1 := [], pipes := [] } s.cores
    regs := { s.regs with bootStatus := 4, featOffer := Config.featAll, featAccept := Config.featAll
                          asidTable := BitVec.ofNat 64 (probeTables + 1), merLocked := true } }

end Sys2Proof.Machine
end

