-- ==== Sys2Proof/Safety.lean ====
section
/-! DEFINITION. What a safe run is, in the terms the statements use: canonical memory, registers within the limits that the spec
gives them (R122, R323, R433, R440, R443), what an instruction needs to run, and what it leaves alone. -/

namespace Sys2Proof.Machine

/-- HBM in its canonical form: addresses strictly rising, none listed at the value an unlisted byte reads as. -/
def Memory.wf (m : List Host.Cell) : Bool := NMap.wf ramDefault m

/-- The registers whose writes are clamped, masked or refused stand within their limits. -/
structure Regs.Legal (r : Regs) : Prop where
  curfew : 1000 ≤ r.curfewWin.toNat ∧ r.curfewWin.toNat ≤ 2000000
  lease : 64 ≤ r.leaseL1.toNat ∧ r.leaseL1.toNat ≤ 4096
  power : 600 ≤ r.pwrCap.toNat ∧ r.pwrCap.toNat ≤ 1500
  features : r.featAccept &&& ~~~r.featOffer = 0
  offer : r.featOffer &&& ~~~Config.featAll = 0

/-- R143 to R145: a sub-group's call stack has at most 32 levels, and its active loop levels are of the three, distinct, and end in order. -/
structure Sub.Sound (u : Sub) : Prop where
  calls : u.calls.length ≤ 32
  levels : ∀ x ∈ u.loops, x.level < 3
  nested : u.loops.Pairwise fun x y => x.level ≠ y.level ∧ x.last ≤ y.last
  counts : u.lc.length = 3

/-- Every sub-group, resident or saved, is sound. -/
def State.SubsSound (s : State) : Prop := ∀ g ∈ s.groups ++ s.saved.flatMap SavedTeam.groups, ∀ u ∈ g.subs, u.Sound

/-- Local memory and the crystallizer in canonical form. -/
structure State.Canonical (s : State) : Prop where
  localMem : NMap.wf 0 s.localMem = true
  crystMem : NMap.wf 0 s.crystMem = true

/-- R241, R293: a core's tile queue holds at most 16 operations, its lookaside at most 1,024 translations. -/
def State.QueuesBounded (s : State) : Prop := ∀ core, (s.core core).tileQ.length ≤ 16 ∧ (s.core core).plb.length ≤ 1024

/-! ### Reading one register -/

/-- Lane register `r` of lane `l` of group `gid`. -/
def State.laneReg (s : State) (gid r l : Nat) : Word := ((s.group? gid).map fun g => g.lane r l).getD 0
/-- The predicate word of a lane. -/
def State.predWord (s : State) (gid l : Nat) : Word := ((s.group? gid).map fun g => g.predOf l).getD 0

/-! ### When an instruction runs -/

/-- `c` is the issuing sub-group, no check of R35 that `G` names fails, and it waits for no fragment and no late load. -/
def Issues (G : Gate) (s : State) (c : Ctx) : Prop :=
  s.ctx? = some c ∧ gateCause G s c = none ∧ fragHit G c = none ∧ lateHit G c = false

/-- As `Issues`, and the uniform guard holds. -/
def Runs (G : Gate) (g : BitVec 4) (s : State) (c : Ctx) : Prop := Issues G s c ∧ c.uguard g = true

/-- No active fibre has a pending deferred fault record. -/
def NoRecords (c : Ctx) : Prop := ∀ l ∈ lanesOf c.active, ∀ d ∈ c.g.defer, d.lane ≠ l

/-- R301: at a wait point fibre `l` alone of the active ones has pending records, of which `d` is the oldest; no open trap record takes it in,
and there are a permit, a coalescer record and a ring slot for one of its own. -/
structure OneRecord (s : State) (c : Ctx) (l : Nat) (d : Defer) : Prop where
  active : l ∈ lanesOf c.active
  oldest : c.g.defer.find? (fun x => x.lane == l) = some d
  alone : ∀ m ∈ lanesOf c.active, m ≠ l → ∀ x ∈ c.g.defer, x.lane ≠ m
  kind : ∀ n, c.t.kind ≠ .service n
  fresh : s.recs.find? (fun r => r.core == c.core && r.kind == 0 && r.asid == c.t.asid.toNat && r.cause == d.cause &&
    r.addr / 2 ^ 19 % 2 ^ 36 == d.va / 2 ^ 19 % 2 ^ 36 && !r.closed && decide (s.cycles < r.opened + 256)) = none
  room : s.permitsUsed c.core < 4 ∧ s.coalUsed c.core < 16 ∧ s.ringUse.length < 1024

/-- R10, R301, R403, R407, R480: the fibre has trapped at the wait point. Its sub-group of one lane is parked in a new record of the deferred
record's cause and address, with the wait point's PC; the deferred record is pending no longer, and the other lanes are a sub-group of
their own, without a chain. -/
structure Delivered (s t : State) (c : Ctx) (l : Nat) (d : Defer) : Prop where
  group : let m := c.active &&& ~~~(1#32 <<< l)
    t.group? c.gid = some { c.g with
      subs := (if m = 0 then [] else [{ c.u.dropChain with mask := m }]) ++ (c.g.subs.filter fun w => w.mask != c.u.mask).map Sub.dropChain ++
        [{ c.u.dropChain with mask := 1#32 <<< l, wait := .trapped s.nextRec, boff := 64 }]
      defer := c.g.defer.filter fun x => x != d
      delivered := (c.g.delivered.filter fun q => l != q.1) ++ [(l, d)]
      late := dropLate (1#32 <<< l) c.g.late }
  record : t.recs = s.recs ++ [{
    seq := s.nextRec, core := c.core, addr := d.va, pc := c.u.pc, cause := d.cause, kind := 0, pos := posOf c.core, cluster := clusterOf c.core
    asid := c.t.asid.toNat, groups := 1#48 <<< c.u.slot, lanes := 1#32 <<< l, time := s.meridian, drec := some d, info := 0, info2 := 0
    opened := s.cycles, closed := false, ring := none, stuck := false }]
  others : ∀ g, g ≠ c.gid → t.group? g = s.group? g
  rest : { t with groups := s.groups, recs := s.recs, nextRec := s.nextRec } = s

/-- The record of `8 * n` bytes at `va` that an instruction acts on: read now, or held since it was read (R104, R227, R240, R351). -/
def Reads (n : Nat) (s : State) (c : Ctx) (va : Nat) (s1 : State) (r : List Byte) : Prop :=
  (∀ bs, c.u.wait ≠ .queued bs) ∧ readRecord n s c (lowestLane c.active) va = (s1, .ok r) ∨ c.u.wait = .queued r ∧ s1 = s

/-- The writes `ws` have been issued as stores of operation `id` of an agent, cut at line boundaries, after those of `s`. -/
def Issued (s t : State) (agent id asid : Nat) (ws : List (Nat × List Byte)) : Prop :=
  t.stores.take s.stores.length = s.stores ∧
  (t.stores.drop s.stores.length).map (fun st => (st.agent, st.agentId, st.asid, st.va, st.data, st.stage)) =
    ws.flatMap fun w => (pieces w.1 w.2.length).map fun p => (agent, id, asid, p.1, slice w.2 (p.1 - w.1) p.2, Stage.retired)

/-- Translations are at hand that let every byte of `[a, a + n)` be written, and where `own` they lead to this device alone. -/
def Writable (s : State) (asid a n : Nat) (own : Bool := false) : Prop :=
  ∀ p ∈ pieces a n, p.1 < Config.maxVa ∧ ∃ e, s.tlb.find? (fun e => e.serves asid p.1) = some e ∧ e.w = true ∧ e.red = false ∧
    (e.replica = true ∨ e.remote = true → own = false)

/-- The rows that the lanes of `m` write are private, can be made so, or belong to a group without an image (R75, R77). -/
def RowsFree (s : State) (c : Ctx) (rows : List Nat) (m : Word) : Prop := privatise c.gid s rows m ≠ none

/-- A lane instruction of guard `g` that `G` describes runs: its executing lanes read no bad register cell, and the rows are
to be had. -/
def LaneRuns (G : Gate) (g : BitVec 4) (rows : List Nat) (s : State) (c : Ctx) : Prop :=
  Issues G s c ∧ regErrors s c.gid G.reads (c.execMask g) = [] ∧ RowsFree s c rows (c.execMask g)

/-! ### What an instruction leaves -/

/-- A change `h` of the group, after which the sub-group falls through to the next word. -/
def Falls (c : Ctx) (s : State) (h : Group → Group) : State := c.setSub (s.modGroup c.gid h) (c.u.dropChain.next c.u.pc)

/-- A group without its lane registers, predicates and sub-groups. -/
def Group.bare (g : Group) : Group := { g with v := [], pred := [], subs := [], priv := 0, rsv := 0 }
/-- A store without the fibres that have read it. -/
def Store.bare (st : Store) : Store := { st with readBy := [] }
/-- A sub-group without its latch chain. -/
def Sub.bare (u : Sub) : Sub := { u with chain := [], latchRun := 0 }
/-- A team without the count of rows left in its roles' reserves. -/
def Team.bare (t : Team) : Team := { t with roles := t.roles.map fun r => { r with left := 0 } }

/-- A group without what its place on a core gives it: image, reserve rows, physical slots and lanes, issue slots. -/
def Group.placeless (g : Group) : Group :=
  { g with img := none, rsv := 0, remap := [], subs := g.subs.map fun u => { u with slot := 0, issue := 0 } }
/-- A team without what its place on a core gives it: core, team slot, parts, channel dies, roles' reserves. -/
def Team.placeless (t : Team) : Team :=
  { t with core := 0, tslot := 0, ways := [], segs := [], cols := [], moduli := { t.moduli with dies := [] }, roles := t.roles.map fun r => { r with left := 0 } }

/-- A lane instruction has run: `val r l` is written to register `r` of lane `l`, `pred l` to its predicate word, the issuing
sub-group has become `u`, and nothing else differs but latch chains, the accounts of private rows and, as given, the
statistics counters. -/
structure LaneDone (s t : State) (c : Ctx) (val : Nat → Nat → Option Word) (pred : Nat → Option Word) (u : Sub)
    (launches : List Launch) : Prop where
  regs : ∀ gid r l, l < 32 → t.laneReg gid r l = (if gid = c.gid then val r l else none).getD (s.laneReg gid r l)
  preds : ∀ gid l, l < 32 → t.predWord gid l = (if gid = c.gid then pred l else none).getD (s.predWord gid l)
  sub : (t.ctxOf c.gid c.lane).map Ctx.u = some u
  subs : t.groups.map (fun g => g.subs.map Sub.bare) =
    s.groups.map fun g => g.subs.map fun w => if g.gid = c.gid ∧ w.mask = c.u.mask then u.bare else w.bare
  groups : t.groups.map Group.bare = s.groups.map Group.bare
  teams : t.teams.map Team.bare = s.teams.map Team.bare
  cores : t.cores = s.cores ∨ t.cores = (gotRows c s).cores
  stats : t.launches = launches
  rest : { t with groups := s.groups, teams := s.teams, cores := s.cores, launches := s.launches } = s

/-- The registers that a lane instruction writes: `x l` to register `d` in the lanes of `m`. -/
def writes (d : Nat) (m : Word) (x : Nat → Word) (r l : Nat) : Option Word := if r = d ∧ m.getLsbD l then some (x l) else none
/-- As `writes`, for the pair at `d`. -/
def writesPair (d : Nat) (m : Word) (x : Nat → DWord) (r l : Nat) : Option Word :=
  if r = d ∧ m.getLsbD l then some ((x l).extractLsb' 0 32)
  else if r = d + 1 ∧ m.getLsbD l then some ((x l).extractLsb' 32 32) else none
/-- No register is written. -/
def writesNone (_ _ : Nat) : Option Word := none
/-- No predicate is written. -/
def predsNone (_ : Nat) : Option Word := none
/-- Bit `n` of the predicate words of the lanes of `m` becomes `b l`. -/
def predBit (c : Ctx) (n : Nat) (m : Word) (b : Nat → Bool) (l : Nat) : Option Word :=
  if m.getLsbD l then some (setBit32 (c.g.predOf l) n (b l)) else none

/-- A sub-group after an instruction of class A (R30 to R33): its chain is one older, and where the instruction pushes, the
executing lanes have pushed `val`. -/
def Sub.classA (u : Sub) (reads push : Bool) (ex : Word) (val : Nat → Word) : Sub :=
  (if push then (u.ageChain reads).push ex val else u.ageChain reads).next u.pc

/-- A sub-group after any other lane or uniform instruction that falls through: it has no chain (R31). -/
def Sub.falls (u : Sub) : Sub := u.dropChain.next u.pc

/-! ### What the gates of lane instructions name (R35, R156) -/

/-- D and A are named, A is read; `two` also names and reads B; `three` reads the old destination too. -/
def gateOne (f : LaneR) : Gate := { regs := regOf f.d ++ regOf f.a, reads := regOf f.a, latches := latchOf f.a }
def gateTwo (f : LaneR) : Gate :=
  { regs := regOf f.d ++ (regOf f.a ++ regOf f.b), reads := regOf f.a ++ regOf f.b, latches := latchOf f.a ++ latchOf f.b }
def gateThree (f : LaneR) : Gate :=
  { regs := regOf f.a ++ regOf f.b ++ regOf f.d, reads := regOf f.a ++ regOf f.b ++ regOf f.d, latches := latchOf f.a ++ latchOf f.b }
/-- D alone is named. -/
def gateNone (f : LaneR) : Gate := { regs := regOf f.d }
/-- A and B are named and read: a compare. -/
def gateCompared (f : LaneR) : Gate :=
  { regs := regOf f.a ++ regOf f.b, reads := regOf f.a ++ regOf f.b, latches := latchOf f.a ++ latchOf f.b }
/-- The row that a pushing instruction writes: none with W (R34). -/
def rowsOf (w : Bool) (d : BitVec 6) : List Nat := if w then [] else [d.toNat]
/-- The rows of a pair result. -/
def pairRowsOf (w : Bool) (d : BitVec 6) : List Nat := if w then [] else [d.toNat, d.toNat + 1]
def gateI (f : LaneI) : Gate := { regs := regOf f.d ++ regOf f.a, reads := regOf f.a, latches := latchOf f.a }
def gateSh (f : LaneSh) : Gate := { regs := regOf f.d ++ regOf f.a, reads := regOf f.a, latches := latchOf f.a }

/-! ### Results of lane instructions -/

/-- The instruction completes: in the lanes of `m` it writes `v` to row `d` unless W, and pushes `v` (R30, R34); the latches of
`G` are those it reads; `L` are the launches with their counters after it. -/
def Pushes (i : Instr) (s : State) (c : Ctx) (G : Gate) (m : Word) (w : Bool) (d : BitVec 6) (v : Nat → Word) (L : List Launch) : Prop :=
  ∃ t, exec i s = .next t ∧
    LaneDone s t c (if w then writesNone else writes d.toNat m v) predsNone (c.u.classA (!G.latches.isEmpty) true m v) L

/-- As `Pushes`, for a pair result, whose low half is pushed (R30). -/
def PushesPair (i : Instr) (s : State) (c : Ctx) (G : Gate) (m : Word) (w : Bool) (d : BitVec 6) (v : Nat → DWord) : Prop :=
  ∃ t, exec i s = .next t ∧
    LaneDone s t c (if w then writesNone else writesPair d.toNat m v) predsNone
      (c.u.classA (!G.latches.isEmpty) true m fun l => (v l).extractLsb' 0 32) s.launches

/-- A class A instruction that pushes nothing completes: predicate `n` becomes `b` in the lanes of `m`. -/
def SetsPred (i : Instr) (s : State) (c : Ctx) (G : Gate) (m : Word) (n : BitVec 6) (b : Nat → Bool) (L : List Launch) : Prop :=
  ∃ t, exec i s = .next t ∧
    LaneDone s t c writesNone (predBit c n.toNat m b) (c.u.classA (!G.latches.isEmpty) false m fun _ => 0) L

/-- A lane instruction outside class A completes: row `d` becomes `v` in the lanes of `m`, and the chain goes (R31). -/
def WritesRow (i : Instr) (s : State) (c : Ctx) (m : Word) (d : BitVec 6) (v : Nat → Word) (L : List Launch) : Prop :=
  ∃ t, exec i s = .next t ∧ LaneDone s t c (writes d.toNat m v) predsNone c.u.falls L

/-- As `WritesRow`, for a predicate. -/
def WritesPred (i : Instr) (s : State) (c : Ctx) (m : Word) (n : BitVec 6) (b : Nat → Bool) : Prop :=
  ∃ t, exec i s = .next t ∧ LaneDone s t c writesNone (predBit c n.toNat m b) c.u.falls s.launches

/-- A lane instruction outside class A completes: `v j l` is written to register `d + j` for `j < n` in the lanes of `m`. -/
def WritesRows (i : Instr) (s : State) (c : Ctx) (m : Word) (d : BitVec 6) (n : Nat) (v : Nat → Nat → Word) : Prop :=
  ∃ t, exec i s = .next t ∧
    LaneDone s t c (fun r l => if d.toNat ≤ r ∧ r < d.toNat + n ∧ m.getLsbD l then some (v (r - d.toNat) l) else none)
      predsNone c.u.falls s.launches

/-- As `WritesRows`, for a global load: it may be noted which stores it has read (R326). -/
def LoadsRows (i : Instr) (s : State) (c : Ctx) (m : Word) (d : BitVec 6) (n : Nat) (v : Nat → Nat → Word) : Prop :=
  ∃ t, exec i s = .next t ∧ t.stores.map Store.bare = s.stores.map Store.bare ∧
    LaneDone s { t with stores := s.stores } c
      (fun r l => if d.toNat ≤ r ∧ r < d.toNat + n ∧ m.getLsbD l then some (v (r - d.toNat) l) else none)
      predsNone c.u.falls s.launches

/-! ### What the floating-point functions give (R182 to R192, R200 to R208) -/

/-- R184: an exact num / den in units of 2^lsb goes to the nearest integer, ties to the even one, or towards 0, up or down; its pattern stands
for that multiple of the unit in the last place, unless it reaches 2^128: then it is an infinity or the largest finite number, as the
mode says. -/
def RoundsRight : Prop :=
  (∀ (mode : RMode) (neg : Bool) (num den : Nat) (lsb : Int), 0 < den →
    let n := num * pow2D lsb
    let d := den * pow2N lsb
    let q := roundAt mode neg num den lsb
    let down := q * d ≤ n ∧ n < q * d + d
    let up := n ≤ q * d ∧ q * d < n + d
    match mode with
    | .rne => 2 * (q * d) ≤ 2 * n + d ∧ 2 * n ≤ 2 * (q * d) + d ∧ (2 * (q * d) = 2 * n + d ∨ 2 * n = 2 * (q * d) + d → q % 2 = 0)
    | .rz => down
    | .ru => if neg then down else up
    | .rd => if neg then up else down) ∧
  (∀ fb ∈ ([7, 23] : List Nat), ∀ (mode : RMode) (neg : Bool) (num den : Nat), 0 < num → 0 < den →
    let k := floorLog2 num den
    let lsb : Int := max k (-126) - fb
    let q := roundAt mode neg num den lsb
    let r := roundQ fb mode neg num den
    (den * pow2N k ≤ num * pow2D k ∧ num * pow2D k < 2 * (den * pow2N k)) ∧
    (if q * pow2N (lsb - 128) < pow2D (lsb - 128) then
      ∃ m e, fpVal fb r = .fin neg m e ∧ m * pow2N (e - lsb) = q * pow2D (e - lsb)
    else r = match mode with
      | .rne => fpInf fb neg
      | .rz => fpMax fb neg
      | .ru => if neg then fpMax fb neg else fpInf fb neg
      | .rd => if neg then fpInf fb neg else fpMax fb neg))

/-- R184 to R188, R192, R200, R206, R208: a finite FP32 sum or product is the exact one, rounded; a NaN operand is returned quiet, the first one
first, and an invalid operation gives the canonical NaN and counts; a subnormal operand is a zero of its sign under FTZ, and counts; packed
forms work on both halves; a conversion to an integer and a quantisation clamp and count. -/
def FloatRules : Prop :=
  let nan := fun (x : Nat) => fpIsNan 23 x
  let inf := fun (x : Nat) => fpIsInf 23 x
  let zero := fun (x : Nat) => fpIsZero 23 x
  let finite := fun (x : Nat) => nan x = false ∧ inf x = false
  let canonical : FRes := ⟨0x7FC00000, false, true, false⟩
  let exact := fun (mode : RMode) (neg : Bool) (x : Dy) =>
    if x.m = 0 then (if neg then 2 ^ 31 else 0) else roundQ 23 mode (decide (x.m < 0)) (x.m.natAbs * pow2N x.e) (pow2D x.e)
  (∀ (mode : RMode) (a b : Nat), a < 2 ^ 32 → b < 2 ^ 32 →
    (finite a → finite b →
      fAdd false mode a b = ⟨exact mode (if zero a && zero b && bitN a 31 == bitN b 31 then bitN a 31 else mode == .rd)
        (Dy.add (fpDy 23 a) (fpDy 23 b)), false, false, false⟩ ∧
      fMul false mode a b = ⟨exact mode (bitN a 31 != bitN b 31) (Dy.mul (fpDy 23 a) (fpDy 23 b)), false, false, false⟩) ∧
    (inf a = true → inf b = true → fAdd false mode a b = if a = b then ⟨a, false, false, false⟩ else canonical) ∧
    (inf a = true → zero b = true → fMul false mode a b = canonical ∧ fMul false mode b a = canonical) ∧
    (nan a = true → (fAdd false mode a b).v = a ||| 2 ^ 22 ∧ (fMul false mode a b).v = a ||| 2 ^ 22) ∧
    (nan a = false → nan b = true → (fAdd false mode a b).v = b ||| 2 ^ 22 ∧ (fMul false mode a b).v = b ||| 2 ^ 22) ∧
    (fpIsSub 23 a = true →
      fAdd true mode a b = { fAdd true mode (a / 2 ^ 31 * 2 ^ 31) b with flush := true } ∧
      fMul true mode a b = { fMul true mode (a / 2 ^ 31 * 2 ^ 31) b with flush := true })) ∧
  (∀ (op : Nat → Nat → Nat → FRes) (a b d : Nat),
    let lo := op (a % 2 ^ 16) (b % 2 ^ 16) (d % 2 ^ 16)
    let hi := op (a / 2 ^ 16) (b / 2 ^ 16) (d / 2 ^ 16)
    packed op a b d = ⟨lo.v + 2 ^ 16 * hi.v, false, lo.nan || hi.nan, false⟩) ∧
  (∀ (mode : RMode) (lo hi : Int) (a : Nat),
    (nan a = true → f2int false mode lo hi a = ⟨0, false, false, true⟩) ∧
    (∀ neg, fpVal 23 a = .inf neg → f2int false mode lo hi a = ⟨(BitVec.ofInt 32 (if neg then lo else hi)).toNat, false, false, true⟩) ∧
    (∀ neg m e, fpVal 23 a = .fin neg m e →
      let i : Int := (if neg then -1 else 1) * (roundAt mode neg (m * pow2N e) (pow2D e) 0 : Nat)
      f2int false mode lo hi a =
        if i < lo then ⟨(BitVec.ofInt 32 lo).toNat, false, false, true⟩
        else if hi < i then ⟨(BitVec.ofInt 32 hi).toNat, false, false, true⟩
        else ⟨(BitVec.ofInt 32 i).toNat, false, false, false⟩)) ∧
  (∀ (x w r : Nat),
    let q := quant false x w r
    ((q.q = -2048 ∧ q.sat = false) ∨ (-2047 ≤ q.q ∧ q.q ≤ 2047)) ∧
    (w / 4096 % 256 = 0 → q.q = 0 ∧ q.sat = false) ∧
    (w / 4096 % 256 = 255 → q.q = -2048) ∧ (w / 4096 % 256 ≠ 0 → finite x ∨ q.q = -2048) ∧
    (q.sat = true → q.q = 2047 ∨ q.q = -2047))

/-- R204: the special cases of the approximate functions, and the bound of FRCP: where 1/a is not beyond the format, the result times a
differs from 1 by less than the unit in the last place of 1/a times the magnitude of a. -/
def ApproxRules : Prop :=
  let f := fun (k : Approx) (x : Word) => approx k false x
  let gives := fun (k : Approx) (x : Word) (v : Nat) => f k x = ⟨v, false, false, false⟩
  (gives .rcp 0 0x7F800000 ∧ gives .rcp 0x80000000 0xFF800000 ∧ gives .rcp 0x7F800000 0 ∧ gives .rcp 0xFF800000 0x80000000 ∧
   gives .rsq 0 0x7F800000 ∧ gives .rsq 0x80000000 0xFF800000 ∧ gives .rsq 0x7F800000 0 ∧
   gives .ex2 0 0x3F800000 ∧ gives .ex2 0x80000000 0x3F800000 ∧ gives .ex2 0xFF800000 0 ∧ gives .ex2 0x7F800000 0x7F800000 ∧
   gives .lg2 0 0xFF800000 ∧ gives .lg2 0x80000000 0xFF800000 ∧ gives .lg2 0x3F800000 0 ∧ gives .lg2 0x7F800000 0x7F800000) ∧
  (∀ x : Word, fpIsNan 23 x.toNat = true → ∀ k, f k x = ⟨x.toNat ||| 2 ^ 22, false, false, false⟩) ∧
  (∀ x : Word, fpIsNan 23 x.toNat = false → 0x80000000 < x.toNat → ∀ k ∈ [Approx.rsq, .lg2], f k x = ⟨0x7FC00000, false, true, false⟩) ∧
  (∀ (x : Word) (neg : Bool) (m : Nat) (e : Int), fpVal 23 x.toNat = .fin neg m e → m ≠ 0 →
    let k := floorLog2 (pow2D e) (m * pow2N e)
    let beyond := 128 < k ∨ (k = 128 ∧ ¬∃ n, m = 2 ^ n)
    (beyond → gives .rcp x (if neg then 0xFF800000 else 0x7F800000)) ∧
    (¬beyond → ∃ n m' e', fpVal 23 (f .rcp x).v = .fin n m' e' ∧
      let d := Dy.sub (Dy.mul ⟨signedM n m', e'⟩ ⟨signedM neg m, e⟩) ⟨1, 0⟩
      Dy.lt ⟨d.m.natAbs, d.e⟩ (Dy.mul (ulp k) ⟨m, e⟩) = true))

/-! ### Codebook banks of a new team -/

/-- What bank `b` of a team's new allotment holds (R73, R214): what the image `src` with its header carries, whose 4,096 bytes of the bank are
`bs`; else nothing. -/
def BankCarries (src : Option (ImageRef × List Byte)) (bs : Nat → List Byte) (owner b : Nat) (x : Bank) : Prop :=
  x.owner = some owner ∧ x.load = none ∧ x.bad = [] ∧
  ((∀ q, src = some q → (fieldN q.2 9 1).testBit b = false) → x.kind = 0 ∧ x.valid = 256 ∧ ∀ e, x.entry e = 0) ∧
  ∀ q, src = some q → (fieldN q.2 9 1).testBit b = true →
    x.kind = BitVec.ofNat 2 (fieldN q.2 (16 + b) 1) ∧ x.valid = fieldN q.2 (24 + 2 * b) 2 ∧
      ∀ e, e < 256 → x.entry e = BitVec.ofNat 128 (fieldN (bs b) (16 * e) 16)

/-! ### What a save keeps (R124 to R131) -/

/-- A group has yielded: so has every sub-group of it. -/
def hasYielded (g : Group) : Prop := ∀ u ∈ g.subs, u.wait = .yielded
/-- A saved group is the group `g` as it stood: its rows and uniform registers, but what a yielded group did not declare, and its sub-groups. -/
structure SavedAs (g h : Group) : Prop where
  rows : ∀ r l, r < 60 → l < 32 →
    let kept := (if g.img.isSome then g.priv.getLsbD r = true else r < g.win) ∧ (hasYielded g → g.yRows.getLsbD r = true)
    (kept → h.lane r l = g.lane r l) ∧ (¬kept → h.lane r l = ((g.img.map fun v => v.getD r 0).getD 0))
  uniforms : ∀ i, i < 64 → h.sReg i = if (∀ u ∈ g.subs, u.wait = .yielded) ∧ g.yS.getLsbD i = false then 0 else g.sReg i
  subs : h.subs.map (fun u => (u.pc, u.mask, u.calls, u.loops, u.lc, u.wait)) = g.subs.map fun u => (u.pc, u.mask, u.calls, u.loops, u.lc, Wait.ready)
  same : (h.gid, h.tid, h.gslot, h.role, h.win, h.live, h.pred, h.idx, h.k, h.j, h.img, h.nest) =
    (g.gid, g.tid, g.gslot, g.role, g.win, g.live, g.pred, g.idx, g.k, g.j, g.img, g.nest)

/-! ### Memory that an access finds ready -/

/-- A local place that a fibre may access now: it is legal (R268), no stash mapping covers it (R275), its line is sound. -/
def LocalReady (s : State) (c : Ctx) (a n : Nat) (p : LPlace) : Prop :=
  localPlace s c.t a n n = .ok p ∧ stashAt s p = none ∧ localBad s p = false
/-- The byte of a core's local memory. -/
def State.localByte (s : State) (core off : Nat) : Byte := NMap.get 0 (localKey core off) s.localMem
/-- What the lanes of `ls` that use the place of lane `l` make of `v`, one after the other. -/
def inTurn (ls : List Nat) (place : Nat → Nat) (new : Nat → Nat → Nat) (l v : Nat) : Nat :=
  (ls.filter fun m => place m == place l).foldl (fun v m => new m v) v

/-- The page of an address, found in the core's permission lookaside (R293). -/
def PageHit (s : State) (c : Ctx) (va : Nat) (e : Tlb) : Prop :=
  va < Config.maxVa ∧ (s.core c.core).plb.find? (fun x => x.hits c.t.asid.toNat va) = some e
/-- No sluice range stops the access, and no live template region holds its bytes. -/
def Unclaimed (s : State) (c : Ctx) (va n : Nat) (a : Access) : Prop := sluiceStops s c.t va n a = false ∧ regionsAt s c.t va n = []
/-- The core holds the line of an address under a lease that has not ended; the team has no copy or snapshot of it. -/
def LineHeld (s : State) (c : Ctx) (va n : Nat) (z : L1Line) : Prop :=
  (s.core c.core).l1.find? (fun z => z.asid == c.t.asid.toNat && z.line == va / lineBytes && decide (s.meridian < z.lease)) = some z ∧
  c.t.cow.find? (fun x => x.va == va / lineBytes * lineBytes) = none ∧
  s.sluice.find? (fun q => q.team == some c.t.tid && q.ranges.any fun r => r.mode == 2 && overlap r.base r.len va n) = none

/-- A home on this device, or on another once the meridian is locked, that answers an address: the translation that the controller
holds, without a failure at the owner or an uncorrectable line. -/
def AtHome (s : State) (asid va : Nat) (y : Tlb) : Prop :=
  va < Config.maxVa ∧ s.tlb.find? (fun z => z.serves asid va) = some y ∧ (∀ q ∈ s.podFaults, y.owner ≠ some q.1) ∧
  (y.owner = none → s.isBad (y.pa va) = false)
/-- `n` bytes of the frame behind an address. -/
def bytesAtHome (s : State) (y : Tlb) (va n : Nat) : List Byte := (List.range n).map fun i => s.framePeek y.owner (y.pa va + i)

/-! ### The reduction tree (R394) -/

/-- The node over `2^d` leaves: the tree of the first half added to that of the second; a leaf that no participant has is −0.0. -/
def pairTree : Nat → List Nat → Nat
  | 0, xs => xs.getD 0 (2 ^ 31)
  | d + 1, xs => (fAdd false .rne (pairTree d (xs.take (2 ^ d))) (pairTree d (xs.drop (2 ^ d)))).v

/-! ### Stash lines written back (R276) -/

/-- The lines may be written back now: sound, on writable pages that the core's lookaside holds, outside the launch's template regions, and
the issue slot's store buffer has room for them. -/
def BackReady (s : State) (c : Ctx) (e : Nat → Tlb) (ls : List (LPlace × Nat × Nat × StashLine)) : Prop :=
  lateUsed s c.core c.u.issue + ls.length ≤ Config.lateEntries ∧
  ∀ q ∈ ls, localBad s q.1 = false ∧ q.2.2.1 % 128 = 0 ∧ PageHit s c q.2.2.1 (e q.2.2.1) ∧ (e q.2.2.1).w = true ∧ regionsAt s c.t q.2.2.1 128 = []

/-- Each line has been retired as a store of the fibre `lane` of its 128 bytes, which leaves its clean bytes alone, and is clean. -/
structure WrittenBack (s t : State) (c : Ctx) (lane : Nat) (e : Nat → Tlb) (ls : List (LPlace × Nat × Nat × StashLine)) : Prop where
  stores : t.stores.take s.stores.length = s.stores ∧ (t.stores.drop s.stores.length) =
    (List.range ls.length).zipWith (fun n q =>
      ({ id := s.nextStore + n, agent := 0, agentId := 0, core := c.core, issue := c.u.issue, tid := c.t.tid, gid := c.gid, lane := lane,
         gslot := c.g.gslot, tslot := c.t.tslot, pc := c.u.pc, va := q.2.2.1, asid := c.t.asid.toNat, data := s.localN q.1.core q.1.phys 128
         skip := (List.range 128).filter (fun i => !q.2.2.2.dirty.getLsbD i), kind := 3, floor := c.g.floor.getD lane 0
         seen := !((e q.2.2.1).uc || (e q.2.2.1).replica || (e q.2.2.1).red), red := (e q.2.2.1).red, replica := (e q.2.2.1).replica
         remote := (e q.2.2.1).remote, uc := (e q.2.2.1).uc, peer := none, stage := .retired } : Store)) ls
  clean : ∀ x y, s.team? c.t.tid = some x → t.team? c.t.tid = some y →
    (∀ q ∈ ls, (y.stashLine q.2.1).dirty = 0) ∧ (∀ k, (∀ q ∈ ls, q.2.1 ≠ k) → y.stashLine k = x.stashLine k) ∧
      { y with stashLines := x.stashLines } = x
  others : ∀ n, n ≠ c.t.tid → t.team? n = s.team? n
  rest : { t with stores := s.stores, nextStore := s.nextStore, teams := s.teams } = s

/-! ### The checks of uniform instructions (R27, R35, R38) -/

/-- The guard of a uniform instruction, and what it names for the checks; none for the lane set, the device's own steps, UNOP, which has
no guard, and BRD, whose guard selects lanes. The index of USREAD and USWRITE is checked after these (R43). -/
def uniformGate (i : Instr) : Option (BitVec 4 × Gate) :=
  match i with
  | .colinfo f | .ctnrd f | .modset f | .modsetDefault f | .modsetRead f | .tdrainAcc f | .tdrainBf16 f | .tdrainFp32 f | .tile f | .tileL f
    | .tzero f => some (f.g, { cc := true })
  | .cballoc f | .cballocFree f | .cbfence f | .cbld f _ => some (f.g, { cc := true, feat := some 1 })
  | .cbw g _ _ _ _ | .cbr g _ _ _ _ => some (g, { cc := true, feat := some 1 })
  | .freeze f | .freezen f => some (f.g, { waitPt := true, feat := some 0 })
  | .nest f => some (f.g, { feat := some 0 })
  | .sstepPod f => some (f.g, { waitPt := true, feat := some 4 })
  | .twait f | .twaitPoll f => some (f.g, { cc := true, waitPt := true })
  | .plinv f | .restoreBlk f | .saveBlk f | .tlbi f | .tlbiAll f | .tlbiVa f | .tresume f => some (f.g, { priv := true })
  | .brine f => some (f.g, { feat := some 3 })
  | .arrwait f | .await f | .bar f | .cwait f | .cwaitCancel f | .cwaitPoll f | .endU f | .endl f | .fenceAcq f | .fenceD f | .fenceEng f
    | .fenceP f | .fenceSc f | .fenceT f | .lwait f | .lwaitPoll f | .rejoin f | .sstep f | .yield f => some (f.g, { waitPt := true })
  | .ctnrdClr f | .ctnrdInject f => some (f.g, { cc := true, priv := true })
  | .btbl f => some (f.g, { priv := true, feat := some 3 })
  | .arrive f | .brx f | .callx f | .copyBf16 f | .copyDrain f | .copyGather f | .copyPlain f | .copyRp16 f | .copySb12 f | .curf f
    | .enrol f | .enrolMask f | .evict1 f | .hostsig f | .kall f | .kand f | .kany f | .knone f | .knot f | .kor f | .kxor f | .launch f
    | .launchTry f | .napCyc f | .napUntil f | .napWake f | .pin f | .plq f | .pref1 f | .pref2 f | .ret f | .sluiceExcl f | .sluiceSnap f
    | .sluiceUnlock f | .sluiceWrite f | .spawn f | .spawnf f | .stash f | .stashDiscard f | .stashUnmap f | .stashWb f | .statid f
    | .strike f | .trapI f | .uactive f | .uadd f | .uand f | .uandn f | .ucmpEq f | .ucmpLe f | .ucmpLeu f | .ucmpLt f | .ucmpLtu f
    | .ucmpNe f | .ucount f | .ulea f _ | .umax f | .umin f | .uminu f | .umov f | .umul f | .umulh f | .umulhu f | .unpin f | .uor f
    | .urotl f | .usar f | .ushl f | .ushr f | .usub f | .uxor f | .wake f | .wbl2 f => some (f.g, {})
  | .uaddi f | .uli f | .ulih f | .usread f | .uswrite f => some (f.g, {})
  | .bra f | .call f => some (f.g, {})
  | .loopImm f | .loopReg f => some (f.g, {})
  | .lbrk g _ => some (g, {})
  | .ufirst f => some (f.g, { regs := regOf f.a, reads := regOf f.a })
  | .tdrainI64 f | .tdrainPlanes f => some (f.g, { cc := true, feat := some 2 })
  | .atomr f | .coll f | .collAbort f | .collPoll f | .collWait f | .ctradd f | .ctrrd f | .ctrset f | .ctrwait f | .getX f | .putX f
    | .putc f | .tsend f | .tsendCancel f => some (f.g, { feat := some 4 })
  | .bwait f | .bwaitPoll f => some (f.g, { waitPt := true, feat := some 3 })
  | _ => none

/-! ### The checks of lane instructions (R32, R35, R156) -/

/-- What a lane instruction names for the checks; none for the uniform set and the device's own steps. -/
def laneGate (i : Instr) : Option Gate :=
  match i with
  | .iadd f | .iadds f | .isub f | .isubs f | .imul f | .imulh f | .imulhu f | .imin f | .iminu f | .imax f | .imaxu f | .andL f | .orL f | .xorL f
    | .andn f | .shl f | .shr f | .sar f | .rotl f | .bfx f | .bfxs f | .fadd f _ | .fsub f _ | .fmul f _ | .fmin f | .fmax f | .fminn f | .fmaxn f
    | .hadd2 f | .hmul2 f | .hmax2 f | .bscale f | .bsq f | .bsqe f | .bsdq f => some (gateTwo f)
  | .popc f | .clz f | .brev f | .iabs f | .mov f | .fabs f | .fneg f | .frint f | .fclass f | .f2bf f | .bf2f f | .f2i f | .i2f f | .f2iz f
    | .u2f f | .f2uz f => some (gateOne f)
  | .imad f | .idot4 f | .bfi f | .ffma f _ | .hfma2 f => some (gateThree f)
  | .iaddd f | .isubd f => some { regs := pairOf f.d ++ pairOf f.a ++ pairOf f.b }
  | .imulw f | .imadw f => some { regs := pairOf f.d ++ regOf f.a ++ regOf f.b, latches := latchOf f.a ++ latchOf f.b }
  | .icmpEq f | .icmpNe f | .icmpLt f | .icmpLe f | .icmpuLt f | .icmpuLe f | .icmpuGt f | .icmpuGe f | .fcmpEq f | .fcmpLt f | .fcmpLe f
    | .fcmpUn f => some (gateCompared f)
  | .pand _ | .por _ | .pxor _ | .pnand _ | .anyP _ | .allP _ | .elect _ => some {}
  | .pmovr f | .movs f | .selfIx f | .laneid f | .ballot f => some (gateNone f)
  | .pmovw f | .pbit f => some { regs := regOf f.a, latches := latchOf f.a }
  | .iaddi f | .andi f | .selp f => some (gateI f)
  | .movi f => some { regs := regOf f.d }
  | .shli f | .shri f | .sari f | .rotli f => some (gateSh f)
  | .frcp f | .frsq f | .fex2 f | .flg2 f | .lredIadd f | .lredImax f | .lredFadd f | .lredFmax f | .lscanIaddEx f | .lscanIaddIn f
    | .lscanFaddEx f | .lscanFaddIn f | .nbl f | .nbr f => some { regs := regOf f.d ++ regOf f.a }
  | .nblb f | .nbrb f | .shflIdx f | .shflXor f | .shflUp f | .shflDn f => some { regs := regOf f.d ++ regOf f.a ++ regOf f.b }
  | .cbxB8 f | .cbxN4 f => some { regs := regOf f.d ++ regOf f.a, cc := true, feat := some 1 }
  | .xffma f _ | .xfmul f _ => some { regs := regOf f.d ++ regOf f.a ++ regOf f.b, cc := true, feat := some 1 }
  | .mfrag f | .mfraga f => some { regs := groupOf f.d 8 ++ groupOf f.a 12 ++ groupOf f.b 12, cc := true }
  | .mfragx f => some { regs := groupOf f.d 8 ++ groupOf f.a 12 ++ regOf f.b, cc := true, feat := some 1 }
  | .rmod f | .rmadC03 f _ | .rmadC45 f _ => some { regs := regOf f.d ++ regOf f.a ++ regOf f.b, cc := true, feat := some 2 }
  | .rrec f => some { regs := pairOf f.d ++ groupOf f.a 3 ++ regOf f.b, cc := true, feat := some 2 }
  | .rchk f => some { regs := regOf f.d ++ groupOf f.a 3 ++ regOf f.b, cc := true, feat := some 2 }
  -- memory: the registers of the data, and the address
  | .ldl f z | .stl f z | .ld f z | .st f z => some { regs := groupOf f.d (if z = 3 then 2 else 1) ++ regOf f.a }
  | .ldlv f z | .stlv f z => some { regs := groupOf f.d (2 * 2 ^ z.toNat) ++ regOf f.a }
  | .lda f z | .str f z => some { regs := groupOf f.d (if z = 3 then 2 else 1) ++ regOf f.a }
  | .atlAdd f | .atlMax f | .atlMin f | .atlExch f => some { regs := groupOf f.d 1 ++ regOf f.a ++ groupOf f.b 1 }
  | .casl f z => some { regs := groupOf f.d (1 + z.toNat) ++ regOf f.a ++ groupOf f.b (1 + z.toNat) }
  | .atomAdd f | .atomMax f | .atomMin f | .atomExch f | .atombAnd f | .atombOr f | .atombXor f | .atombAddf f =>
    some { regs := groupOf f.d 1 ++ regOf f.a }
  | .casW f => some { regs := groupOf f.d 2 ++ regOf f.a }
  | .casD f => some { regs := groupOf f.d 4 ++ regOf f.a }
  | .casQ f | .casQAr f => some { regs := groupOf f.d 8 ++ regOf f.a }
  | _ => none

/-! ### Which records are good -/

/-- Bits `hi` to `lo` of the little-endian field of `n` bytes at `off` of a record. -/
def recBits (p : List Byte) (off n hi lo : Nat) : Nat := fieldN p off n / 2 ^ lo % 2 ^ (hi + 1 - lo)
/-- The `n` bytes at `off` of a record are zero. -/
def recZero (p : List Byte) (off n : Nat) : Prop := ∀ i, i < n → p.getD (off + i) 0 = 0
/-- An address field holds a global, or with `loc` a local address (R231, R346, R375). -/
def recAddr (loc : Prop) (a : Nat) : Prop := (loc → a < 2 ^ 32) ∧ (¬loc → a < 2 ^ 55)

/-- R96 to R101: a launch packet is good where the features of `feat` are accepted. (A template of no size is the model's choice:
notes/assumptions/119.) -/
structure PacketGood (feat : DWord) (p : List Byte) : Prop where
  entry : recBits p 0 8 63 55 = 0 ∧ recBits p 0 8 1 0 = 0
  grid : 1 ≤ fieldN p 8 4 ∧ 1 ≤ fieldN p 0x0C 2 ∧ 1 ≤ fieldN p 0x0E 2 ∧ fieldN p 8 4 * fieldN p 0x0C 2 * fieldN p 0x0E 2 < 2 ^ 32
  template : recBits p 0x18 8 63 55 = 0 ∧ (recBits p 0x18 8 0 0 = 1 → recBits p 0x18 8 18 2 ≠ 0 ∧ feat.getLsbD 0 = true) ∧
    (recBits p 0x18 8 0 0 = 0 → fieldN p 0x18 8 = 0)
  role : ∀ r, r < 4 → let at_ := recBits p (0x20 + 3 * r) 3
    at_ 23 21 = 0 ∧ (at_ 5 0 = 0 → at_ 9 6 = 0 ∧ at_ 20 10 = 0) ∧
    (at_ 5 0 ≠ 0 → at_ 5 0 ≤ 32 ∧ at_ 9 6 ≠ 0 ∧ at_ 20 10 ≤ at_ 5 0 * (4 * at_ 9 6)) ∧ (recBits p 0x18 8 0 0 = 0 → at_ 20 10 = 0)
  roles : let groups := fun (r : Nat) => recBits p (0x20 + 3 * r) 3 5 0
    groups 0 ≠ 0 ∧ (∀ r, r < 3 → groups (r + 1) ≠ 0 → groups r ≠ 0) ∧ groups 0 + groups 1 + groups 2 + groups 3 ≤ 32 ∧
    -- LINKED: at most 16 teams, and no SUPERSTEP
    (recBits p 0x2C 4 30 30 = 1 → recBits p 0x2C 4 29 29 = 0 ∧
      fieldN p 8 4 * fieldN p 0x0C 2 * fieldN p 0x0E 2 ≤ 16 * (32 * (groups 0 + groups 1 + groups 2 + groups 3)))
  parts : recBits p 0x2C 4 14 9 ≤ 32 ∧ recBits p 0x2C 4 8 4 ≤ 16 ∧ recBits p 0x2C 4 3 0 ≤ 14 ∧ (recBits p 0x2C 4 26 19 ≠ 0 → feat.getLsbD 1 = true)
  tail : recBits p 0x30 8 63 55 = 0 ∧ recBits p 0x38 8 63 55 = 0 ∧ recBits p 0x38 8 5 0 = 0

/-- R224: a moduli descriptor is valid. -/
structure ModuliGood (d : List Byte) : Prop where
  counts : 2 ≤ fieldN d 0 1 ∧ fieldN d 0 1 ≤ 4 ∧ fieldN d 1 1 ≤ 2
  range : ∀ i, i < fieldN d 0 1 + fieldN d 1 1 → 3 ≤ fieldN d (8 + 2 * i) 2 ∧ fieldN d (8 + 2 * i) 2 ≤ 4095
  coprime : ∀ i j, i < fieldN d 0 1 + fieldN d 1 1 → j < i → Nat.gcd (fieldN d (8 + 2 * i) 2) (fieldN d (8 + 2 * j) 2) = 1
  order : ∀ i j, i < fieldN d 0 1 → fieldN d 0 1 ≤ j → j < fieldN d 0 1 + fieldN d 1 1 → fieldN d (8 + 2 * i) 2 < fieldN d (8 + 2 * j) 2
  unused : ∀ i, fieldN d 0 1 + fieldN d 1 1 ≤ i → i < 6 → fieldN d (8 + 2 * i) 2 = 0
  zero : fieldN d 2 6 = 0 ∧ recZero d 0x14 44

/-- R231, R232, R235, R238: a tile parameter block breaks no limit of its own fields. -/
structure BlockGood (feat : DWord) (b : List Byte) : Prop where
  zero : recBits b 0 4 31 30 = 0 ∧ recBits b 0 4 1 0 = 0 ∧ fieldN b 0x54 4 = 0 ∧ recZero b 0x60 32
  panel : fieldN b 4 2 % 48 = 0 ∧ 48 ≤ fieldN b 4 2 ∧ fieldN b 4 2 ≤ 12288 ∧ 1 ≤ fieldN b 6 2 ∧ fieldN b 6 2 ≤ fieldN b 4 2 ∧
    fieldN b 0x10 4 % 48 = 0
  size : 1 ≤ fieldN b 8 1 ∧ fieldN b 8 1 ≤ 64 ∧ 1 ≤ fieldN b 9 1 ∧ fieldN b 9 1 ≤ 64
  -- RAW, SIGNED, A_FMT, B_FMT and SPARSE
  modes : let aFmt := recBits b 0 4 15 13
    let bFmt := recBits b 0 4 18 16
    (recBits b 0 4 20 20 = 1 → (aFmt = 3 ∨ aFmt = 4) ∧ (bFmt = 3 ∨ bFmt = 4) ∧ recBits b 0 4 12 11 = 0 ∧ fieldN b 0x0A 2 = 0 ∧
      feat.getLsbD 2 = true) ∧
    (recBits b 0 4 20 20 = 0 → recBits b 0 4 19 19 = 0 ∧ aFmt ≤ 2 ∧ (bFmt ≤ 2 ∨ bFmt = 5)) ∧
    recBits b 0 4 12 11 ≠ 3 ∧ (recBits b 0 4 12 11 ≠ 0 → bFmt = 0) ∧ (aFmt ∈ [1, 2, 4] ∨ bFmt ∈ [1, 2, 4] → feat.getLsbD 1 = true)
  addresses : recAddr (recBits b 0 4 10 10 = 1) (fieldN b 0x18 8) ∧ recAddr (recBits b 0 4 9 9 = 1) (fieldN b 0x30 8) ∧
    recAddr (recBits b 0 4 9 9 = 1) (fieldN b 0x48 8) ∧ fieldN b 0x50 4 % 4 = 0 ∧ fieldN b 0x58 8 < 2 ^ 55 ∧ fieldN b 0x58 8 % 64 = 0
  -- the scales and the block length of A, and of B where its format uses them
  scales : ∀ q ∈ [(recBits b 0 4 15 13, recBits b 0 4 10 10, 0x20, 0x2C, 0x14), (recBits b 0 4 18 16, recBits b 0 4 9 9, 0x38, 0x44, 0x16)],
    let (fmt, loc, scale, stride, len) := q
    fmt ≠ 5 →
      (fmt = 3 → fieldN b scale 8 < 2 ^ 32) ∧ (fmt ≠ 3 → recAddr (loc = 1) (fieldN b scale 8)) ∧ fieldN b stride 4 % 4 = 0 ∧
      (recBits b 0 4 20 20 = 1 → fieldN b len 2 = 0) ∧
      (recBits b 0 4 20 20 = 0 → fieldN b len 2 % 24 = 0 ∧ 24 ≤ fieldN b len 2 ∧ fieldN b len 2 ≤ 12288)
  multicast : fieldN b 0x0C 4 < 2 ^ 23 ∧
    (fieldN b 0x0A 2 ≠ 0 → fieldN b 0x0C 4 % 128 = 0 ∧ 0x0C0000 ≤ fieldN b 0x0C 4 ∧ fieldN b 0x0C 4 < 0x140000)

/-- R236: a tensor shape record breaks no limit of its own fields; `loc` is B_LOCAL. -/
structure ShapeGood (loc : Prop) (r : List Byte) : Prop where
  input : 1 ≤ fieldN r 0 2 ∧ 1 ≤ fieldN r 2 2 ∧ 2 ≤ fieldN r 4 2 ∧ fieldN r 4 2 % 2 = 0
  filter : ∀ i, i < 6 → 1 ≤ fieldN r (6 + i) 1
  pad : fieldN r 0x10 2 < 4096 ∧ fieldN r 0x10 2 ≠ 0x800
  zero : fieldN r 0x12 6 = 0 ∧ recZero r 0x2C 20
  addresses : recAddr loc (fieldN r 0x18 8) ∧ recAddr loc (fieldN r 0x20 8) ∧ fieldN r 0x20 8 % 4 = 0
  output : fieldN r 0x0A 1 * (fieldN r 6 1 - 1) + 1 ≤ fieldN r 0 2 + fieldN r 0x0C 1 + fieldN r 0x0D 1 ∧
    fieldN r 0x0B 1 * (fieldN r 7 1 - 1) + 1 ≤ fieldN r 2 2 + fieldN r 0x0E 1 + fieldN r 0x0F 1

/-- R346 to R348, R350: a copy record of a kind (R348's F) is good. (That SFMT and ERRFB may be set where they have no meaning, and what AUX is
held to, are the model's choices: notes/assumptions/14.) -/
structure CopyGood (kind : Nat) (r : List Byte) : Prop where
  zero : recBits r 0 4 17 0 = 0 ∧ fieldN r 0x0E 2 = 0 ∧ fieldN r 0x3C 4 = 0 ∧ recBits r 0x38 4 31 12 = 0
  counts : 1 ≤ fieldN r 4 4 ∧ fieldN r 4 4 ≤ 2 ^ 24 ∧ 1 ≤ fieldN r 8 4 ∧ fieldN r 8 4 ≤ 65536 ∧ recBits r 0 4 27 26 ≠ 3
  -- kinds with SB12: to SB12, SB12 to BF16, and to RP16 with SFMT 0
  blocks : let sb := kind = 1 ∨ kind = 3 ∨ kind = 2 ∧ recBits r 0 4 24 24 = 0
    (sb → fieldN r 0x0C 2 % 24 = 0 ∧ 24 ≤ fieldN r 0x0C 2 ∧ fieldN r 0x0C 2 ≤ 12288 ∧ fieldN r 4 4 % fieldN r 0x0C 2 = 0 ∧
      fieldN r 0x30 4 % 4 = 0) ∧
    (¬sb → fieldN r 0x0C 2 = 0 ∧ fieldN r 0x30 4 = 0 ∧ (kind ≠ 4 → fieldN r 0x28 8 = 0))
  xstride : (kind = 2 → fieldN r 0x34 4 % 2 = 0) ∧ (kind ≠ 2 → kind ≠ 4 → fieldN r 0x34 4 = 0)
  addresses : let sl := recBits r 0 4 30 30 = 1
    let dl := recBits r 0 4 29 29 = 1
    recAddr sl (fieldN r 0x10 8) ∧ recAddr (kind = 5 ∨ dl) (fieldN r 0x18 8) ∧ recAddr (kind = 1 ∧ dl ∨ kind ≠ 1 ∧ sl) (fieldN r 0x28 8)
  sources : ∀ off ∈ [(0x10, 8), (0x20, 4)], (kind = 1 → fieldN r off.1 off.2 % (if recBits r 0 4 24 24 = 1 then 2 else 4) = 0) ∧
    (kind = 2 → recBits r 0 4 24 24 = 1 → fieldN r off.1 off.2 % 4 = 0)
  targets : ∀ off ∈ [(0x18, 8), (0x24, 4)], (kind = 2 ∨ kind = 3 → fieldN r off.1 off.2 % 2 = 0) ∧ (kind = 5 → fieldN r off.1 off.2 % 256 = 0)
  drain : kind = 5 → recBits r 0 4 30 30 = 0 ∧ recBits r 0 4 29 29 = 0 ∧ fieldN r 4 4 % 256 = 0

/-- R366: a brine job record is good. -/
structure JobGood (r : List Byte) : Prop where
  zero : recBits r 0 4 26 16 = 0 ∧ recBits r 0x14 4 31 12 = 0 ∧ fieldN r 0x30 16 = 0
  mode : recBits r 0 4 30 29 ≠ 3 ∧ (recBits r 0 4 30 29 = 2 → recBits r 0 4 28 27 = 1)
  chunks : 1 ≤ fieldN r 4 4 ∧ fieldN r 4 4 ≤ 65536
  addresses : fieldN r 8 8 < 2 ^ 55 ∧ fieldN r 0x18 8 < 2 ^ 55 ∧ fieldN r 0x18 8 % 16 = 0 ∧ fieldN r 0x20 8 < 2 ^ 55
  tiles : (recBits r 0 4 30 29 = 0 → fieldN r 0x2C 2 = 0 ∧ fieldN r 0x2E 2 = 0) ∧
    (recBits r 0 4 30 29 ≠ 0 → 1 ≤ fieldN r 0x2C 2 ∧ 1 ≤ fieldN r 0x2E 2)

/-- R375 to R377: a transfer record is good. -/
structure TransferGood (r : List Byte) : Prop where
  zero : recBits r 0 4 23 0 = 0 ∧ recBits r 4 2 15 10 = 0 ∧ fieldN r 0x34 4 = 0
  counters : fieldN r 6 2 < 4096 ∧ fieldN r 0x30 2 < 4096
  remote : fieldN r 0x18 8 < 2 ^ 55
  local_ : recAddr (recBits r 0 4 29 29 = 1) (fieldN r 0x10 8)
  -- PUT and GET; PUTC; ATOMR
  plain : recBits r 0 4 31 30 ≤ 1 → 1 ≤ fieldN r 8 4 ∧ fieldN r 8 4 ≤ 2 ^ 24
  counted : recBits r 0 4 31 30 = 2 → fieldN r 8 4 ≤ 2 ^ 24 ∧ 1 ≤ fieldN r 0x0C 4
  others : recBits r 0 4 31 30 ≠ 2 → fieldN r 6 2 = 0 ∧ fieldN r 0x0C 4 = 0
  atomic : recBits r 0 4 31 30 = 3 → let aop := recBits r 0 4 27 24
    let size := if aop = 1 ∨ aop = 3 ∨ aop = 5 then 8 else 4
    aop < 8 ∧ fieldN r 8 4 = 0 ∧ fieldN r 0x10 8 % size = 0 ∧ fieldN r 0x18 8 % size = 0 ∧ (aop ≠ 4 → aop ≠ 5 → fieldN r 0x28 8 = 0)
  moves : recBits r 0 4 31 30 ≠ 3 → recBits r 0 4 27 24 = 0 ∧ fieldN r 0x20 8 = 0 ∧ fieldN r 0x28 8 = 0

/-- R389 to R391: a collective record is good, but for its RANKS entry. -/
structure CollGood (r : List Byte) : Prop where
  zero : recBits r 0 4 15 0 = 0 ∧ recBits r 0x3E 1 7 4 = 0 ∧ fieldN r 0x3F 1 = 0 ∧ fieldN r 0x42 6 = 0 ∧ fieldN r 0x50 48 = 0
  kind : recBits r 0 4 31 30 ≠ 3 ∧ recBits r 0 4 29 27 ≤ 4 ∧ recBits r 0 4 26 25 ≠ 3 ∧
    (recBits r 0 4 26 25 ≠ 0 → recBits r 0 4 29 27 = 0 ∨ recBits r 0 4 29 27 = 1 ∨ recBits r 0 4 29 27 = 4) ∧
    (recBits r 0 4 29 27 ≠ 4 → recBits r 0 4 21 16 = 0)
  ranks : 2 ≤ fieldN r 4 2 ∧ fieldN r 4 2 ≤ 1024 ∧ fieldN r 6 2 < fieldN r 4 2 ∧ (recBits r 0 4 31 30 = 1 → fieldN r 8 2 < fieldN r 4 2) ∧
    (recBits r 0 4 31 30 ≠ 1 → fieldN r 8 2 = 0)
  counters : fieldN r 0x0A 2 < 4096 ∧ fieldN r 0x40 2 < 4096
  length : 1 ≤ fieldN r 0x0C 4 ∧ fieldN r 0x0C 4 ≤ 2 ^ 30 ∧ (recBits r 0 4 31 30 = 2 → fieldN r 0x0C 4 % fieldN r 4 2 = 0)
  addresses : ∀ i, i < 5 → fieldN r (0x10 + 8 * i) 8 < 2 ^ 55
  skip : recBits r 0 4 26 25 = 0 → fieldN r 0x28 8 = 0
  -- the result's bytes within the tile buffer where it is multicast
  multicast : let size := if recBits r 0 4 29 27 = 1 then 2 else if recBits r 0 4 29 27 = 3 then 8 else 4
    let bytes := (if recBits r 0 4 31 30 = 2 then fieldN r 0x0C 4 / fieldN r 4 2 else fieldN r 0x0C 4) * size
    (fieldN r 0x3C 2 = 0 → fieldN r 0x38 4 = 0) ∧
    (fieldN r 0x3C 2 ≠ 0 → fieldN r 0x38 4 % 128 = 0 ∧ 0x0C0000 ≤ fieldN r 0x38 4 ∧ fieldN r 0x38 4 + bytes ≤ 0x140000)
  -- a participant of REDUCE that is not the root writes nothing
  result : let writes := recBits r 0 4 31 30 ≠ 1 ∨ fieldN r 6 2 = fieldN r 8 2
    (writes → fieldN r 0x20 8 ≠ 0 ∨ fieldN r 0x3C 2 ≠ 0) ∧
    (¬writes → fieldN r 0x20 8 = 0 ∧ fieldN r 0x28 8 = 0 ∧ fieldN r 0x38 4 = 0 ∧ fieldN r 0x3C 2 = 0 ∧ fieldN r 0x3E 1 = 0 ∧ fieldN r 0x40 2 = 0)

/-! ### Tile work -/

/-- What a queued tile or drain operation leaves (R239): handle entry `e` holds the next sequence number and is busy, the operation stands
last in the core's queue, and sD is the handle. -/
def Queued (i : Instr) (s t : State) (c : Ctx) (d : BitVec 6) (e : Nat) (o : TileOp) : Prop :=
  let seq := if c.t.tseq = 2 ^ 32 - 1 then 1 else c.t.tseq + 1
  let taken := fun (x : Team) => { x.setHandle e ⟨seq, 1, true, 0⟩ with tseq := seq }
  exec i s = .next (Falls c
    ((t.modTeam c.t.tid taken).modCore c.core fun x => { x with tileQ := x.tileQ ++ [{ o with team := taken c.t }] })
    fun g => g.setS d.toNat (BitVec.ofNat 64 (seq * 256 + e)))

end Sys2Proof.Machine
end

