-- ==== Sys2Proof/Certificates/Slice0/Obligations.lean ====
section
/-! DEFINITION. The statements for the provers. Each says of every form it names that it completes, what it leaves and what it
leaves alone; `Falls`, `LaneDone` and their kin (Safety) say both at once. -/

open Sys2Proof Sys2Proof.Machine

/-! ### The lane set -/

/-- R30, R34, R161, R162: two-source and one-source integer instructions write their result to vD in the executing lanes (unless
W) and push it; nothing else differs but what `LaneDone` names. The bits of extracted and inserted fields, and a count of leading zeros. -/
def Obligations.LaneIntegerResults : Prop :=
  (∀ (s : State) (c : Ctx) (f : LaneR), f.ok .push .dst .srcA .srcA = true →
    let x := c.src f.a
    let y := c.src f.b
    let ex := c.execMask f.g
    (LaneRuns (gateTwo f) f.g (rowsOf f.w f.d) s c →
      let gives := fun (i : Instr) (v : Nat → Word) => Pushes i s c (gateTwo f) ex f.w f.d v s.launches
      gives (.iadd f) (fun l => x l + y l) ∧
      gives (.iadds f) (fun l => BitVec.ofInt 32 (max (-2147483648) (min 2147483647 ((x l).toInt + (y l).toInt)))) ∧
      gives (.isub f) (fun l => x l - y l) ∧
      gives (.isubs f) (fun l => BitVec.ofInt 32 (max (-2147483648) (min 2147483647 ((x l).toInt - (y l).toInt)))) ∧
      gives (.imul f) (fun l => BitVec.ofNat 32 ((x l).toNat * (y l).toNat)) ∧
      gives (.imulh f) (fun l => BitVec.ofInt 32 ((x l).toInt * (y l).toInt / 4294967296)) ∧
      gives (.imulhu f) (fun l => BitVec.ofNat 32 ((x l).toNat * (y l).toNat / 4294967296)) ∧
      gives (.imin f) (fun l => BitVec.ofInt 32 (min (x l).toInt (y l).toInt)) ∧
      gives (.iminu f) (fun l => BitVec.ofNat 32 (min (x l).toNat (y l).toNat)) ∧
      gives (.imax f) (fun l => BitVec.ofInt 32 (max (x l).toInt (y l).toInt)) ∧
      gives (.imaxu f) (fun l => BitVec.ofNat 32 (max (x l).toNat (y l).toNat)) ∧
      gives (.andL f) (fun l => x l &&& y l) ∧
      gives (.orL f) (fun l => x l ||| y l) ∧
      gives (.xorL f) (fun l => x l ^^^ y l) ∧
      gives (.andn f) (fun l => x l &&& ~~~(y l)) ∧
      gives (.shl f) (fun l => x l <<< ((y l).toNat % 32)) ∧
      gives (.shr f) (fun l => x l >>> ((y l).toNat % 32)) ∧
      gives (.sar f) (fun l => (x l).sshiftRight ((y l).toNat % 32)) ∧
      gives (.rotl f) (fun l => (x l).rotateLeft ((y l).toNat % 32)) ∧
      gives (.bfx f) (fun l => bfExtract (x l) (y l)) ∧
      gives (.bfxs f) (fun l => bfExtractS (x l) (y l))) ∧
    (f.b = 0 → LaneRuns (gateOne f) f.g (rowsOf f.w f.d) s c →
      let gives := fun (i : Instr) (v : Nat → Word) => Pushes i s c (gateOne f) ex f.w f.d v s.launches
      gives (.popc f) (fun l => BitVec.ofNat 32 ((List.range 32).filter fun n => (x l).getLsbD n).length) ∧
      gives (.clz f) (fun l => leadingZeros (x l)) ∧
      gives (.brev f) (fun l => (x l).reverse) ∧
      gives (.iabs f) (fun l => BitVec.ofNat 32 (x l).toInt.natAbs))) ∧
  (∀ a b d : Word,
    let pos := b.toNat % 32
    let width := min (b.toNat / 32 % 32) (32 - pos)
    (∀ n, n < 32 → (bfExtract a b).getLsbD n = (decide (n < width) && a.getLsbD (pos + n))) ∧
    (∀ n, n < 32 → (bfExtractS a b).getLsbD n = (decide (0 < width) && a.getLsbD (pos + min n (width - 1)))) ∧
    (∀ n, n < 32 → (bfInsert a b d).getLsbD n =
      if pos ≤ n ∧ n < pos + width then a.getLsbD (n - pos) else d.getLsbD n) ∧
    (∀ n, n < (leadingZeros a).toNat → a.getLsbD (31 - n) = false) ∧
    (leadingZeros a).toNat ≤ 32 ∧
    ((leadingZeros a).toNat < 32 → a.getLsbD (31 - (leadingZeros a).toNat) = true))

/-- R30, R161, R162: the forms with a pair result, and those whose old destination is a source. -/
def Obligations.LanePairsAndAccumulates : Prop :=
  ∀ (s : State) (c : Ctx) (f : LaneR),
    let x := c.src f.a
    let y := c.src f.b
    let ex := c.execMask f.g
    (f.ok .push .pair .pair .pair = true →
      let G : Gate := { regs := pairOf f.d ++ (pairOf f.a ++ pairOf f.b), reads := pairOf f.a ++ pairOf f.b }
      LaneRuns G f.g (pairRowsOf f.w f.d) s c →
        PushesPair (.iaddd f) s c G ex f.w f.d (fun l => c.pairReg f.a l + c.pairReg f.b l) ∧
        PushesPair (.isubd f) s c G ex f.w f.d (fun l => c.pairReg f.a l - c.pairReg f.b l)) ∧
    (f.ok .push .pair .srcA .srcA = true →
      let G : Gate :=
        { regs := pairOf f.d ++ (regOf f.a ++ regOf f.b), reads := regOf f.a ++ regOf f.b, latches := latchOf f.a ++ latchOf f.b }
      LaneRuns G f.g (pairRowsOf f.w f.d) s c →
        PushesPair (.imulw f) s c G ex f.w f.d (fun l => BitVec.ofInt 64 ((x l).toInt * (y l).toInt))) ∧
    (f.ok .push .pair .srcA .srcA = true →
      let G : Gate :=
        { regs := pairOf f.d ++ (regOf f.a ++ regOf f.b ++ pairOf f.d), reads := regOf f.a ++ regOf f.b ++ pairOf f.d
          latches := latchOf f.a ++ latchOf f.b }
      LaneRuns G f.g (pairRowsOf f.w f.d) s c →
        PushesPair (.imadw f) s c G ex f.w f.d (fun l => BitVec.ofInt 64 ((x l).toInt * (y l).toInt + (c.pairReg f.d l).toInt))) ∧
    (f.ok .push .dst .srcA .srcA = true → LaneRuns (gateThree f) f.g (rowsOf f.w f.d) s c →
      let gives := fun (i : Instr) (v : Nat → Word) => Pushes i s c (gateThree f) ex f.w f.d v s.launches
      gives (.imad f) (fun l => x l * y l + c.reg f.d l) ∧
      gives (.idot4 f) (fun l => BitVec.ofInt 32 ((c.reg f.d l).toInt + sByte (x l) 0 * sByte (y l) 0 + sByte (x l) 1 * sByte (y l) 1
        + sByte (x l) 2 * sByte (y l) 2 + sByte (x l) 3 * sByte (y l) 3)) ∧
      gives (.bfi f) (fun l => bfInsert (x l) (y l) (c.reg f.d l)))

/-- R59, R165 to R167: moves and immediate forms. SELP writes every active lane, and its guard selects. -/
def Obligations.LaneMovesAndImmediates : Prop :=
  ∀ (s : State) (c : Ctx),
    (∀ f : LaneR, f.ok .push .dst .srcA .zero = true → LaneRuns (gateOne f) f.g (rowsOf f.w f.d) s c →
      Pushes (.mov f) s c (gateOne f) (c.execMask f.g) f.w f.d (c.src f.a) s.launches) ∧
    (∀ f : LaneR, LaneRuns (gateNone f) f.g (rowsOf f.w f.d) s c →
      let gives := fun (i : Instr) (v : Nat → Word) => Pushes i s c (gateNone f) (c.execMask f.g) f.w f.d v s.launches
      (f.ok .push .dst .any (.below 2) = true → gives (.movs f) fun _ => (c.sReg f.a).extractLsb' (32 * f.b.toNat) 32) ∧
      (f.ok .push .dst (.below 8) .zero = true → gives (.selfIx f) fun l =>
        let i := c.g.index l
        BitVec.ofNat 32 ([i.x, i.y, i.z, i.lin, i.team, i.fib, i.role, i.level].getD f.a.toNat 0)) ∧
      (f.ok .push .dst .zero .zero = true → gives (.laneid f) fun l => BitVec.ofNat 32 l)) ∧
    (∀ f : LaneI, f.ok guardOk true = true → LaneRuns (gateI f) f.g (rowsOf f.w f.d) s c →
      let gives := fun (i : Instr) (v : Nat → Word) => Pushes i s c (gateI f) (c.execMask f.g) f.w f.d v s.launches
      gives (.iaddi f) (fun l => c.src f.a l + f.i.signExtend 32) ∧
      gives (.andi f) (fun l => c.src f.a l &&& f.i.signExtend 32)) ∧
    (∀ f : LaneI, f.ok guardOk false = true → LaneRuns { regs := regOf f.d } f.g (rowsOf f.w f.d) s c →
      Pushes (.movi f) s c { regs := regOf f.d } (c.execMask f.g) f.w f.d (fun _ => f.i.signExtend 32) s.launches) ∧
    (∀ f : LaneI, f.ok selectorOk true = true → Issues (gateI f) s c → regErrors s c.gid (regOf f.a) c.active = [] →
      RowsFree s c (rowsOf f.w f.d) c.active →
      Pushes (.selp f) s c (gateI f) c.active f.w f.d
        (fun l => if (c.execMask f.g).getLsbD l then c.src f.a l else f.i.signExtend 32) s.launches) ∧
    (∀ f : LaneSh, f.ok = true → LaneRuns (gateSh f) f.g (rowsOf f.w f.d) s c →
      let gives := fun (i : Instr) (v : Nat → Word) => Pushes i s c (gateSh f) (c.execMask f.g) f.w f.d v s.launches
      gives (.shli f) (fun l => c.src f.a l <<< f.n.toNat) ∧
      gives (.shri f) (fun l => c.src f.a l >>> f.n.toNat) ∧
      gives (.sari f) (fun l => (c.src f.a l).sshiftRight f.n.toNat) ∧
      gives (.rotli f) (fun l => (c.src f.a l).rotateLeft f.n.toNat))

/-- R34, R163, R164, R202: compares and predicate logic. W ANDs a compare with the old predicate; none of them pushes. -/
def Obligations.LaneComparesAndPredicates : Prop :=
  ∀ (s : State) (c : Ctx) (f : LaneR),
    let x := c.src f.a
    let y := c.src f.b
    let ex := c.execMask f.g
    let anded := fun (r : Nat → Bool) (l : Nat) => if f.w then c.g.p f.d.toNat l && r l else r l
    (f.ok .anded .pred .srcA .srcA = true → Issues (gateCompared f) s c → regErrors s c.gid (gateCompared f).reads ex = [] →
      let gives := fun (i : Instr) (r : Nat → Bool) => SetsPred i s c (gateCompared f) ex f.d (anded r) s.launches
      let fgives := fun (i : Instr) (k : FRel) =>
        let r := fun l => fRel k c.t.ftz (x l).toNat (y l).toNat
        SetsPred i s c (gateCompared f) ex f.d (anded fun l => (r l).1) (c.count s kFLUSH (maskOf fun l => ex.getLsbD l && (r l).2)).launches
      gives (.icmpEq f) (fun l => decide (x l = y l)) ∧
      gives (.icmpNe f) (fun l => decide (x l ≠ y l)) ∧
      gives (.icmpLt f) (fun l => decide ((x l).toInt < (y l).toInt)) ∧
      gives (.icmpLe f) (fun l => decide ((x l).toInt ≤ (y l).toInt)) ∧
      gives (.icmpuLt f) (fun l => decide ((x l).toNat < (y l).toNat)) ∧
      gives (.icmpuLe f) (fun l => decide ((x l).toNat ≤ (y l).toNat)) ∧
      gives (.icmpuGt f) (fun l => decide ((y l).toNat < (x l).toNat)) ∧
      gives (.icmpuGe f) (fun l => decide ((y l).toNat ≤ (x l).toNat)) ∧
      fgives (.fcmpEq f) .eq ∧ fgives (.fcmpLt f) .lt ∧ fgives (.fcmpLe f) .le ∧ fgives (.fcmpUn f) .un) ∧
    (f.ok .off .pred .pred .pred = true → Issues {} s c →
      let gives := fun (i : Instr) (r : Bool → Bool → Bool) =>
        SetsPred i s c {} ex f.d (fun l => r (c.g.p f.a.toNat l) (c.g.p f.b.toNat l)) s.launches
      gives (.pand f) (fun a b => a && b) ∧ gives (.por f) (fun a b => a || b) ∧ gives (.pxor f) (fun a b => a != b) ∧
      gives (.pnand f) (fun a b => !(a && b))) ∧
    (f.ok .off .dst .zero .zero = true → LaneRuns (gateNone f) f.g [f.d.toNat] s c →
      ∃ t, exec (.pmovr f) s = .next t ∧
        LaneDone s t c (writes f.d.toNat ex fun l => c.g.predOf l) predsNone (c.u.classA false false ex fun _ => 0) s.launches) ∧
    (let G : Gate := { regs := regOf f.a, reads := regOf f.a, latches := latchOf f.a }
     Issues G s c → regErrors s c.gid (regOf f.a) ex = [] →
      (f.ok .off .zero .srcA .zero = true →
        ∃ t, exec (.pmovw f) s = .next t ∧
          LaneDone s t c writesNone (fun l => if ex.getLsbD l then some (x l) else none)
            (c.u.classA (!G.latches.isEmpty) false ex fun _ => 0) s.launches) ∧
      (f.ok .off .pred .srcA (.below 32) = true → SetsPred (.pbit f) s c G ex f.d (fun l => (x l).getLsbD f.b.toNat) s.launches))

/-- R172 to R174: shuffles read active lanes and give 0 for the others; votes, sums, maxima and scans are over the executing
lanes. All end the chain. -/
def Obligations.CrossLaneResults : Prop :=
  ∀ (s : State) (c : Ctx) (f : LaneR),
    let ex := c.execMask f.g
    let x := c.reg f.a
    (f.ok .off .dst .src .src = true →
      let G : Gate := { regs := regOf f.d ++ (regOf f.a ++ regOf f.b), reads := regOf f.a ++ regOf f.b }
      LaneRuns G f.g [f.d.toNat] s c → regErrors s c.gid (regOf f.a) c.active = [] →
      let n := fun l => (c.reg f.b l).toNat % 32
      let gives := fun (i : Instr) (m : Nat → Nat) =>
        WritesRow i s c ex f.d (fun l => if c.active.getLsbD (m l) then x (m l) else 0) s.launches
      gives (.shflIdx f) n ∧
      gives (.shflXor f) (fun l => l ^^^ n l) ∧
      gives (.shflUp f) (fun l => if n l ≤ l then l - n l else l) ∧
      gives (.shflDn f) (fun l => if l + n l < 32 then l + n l else l)) ∧
    (f.ok .off .dst .pred .zero = true → LaneRuns (gateNone f) f.g [f.d.toNat] s c →
      WritesRow (.ballot f) s c ex f.d (fun _ => maskOf fun l => ex.getLsbD l && c.g.p f.a.toNat l) s.launches) ∧
    (f.ok .off .pred .pred .zero = true → LaneRuns {} f.g [] s c →
      WritesPred (.anyP f) s c ex f.d (fun _ => (lanesOf ex).any fun l => c.g.p f.a.toNat l) ∧
      WritesPred (.allP f) s c ex f.d (fun _ => (lanesOf ex).all fun l => c.g.p f.a.toNat l)) ∧
    (f.ok .off .pred .zero .zero = true → LaneRuns {} f.g [] s c →
      WritesPred (.elect f) s c ex f.d fun l => (lanesOf ex).head? == some l) ∧
    (f.ok .off .dst .src .zero = true →
      LaneRuns { regs := regOf f.d ++ regOf f.a, reads := regOf f.a } f.g [f.d.toNat] s c →
      let gives := fun (i : Instr) (v : Nat → Word) => WritesRow i s c ex f.d v s.launches
      gives (.lredIadd f) (fun _ => ((lanesOf ex).map x).sum) ∧
      gives (.lredImax f) (fun _ => BitVec.ofInt 32 (((lanesOf ex).map fun l => (x l).toInt).foldl max (-2147483648))) ∧
      gives (.lscanIaddEx f) (fun l => (((lanesOf ex).filter (· < l)).map x).sum) ∧
      gives (.lscanIaddIn f) (fun l => (((lanesOf ex).filter (· ≤ l)).map x).sum))

/-- R30, R34, R194 to R211: floating-point arithmetic, packed BF16, conversions and block scaling of class A write and push their
rounded value, and count their SAT, FLUSH and NAN lanes; so do, outside class A, the approximate functions (free values where R204
leaves them, notes/assumptions) and the floating reductions and scans over the fixed tree. What these functions give is said first: the
nearest multiple of the unit in the last place, NaNs, infinities, clamping, flushing, and the special cases and FRCP's bound of R204. -/
def Obligations.LaneFloatResults : Prop :=
  RoundsRight ∧ FloatRules ∧ ApproxRules ∧
  (∀ (s : State) (c : Ctx) (f : LaneR) (rm : BitVec 2),
    let z := c.t.ftz
    let a := fun l => (c.src f.a l).toNat
    let b := fun l => (c.src f.b l).toNat
    let d := fun l => (c.reg f.d l).toNat
    let ex := c.execMask f.g
    let gives := fun (G : Gate) (i : Instr) (r : Nat → FRes) =>
      Pushes i s c G ex f.w f.d (fun l => BitVec.ofNat 32 (r l).v) (countRes (fun _ => r) c ex s).launches
    (f.ok .push .dst .srcA .srcA = true → LaneRuns (gateTwo f) f.g (rowsOf f.w f.d) s c →
      let two := gives (gateTwo f)
      two (.fadd f rm) (fun l => fAdd z (rmodeOf rm) (a l) (b l)) ∧
      two (.fsub f rm) (fun l => fSub z (rmodeOf rm) (a l) (b l)) ∧
      two (.fmul f rm) (fun l => fMul z (rmodeOf rm) (a l) (b l)) ∧
      two (.fmin f) (fun l => fMinMax z false false (a l) (b l)) ∧
      two (.fmax f) (fun l => fMinMax z true false (a l) (b l)) ∧
      two (.fminn f) (fun l => fMinMax z false true (a l) (b l)) ∧
      two (.fmaxn f) (fun l => fMinMax z true true (a l) (b l)) ∧
      two (.hadd2 f) (fun l => packed (fun x y _ => hAdd x y) (a l) (b l) 0) ∧
      two (.hmul2 f) (fun l => packed (fun x y _ => hMul x y) (a l) (b l) 0) ∧
      two (.hmax2 f) (fun l => packed (fun x y _ => hMax x y) (a l) (b l) 0) ∧
      two (.bscale f) (fun l => ⟨b l / 2 ^ 31 * 2 ^ 31 + b l / 2 ^ 20 % 4 * 2 ^ 20 + bscaleWord (ftzIn z (a l % 2 ^ 31)).1,
        (ftzIn z (a l % 2 ^ 31)).2, false, false⟩) ∧
      two (.bsq f) (fun l => let q := quant z (a l) (b l) 0; ⟨(BitVec.ofInt 32 q.q).toNat, q.flush, false, q.sat⟩) ∧
      two (.bsdq f) (fun l => ⟨sbElem (a l) (b l), false, false, false⟩) ∧
      two (.bsqe f) (fun l => (((bsqeLanes z a b (lanesOf ex) 0).find? fun q => q.1 == l).map (·.2)).getD ⟨0, false, false, false⟩)) ∧
    (f.ok .push .dst .srcA .srcA = true → LaneRuns (gateThree f) f.g (rowsOf f.w f.d) s c →
      let three := gives (gateThree f)
      three (.ffma f rm) (fun l => fFma z (rmodeOf rm) (a l) (b l) (d l)) ∧
      three (.hfma2 f) (fun l => packed hFma (a l) (b l) (d l))) ∧
    (f.ok .push .dst .srcA .zero = true → LaneRuns (gateOne f) f.g (rowsOf f.w f.d) s c →
      let one := gives (gateOne f)
      one (.fabs f) (fun l => ⟨a l % 2 ^ 31, false, false, false⟩) ∧
      one (.fneg f) (fun l => ⟨(a l + 2 ^ 31) % 2 ^ 32, false, false, false⟩) ∧
      one (.frint f) (fun l => fRint z (a l)) ∧
      one (.fclass f) (fun l => ⟨fClass (a l), false, false, false⟩) ∧
      one (.f2bf f) (fun l => f2bf z (a l)) ∧
      one (.bf2f f) (fun l => bf2f z (a l)) ∧
      one (.f2i f) (fun l => f2int z .rne (-2147483648) 2147483647 (a l)) ∧
      one (.f2iz f) (fun l => f2int z .rz (-2147483648) 2147483647 (a l)) ∧
      one (.f2uz f) (fun l => f2int z .rz 0 4294967295 (a l)) ∧
      one (.i2f f) (fun l => ⟨intToFp (c.src f.a l).toInt, false, false, false⟩) ∧
      one (.u2f f) (fun l => ⟨intToFp (a l), false, false, false⟩))) ∧
  (∀ (s : State) (c : Ctx) (f : LaneR), f.ok .off .dst .src .zero = true → LaneRuns (gateOne f) f.g [f.d.toNat] s c →
    let ex := c.execMask f.g
    let gives := fun (i : Instr) (r : Nat → FRes) =>
      WritesRow i s c ex f.d (fun l => BitVec.ofNat 32 (r l).v) (countRes (fun _ => r) c ex s).launches
    gives (.frcp f) (fun l => approx .rcp c.t.ftz (c.reg f.a l)) ∧
    gives (.frsq f) (fun l => approx .rsq c.t.ftz (c.reg f.a l)) ∧
    gives (.fex2 f) (fun l => approx .ex2 c.t.ftz (c.reg f.a l)) ∧
    gives (.flg2 f) (fun l => approx .lg2 c.t.ftz (c.reg f.a l)) ∧
    gives (.lredFadd f) (fun _ => floatTree true c f.a ex fun _ => true) ∧
    gives (.lredFmax f) (fun _ => floatTree false c f.a ex fun _ => true) ∧
    gives (.lscanFaddEx f) (fun l => floatTree true c f.a ex fun m => decide (m < l)) ∧
    gives (.lscanFaddIn f) (fun l => floatTree true c f.a ex fun m => decide (m ≤ l)))

/-- R175 to R177, outside a LINKED grid: when no neighbour of an active fibre is behind it, and every neighbour that it reads is
absent, has ended, has published this instance, or publishes it now in this sub-group, the executing fibres take the neighbour's
publication of the same instance, or the chain-end value; and every active fibre has counted one more instance. -/
def Obligations.NeighbourReads : Prop :=
  ∀ (s : State) (c : Ctx) (f : LaneR) (right useB : Bool),
    f.ok .off .dst .src (if useB then .src else .zero) = true → c.t.linked = false →
    let G : Gate :=
      { regs := regOf f.d ++ (regOf f.a ++ if useB then regOf f.b else []), reads := regOf f.a ++ if useB then regOf f.b else [] }
    LaneRuns G f.g [f.d.toNat] s c → regErrors s c.gid (regOf f.a) c.active = [] →
    let i : Instr := if right then (if useB then .nbrb f else .nbr f) else if useB then .nblb f else .nbl f
    let pos := fun l => 32 * c.g.gslot + l
    let nb := fun q => NMap.get Nb.none q c.t.nb
    let present := fun q => (nb q).live || (nb q).ended
    let ours := fun q => decide (pos 0 ≤ q) && decide (q < pos 32) && c.active.getLsbD (q - pos 0)
    let beside := fun (r : Bool) l =>
      if r then (if pos l + 1 < c.t.positions then some (pos l + 1) else none) else if 0 < pos l then some (pos l - 1) else none
    (∀ l ∈ lanesOf c.active, (nb (pos l)).live = true ∧ pos l < c.t.positions) →
    (∀ l ∈ lanesOf c.active, ∀ r q, beside r l = some q → present q = true → (nb q).ended = false → (nb (pos l)).c ≤ (nb q).c) →
    (∀ l ∈ lanesOf c.active, ∀ q, beside right l = some q → present q = true → (nb q).ended = false → ours q = false →
      (nb (pos l)).c + 1 ≤ (nb q).n) →
    let chainEnd := fun l => if useB then c.reg f.b l else 0
    let val := fun l =>
      match beside right l with
      | none => chainEnd l
      | some q =>
        if ours q then (if (nb q).c = (nb (pos l)).c then c.reg f.a (q - pos 0) else chainEnd l)
        else if present q && (nb q).n == (nb (pos l)).c + 1 then (nb q).p else chainEnd l
    ∃ t, exec i s = .next t ∧
      (∀ l r, l < 32 → t.laneReg c.gid r l = (writes f.d.toNat (c.execMask f.g) val r l).getD (c.g.lane r l)) ∧
      (∀ q, ((t.team? c.t.tid).map fun x => NMap.get Nb.none q x.nb) =
        some (if ours q then { nb q with c := (nb q).c + 1, n := (nb q).c + 1, p := c.reg f.a (q - pos 0) } else nb q)) ∧
      (t.ctxOf c.gid c.lane).map Ctx.u = some c.u.falls ∧ t.mem = s.mem ∧ t.localMem = s.localMem

/-- R218, R219: an expansion reads the slot of the entry that each executing lane names, of a bank that the team owns. -/
def Obligations.CodebookExpansion : Prop :=
  ∀ (s : State) (c : Ctx) (f : LaneR) (k : BitVec 2),
    let ex := c.execMask f.g
    (f.ok .off .dst .src .any = true →
      let x := s.bank c.core (f.b.toNat / 8)
      let slot := f.b.toNat % 8
      let ok := fun (m : Nat) => ∀ l ∈ lanesOf ex, (c.reg f.a l).toNat % m < x.valid ∧ x.badEntry ((c.reg f.a l).toNat % m) = false
      let v := fun (m l : Nat) =>
        let n := slotOf x.kind (x.entry ((c.reg f.a l).toNat % m)) slot
        if x.kind = 2 then (BitVec.ofNat 12 n).signExtend 32 else BitVec.ofNat 32 n
      LaneRuns { regs := regOf f.d ++ regOf f.a, reads := regOf f.a, cc := true, feat := some 1 } f.g [f.d.toNat] s c →
      x.owner = some c.t.tid → x.load = none → slot < slotCount x.kind →
      (ok 256 → WritesRow (.cbxB8 f) s c ex f.d (v 256) s.launches) ∧ (ok 16 → WritesRow (.cbxN4 f) s c ex f.d (v 16) s.launches)) ∧
    (f.ok .off .dst .src .src = true →
      let x := s.bank c.core k.toNat
      let entry := fun l => (c.reg f.b l).toNat % 256
      let slot := fun l => (c.reg f.b l).toNat / 256 % 8
      let y := fun l => slotFp x.kind (slotOf x.kind (x.entry (entry l)) (slot l))
      x.owner = some c.t.tid → x.load = none → x.kind ≠ 3 →
      (∀ l ∈ lanesOf ex, slot l < slotCount x.kind ∧ entry l < x.valid ∧ x.badEntry (entry l) = false) →
      (let reads := regOf f.a ++ regOf f.b ++ regOf f.d
       LaneRuns { regs := regOf f.d ++ reads, reads := reads, cc := true, feat := some 1 } f.g [f.d.toNat] s c →
        let r := fun l => fFma c.t.ftz .rne (c.reg f.a l).toNat (y l) (c.reg f.d l).toNat
        WritesRow (.xffma f k) s c ex f.d (fun l => BitVec.ofNat 32 (r l).v) (countRes (fun _ => r) c ex s).launches) ∧
      (let reads := regOf f.a ++ regOf f.b
       LaneRuns { regs := regOf f.d ++ reads, reads := reads, cc := true, feat := some 1 } f.g [f.d.toNat] s c →
        let r := fun l => fMul c.t.ftz .rne (c.reg f.a l).toNat (y l)
        WritesRow (.xfmul f k) s c ex f.d (fun l => BitVec.ofNat 32 (r l).v) (countRes (fun _ => r) c ex s).launches))

/-- R257, R258: residues of a signed word and products modulo a channel's modulus; reconstruction and check of a tuple that the
legitimate range explains. -/
def Obligations.LaneResidues : Prop :=
  ∀ (s : State) (c : Ctx) (f : LaneR),
    let ex := c.execMask f.g
    let gate := fun (regs reads : List Nat) => ({ regs := regs ++ reads, reads := reads, cc := true, feat := some 2 } : Gate)
    (f.ok .off .dst .src .src = true → LaneRuns (gate (regOf f.d) (regOf f.a ++ regOf f.b)) f.g [f.d.toNat] s c →
      (∀ l ∈ lanesOf ex, (c.reg f.b l).toNat % 8 < c.t.moduli.count) →
      WritesRow (.rmod f) s c ex f.d
        (fun l => BitVec.ofNat 32 ((c.reg f.a l).toInt % (c.t.moduli.mods.getD ((c.reg f.b l).toNat % 8) 1 : Nat)).toNat) s.launches) ∧
    (f.ok .off .dst .src .src = true →
      let reads := regOf f.a ++ regOf f.b ++ regOf f.d
      LaneRuns { regs := reads, reads := reads, cc := true, feat := some 2 } f.g [f.d.toNat] s c →
      let v := fun (n l : Nat) =>
        BitVec.ofNat 32 (((c.reg f.a l).toNat * (c.reg f.b l).toNat + (c.reg f.d l).toNat) % c.t.moduli.mods.getD n 1)
      (∀ n : BitVec 2, n.toNat < c.t.moduli.count → WritesRow (.rmadC03 f n) s c ex f.d (v n.toNat) s.launches) ∧
      (∀ n : BitVec 1, 4 + n.toNat < c.t.moduli.count → WritesRow (.rmadC45 f n) s c ex f.d (v (4 + n.toNat)) s.launches)) ∧
    (∀ x : Nat → Int, (∀ l ∈ lanesOf ex, laneRecon s c f l = .good (x l)) →
      (f.ok .off .pair (.below 58) .src = true →
        LaneRuns (gate (pairOf f.d) (groupOf f.a 3 ++ regOf f.b)) f.g [f.d.toNat, f.d.toNat + 1] s c →
        ∃ t, exec (.rrec f) s = .next t ∧
          LaneDone s t c (writesPair f.d.toNat ex fun l => BitVec.ofInt 64 (x l)) predsNone c.u.falls s.launches) ∧
      (f.ok .off .dst (.below 58) .src = true →
        LaneRuns (gate (regOf f.d) (groupOf f.a 3 ++ regOf f.b)) f.g [f.d.toNat] s c →
        WritesRow (.rchk f) s c ex f.d (fun _ => 1) s.launches))

/-- R254, R255: a fragment product leaves its residues pending for the registers at vD; its end writes the reconstructed values,
added to the old ones for MFRAGA. -/
def Obligations.FragmentProducts : Prop :=
  (∀ (s : State) (c : Ctx) (f : LaneR),
    let ex := c.execMask f.g
    let residues := fun (b : Nat → Nat → Int) => (List.range 256).map fun e =>
      (List.range c.t.moduli.count).map fun ch =>
        (((List.range 48).map fun k => fragA c.g f.a (e / 16) k * b k (e % 16)).sum % (c.t.moduli.mods.getD ch 1 : Nat)).toNat
    let pends := fun (i : Instr) (add : Bool) (b : Nat → Nat → Int) => ∃ t, exec i s = .next t ∧
      (t.group? c.gid).map Group.frag =
        some (c.g.frag ++ [⟨c.active, ex, f.d.toNat, add, c.u.pc, c.t.moduli, residues b, false⟩]) ∧
      (t.ctxOf c.gid c.lane).map Ctx.u = some c.u.falls ∧ (∀ r l, l < 32 → t.laneReg c.gid r l = c.g.lane r l) ∧
      t.mem = s.mem ∧ t.localMem = s.localMem
    2 * (48 * 2048 * 2048) + 1 ≤ c.t.moduli.prod → c.g.live &&& ~~~c.active = 0 → (∀ q ∈ s.badFrag, q.1 ≠ c.core) →
    regErrors s c.gid (groupOf f.a 12) c.active = [] →
    let gate := fun (reads : List Nat) (feat : Option Nat) =>
      ({ regs := groupOf f.d 8 ++ reads, reads := reads, cc := true, feat := feat } : Gate)
    ((Instr.mfrag f).wf = true → LaneRuns (gate (groupOf f.a 12 ++ groupOf f.b 12) none) f.g (groupOf f.d 8) s c →
      regErrors s c.gid (groupOf f.b 12) c.active = [] →
      pends (.mfrag f) false (fragB c.g f.b)) ∧
    ((Instr.mfraga f).wf = true → LaneRuns (gate (groupOf f.a 12 ++ groupOf f.b 12 ++ groupOf f.d 8) none) f.g (groupOf f.d 8) s c →
      regErrors s c.gid (groupOf f.b 12) c.active = [] →
      pends (.mfraga f) true (fragB c.g f.b)) ∧
    ((Instr.mfragx f).wf = true → LaneRuns (gate (groupOf f.a 12 ++ regOf f.b) (some 1)) f.g (groupOf f.d 8) s c →
      regErrors s c.gid (regOf f.b) c.active = [] →
      (∀ l ∈ lanesOf c.active, fragCause s c (c.reg f.b l) = none ∧ (s.bank c.core (fragBank (c.reg f.b l))).load = none ∧
        fragBad s c (c.reg f.b l) = []) →
      pends (.mfragx f) false (fragBx s c f.b))) ∧
  (∀ (s : State) (g : Group) (p : FragPending) (x : Nat → Int), s.group? g.gid = some g → g.img = none → p.d + 8 ≤ 60 →
    g.frag.find? (fun q => !q.ue) = some p → p.elems.length = 256 →
    (∀ e, e < 256 → reconstruct p.mods fragLegit (erasedChans s p.mods) (p.elems.getD e []) = .good (x e)) →
    ∃ t, exec (.fragmentComplete g.gid) s = .next t ∧
      (∀ r l, l < 32 → t.laneReg g.gid r l =
        if p.d ≤ r ∧ r < p.d + 8 ∧ p.ex.getLsbD l then
          (if p.add then g.lane r l else 0) + BitVec.ofInt 32 (x (16 * (r - p.d + 8 * (l / 16)) + l % 16))
        else g.lane r l) ∧
      (t.group? g.gid).map Group.frag = some (g.frag.filter fun q => !(q == p)) ∧ t.mem = s.mem ∧ t.cores = s.cores)

/-- R282: a local load writes the bytes at vA + Sext(O6) × size, lowest first, to vD upward; a local store to the issuing core writes the
low bytes of vD upward there, the lanes in ascending order; no other byte of local memory and nothing else changes. -/
def Obligations.LocalLoadsAndStores : Prop :=
  (∀ (s : State) (c : Ctx) (f : LaneR) (sz : BitVec 2) (p : Nat → LPlace),
    let ex := c.execMask f.g
    let at_ := fun (size l : Nat) => (c.reg f.a l + BitVec.ofInt 32 (f.b.toInt * size)).toNat
    let byte := fun l i => s.localByte (p l).core ((p l).phys + i)
    let word := fun j l => byte l (4 * j + 3) ++ byte l (4 * j + 2) ++ byte l (4 * j + 1) ++ byte l (4 * j)
    let loads := fun (i : Instr) (size n : Nat) (v : Nat → Nat → Word) =>
      i.wf = true → LaneRuns { regs := groupOf f.d n ++ regOf f.a, reads := regOf f.a } f.g (groupOf f.d n) s c →
      (∀ l ∈ lanesOf ex, LocalReady s c (at_ size l) size (p l) ∧ peerBehind s c (at_ size l) size size = false) →
      WritesRows i s c ex f.d n v
    (sz = 0 → loads (.ldl f sz) 1 1 fun _ l => (byte l 0).zeroExtend 32) ∧
    (sz = 1 → loads (.ldl f sz) 2 1 fun _ l => (byte l 1 ++ byte l 0).zeroExtend 32) ∧
    (sz = 2 → loads (.ldl f sz) 4 1 word) ∧
    (sz = 3 → loads (.ldl f sz) 8 2 word) ∧
    loads (.ldlv f sz) (8 * 2 ^ sz.toNat) (2 * 2 ^ sz.toNat) word) ∧
  (∀ (s : State) (c : Ctx) (f : LaneR) (sz : BitVec 2) (p : Nat → LPlace),
    let ex := c.execMask f.g
    let at_ := fun (size l : Nat) => (c.reg f.a l + BitVec.ofInt 32 (f.b.toInt * size)).toNat
    let byte := fun l i => (c.g.lane (f.d.toNat + i / 4) l).extractLsb' (8 * (i % 4)) 8
    let stores := fun (i : Instr) (size : Nat) =>
      i.wf = true → LaneRuns { regs := groupOf f.d ((size + 3) / 4) ++ regOf f.a, reads := groupOf f.d ((size + 3) / 4) ++ regOf f.a } f.g [] s c →
      lateUsed s c.core c.u.issue ≤ Config.lateEntries →
      (∀ l ∈ lanesOf ex, LocalReady s c (at_ size l) size (p l) ∧ (p l).core = c.core) →
      ∃ t, exec i s = .next t ∧ LaneDone s { t with localMem := s.localMem } c writesNone predsNone c.u.falls s.launches ∧
        (NMap.wf 0 s.localMem = true → NMap.wf 0 t.localMem = true) ∧
        ∀ k, NMap.get 0 k t.localMem =
          match (lanesOf ex).reverse.find? fun l => decide (localKey c.core (p l).phys ≤ k) && decide (k < localKey c.core (p l).phys + size) with
          | some l => byte l (k - localKey c.core (p l).phys)
          | none => NMap.get 0 k s.localMem
    stores (.stl f sz) (2 ^ sz.toNat) ∧ stores (.stlv f sz) (8 * 2 ^ sz.toNat))

/-- R283: local atomics give each executing lane the value it finds, in ascending lane order, and leave the new one. -/
def Obligations.LocalAtomics : Prop :=
  ∀ (s : State) (c : Ctx) (f : LaneR) (z : BitVec 1) (p : Nat → LPlace),
    let ex := c.execMask f.g
    let place := fun l => localKey (p l).core (p l).phys
    let x := fun l => (c.reg f.b l).toNat
    let atomic := fun (i : Instr) (n : Nat) (compares : Bool) (new : Nat → Nat → Nat) =>
      let k := n / 4
      let reads := regOf f.a ++ groupOf f.b k ++ if compares then groupOf f.d k else []
      let first := fun l => leNat ((List.range n).map fun i => s.localByte (p l).core ((p l).phys + i))
      let old := fun l => inTurn ((lanesOf ex).filter (· < l)) place (fun m v => new m v % 2 ^ (8 * n)) l (first l)
      let last := fun l => inTurn (lanesOf ex) place (fun m v => new m v % 2 ^ (8 * n)) l (first l)
      i.wf = true → LaneRuns { regs := regOf f.a ++ groupOf f.b k ++ groupOf f.d k, reads := reads } f.g (groupOf f.d k) s c →
      (∀ l ∈ lanesOf ex, LocalReady s c (c.reg f.a l).toNat n (p l) ∧ peerBehind s c (c.reg f.a l).toNat n n = false) →
      (∀ l ∈ lanesOf ex, ∀ m ∈ lanesOf ex, place l = place m ∨ place l + n ≤ place m ∨ place m + n ≤ place l) →
      ∃ t, exec i s = .next t ∧
        LaneDone s { t with localMem := s.localMem } c
          (fun r l => if f.d.toNat ≤ r ∧ r < f.d.toNat + k ∧ ex.getLsbD l then some (BitVec.ofNat 32 (old l / 2 ^ (32 * (r - f.d.toNat)))) else none)
          predsNone c.u.falls s.launches ∧
        (∀ l ∈ lanesOf ex, ∀ i, i < n → NMap.get 0 (place l + i) t.localMem = BitVec.ofNat 8 (last l / 2 ^ (8 * i))) ∧
        (∀ k, (∀ l ∈ lanesOf ex, k < place l ∨ place l + n ≤ k) → NMap.get 0 k t.localMem = NMap.get 0 k s.localMem)
    atomic (.atlAdd f) 4 false (fun l v => v + x l) ∧
    atomic (.atlMax f) 4 false (fun l v => if (BitVec.ofNat 32 v).toInt < (c.reg f.b l).toInt then x l else v) ∧
    atomic (.atlMin f) 4 false (fun l v => if (c.reg f.b l).toInt ≤ (BitVec.ofNat 32 v).toInt then x l else v) ∧
    atomic (.atlExch f) 4 false (fun l _ => x l) ∧
    (z = 0 → atomic (.casl f z) 4 true fun l v => if v = (c.reg f.d l).toNat then x l else v) ∧
    (z = 1 → atomic (.casl f z) 8 true fun l v => if v = (c.pairReg f.d l).toNat then (c.pairReg f.b l).toNat else v)

/-- R293, R310, R321, R338: a load whose page the lookaside holds and whose line the core holds under its lease takes the bytes of
that copy, overlaid with the retired stores it must see; an acquire sees its own fibre's only.
R296, R304, R318, R323, R324: without such a copy a lane takes the bytes of the L2 line; without that, or where the pod lease of another
device's line has ended, of the frame at its home, with room made for it in a full L2 (log entry 15); and on a UC page, of the frame at its
controller.
R298, R310, R329, R338, R343: a store retires into the buffer with its address sS + Zext(vA), its bytes and its floor, one entry for each
executing lane in ascending order; no byte of memory changes until it is applied. -/
def Obligations.GlobalLoadsAndStores : Prop :=
  (∀ (s : State) (c : Ctx) (f : LaneR) (sz : BitVec 2) (e : Nat → Tlb) (z : Nat → L1Line),
    let ex := c.execMask f.g
    let at_ := fun l => (c.sReg f.b + (c.reg f.a l).zeroExtend 64).toNat
    let word := fun (bs : List Byte) (j : Nat) => BitVec.ofNat 32 (fieldN bs (4 * j) 4)
    let loads := fun (i : Instr) (size : Nat) (acq : Bool) =>
      let n := (size + 3) / 4
      let bytes := fun l => overlay (at_ l) (slice (z l).data (at_ l % 128) size) (visibleStores s c.core c.gid l c.t.asid.toNat acq)
      i.wf = true → LaneRuns { regs := groupOf f.d n ++ regOf f.a, reads := regOf f.a } f.g (groupOf f.d n) s c → s.issuesLate = false →
      (∀ l ∈ lanesOf ex, at_ l % size = 0 ∧ PageHit s c (at_ l) (e l) ∧ Unclaimed s c (at_ l) size .load ∧ LineHeld s c (at_ l) size (z l) ∧
        (e l).r = true ∧ (e l).red = false ∧ (e l).uc = false ∧ (z l).data.length = 128 ∧ lateClash s c l (at_ l) size = false ∧
        (acq = true → acquireWaits s c.gid l c.t.asid.toNat (at_ l) size = false)) →
      LoadsRows i s c ex f.d n fun j l => word (bytes l) j
    loads (.ld f sz) (2 ^ sz.toNat) false ∧
    loads (.lda f sz) (if sz = 3 then 8 else 4) (sz != 0)) ∧
  (∀ (s : State) (c : Ctx) (f : LaneR) (sz : BitVec 2) (l : Nat) (e : Tlb),
    let ex := c.execMask f.g
    let va := (c.sReg f.b + (c.reg f.a l).zeroExtend 64).toNat
    let asid := c.t.asid.toNat
    let base := va / 128 * 128
    ∀ i size acq, (i, size, acq) ∈ [(Instr.ld f sz, 2 ^ sz.toNat, false), (.lda f sz, if sz = 3 then 8 else 4, sz != 0)] →
      let n := (size + 3) / 4
      i.wf = true → LaneRuns { regs := groupOf f.d n ++ regOf f.a, reads := regOf f.a } f.g (groupOf f.d n) s c → s.issuesLate = false →
      lanesOf ex = [l] → va % size = 0 → PageHit s c va e → Unclaimed s c va size .load → e.r = true → e.red = false → lateClash s c l va size = false →
      (acq = true → acquireWaits s c.gid l asid va size = false) →
      (s.core c.core).l1.find? (fun z => z.asid == asid && z.line == va / 128 && decide (s.meridian < z.lease)) = none →
      c.t.cow.find? (fun x => x.va == base) = none →
      s.sluice.find? (fun q => q.team == some c.t.tid && q.ranges.any fun r => r.mode == 2 && overlap r.base r.len va size) = none →
      s.regs.merLocked = true →
      let gives := fun (raw : List Byte) (quiet : Bool) => ∃ t, exec i s = .next t ∧
        let bs := overlay va raw (visibleStores s c.core c.gid l asid acq)
        (∀ r j, j < 32 → t.laneReg c.gid r j =
          if f.d.toNat ≤ r ∧ r < f.d.toNat + n ∧ j = l then BitVec.ofNat 32 (fieldN bs (4 * (r - f.d.toNat)) 4) else c.g.lane r j) ∧
        (t.ctxOf c.gid c.lane).map Ctx.u = some c.u.falls ∧ t.stores.map Store.bare = s.stores.map Store.bare ∧ t.localMem = s.localMem ∧
        (quiet = true → ∀ a, t.peek a = s.peek a)
      (∀ x, e.uc = false → s.l2? asid (va / 128) = some x → x.owner = none ∨ s.meridian < x.podEnd → lineBad s x = none → x.data.length = 128 →
        gives (slice x.data (va % 128) size) true) ∧
      (∀ y, e.uc = false → s.l2? asid (va / 128) = none → AtHome s asid base y →
        gives (slice (bytesAtHome (makeRoom s) y base 128) (va % 128) size) (!y.remote && decide (s.l2.length < 1572864))) ∧
      (∀ x y, e.uc = false → s.l2? asid (va / 128) = some x → x.owner.isSome = true → x.podEnd ≤ s.meridian → AtHome s asid base y →
        gives (slice (bytesAtHome s y base 128) (va % 128) size) (!y.remote)) ∧
      (∀ y, e.uc = true → AtHome s asid va y → gives (bytesAtHome s y va size) true)) ∧
  (∀ (s : State) (c : Ctx) (f : LaneR) (sz : BitVec 2) (e : Nat → Tlb),
    let ex := c.execMask f.g
    let at_ := fun l => (c.sReg f.b + (c.reg f.a l).zeroExtend 64).toNat
    let byte := fun l i => (c.g.lane (f.d.toNat + i / 4) l).extractLsb' (8 * (i % 4)) 8
    let entry := fun (size kind : Nat) (floor : Nat → Nat) (n l : Nat) =>
      ({ id := n, agent := 0, agentId := 0, core := c.core, issue := c.u.issue, tid := c.t.tid, gid := c.gid, lane := l,
         gslot := c.g.gslot, tslot := c.t.tslot, pc := c.u.pc, va := at_ l, asid := c.t.asid.toNat, data := (List.range size).map (byte l),
         skip := [], kind := kind, floor := floor l, seen := !((e l).uc || (e l).replica || (e l).red), red := (e l).red,
         replica := (e l).replica, remote := (e l).remote, uc := (e l).uc, peer := none, stage := .retired } : Store)
    let stores := fun (i : Instr) (size kind : Nat) (floor : Nat → Nat) =>
      let reads := groupOf f.d ((size + 3) / 4) ++ regOf f.a
      i.wf = true → LaneRuns { regs := reads, reads := reads } f.g [] s c →
      lateUsed s c.core c.u.issue + (lanesOf ex).length ≤ Config.lateEntries →
      (∀ l ∈ lanesOf ex, at_ l % size = 0 ∧ PageHit s c (at_ l) (e l) ∧ Unclaimed s c (at_ l) size .store ∧ (e l).w = true ∧
        lateClash s c l (at_ l) size = false) →
      ∃ t, exec i s = .next t ∧
        LaneDone s { t with stores := s.stores, nextStore := s.nextStore } c writesNone predsNone c.u.falls s.launches ∧
        t.stores = s.stores ++ (List.range (lanesOf ex).length).map (fun n => entry size kind floor (s.nextStore + n) ((lanesOf ex).getD n 0)) ∧
        t.nextStore = s.nextStore + (lanesOf ex).length ∧ ∀ a, t.peek a = s.peek a
    stores (.st f sz) (2 ^ sz.toNat) 0 (fun l => c.g.floor.getD l 0) ∧
    (sz = 0 → lateOf s c.gid ex = false → stores (.str f sz) 4 1 fun l => c.g.floor.getD l 0) ∧
    (sz ≠ 0 → lateOf s c.gid ex = false → (∀ st ∈ s.stores, st.agent = 0 → st.gid = c.gid → ex.getLsbD st.lane = true → sz ≠ 2 ∧ (st.remote || st.replica) = true) →
      stores (.str f sz) (if sz = 3 then 8 else 4) 1 fun l => max (c.g.floor.getD l 0) (c.g.times.getD l 0)))

/-- R320, R332, R339 to R341: atomics of one or more lanes on one location whose line is dirty in L2 and may be applied to: each executing
lane, in ascending order, takes the value it finds and leaves the new one there; a CAS that finds another value leaves the line as it was. -/
def Obligations.GlobalAtomics : Prop :=
  ∀ (s : State) (c : Ctx) (f : LaneR) (va : Nat) (e : Tlb) (x : L2Line),
    let ex := c.execMask f.g
    let ls := lanesOf ex
    let asid := c.t.asid.toNat
    let d := fun l => (c.reg f.d l).toNat
    let atomic := fun (i : Instr) (n extra : Nat) (new : Nat → Nat → Nat) =>
      let k := n / 4
      let reads := groupOf f.d (k + extra) ++ regOf f.a
      let first := fieldN x.data (va % 128) n
      let after := fun (ms : List Nat) => ms.foldl (fun v m => new m v % 2 ^ (8 * n)) first
      let old := fun l => after (ls.filter (· < l))
      i.wf = true → LaneRuns { regs := reads, reads := reads } f.g (groupOf f.d k) s c → ls ≠ [] → va % n = 0 →
      (∀ l ∈ ls, (c.sReg f.b + (c.reg f.a l).zeroExtend 64).toNat = va ∧ lateClash s c l va n = false) →
      PageHit s c va e → Unclaimed s c va n .atomic → e.r = true → e.w = true → e.red = false → e.uc = false → e.remote = false → e.replica = false →
      s.l2? asid (va / 128) = some x → x.data.length = 128 → x.wtag = true → x.owner = none → lineBad s x = none →
      applyBound s x 0 ≤ s.meridian → snapLive s x = false → ownApplied s c.core asid va n = true →
      ∃ t, exec i s = .next t ∧
        (∀ r j, j < 32 → t.laneReg c.gid r j =
          if f.d.toNat ≤ r ∧ r < f.d.toNat + k ∧ ex.getLsbD j = true then BitVec.ofNat 32 (old j / 2 ^ (32 * (r - f.d.toNat))) else c.g.lane r j) ∧
        (t.ctxOf c.gid c.lane).map Ctx.u = some c.u.falls ∧
        (t.l2? asid (va / 128)).map L2Line.data = some (x.data.take (va % 128) ++ natLe n (after ls) ++ x.data.drop (va % 128 + n)) ∧
        (∀ y ∈ t.l2, y.is asid (va / 128) = false → y ∈ s.l2) ∧ t.localMem = s.localMem ∧ ∀ a, t.peek a = s.peek a
    let cas := fun (k l old : Nat) => if old = c.multi f.d.toNat k l then c.multi (f.d.toNat + k) k l else old
    atomic (.atomAdd f) 4 0 (fun l v => v + d l) ∧
    atomic (.atomMax f) 4 0 (fun l v => if (BitVec.ofNat 32 v).toInt < (c.reg f.d l).toInt then d l else v) ∧
    atomic (.atomMin f) 4 0 (fun l v => if (c.reg f.d l).toInt ≤ (BitVec.ofNat 32 v).toInt then d l else v) ∧
    atomic (.atomExch f) 4 0 (fun l _ => d l) ∧
    atomic (.atombAnd f) 4 0 (fun l v => v &&& d l) ∧
    atomic (.atombOr f) 4 0 (fun l v => v ||| d l) ∧
    atomic (.atombXor f) 4 0 (fun l v => v ^^^ d l) ∧
    atomic (.atombAddf f) 4 0 (fun l v => (fAdd false .rne v (d l)).v) ∧
    atomic (.casW f) 4 1 (cas 1) ∧ atomic (.casD f) 8 2 (cas 2) ∧ atomic (.casQ f) 16 4 (cas 4) ∧
    (lateOf s c.gid ex = false →
      (∀ st ∈ s.stores, st.agent = 0 → st.gid = c.gid → ex.getLsbD st.lane = true → (st.remote || st.replica) = true) →
      atomic (.casQAr f) 16 4 (cas 4))

/-! ### The uniform set -/

/-- R42, R168: uniform arithmetic, logic, shifts and immediates write sD and change nothing else but the chain and the PC; and the
words that R168 writes out. -/
def Obligations.UniformIntegerResults : Prop :=
  ∀ (s : State) (c : Ctx),
    (Issues {} s c → exec .unop s = .next (Falls c s id)) ∧
    (∀ f : UniR, Runs {} f.g s c →
      let x := c.sReg f.a
      let y := c.sReg f.b
      let gives := fun (i : Instr) (v : DWord) => exec i s = .next (Falls c s fun g => g.setS f.d.toNat v)
      gives (.uadd f) (x + y) ∧ gives (.usub f) (x - y) ∧ gives (.umul f) (x * y) ∧
      gives (.umulh f) (BitVec.ofInt 64 (x.toInt * y.toInt / 2 ^ 64)) ∧
      gives (.umulhu f) (BitVec.ofNat 64 (x.toNat * y.toNat / 2 ^ 64)) ∧
      gives (.umin f) (BitVec.ofInt 64 (min x.toInt y.toInt)) ∧
      gives (.umax f) (BitVec.ofInt 64 (max x.toInt y.toInt)) ∧
      gives (.uminu f) (BitVec.ofNat 64 (min x.toNat y.toNat)) ∧
      gives (.uand f) (x &&& y) ∧ gives (.uor f) (x ||| y) ∧ gives (.uxor f) (x ^^^ y) ∧ gives (.uandn f) (x &&& ~~~y) ∧
      gives (.ushl f) (x <<< (y.toNat % 64)) ∧ gives (.ushr f) (x >>> (y.toNat % 64)) ∧
      gives (.usar f) (x.sshiftRight (y.toNat % 64)) ∧ gives (.urotl f) (x.rotateLeft (y.toNat % 64)) ∧
      (∀ n : BitVec 3, gives (.ulea f n) (x + BitVec.ofNat 64 (y.toNat * 2 ^ n.toNat)))) ∧
    (∀ f : UniI, Runs {} f.g s c →
      let gives := fun (i : Instr) (v : DWord) => exec i s = .next (Falls c s fun g => g.setS f.d.toNat v)
      gives (.uaddi f) (c.sReg f.d + f.i.signExtend 64) ∧ gives (.uli f) (f.i.signExtend 64) ∧
      gives (.ulih f) (BitVec.ofNat 64 ((c.sReg f.d).toNat * 2 ^ 15 + f.i.toNat))) ∧
    decode 0x82E18828#32 = .ok (.uadd ⟨7, 3, 4, 5⟩) ∧ decode 0x84E18828#32 = .ok (.uand ⟨7, 3, 4, 5⟩) ∧
    decode 0x92E1882A#32 = .ok (.ulea ⟨7, 3, 4, 5⟩ 2)

/-- R28, R159, R169, R170: uniform compares, uniform predicates, moves and masks. k7 reads 1 and no instruction writes it. -/
def Obligations.UniformPredicatesAndMoves : Prop :=
  ∀ (s : State) (c : Ctx) (f : UniR), Runs {} f.g s c →
    let x := c.sReg f.a
    let y := c.sReg f.b
    let k := fun (n : BitVec 6) => if n = 7 then true else c.g.k.getLsbD n.toNat
    let holds := fun l => c.g.p f.a.toNat l
    let sets := fun (i : Instr) (v : Bool) => i.wf = true →
      exec i s = .next (Falls c s fun g => { g with k := if v then g.k ||| (1#7 <<< f.d.toNat) else g.k &&& ~~~(1#7 <<< f.d.toNat) })
    let gives := fun (i : Instr) (v : DWord) => i.wf = true → exec i s = .next (Falls c s fun g => g.setS f.d.toNat v)
    sets (.ucmpEq f) (decide (x = y)) ∧ sets (.ucmpNe f) (decide (x ≠ y)) ∧
    sets (.ucmpLt f) (decide (x.toInt < y.toInt)) ∧ sets (.ucmpLe f) (decide (x.toInt ≤ y.toInt)) ∧
    sets (.ucmpLtu f) (decide (x.toNat < y.toNat)) ∧ sets (.ucmpLeu f) (decide (x.toNat ≤ y.toNat)) ∧
    sets (.kand f) (k f.a && k f.b) ∧ sets (.kor f) (k f.a || k f.b) ∧ sets (.kxor f) (k f.a != k f.b) ∧ sets (.knot f) (!k f.a) ∧
    sets (.kany f) ((lanesOf c.active).any holds) ∧ sets (.kall f) ((lanesOf c.active).all holds) ∧
    sets (.knone f) (!(lanesOf c.active).any holds) ∧
    gives (.umov f) x ∧ gives (.uactive f) (c.active.zeroExtend 64) ∧ gives (.ucount f) (BitVec.ofNat 64 (lanesOf c.active).length) ∧
    (Runs { regs := [f.a.toNat], reads := [f.a.toNat] } f.g s c → regErrors s c.gid [f.a.toNat] (maskOf fun i => i == lowestLane c.active) = [] →
      gives (.ufirst f) ((c.g.lane f.a.toNat (lowestLane c.active)).zeroExtend 64))

/-- R179, R180, R316: which registers USREAD gives, and USWRITE takes, in which mode: an unlisted or unwritable register is ILLEGAL, a
register that user mode may not use takes PRIV, and otherwise the instruction completes; the value of each register of R180, and what a
write of each leaves. -/
def Obligations.SystemRegisterAccess : Prop :=
  ∀ (s : State) (c : Ctx) (f : UniI), Runs {} f.g s c → f.i.toNat < 4096 →
    let n := f.i.toNat
    let service := 256 ≤ c.core
    let hidden := service ∧ (n = 0x15 ∨ n = 0x16 ∨ n = 0x20)
    let user := n ∈ [0, 1, 2, 3, 0x10, 0x11, 0x12, 0x13, 0x14, 0x15, 0x16, 0x17, 0x18, 0x20, 0x21, 0x100, 0x101, 0x102, 0x103,
      0x104, 0x105, 0x106, 0x10A, 0x10B, 0x10C, 0x10D, 0x110]
    let privOnly := n ∈ [0x107, 0x108, 0x109] ∨ 0x200 ≤ n ∧ n < 0x240
    let writable := n ∈ [0x18, 0x21, 0x101, 0x105, 0x106, 0x107, 0x108, 0x10A, 0x10D] ∨ 0x200 ≤ n ∧ n < 0x240 ∧ n % 4 ≠ 3
    (hidden ∨ ¬(user ∨ privOnly) → exec (.usread f) s = trapAll c s 1 ∧ exec (.uswrite f) s = trapAll c s 1) ∧
    (¬hidden → privOnly → c.t.priv = false → exec (.usread f) s = trapAll c s 2) ∧
    (¬hidden → user ∨ privOnly → ¬writable → exec (.uswrite f) s = trapAll c s 1) ∧
    (¬hidden → writable → c.t.priv = false → exec (.uswrite f) s = trapAll c s 2) ∧
    (¬hidden → user ∨ privOnly ∧ c.t.priv = true → ∃ v,
      exec (.usread f) s = .next (Falls c s fun g => g.setS f.d.toNat (BitVec.ofNat 64 v)) ∧
      let is := fun (k x : Nat) => n = k → v = x
      let core := s.core c.core
      let bits := fun (k w : Nat) (p : Nat → Bool) => n = k → v < 2 ^ w ∧ ∀ i, i < w → v.testBit i = p i
      is 0 (2 ^ 16 + (if service then c.core - 256 else c.core / 16) * 2 ^ 8 + if service then 16 else c.core % 16) ∧
      is 1 s.meridian ∧ is 2 s.cycles ∧ is 3 (c.t.asid.toNat * 2 ^ 16 + (if c.t.priv then 16 else 0) + c.t.tslot) ∧
      is 0x10 (teamFree s c.core) ∧ is 0x11 (48 - (s.slotsUsed c.core).length) ∧ is 0x12 core.bins.length ∧ is 0x13 (92160 - s.regsUsed c.core) ∧
      is 0x14 (lsFree s c.core) ∧ is 0x15 c.t.acc.toNat ∧ bits 0x16 8 (fun b => (s.bank c.core b).owner == some c.t.tid) ∧
      is 0x17 (4 - s.permitsUsed c.core) ∧ is 0x18 core.binTimer.toNat ∧
      is 0x20 (core.ctn ||| if s.erasedDie.isSome then 16 else 0).toNat ∧ is 0x21 s.regs.ceThresh.toNat ∧
      is 0x100 (s.launches.filter (·.active)).length ∧ is 0x101 s.regs.missCount.toNat ∧ bits 0x102 16 (fun k => (s.slotOf k).st == 1) ∧
      is 0x103 s.ringUse.length ∧ is 0x104 (1024 - (s.tsend.filter TSlot.busy).length) ∧ is 0x105 s.regs.migDropped.toNat ∧
      is 0x106 s.regs.curfewWin.toNat ∧ is 0x107 s.regs.saveBase.toNat ∧ is 0x108 s.regs.saveSize.toNat ∧ is 0x109 (saveFree s) ∧
      is 0x10A s.regs.leaseL1.toNat ∧ is 0x10B s.healthValue.toNat ∧ is 0x10C s.regs.featOffer.toNat ∧ is 0x10D s.regs.featAccept.toNat ∧
      is 0x110 (s.sluice.filter fun e => e.cluster == if service then c.core - 256 else c.core / 16).length ∧
      ∀ k, k < 16 → is (0x200 + 4 * k) (s.slotOf k).entry.toNat ∧ is (0x201 + 4 * k) (s.slotOf k).arg.toNat ∧
        is (0x202 + 4 * k) ((s.slotOf k).asid.toNat * 2 ^ 32 + if (s.slotOf k).priv then 2 else 0) ∧
        is (0x203 + 4 * k) ((s.slotOf k).st.toNat + if (s.slotOf k).refused then 4 else 0)) ∧
    (writable → c.t.priv = true →
      let v := c.sReg f.d
      let leaves := fun (k : Nat) (t : State) => n = k → exec (.uswrite f) s = .next (c.setSub t c.u.falls)
      let regs := fun (k : Nat) (h : Regs → Regs) => leaves k { s with regs := h s.regs }
      leaves 0x18 (s.modCore c.core fun x => { x with binTimer := v.extractLsb' 0 16 }) ∧
      leaves 0x21 (markWorn { s with regs := { s.regs with ceThresh := v.extractLsb' 0 16 } }) ∧
      regs 0x101 (fun r => { r with missCount := v.extractLsb' 0 32 }) ∧ regs 0x105 (fun r => { r with migDropped := v.extractLsb' 0 32 }) ∧
      (∃ x, x.toNat = max 1000 (min 2000000 (v.toNat % 2 ^ 21)) ∧ regs 0x106 fun r => { r with curfewWin := x }) ∧
      regs 0x107 (fun r => { r with saveBase := v &&& 0x000FFFFFFFFF0000 }) ∧ regs 0x108 (fun r => { r with saveSize := v &&& 0x000FFFFFFFFF0000 }) ∧
      (∃ x, x.toNat = max 64 (min 4096 (v.toNat % 2 ^ 13)) ∧ regs 0x10A fun r => { r with leaseL1 := x }) ∧
      (s.regs.launched = false → regs 0x10D fun r => { r with featAccept := v &&& r.featOffer }) ∧ (s.regs.launched = true → leaves 0x10D s) ∧
      ∀ k, k < 16 → leaves (0x200 + 4 * k) (s.setSlot k { s.slotOf k with entry := v &&& 0x007FFFFFFFFFFFFC }) ∧
        leaves (0x201 + 4 * k) (s.setSlot k { s.slotOf k with arg := v }) ∧
        (n = 0x202 + 4 * k → (∀ x ∈ s.teams, x.tid < s.nextTid) → (∀ g ∈ s.groups, g.gid < s.nextGid) →
          ((∀ x, commandTeam s k = some x → x.tid ≠ c.t.tid) → exec (.uswrite f) s = .next (c.setSub (hpsControl s k v) c.u.falls)) ∧
          -- a command program that aborts itself goes on to its next switch point with the order to end
          (commandTeam s k = some c.t → v.getLsbD 0 = false → v.getLsbD 2 = true → (s.slotOf k).st = 1 →
            ∃ t, exec (.uswrite f) s = .next t ∧ (t.slotOf k).st = 3 ∧
              (t.ctxOf c.gid c.lane).map Ctx.u = some { c.u.falls with endPending := true } ∧ t.mem = s.mem)))

/-- R26, R134, R142 to R146: branches, calls and returns. A jump goes to its target, and the levels that do not hold it end, with those
started inside them. A call pushes the next word's address; the 33rd level and a return with none take
CALL_DEPTH; a register target with a bad bit takes ILLEGAL. LOOP starts a level over the words after it, skips them for a count of 0, and
refuses a level in use or a body that reaches past an active one's last word, and fetches a body of at most 256 words into the issue
slot's loop buffer; LBRK leaves a level and those started inside it. At the last word of a level the count falls, and the level starts again or
ends, and then what holds of the levels around it. (That a target is taken modulo 2^64 and a return address modulo 2^55 is log entry 101,
what the loop buffer holds is 95.) -/
def Obligations.BranchesCallsAndLoops : Prop :=
  (∀ (s : State) (c : Ctx),
    (∀ f : UniB, Runs {} f.g s c →
      let target := (((c.u.pc : Int) + 4 + 4 * f.o.toInt) % 2 ^ 64).toNat
      exec (.bra f) s = .next (c.setSub s (c.u.jump target)) ∧
      (c.u.calls.length < 32 → exec (.call f) s =
        .next (c.setSub s { c.u.dropChain with calls := (c.u.pc + 4) % 2 ^ 55 :: c.u.calls, pc := target, wait := .ready, ahead := [] })) ∧
      (c.u.calls.length = 32 → exec (.call f) s = trapAll c s 33)) ∧
    (∀ f : UniR, Runs {} f.g s c →
      let t := (c.sReg f.a).toNat
      (∀ r rest, c.u.calls = r :: rest → exec (.ret f) s = .next (c.setSub s { c.u.jump r with calls := rest })) ∧
      (c.u.calls = [] → exec (.ret f) s = trapAll c s 33) ∧
      (t % 4 = 0 → t < 2 ^ 55 → exec (.brx f) s = .next (c.setSub s (c.u.jump t))) ∧
      (t % 4 = 0 → t < 2 ^ 55 → c.u.calls.length < 32 → exec (.callx f) s =
        .next (c.setSub s { c.u.dropChain with calls := (c.u.pc + 4) % 2 ^ 55 :: c.u.calls, pc := t, wait := .ready, ahead := [] })) ∧
      (t % 4 = 0 → t < 2 ^ 55 → c.u.calls.length = 32 → exec (.callx f) s = trapAll c s 33) ∧
      (t % 4 ≠ 0 ∨ 2 ^ 55 ≤ t → exec (.brx f) s = trapAll c s 1 ∧ exec (.callx f) s = trapAll c s 1))) ∧
  (∀ (u : Sub) (target : Nat),
    let j := u.jump target
    let holds := fun (x : LoopFrame) => x.first ≤ target ∧ target ≤ x.last
    j = { u.dropChain with pc := target, wait := .ready, ahead := [], loops := j.loops } ∧
    ∃ ended, u.loops = ended ++ j.loops ∧ (∀ x ∈ j.loops, holds x) ∧ ∀ x, ended.getLast? = some x → ¬holds x) ∧
  (∀ (s : State) (c : Ctx),
    (∀ (f : UniL) (n : Word), Runs {} f.g s c →
      let last := c.u.pc + 4 * (f.len.toNat + 1)
      let i : Bool → Instr := fun reg => if reg then .loopReg f else .loopImm f
      ∀ reg : Bool, n = (if reg then (NMap.get 0 (f.c.toNat / 16) c.g.s).extractLsb' 0 32 else f.c.zeroExtend 32) →
      ((∀ x ∈ c.u.loops, x.level ≠ f.level.toNat ∧ last ≤ x.last) → n ≠ 0 →
        exec (i reg) s = .next (c.setSub (bufferBody c s (c.u.pc + 4) last) { c.u.dropChain with
          pc := c.u.pc + 4, wait := .ready, lc := c.u.lc.set f.level.toNat n, loops := ⟨f.level.toNat, c.u.pc + 4, last⟩ :: c.u.loops }) ∧
        (∀ s1 ws, bodyWords c (f.len.toNat + 1) (c.u.pc + 4) s = (s1, some ws) → ws.length ≤ 256 →
          ((bufferBody c s (c.u.pc + 4) last).core c.core).loopBuf.head? = some ⟨c.u.issue, c.t.tid, c.u.pc + 4, ws⟩)) ∧
      ((∀ x ∈ c.u.loops, x.level ≠ f.level.toNat ∧ last ≤ x.last) → n = 0 → exec (i reg) s = .next (c.setSub s (c.u.dropChain.next last))) ∧
      ((∃ x ∈ c.u.loops, x.level = f.level.toNat ∨ x.last < last) → exec (i reg) s = trapAll c s 34)) ∧
    (∀ (g : BitVec 4) (level : BitVec 2), Runs {} g s c →
      (∀ x inner outer, c.u.loops = inner ++ x :: outer → x.level = level.toNat → (∀ y ∈ inner, y.level ≠ level.toNat) →
        exec (.lbrk g level) s = .next (c.setSub s { c.u.dropChain with pc := x.last + 4, wait := .ready, loops := outer, ahead := [] })) ∧
      ((∀ x ∈ c.u.loops, x.level ≠ level.toNat) → exec (.lbrk g level) s = trapAll c s 34)) ∧
    (∀ (u : Sub) (a : Nat),
      ((∀ x ∈ u.loops, x.last ≠ a) → u.next a = { u with pc := a + 4, wait := .ready }) ∧
      ∀ (inner outer : List LoopFrame) (f : LoopFrame), u.loops = inner ++ f :: outer → (∀ x ∈ inner, x.last ≠ a) → f.last = a →
        let n := u.lc.getD f.level 0
        (n ≠ 1 → u.next a = { u.dropChain with pc := f.first, wait := .ready, ahead := [], lc := u.lc.set f.level (n - 1) }) ∧
        (n = 1 → u.next a = ({ u with lc := u.lc.set f.level 0, loops := inner ++ outer } : Sub).next a)))

/-- R135, R137: BRD goes whole when the selector holds in all active lanes or in none, and otherwise splits: the taken lanes, in a
physical slot of their own where one is free, or in the same slot after 4,096 cycles without one, and the others, which fall through; no lane
is lost or doubled. (A target is taken modulo 2^64: log entry 101.)
R139 to R141: enrolment and striking; a rejoin on a mask with no live lane goes on, one by a lane that is not enrolled takes
REJOIN_STATE, and otherwise the sub-group parks until every enrolled live lane has come, when all go on as one at the next word and the mask
is empty; where their call stacks or loops differ the last to come takes REJOIN_STATE (log entries 19, 102). -/
def Obligations.DivergenceAndRejoining : Prop :=
  (∀ (s : State) (c : Ctx) (f : UniB), Issues {} s c →
    let m := c.execMask f.g
    let target := (((c.u.pc : Int) + 4 + 4 * f.o.toInt) % 2 ^ 64).toNat
    (m = c.active → exec (.brd f) s = .next (c.setSub s (c.u.jump target))) ∧
    (m ≠ c.active → m = 0 → exec (.brd f) s = .next (Falls c s id)) ∧
    (m ≠ c.active → m ≠ 0 → ∀ p, s.groupFreeFor c.core c.t.seq ≠ 0 → s.freeSlot c.core = some p →
      ∃ t, exec (.brd f) s = .next t ∧
        (t.group? c.gid).map Group.subs = some (c.g.subs.map (fun w => if w.mask == c.u.mask then
          { c.u.falls with mask := c.active &&& ~~~m } else w) ++
          [{ ({ c.u with wait := .ready } : Sub).jump target with mask := m, slot := p, issue := s.issueFor c.core }]) ∧
        m &&& (c.active &&& ~~~m) = 0 ∧ m ||| (c.active &&& ~~~m) = c.active ∧ t.mem = s.mem ∧ t.cores = s.cores) ∧
    (m ≠ c.active → m ≠ 0 → s.groupFreeFor c.core c.t.seq = 0 → c.u.wait = .ready →
      exec (.brd f) s = .next (c.setSub s { c.u.dropChain with wait := .brdSlot (s.cycles + 4096) })) ∧
    (m ≠ c.active → m ≠ 0 → s.groupFreeFor c.core c.t.seq = 0 → ∀ n, c.u.wait = .brdSlot n →
      (s.cycles < n → exec (.brd f) s = .next s) ∧
      (n ≤ s.cycles → ∃ t, exec (.brd f) s = .next t ∧
        (t.group? c.gid).map Group.subs = some (c.g.subs.map (fun w => if w.mask == c.u.mask then
          { c.u.falls with mask := c.active &&& ~~~m } else w) ++ [{ ({ c.u with wait := .ready } : Sub).jump target with mask := m }]) ∧
        t.mem = s.mem ∧ t.cores = s.cores)) ∧
    (∀ n, c.u.wait = .brdSlot n → n ≤ s.cycles → ∃ t, exec (.brdSlotTimeout c.gid (lowestLane c.active)) s = .next t ∧
      (c.u.mask ≠ 0 → (t.ctxOf c.gid c.lane).map (fun d => d.u.wait) = some (.brdSlot 0)) ∧ t.mem = s.mem)) ∧
  (∀ (s : State) (c : Ctx) (f : UniR), f.d.toNat < 8 →
    let n := f.d.toNat
    let j := c.g.j.getD n 0
    let masked := fun (m : Group → Word) => Falls c s fun g => { g with j := g.j.set n (m g) }
    let parked : Sub := { c.u.dropChain with wait := .rejoin n }
    let others := c.g.subs.filter fun u => !(u.mask == c.u.mask)
    let here := fun (u : Sub) => u.wait = .rejoin n ∧ u.pc = c.u.pc
    (Runs {} f.g s c →
      exec (.enrol f) s = .next (masked fun g => g.j.getD n 0 ||| c.active) ∧
      exec (.enrolMask f) s = .next (masked fun g => (c.sReg f.a).extractLsb' 0 32 &&& g.live) ∧
      ((∀ u ∈ c.g.subs, u.wait ≠ .rejoin n) → exec (.strike f) s = .next (masked fun g => g.j.getD n 0 &&& ~~~c.active))) ∧
    (Runs { waitPt := true } f.g s c → NoRecords c →
      (j &&& c.g.live = 0 → exec (.rejoin f) s = .next (Falls c s id)) ∧
      (j &&& c.g.live ≠ 0 → c.active &&& ~~~j ≠ 0 → exec (.rejoin f) s = trapAll c s 32) ∧
      (j &&& c.g.live ≠ 0 → c.active &&& ~~~j = 0 → j &&& c.g.live &&& ~~~c.active ≠ 0 → (∀ u ∈ others, ¬here u) →
        ∃ t, exec (.rejoin f) s = .next t ∧ (t.group? c.gid).map Group.subs = some (others ++ [parked]) ∧
          (t.group? c.gid).map Group.j = some c.g.j) ∧
      (j &&& c.g.live ≠ 0 → c.active &&& ~~~j = 0 → j &&& c.g.live &&& ~~~c.active = 0 → (∀ u ∈ others, ¬here u) →
        ∃ t, exec (.rejoin f) s = .next t ∧ (t.group? c.gid).map Group.subs = some (others ++ [c.u.falls]) ∧
          (t.group? c.gid).map Group.j = some (c.g.j.set n 0)) ∧
      (∀ w v, c.active &&& ~~~j = 0 → j &&& c.g.live ≠ 0 → others.filter (fun u => u.wait == .rejoin n && u.pc == c.u.pc) = [w] →
        j &&& c.g.live &&& ~~~(w.mask ||| c.active) = 0 → w.calls = c.u.calls → w.loops = c.u.loops → w.lc = c.u.lc →
        mergeSubs [w, parked] c.u.pc = some v →
        v.mask = w.mask ||| c.active ∧ (v.pc, v.calls, v.loops, v.lc) = (c.u.falls.pc, c.u.calls, c.u.falls.loops, c.u.falls.lc) ∧
        v.wait = .ready ∧ v.slot = min w.slot c.u.slot ∧ ∃ t, exec (.rejoin f) s = .next t ∧
          (t.group? c.gid).map Group.subs = some (others.filter (fun u => !(u.wait == .rejoin n && u.pc == c.u.pc)) ++ [v]) ∧
          (t.group? c.gid).map Group.j = some (c.g.j.set n 0)) ∧
      (∀ w, c.active &&& ~~~j = 0 → j &&& c.g.live ≠ 0 → others.filter (fun u => u.wait == .rejoin n && u.pc == c.u.pc) = [w] →
        j &&& c.g.live &&& ~~~(w.mask ||| c.active) = 0 → w.calls ≠ c.u.calls ∨ w.loops ≠ c.u.loops ∨ w.lc ≠ c.u.lc →
        let s1 := s.modGroup c.gid fun g => { g with subs := (g.subs.filter fun u => !(u.mask == c.u.mask)) ++ [parked] }
        ∀ c1, s1.ctxOf c.gid (lowestLane c.active) = some c1 → c1.u = parked → exec (.rejoin f) s = trapAll c1 s1 32)))

/-- R148 to R151: the last arrival completes a generation and all its waiters in the team go on, each ARRWAIT with the generation in its register;
an earlier one leaves the generation open and every other group as it was; AWAIT goes on once its generation has completed; a second mask, a foreign
role or a second arrival takes BARRIER_USE. -/
def Obligations.Barriers : Prop :=
  ∀ (s : State) (c : Ctx) (f : UniR), f.a.toNat < 16 →
    let n := f.a.toNat
    let b := NMap.get Barrier.init n c.t.bars
    let bit : Word := 1#32 <<< c.g.gslot
    let misuse := fun (m : BitVec 4) => (b.mask ≠ 0 ∧ b.mask ≠ m) ∨ m.getLsbD c.g.role = false ∨ b.arr.getLsbD c.g.gslot = true
    let now := fun (t : State) => (t.team? c.t.tid).map fun x => NMap.get Barrier.init n x.bars
    let sub := fun (t : State) => (t.ctxOf c.gid c.lane).map Ctx.u
    let passes := fun (u : Sub) => match u.wait with
      | .bar m w _ _ => decide (m = n) && decide (0 < (b.gen + 1 - BitVec.ofNat 32 w).toInt)
      | _ => false
    let released := fun (t : State) => ∀ gid g, gid ≠ c.gid → s.group? gid = some g →
      (g.tid ≠ c.t.tid → t.group? gid = some g) ∧
      (g.tid = c.t.tid → (g.subs.map Sub.mask).Nodup →
        (t.group? gid).map Group.subs = some (g.subs.map fun u => if passes u then u.falls else u) ∧
        ∀ u w a r, g.subs = [u] → passes u = true → u.wait = .bar n w a r →
          (t.group? gid).map Group.s = some (match r with
            | some i => NMap.set 0 i (BitVec.ofNat 64 w) g.s
            | none => g.s))
    let others := fun (t : State) => ∀ gid, gid ≠ c.gid → t.group? gid = s.group? gid
    let arrives := fun (i : Instr) (m : BitVec 4) (d : Option Nat) =>
      ¬misuse m → c.g.subs = [c.u] → c.g.live &&& ~~~c.active = 0 →
      (expected s c.t m &&& ~~~(b.arr ||| bit) = 0 → ∃ t, exec i s = .next t ∧ now t = some ⟨b.gen + 1, 0, 0⟩ ∧
        sub t = some c.u.falls ∧ (t.group? c.gid).map Group.s = some (match d with
          | some r => NMap.set 0 r (b.gen.zeroExtend 64) c.g.s
          | none => c.g.s) ∧ released t ∧ t.mem = s.mem ∧ t.localMem = s.localMem) ∧
      (expected s c.t m &&& ~~~(b.arr ||| bit) ≠ 0 → ∃ t, exec i s = .next t ∧ now t = some ⟨b.gen, b.arr ||| bit, m⟩ ∧
        sub t = some { c.u.dropChain with wait := .bar n b.gen.toNat true d } ∧ others t ∧ t.mem = s.mem)
    let all := BitVec.ofNat 4 (2 ^ c.t.roles.length - 1)
    (Runs { waitPt := true } f.g s c → NoRecords c →
      arrives (.bar f) all none ∧ (misuse all → exec (.bar f) s = trapAll c s 35) ∧
      arrives (.arrwait f) (f.b.extractLsb' 0 4) (some f.d.toNat) ∧
      (misuse (f.b.extractLsb' 0 4) → exec (.arrwait f) s = trapAll c s 35) ∧
      (let token := (c.sReg f.d).extractLsb' 0 32
       (0 < (b.gen - token).toInt → exec (.await f) s = .next (Falls c s id)) ∧
       ((b.gen - token).toInt ≤ 0 →
          exec (.await f) s = .next (c.setSub s { c.u.dropChain with wait := .bar n token.toNat false none })))) ∧
    (Runs {} f.g s c →
      let m := f.b.extractLsb' 0 4
      (misuse m ∨ c.g.live &&& ~~~c.active ≠ 0 → exec (.arrive f) s = trapAll c s 35) ∧
      (¬misuse m → c.g.subs = [c.u] → c.g.live &&& ~~~c.active = 0 → ∃ t, exec (.arrive f) s = .next t ∧
        now t = some (if expected s c.t m &&& ~~~(b.arr ||| bit) = 0 then ⟨b.gen + 1, 0, 0⟩ else ⟨b.gen, b.arr ||| bit, m⟩) ∧
        sub t = some c.u.falls ∧ (t.group? c.gid).map Group.s = some (NMap.set 0 f.d.toNat (b.gen.zeroExtend 64) c.g.s) ∧
        (expected s c.t m &&& ~~~(b.arr ||| bit) = 0 → released t) ∧ (expected s c.t m &&& ~~~(b.arr ||| bit) ≠ 0 → others t) ∧
        t.mem = s.mem))

/-- R153, R154: NAP ends at once when its time has come, when the wake token is there or when a curfew is raised, and else sleeps; the
expiries and WAKE end the sleep, and WAKE of a group without a sleeper leaves a token. -/
def Obligations.SleepAndWake : Prop :=
  (∀ (s : State) (c : Ctx) (f : UniR), Runs {} f.g s c →
    let x := c.sReg f.a
    let sleeps := fun (w : Wait) => Host.Outcome.next (c.setSub s { c.u.dropChain with wait := w })
    (x.toNat ≤ s.meridian → exec (.napUntil f) s = .next (Falls c s id)) ∧
    (s.meridian < x.toNat → exec (.napUntil f) s = sleeps (.napUntil x.toNat)) ∧
    (x = 0 → exec (.napCyc f) s = .next (Falls c s id)) ∧
    (x ≠ 0 → exec (.napCyc f) s = sleeps (.napCyc (s.cycles + x.toNat))) ∧
    (c.g.token = true → exec (.napWake f) s = .next (Falls c s fun g => { g with token := false })) ∧
    (c.g.token = false → c.t.curfew.isSome = true → exec (.napWake f) s = .next (Falls c s id)) ∧
    (c.g.token = false → c.t.curfew = none → exec (.napWake f) s = sleeps .napWake) ∧
    (x.toNat / 32 % 2 ^ 58 ≠ 0 → exec (.wake f) s = trapAll c s 1) ∧
    (x.toNat / 32 % 2 ^ 58 = 0 → ∃ t, exec (.wake f) s = .next t ∧ (t.ctxOf c.gid c.lane).map (fun d => d.u.pc) = some c.u.falls.pc ∧
      t.mem = s.mem ∧ ∀ gid g, s.group? gid = some g → gid ≠ c.gid →
        t.group? gid = some (
          if g.tid = c.t.tid ∧ (x.getLsbD 63 = true ∨ g.gslot = x.toNat % 32) then
            (if g.subs.any (fun u => u.wait == .napWake) then { g with subs := g.subs.map fun u => if u.wait = .napWake then u.falls else u }
             else { g with token := true })
          else g))) ∧
  (∀ (s : State) (c : Ctx), s.ctxOf c.gid c.lane = some c →
    let after := fun (i : Instr) (u : Sub) => ∃ t, exec i s = .next t ∧ (t.ctxOf c.gid c.lane).map Ctx.u = some u ∧ t.mem = s.mem
    ∀ n, (c.u.wait = .napUntil n → (n ≤ s.meridian → after (.napUntilExpiry c.gid c.lane) c.u.falls) ∧
        (s.meridian < n → after (.napUntilExpiry c.gid c.lane) c.u)) ∧
      (c.u.wait = .napCyc n → (n ≤ s.cycles → after (.napCycleExpiry c.gid c.lane) c.u.falls) ∧
        (s.cycles < n → after (.napCycleExpiry c.gid c.lane) c.u)))

/-- R399, R400: a sub-group arrives at a superstep and waits; when all groups of the launch have arrived and its work is done, every waiter
goes on and the generation rises. -/
def Obligations.Supersteps : Prop :=
  (∀ (s : State) (c : Ctx) (f : UniR) (L : Launch), s.launch? c.t.seq = some L → NoRecords c →
    let arrives := fun (i : Instr) (form tag count : Nat) =>
      c.t.superstep = true → (L.ssForm = none ∨ L.ssForm = some form ∧ (form = 0 ∨ L.ssTag = tag ∧ L.ssCount = count)) →
      ∃ t, exec i s = .next t ∧ t.launch? c.t.seq = some { L with ssForm := some form, ssTag := tag, ssCount := count } ∧
        (t.ctxOf c.gid c.lane).map Ctx.u = some { c.u.dropChain with wait := .sstep L.ssGen } ∧
        (t.group? c.gid).map Group.ssLanes = some (c.g.ssLanes ||| c.active) ∧ t.mem = s.mem
    (Runs { waitPt := true } f.g s c →
      arrives (.sstep f) 0 0 0 ∧ (c.t.superstep = false → exec (.sstep f) s = trapAll c s 37)) ∧
    (Runs { waitPt := true, feat := some 4 } f.g s c →
      arrives (.sstepPod f) 1 ((c.sReg f.a).toNat % 65536) ((c.sReg f.a).toNat / 65536 % 1024 + 1))) ∧
  (∀ (s : State) (L : Launch), s.launches.find? (fun x => x.entry == L.entry && x.active) = some L → s.launch? L.seq = some L →
    L.ssForm = some 0 → deviceStep s L = true → ((launchGroups s L.seq).map Group.gid).Nodup →
    ∃ t, exec (.superstepComplete L.entry 0 0) s = .next t ∧
      t.launch? L.seq = some { L with ssForm := none, ssReported := false, ssGen := L.ssGen + 1 } ∧ t.mem = s.mem ∧
      (∀ g ∈ launchGroups s L.seq, s.group? g.gid = some g → (t.group? g.gid).map Group.ssLanes = some 0 ∧
        ∀ u, g.subs = [u] → waitsStep u = true → (t.group? g.gid).map Group.subs = some [u.falls]))

/-- R62 to R66: SPAWN puts its fibres into a bin of their entry with their arguments and ordinals, and says how many; SPAWNF closes the bin,
which forms their group at once where it can. A bin closes when its timer runs out, and a closed one forms its group. -/
def Obligations.Spawning : Prop :=
  (∀ (s : State) (c : Ctx) (f : UniR) (slot : Nat), Runs {} f.g s c →
    let entry := (c.sReg f.a).toNat
    let n := (c.sReg f.b).toNat % 65536
    let arg := BitVec.ofNat 32 ((c.sReg f.b).toNat / 2 ^ 32)
    let i := c.g.index (lowestLane c.active)
    let bins := fun (t : State) => (t.core c.core).bins
    let new : Bin := ⟨c.t.tid, c.g.role, entry, slot, (List.range n).map fun k => ⟨arg, k, { i with role := c.g.role, fib := 32 * slot + k }⟩,
      s.cycles + max 64 (s.core c.core).binTimer.toNat, false⟩
    let sD := fun (t : State) => (t.group? c.gid).map fun g => g.sReg f.d.toNat
    (entry % 4 ≠ 0 ∨ 2 ^ 55 ≤ entry → exec (.spawn f) s = trapAll c s 1 ∧ exec (.spawnf f) s = trapAll c s 1) ∧
    (entry % 4 = 0 → entry < 2 ^ 55 → 0 < n → n < 32 → (spawnSlots s c.t c.g.role).head? = some slot → (bins s).length < Config.binsPerCore →
      (∀ b ∈ bins s, b.keyed c.t.tid c.g.role entry = false) →
      (∃ t, exec (.spawn f) s = .next t ∧ bins t = bins s ++ [new] ∧ sD t = some (BitVec.ofNat 64 n) ∧ t.groups.length = s.groups.length ∧
        t.mem = s.mem) ∧
      (c.t.image = none → c.t.closed = false → s.groupFreeFor c.core c.t.seq ≠ 0 → (s.freeSlot c.core).isSome → c.t.slotRegs.getLsbD slot = true →
        (∀ g ∈ s.groups, g.gid < s.nextGid) →
        ∃ t g, exec (.spawnf f) s = .next t ∧ bins t = bins s ∧ sD t = some (BitVec.ofNat 64 n) ∧ t.group? s.nextGid = some g ∧
          g.tid = c.t.tid ∧ g.gslot = slot ∧ g.live = maskOf (fun l => decide (l < n)) ∧
          g.subs.map (fun u => (u.pc, u.mask, u.wait)) = [(entry, g.live, .ready)] ∧
          (∀ l, l < n → g.lane 0 l = arg ∧ g.lane 1 l = BitVec.ofNat 32 l) ∧ t.mem = s.mem))) ∧
  (∀ (s : State) (core k : Nat) (b : Bin), (s.core core).bins[k]? = some b →
    (b.full = false → b.expires ≤ s.cycles → formBin (replaceBin s core { b with full := true }) core { b with full := true } = none →
      exec (.binTimerExpiry core k) s = .next (replaceBin s core { b with full := true })) ∧
    (b.full = false → s.cycles < b.expires → exec (.binTimerExpiry core k) s = .next s) ∧
    (∀ t, b.full = true → formBin s core b = some t → exec (.binGroupFormation core k) s = .next t ∧ ∀ x ∈ (t.core core).bins, x.tid ≠ b.tid ∨ x.gslot ≠ b.gslot)) ∧
  (∀ (s : State) (c : Ctx) (r : RowWait), s.ctxOf c.gid c.lane = some c → c.u.wait = .rows →
    (s.core c.core).rowWait.find? (fun q => q.gid == c.gid && q.mask == c.active) = some r →
    let left := ((c.t.roles[c.g.role]?).map Role.left).getD 0
    (r.need ≤ left + s.regFreeFor c.core c.t.seq / 32 → (∀ q ∈ (s.core c.core).rowWait, q.gid < c.gid → q.could s = false) →
      exec (.parkedRowRetry c.gid c.lane) s = .next (c.setSub s { c.u with wait := .ready })) ∧
    (left + s.regFreeFor c.core c.t.seq / 32 < r.need ∨ (∃ q ∈ (s.core c.core).rowWait, q.gid < c.gid ∧ q.could s = true) →
      exec (.parkedRowRetry c.gid c.lane) s = .next s))

/-- R89 to R91: END of fibres without stores or tile work in flight ends them at once; ENDL also orders its group's other sub-groups to end,
each at a switch point; the group that has no live fibre left is gone. -/
def Obligations.EndingFibres : Prop :=
  ∀ (s : State) (c : Ctx),
    let rest := c.g.live &&& ~~~c.active
    let gone := fun (t : State) =>
      (rest ≠ 0 → (t.group? c.gid).map Group.live = some rest) ∧ (rest = 0 → t.group? c.gid = none)
    (∀ f : UniR, Runs { waitPt := true } f.g s c → NoRecords c → mayEnd s c.core c.gid c.active = true →
      (exec (.endU f) s = .next (endFibres s c.gid c.active) ∧ gone (endFibres s c.gid c.active)) ∧
      ∃ t, exec (.endl f) s = .next t ∧ gone t ∧
        t = endFibres (s.modGroup c.gid fun g =>
          { g with subs := g.subs.map fun u => if u.mask = c.u.mask then u else { u with endPending := true } }) c.gid c.active) ∧
    (s.ctxOf c.gid c.lane = some c → c.u.endPending = true → parkedInTrap c.u = false → atSwitchPoint s c = true →
      mayEnd s c.core c.gid c.active = true → (∀ x ∈ c.g.frag, x.sub &&& c.active = 0) → NoRecords c →
      (∀ d ∈ c.t.restored, d.gslot = c.g.gslot → c.active.getLsbD d.lane = false) →
      exec (.endlRemoteStop c.gid c.lane) s = .next (endFibres s c.gid c.active) ∧ gone (endFibres s c.gid c.active))

/-- R96 to R101, R103 to R109, R111 to R113: LAUNCH reads its packet once, queues a valid one and gives its handle; a bad packet, as `PacketGood`
says, completes at once with status 3; an entry never used is taken first, else the one that completed earliest; LWAIT tells
the status of a complete launch, and of one that the queue no longer knows. (That LAUNCH waits while BOOT_STATUS is not 4 is log
entry 76; the wait itself 47; the handle past 2^48 113; a template of size 0 119.) -/
def Obligations.LaunchQueue : Prop :=
  (∀ (s : State) (c : Ctx) (f : UniR),
    let h := (c.sReg f.a).toNat
    let gives := fun (i : Instr) (v : Nat) => exec i s = .next (Falls c s fun g => g.setS f.d.toNat (BitVec.ofNat 64 v))
    (Runs { waitPt := true } f.g s c → NoRecords c →
      (h = 0 ∨ 2 ^ 56 ≤ h → gives (.lwait f) 9 ∧ gives (.lwaitPoll f) 9) ∧
      (h ≠ 0 → h < 2 ^ 56 → (∀ L ∈ s.launches, L.entry = h % 256 → L.seq ≠ h / 256) → gives (.lwait f) 8 ∧ gives (.lwaitPoll f) 8) ∧
      (∀ L, h ≠ 0 → h < 2 ^ 56 → s.launches.find? (fun x => x.entry == h % 256 && x.seq == h / 256) = some L →
        (L.active = false → gives (.lwait f) L.status ∧ gives (.lwaitPoll f) L.status) ∧
        (L.active = true → exec (.lwait f) s = .next (c.setSub s { c.u with wait := .stall }) ∧ gives (.lwaitPoll f) 1))) ∧
    (Runs {} f.g s c → h % 64 = 0 → pendingStores s c.gid c.active true = false →
      ∀ (s1 : State) (pkt : List Byte), ((∀ bs, c.u.wait ≠ .queued bs) ∧ readRecord 8 s c (lowestLane c.active) h = (s1, .ok pkt) ∨
          c.u.wait = .queued pkt ∧ s1 = s) →
        let handle := fun (e : Nat) => BitVec.ofNat 64 (s1.nextSeq * 256 + e)
        let L := fun e => newLaunch s1.nextSeq e c.t.asid pkt h
        (∀ e, s1.regs.bootStatus = 4 → takeEntry s1 = some e →
          (exec (.launch f) s = finS c (queueLaunch s1 e c.t.asid pkt h) f.d (handle e) ∧
           exec (.launchTry f) s = finS c (queueLaunch s1 e c.t.asid pkt h) f.d (handle e)) ∧
          (packetOk s1.regs.featAccept pkt = true → unplaceable { s1 with
              launches := s1.launches.filter (fun x => x.entry != e) ++ [L e], nextSeq := s1.nextSeq + 1
              regs := { s1.regs with launched := true } } (L e) = false → (L e).overdue s1.meridian = false →
            queueLaunch s1 e c.t.asid pkt h = { s1 with
              launches := s1.launches.filter (fun x => x.entry != e) ++ [L e], nextSeq := s1.nextSeq + 1
              regs := { s1.regs with launched := true } }) ∧
          (packetOk s1.regs.featAccept pkt = false → (∀ x ∈ s1.launches, x.seq ≠ s1.nextSeq) →
            ((queueLaunch s1 e c.t.asid pkt h).launch? s1.nextSeq).map (fun x => (x.active, x.status)) = some (false, 3))) ∧
        ((s1.regs.bootStatus ≠ 4 ∨ takeEntry s1 = none) →
          exec (.launch f) s = .next (c.setSub s1 { c.u with wait := .queued pkt }) ∧ exec (.launchTry f) s = finS c s1 f.d 0)) ∧
    (Runs {} f.g s c → h % 64 ≠ 0 → exec (.launch f) s = trapAllMem c s 4 h ∧ exec (.launchTry f) s = trapAllMem c s 4 h)) ∧
  (∀ (feat : DWord) (p : List Byte), packetOk feat p = true ↔ PacketGood feat p) ∧
  (∀ s : State,
    (takeEntry s = none ↔ (∀ e < 256, ∃ L ∈ s.launches, L.entry = e) ∧ ∀ L ∈ s.launches, L.active = true) ∧
    ∀ e, takeEntry s = some e →
      (e < 256 ∧ (∀ L ∈ s.launches, L.entry ≠ e) ∧ ∀ k < e, ∃ L ∈ s.launches, L.entry = k) ∨
      (∀ k < 256, ∃ L ∈ s.launches, L.entry = k) ∧
        ∃ L ∈ s.launches, L.entry = e ∧ L.active = false ∧ ∀ x ∈ s.launches, x.active = false → L.doneAt ≤ x.doneAt) ∧
  (∀ (s : State) (L : Launch), s.launches.find? (fun x => x.entry == L.entry && x.active) = some L → s.launch? L.seq = some L →
    let late := L.overdue s.meridian = true
    let marked := { L with late := true }
    (late → L.late = false → pDropLate L.pkt = false ∨ L.placedAny = true →
      ∃ t, exec (.launchLate L.entry) s = .next t ∧ t.launch? L.seq = some marked ∧
        t.regs.missCount.toNat = min (s.regs.missCount.toNat + 1) (2 ^ 32 - 1) ∧ t.mem = s.mem) ∧
    (late → L.late = false → pDropLate L.pkt = true → L.placedAny = false →
      ∃ t, exec (.launchLate L.entry) s = .next t ∧ (t.launch? L.seq).map (fun x => (x.active, x.status)) = some (false, 2 + 256)) ∧
    (¬late → exec (.launchLate L.entry) s = .next s) ∧
    (launchOver s L = true → L.finishing = false → (L.placedAny = false ∨ pArea L.pkt = 0) →
      ∃ t, exec (.launchCompletion L.entry) s = .next t ∧ t.launch? L.seq = some { L with finishing := true } ∧ t.mem = s.mem) ∧
    (launchOver s L = true → L.finishing = true → statFails s L = [] →
      ∃ t, exec (.launchCompletion L.entry) s = .next t ∧
        (t.launch? L.seq).map (fun x => (x.active, x.status)) = some (false, L.code.getD 0 + if L.late then 256 else 0)))

/-- R121 to R125, R197: CURF tells a raised curfew; YIELD goes on without one, and with one leaves the rows and registers it declares and
stops; STATID names the group's statistics; a window that has run out stops the team's sub-groups that stand at a switch point, each with the
wait that its record names, and marks the others to stop at their next one. -/
def Obligations.CurfewAndYield : Prop :=
  (∀ (s : State) (c : Ctx) (f : UniR),
    (Runs {} f.g s c → (f.d.toNat < 7 → exec (.curf f) s = .next (Falls c s fun g => g.setK f.d.toNat c.t.curfew.isSome)) ∧
      exec (.statid f) s = .next (Falls c s fun g => { g with statid := (c.sReg f.a).extractLsb' 0 6 })) ∧
    (Runs { waitPt := true } f.g s c → NoRecords c → pendingStores s c.gid c.active true = false →
      (c.t.curfew = none → exec (.yield f) s = .next (Falls c s id)) ∧
      (c.t.curfew.isSome = true → ∃ t, exec (.yield f) s = .next t ∧
        (t.ctxOf c.gid c.lane).map Ctx.u = some { c.u.falls with wait := .yielded } ∧
        (t.group? c.gid).map (fun g => (g.yRows, g.yS)) = some (c.g.yRows ||| (c.sReg f.a).extractLsb' 0 60, c.g.yS ||| c.sReg f.b) ∧
        (t.team? c.t.tid).map (fun x => (x.yAcc, x.yLocal)) =
          some (c.t.yAcc ||| (c.sReg f.a).extractLsb' 60 4, c.t.yLocal ||| (c.sReg f.d).extractLsb' 0 62) ∧ t.mem = s.mem))) ∧
  (∀ (s : State) (t : Team) (w : Curfew), s.team? t.tid = some t → t.curfew = some w → w.closed = false →
    (s.cycles < w.until_ → exec (.curfewWindowClose t.tid) s = .next s) ∧
    (w.until_ ≤ s.cycles → ∃ r, exec (.curfewWindowClose t.tid) s = .next r ∧
      (r.team? t.tid).map Team.curfew = some (some { w with closed := true, blocked := teamParked s t.tid }) ∧ r.mem = s.mem ∧
      (∀ c u, s.ctxOf c.gid c.lane = some c → c.g.tid = t.tid → s.groups = [c.g] → c.g.subs = [u] → u.mask ≠ 0 → u.endPending = false →
        let s1 := s.modTeam t.tid fun x => { x with curfew := some { w with closed := true, blocked := teamParked s t.tid } }
        let stops := fun (k : Nat) => (r.group? c.gid).map (fun g => g.subs.map fun v => (v.pc, v.wait)) = some [(u.pc, .stopped k)]
        let stands := fun (b : Bool) => ∀ d, s1.ctxOf c.gid (lowestLane u.mask) = some d → atSwitchPoint s1 d = b
        (u.wait = .ready → stands true → stops 0) ∧ (u.wait = .stall → stands true → stops 5) ∧
        (u.wait = .ready ∨ u.wait = .stall ∨ u.wait = .saving → stands false →
          (r.group? c.gid).map Group.subs = some [{ u with stopPending := true }]) ∧
        (∀ j, u.wait = .rejoin j → stops 2) ∧ (∀ m n a d, u.wait = .bar m n a d → stops 3) ∧
        ((∃ n, u.wait = .napUntil n ∨ u.wait = .napCyc n) ∨ u.wait = .napWake → stops 4) ∧
        (u.wait = .rows ∨ (∃ n, u.wait = .sstep n ∨ u.wait = .brdSlot n) → stops 5))))

/-- R71, R72, R83 to R86: FREEZE of the dawn fibre, its record stored, freezes the region, makes it the launch's image and ends the fibre;
NEST opens a region for a nested prologue; FREEZEN of its fibre stamps a child grid; outside these uses each takes TEMPLATE_STATE. (The
region of a team of no launch returns at its FREEZEN: log entry 41; regions overlap within an address space: 42; what FREEZE asks of a
team that is not the dawn's: 40.) -/
def Obligations.DawnTemplates : Prop :=
  ∀ (s : State) (c : Ctx) (f : UniR),
    let alone := (lanesOf c.active).length = 1
    let plain := alone ∧ c.u.calls = [] ∧ c.u.loops = []
    let clear := ∀ w ∈ c.g.j, w = 0
    let lane := lowestLane c.active
    let regionOf := fun (e : Nat) => s.regions.find? fun x => x.entry == e
    let stored := fun (e : Nat) => (∀ st ∈ s.stores, st.agent = 8 → st.agentId ≠ e) ∧ ∀ x ∈ s.fails, x.agent = 8 → x.id ≠ e
    -- the record is written once, in lines of the region from its base on, and the fibre waits for it
    let writes := fun (i : Instr) (e : Nat) (r : Region) (level : Nat) (carried : Nat → Option Bank) =>
      let bs := imageRecord c.g lane ((c.u.pc + 4) % 2 ^ 55) level s.fresh carried
      ∃ t, exec i s = .next t ∧ (t.ctxOf c.gid c.lane).map Ctx.u = some { c.u.dropChain with wait := .saving } ∧ t.mem = s.mem ∧
        (∀ x, (∃ y ∈ s.regions, x = if y.entry = e then { y with written := true } else y) ↔ x ∈ t.regions) ∧
        t.stores.take s.stores.length = s.stores ∧
        (r.base % 128 = 0 → (t.stores.drop s.stores.length).map (fun st => (st.agent, st.agentId, st.asid, st.va, st.data)) =
          (List.range 512).map fun k => (8, e, r.asid, r.base + 128 * k, slice bs (128 * k) 128))
    let carriedOf := fun (L : Launch) (i : Nat) =>
      if (pCb L.pkt).testBit i && (s.bank c.core i).owner == some c.t.tid then some (s.bank c.core i) else none
    (Runs { waitPt := true, feat := some 0 } f.g s c → NoRecords c →
      (c.t.kind ≠ .dawn → exec (.freeze f) s = trapAll c s 14) ∧
      (¬(plain ∧ clear) → exec (.freeze f) s = trapAll c s 14) ∧
      (∀ (L : Launch) (e : Nat) (r : Region), plain → clear → c.t.kind = .dawn → s.launch? c.t.seq = some L → L.region = some e →
        regionOf e = some r → pendingStores s c.gid c.active true = false →
        (r.written = false → (∀ i b, carriedOf L i = some b → b.badEntries = []) → writes (.freeze f) e r 0 (carriedOf L)) ∧
        (r.written = true → stored e →
          let t1 : State := { s with
            launches := s.launches.map fun x => if x.seq = c.t.seq then { x with frozen := true, image := some ⟨r.base, r.asid⟩ } else x
            regions := s.regions.map fun x => if x.entry = e then { x with frozen := true } else x }
          exec (.freeze f) s = .next (endFibres t1 c.gid c.active))) ∧
      (c.g.nestOf lane = none → exec (.freezen f) s = trapAll c s 14) ∧
      (∀ (e : Nat) (r : Region), c.g.nestOf lane = some e → regionOf e = some r →
        let count := (c.sReg f.a).toNat
        (¬plain ∨ 65536 < count ∨ gangLaunch s c.t.seq = true → exec (.freezen f) s = trapAll c s 14) ∧
        (plain → count ≤ 65536 → gangLaunch s c.t.seq = false → mayEnd s c.core c.gid c.active = true →
          (r.written = false → writes (.freezen f) e r (c.t.level + 1) fun _ => none) ∧
          (r.written = true → stored e →
            let kid : ChildGrid := ⟨s.nextChild, count, c.t.level + 1, 0, 0, r.entry, ⟨r.base, r.asid⟩⟩
            let t1 : State := { s with
              nextChild := s.nextChild + 1
              launches := s.launches.map fun x => if x.seq = c.t.seq then { x with children := x.children ++ [kid] } else x
              regions := s.regions.map fun x => if x.entry = e then { x with frozen := true, child := s.nextChild } else x
              groups := s.groups.map fun g => if g.gid = c.gid then { g with nest := g.nest.filter fun q => q.1 != lane } else g }
            let t2 : State := if s.launch? c.t.seq = none then { t1 with regions := t1.regions.filter fun x => x.entry != e } else t1
            exec (.freezen f) s = .next (returnRegions (endFibres t2 c.gid c.active) c.t.seq))))) ∧
    (Runs { feat := some 0 } f.g s c →
      let base := (c.sReg f.a).toNat
      let size := (c.sReg f.b).toNat / 2 ^ 19 * 2 ^ 19
      let fits := alone ∧ c.t.kind ≠ .dawn ∧ c.g.nestOf lane = none ∧ c.t.level ≠ 3 ∧ base % 2 ^ 19 = 0 ∧
        (c.sReg f.b).toNat / 2 % 2 ^ 18 = 0 ∧ size ≠ 0 ∧ ∀ r ∈ s.regions, r.asid = c.t.asid.toNat → overlap r.base r.size base size = false
      (¬fits → exec (.nest f) s = trapAll c s 14) ∧
      (fits → ∀ e, e < 64 → (∀ r ∈ s.regions, r.entry ≠ e) → (∀ k < e, ∃ r ∈ s.regions, r.entry = k) →
        exec (.nest f) s = .next (Falls c
          { s with regions := s.regions ++ [⟨e, c.t.asid.toNat, base, size, (c.sReg f.b).getLsbD 0, c.t.seq, false, c.gid, lane, 0, false, true⟩] }
          fun g => { g with nest := g.nest ++ [(lane, e)] })) ∧
      (fits → (∀ e < 64, ∃ r ∈ s.regions, r.entry = e) → exec (.nest f) s = .next (c.setSub s { c.u with wait := .stall })))

/-- R96, R61, R58, R114, R115: the pass of the scheduler changes nothing where every team lives on and no launch waits; an unlinked,
untemplated grid of one team is placed whole on the core chosen for it, its groups starting at ENTRY with the packet's address in s0.
R73, R74, R76, R80, R86: a templated team, of the grid or of a child grid, is stamped: an image slot is filled, every group reads the image's
V entries, has its S, KPRED and PRED, no private row, no rejoin mask, loop or call, and starts at RESUME_PC; its roles hold their copy
reserves. A bank that the launch names is the team's, and holds what the launch's image carries for it, else nothing. -/
def Obligations.Placement : Prop :=
  (∀ s : State, edf s = [] → (∀ t ∈ s.teams, ∃ g ∈ s.groups, g.tid = t.tid) → exec .schedulerPass s = .next s) ∧
  (∀ (s : State) (L : Launch) (core : Nat), s.teams = [] → s.groups = [] → s.saved = [] → edf s = [L] → s.launch? L.seq = some L → L.active = true →
    L.children = [] → L.next = 0 → L.live = 0 → L.frozen = true → L.image = none → L.moduli = none → pT L.pkt = false → pLinked L.pkt = false →
    pSuper L.pkt = false → pTeams L.pkt = 1 → pModuli L.pkt = 0 → chooseCore s L.seq (planNeed L .grid 0) = some core →
    ∃ t, exec .schedulerPass s = .next t ∧
      t.teams.map (fun x => (x.tid, x.core, x.asid, x.kind, x.launch, x.seq, x.teamNo)) =
        [(s.nextTid, core, L.asid, TeamKind.grid, L.entry, L.seq, 0)] ∧
      (t.launch? L.seq).map (fun x => (x.active, x.next, x.live, x.placedAny)) = some (true, 1, 1, true) ∧
      t.groups.map (fun g => g.gslot) = (List.range (rolesGroups (pRoles L.pkt))).filter (fun i => decide (32 * i < pItems L.pkt)) ∧
      (∀ g ∈ t.groups, g.tid = s.nextTid ∧ g.live = maskOf (fun l => decide (32 * g.gslot + l < pItems L.pkt)) ∧
        g.subs.map (fun u => (u.pc, u.mask, u.wait)) = [(pEntry L.pkt, g.live, .ready)] ∧ g.sReg 0 = BitVec.ofNat 64 L.pktVa ∧
        (∀ i, 0 < i → g.sReg i = 0) ∧ (∀ r l, g.lane r l = 0) ∧ g.k = 0 ∧
        (∀ l, g.live.getLsbD l = true → g.index l = itemIndex L.pkt (pRoles L.pkt) false 0 (32 * g.gslot + l))) ∧
      (∀ b, b < 8 → (pCb L.pkt).testBit b = true → BankCarries none (fun _ => []) s.nextTid b (t.bank core b)) ∧
      (∀ b, (pCb L.pkt).testBit b = false → t.bank core b = s.bank core b) ∧ t.mem = s.mem) ∧
  (∀ (s : State) (L : Launch) (core : Nat) (kid : Option ChildGrid) (r : ImageRef) (hdr : List Byte) (m : Moduli)
      (src : Option (ImageRef × List Byte)) (bs : Nat → List Byte),
    s.teams = [] → s.groups = [] → s.saved = [] → edf s = [L] → s.launch? L.seq = some L → L.active = true →
    pT L.pkt = true → L.dawnPlaced = true → L.frozen = true → L.moduli = some m → pLinked L.pkt = false → pSuper L.pkt = false →
    let plan : Plan := match kid with
      | some k => .child k
      | none => .grid
    let count := plan.items L
    let lvl := match kid with
      | some k => k.level
      | none => 0
    (match kid with
      | some k => L.children = [k] ∧ k.next = 0 ∧ childTeams L k = 1 ∧ k.image = r ∧ L.next = pTeams L.pkt
      | none => L.children = [] ∧ L.next = 0 ∧ pTeams L.pkt = 1 ∧ src = some (r, hdr)) →
    chooseCore s L.seq (planNeed L plan 0) = some core → (s.core core).images = [] → readImage s r 0 1024 = (s, some hdr) →
    -- the banks come from the launch's own image, whose bytes a home gives
    src.map Prod.fst = L.image → (∀ q, src = some q → readImage s q.1 0 1024 = (s, some q.2)) →
    (∀ q b, src = some q → b < 8 → (pCb L.pkt).testBit b = true → (fieldN q.2 9 1).testBit b = true → ∀ cores,
      readImage { s with cores := cores } q.1 (4096 + 4096 * b) 4096 = ({ s with cores := cores }, some (bs b))) →
    let field := fieldN hdr
    ∃ t, exec .schedulerPass s = .next t ∧
      t.teams.map (fun x => (x.tid, x.core, x.asid, x.kind, x.seq, x.teamNo, x.level, x.child, x.image)) =
        [(s.nextTid, core, L.asid, TeamKind.grid, L.seq, 0, lvl, (kid.map ChildGrid.id).getD 0, some r)] ∧
      t.teams.map Team.roles = [(pRoles L.pkt).map fun x => { x with left := x.reserve }] ∧
      (t.core core).images = [⟨r, (List.range 60).map fun i => BitVec.ofNat 32 (field (256 + 4 * i) 4), BitVec.ofNat 7 (field 10 1)⟩] ∧
      t.groups.map (fun g => g.gslot) = (List.range (rolesGroups (pRoles L.pkt))).filter (fun i => decide (32 * i < count)) ∧
      (∀ g ∈ t.groups, g.tid = s.nextTid ∧ g.live = maskOf (fun l => decide (32 * g.gslot + l < count)) ∧
        g.subs.map (fun u => (u.pc, u.mask, u.wait, u.calls, u.loops, u.lc)) = [(field 0 8, g.live, .ready, [], [], [0, 0, 0])] ∧
        g.priv = 0 ∧ (∀ w ∈ g.j, w = 0) ∧ g.k = BitVec.ofNat 7 (field 10 1) ∧
        (∀ i, i < 64 → g.sReg i = BitVec.ofNat 64 (field (512 + 8 * i) 8)) ∧
        (∀ i l, i < 60 → l < 32 → g.lane i l = BitVec.ofNat 32 (field (256 + 4 * i) 4)) ∧
        (∀ l, g.live.getLsbD l = true → g.predOf l = BitVec.ofNat 32 (field 12 4)) ∧
        (∀ l, g.live.getLsbD l = true → let n := 32 * g.gslot + l
          (g.index l).lin = n ∧ (g.index l).fib = n ∧ (g.index l).team = 0 ∧ (g.index l).level = lvl ∧
          (kid.isSome = true → (g.index l).x = n ∧ (g.index l).y = 0 ∧ (g.index l).z = 0))) ∧
      (∀ b, b < 8 → (pCb L.pkt).testBit b = true → BankCarries src bs s.nextTid b (t.bank core b)) ∧
      (∀ b, (pCb L.pkt).testBit b = false → t.bank core b = s.bank core b) ∧ t.mem = s.mem) ∧
  (∀ (s s1 : State) (owner core b : Nat) (r : ImageRef) (hdr bs : List Byte),
    readImage s r (4096 + 4096 * b) 4096 = (s1, some bs) → (fieldN hdr 9 1).testBit b = true →
    let t := (loadBanks owner (some r) hdr core [b] s).1
    (loadBanks owner (some r) hdr core [b] s).2 = true ∧ (t.bank core b).owner = some owner ∧
    (t.bank core b).kind = BitVec.ofNat 2 (fieldN hdr (16 + b) 1) ∧ (t.bank core b).valid = fieldN hdr (24 + 2 * b) 2 ∧
    ∀ e, e < 256 → (t.bank core b).entry e = BitVec.ofNat 128 (fieldN bs (16 * e) 16))

/-- R66, R124 to R127, R131, R132, R276: the save of a team that has yielded or stopped begins, writes its dirty stash lines back as stores of its
oldest fibre, and then writes the record inside the reserved granules, gives the allotment back and keeps the team for its restore: its groups with
the rows, uniform registers and sub-groups that are kept, its parts, banks, accumulators and bins as they stood, and its records, those that came
during the save marked. The restore, on the core chosen for it, makes the team and its groups again as they were saved: rows, uniform registers,
masks and sub-groups, local parts, banks, accumulators and bins, which start their timers anew (which of them are open again, and in which slot: log
entry 78), and its granules return. -/
def Obligations.TeamSaving : Prop :=
  (∀ (s : State) (t : Team) (w : Curfew), s.team? t.tid = some t → t.curfew = some w →
    (readyToSave s t = false → exec (.teamSave t.tid) s = .next s) ∧
    (readyToSave s t = true → w.since = none →
      exec (.teamSave t.tid) s = .next (modCurfew s t.tid fun w => { w with since := some s.meridian })) ∧
    (readyToSave s t = true → w.since.isSome = true → pendingUe s t.tid = none →
      (saveWaits s t = true → exec (.teamSave t.tid) s = .next s) ∧
      (saveWaits s t = false → w.stashed = false → t.stash = [] →
        exec (.teamSave t.tid) s = .next (modCurfew s t.tid fun w => { w with stashed := true })) ∧
      (∀ q c e, saveWaits s t = false → w.stashed = false → (teamSubs s t.tid).head? = some q → s.ctxOf q.1 q.2 = some c → c.t = t →
        (t.stashLines.map Prod.fst).Nodup → BackReady s c e (dirtyLines t 0 t.ways.length) →
        ∃ s1, exec (.teamSave t.tid) s = .next (modCurfew s1 t.tid fun w => { w with stashed := true }) ∧
          WrittenBack s s1 c (lowestLane c.active) e (dirtyLines t 0 t.ways.length)) ∧
      (saveWaits s t = false → w.stashed = true → ∃ r, exec (.teamSave t.tid) s = .next r ∧
        r.teams = s.teams.filter (fun x => x.tid != t.tid) ∧ r.groups = s.groups.filter (fun g => g.tid != t.tid) ∧
        ∃ x, r.saved = s.saved ++ [x] ∧ x.seq = t.seq ∧ x.team.tid = t.tid ∧ x.base = w.granBase ∧
          (let gs := s.groups.filter fun g => g.tid == t.tid
           let yielded := ∀ g ∈ gs, hasYielded g
           let kept := fun (k : Nat) => (List.range (t.parts k).length).filter fun i =>
             decide ¬(∀ g ∈ gs, ∀ u ∈ g.subs, u.wait = .yielded) || t.yLocal.getLsbD ((if k = 0 then 0 else if k = 1 then 14 else 30) + i)
           x.groups.length = gs.length ∧ (∀ (i : Nat) (g h : Group), gs[i]? = some g → x.groups[i]? = some h → SavedAs g h) ∧
           { x.team with restored := [] } =
             { t with stash := [], stashLines := [], curfew := none, yAcc := 0, yLocal := 0, restored := [] } ∧
           (∀ n, w.since = some n → x.team.restored =
             (gs.flatMap fun g => g.defer.map fun d => if n ≤ d.time then { d with flags := d.flags ||| 1 } else d) ++ t.restored) ∧
           x.parts.map (fun p => (p.kind, p.ord)) = ((List.range 3).flatMap fun k => (kept k).map fun i => (k, i)) ∧
           (∀ p ∈ x.parts, ∀ i, i < partSize p.kind →
             NMap.get 0 i p.bytes = s.localByte t.core (partBase p.kind + (t.parts p.kind).getD p.ord 0 * partSize p.kind + i)) ∧
           x.banks = ((List.range 8).filter fun b => (s.bank t.core b).owner == some t.tid).map (fun b =>
             (b, { s.bank t.core b with bad := [], load := none })) ∧
           (∀ q ∈ x.accs, { q.2 with flags := [] } = { s.acc t.core q.1 with flags := [] }) ∧
           (∀ i, i < 4 → (i ∈ x.accs.map Prod.fst ↔ t.acc.getLsbD i = true ∧ (yielded → t.yAcc.getLsbD i = true))) ∧
           x.bins = (s.core t.core).bins.filter (fun b => b.tid == t.tid) ∧ x.fillV = t.image) ∧
          let base := s.regs.saveBase.toNat + 65536 * w.granBase
          (∀ a, a < base ∨ base + 65536 * x.granules ≤ a → r.peek a = s.peek a) ∧
          (base + 128 ≤ 0x5F80000000 → r.peekLe base 2 = 1 ∧ r.peekLe (base + 3) 1 = t.level % 256 ∧
            r.peekLe (base + 8) 8 = (t.seq * 256 + t.launch) % 2 ^ 64)))) ∧
  (∀ (s : State) (L : Launch) (x : SavedTeam) (core : Nat) (img : Option (List Word)),
    s.teams = [] → s.groups = [] → s.saved = [x] → edf s = [L] → s.launch? L.seq = some L → L.active = true → x.seq = L.seq →
    nextPlan L = none → chooseCore s L.seq (savedNeed x) = some core → (s.core core).bins = [] → (s.core core).images = [] →
    (x.fillV = none ∧ img = none ∨ ∃ r hdr, x.fillV = some r ∧ readImage s r 0 1024 = (s, some hdr) ∧
      img = some ((List.range 60).map fun i => BitVec.ofNat 32 (fieldN hdr (256 + 4 * i) 4))) →
    ∃ t y, exec .schedulerPass s = .next t ∧ t.saved = [] ∧ t.granules = s.granules.filter (fun g => g.1 != x.base) ∧
      t.teams = [y] ∧ y.placeless = x.team.placeless ∧ y.core = core ∧ y.ways.length = x.team.ways.length ∧ y.segs.length = x.team.segs.length ∧
      y.cols.length = x.team.cols.length ∧ ((∀ g ∈ x.groups, g.priv = 0) → y.roles = x.team.roles.map fun r => { r with left := r.reserve }) ∧
      t.groups.map Group.placeless = x.groups.map Group.placeless ∧ (∀ g ∈ t.groups, g.img = img) ∧
      (∀ p, x.parts = [p] → NMap.wf 0 p.bytes = true → (∀ q ∈ p.bytes, q.1 < partSize p.kind) → p.ord < (y.parts p.kind).length →
        ∀ i, i < partSize p.kind → t.localByte core (partBase p.kind + (y.parts p.kind).getD p.ord 0 * partSize p.kind + i) = NMap.get 0 i p.bytes) ∧
      ((x.banks.map (·.1)).Nodup → ∀ q ∈ x.banks, t.bank core q.1 = { q.2 with owner := some x.team.tid }) ∧
      (∀ i, i < 4 → x.team.acc.getLsbD i = true → t.acc core i = ((x.accs.find? fun q => q.1 == i).map (·.2)).getD Acc.empty) ∧
      (t.core core).bins = x.bins.map (fun b =>
        { b with expires := s.cycles + max 64 (s.core core).binTimer.toNat, full := decide (32 ≤ b.fibs.length) }) ∧ t.mem = s.mem)

/-- R239, R240, R243, R244, R247: TILE and TDRAIN of a lone fibre read their block or record once, take a handle and queue the operation, or
wait with what they have read for a handle or for room; TZERO
queues without one; TWAIT gives BAD_HANDLE, EXPIRED, PENDING or the status, and traps for an uncorrectable operation. -/
def Obligations.TileInstructions : Prop :=
  ∀ (s : State) (c : Ctx) (f : UniR),
    let a := (c.sReg f.a).toNat
    let alone := (lanesOf c.active).length = 1
    let lane := lowestLane c.active
    let room := fun (s : State) => (s.core c.core).tileQ.length < 16
    let reads := fun (rd : State × Except (Nat × Nat) (List Byte)) (s1 : State) (b : List Byte) =>
      (∀ bs, c.u.wait ≠ .queued bs) ∧ rd = (s1, .ok b) ∨ c.u.wait = .queued b ∧ s1 = s
    let waits := fun (i : Instr) (s1 : State) (b : List Byte) =>
      (freeHandle s1 c.t = none ∧ NoRecords c ∧ (∀ x ∈ c.g.frag, (x.sub &&& c.active) ≠ 0 → x.ue = false) ∨
        (freeHandle s1 c.t).isSome = true ∧ ¬room s1) →
        exec i s = .next (c.setSub s1 { c.u with wait := .queued b })
    (Runs { cc := true } f.g s c →
      let tile := fun (i : Instr) (loc : Bool) (a : Nat) =>
        (¬alone → exec i s = trapAll c s 27) ∧ (alone → a % 128 ≠ 0 → exec i s = trapAllMem c s 4 a) ∧
        (alone → a % 128 = 0 → pendingStores s c.gid c.active true = false → ∀ (s1 : State) (b : List Byte),
          reads (readBlock loc 16 s c lane a) s1 b →
          (c.t.acc.getLsbD (bSlot b) = false → exec i s = trapAll c s1 28) ∧
          (c.t.acc.getLsbD (bSlot b) = true → waits i s1 b ∧ ∀ e, freeHandle s1 c.t = some e → room s1 →
            ∃ tags, Queued i s s1 c f.d e ⟨.tile b, bSlot b, c.t.tid, c.gid, lane, c.u.pc, e, tags, false, 0, none, 128, c.t⟩))
      tile (.tile f) false a ∧ tile (.tileL f) true (a % 2 ^ 32) ∧
      (c.t.acc.getLsbD f.a.toNat = false → exec (.tzero f) s = trapAll c s 28) ∧
      (c.t.acc.getLsbD f.a.toNat = true → room s → exec (.tzero f) s = .next (Falls c
        (s.modCore c.core fun x => { x with tileQ := x.tileQ ++ [⟨.zero, f.a.toNat, c.t.tid, c.gid, 0, c.u.pc, 32, [], false, 0, none, 0, c.t⟩] }) id))) ∧
    (∀ (i : Instr) (form : Nat), (i, form) ∈ [(Instr.tdrainFp32 f, 0), (.tdrainBf16 f, 1), (.tdrainAcc f, 2), (.tdrainI64 f, 3), (.tdrainPlanes f, 4)] →
      Runs { cc := true, feat := if 3 ≤ form then some 2 else none } f.g s c →
      (¬alone → exec i s = trapAll c s 27) ∧ (alone → a % 32 ≠ 0 → exec i s = trapAllMem c s 4 a) ∧
      (alone → a % 32 = 0 → pendingStores s c.gid c.active true = false → ∀ (s1 : State) (r : List Byte), reads (readRecord 4 s c lane a) s1 r →
        (c.t.acc.getLsbD f.b.toNat = false → exec i s = trapAll c s1 28) ∧
        (c.t.acc.getLsbD f.b.toNat = true → waits i s1 r ∧ ∀ e, freeHandle s1 c.t = some e → room s1 →
          Queued i s s1 c f.d e ⟨.drain form r, f.b.toNat, c.t.tid, c.gid, lane, c.u.pc, e, [], false, 0, none, drainSize form, c.t⟩))) ∧
    (Runs { cc := true, waitPt := true } f.g s c → NoRecords c →
      let e := c.t.handle (a % 32)
      let gives := fun (i : Instr) (v : Nat) => exec i s = .next (Falls c s fun g => g.setS f.d.toNat (BitVec.ofNat 64 v))
      let both := fun (v : Nat) => gives (.twait f) v ∧ gives (.twaitPoll f) v
      let legal := a ≠ 0 ∧ a < 2 ^ 40 ∧ a / 32 % 8 = 0
      let names := legal ∧ a / 256 ≠ 0 ∧ e.seq = a / 256
      (¬legal → both 15) ∧ (legal → ¬names → both 14) ∧
      (names → e.busy = true →
        gives (.twaitPoll f) 1 ∧ exec (.twait f) s = .next (c.setSub s { c.u with wait := .stall })) ∧
      (names → e.busy = false → e.code = 13 →
        exec (.twait f) s = trapAll c s 26 ∧ exec (.twaitPoll f) s = trapAll c s 26) ∧
      (names → e.busy = false → e.code ≠ 13 → both e.code))

/-- R231, R232, R235, R236, R238, R241 to R243, R245, R246, R248 to R252, R262: a block's own limits and the status of a bad one; operations of a
core's queue start in order once no earlier one of their slot is unfinished: a TILE that fails in its fetch has started on its slot (log entries 35,
117); else it accumulates its panel modulo every channel, TZERO empties the slot, an injection flips bits of one residue. A drain reconstructs every
element of the slot in row, then column order: where one is uncorrectable it writes nothing and leaves the slot invalid; else it rewrites the
corrected residues and writes, for each element (i, j), at DEST + i × STRIDE + j × size: the FP32 or BF16 rounding of the scaled value (with the old
word added, for an accumulate), the 64-bit value, or one container a channel, PSTRIDE apart. A finished TILE or drain leaves the queue and gives its
status to its handle; a drain whose write failed gives FAULT and leaves the slot invalid. -/
def Obligations.TileQueueSteps : Prop :=
  ∀ (s : State) (core : Nat) (o : TileOp) (t : Team), s.team? o.tid = some t → t.core = core →
    let x := s.acc core o.slot
    let rest := dropFirst (fun q => !q.running) (s.core core).tileQ
    (nextToStart s core = some o →
      (∀ b, o.kind = .tile b → (∀ q ∈ (s.core core).tileQ, q.running = true → q.isTile = false) → banksLoading s core b = false →
        ∃ r, exec (.tileOperationStart core) s = .next r ∧
          (∀ ra rb, bBFmt b ≠ 5 → bMcMask b = 0 → blockStatus s.regs.featAccept t.moduli x b [] = 0 →
            fetchRows t b [] (operandA b) ((t.handle o.entry).seq * 256 + o.entry) (List.range 64) s = (s, .ok ra) →
            fetchRows t b [] (operandB b) ((t.handle o.entry).seq * 256 + o.entry) (List.range 64) s = (s, .ok rb) →
            scalesDiffer b x ra rb = false →
            (r.core core).tileQ = startedQ { o with running := true, code := 0, fault := none } (s.core core).tileQ ∧ r.mem = s.mem ∧
            let z := r.acc core o.slot
            let was := if bAccum b then x else Acc.empty
            z.valid = was.valid ∧ z.ktot = was.ktot + bK b ∧
            (bRaw b = false → ∀ ch i j, ch < t.moduli.count → i < 64 → j < 64 →
              0 < t.moduli.mods.getD ch 1 →
              ((NMap.get 0 (ch * 4096 + i * 64 + j) z.res : Nat) : Int) =
                (((NMap.get 0 (ch * 4096 + i * 64 + j) was.res : Nat) : Int) +
                  (List.zipWith (fun (p q : El) => p.q * q.q) ((ra.map TRow.els).getD i []) ((rb.map TRow.els).getD j [])).sum)
                  % (t.moduli.mods.getD ch 1 : Nat))) ∧
          (bBFmt b ≠ 5 → blockStatus s.regs.featAccept t.moduli x b [] ≠ 0 → (r.acc core o.slot).valid = false ∧
            (r.core core).tileQ = startedQ { o with running := true, code := blockStatus s.regs.featAccept t.moduli x b [], fault := none }
              (s.core core).tileQ) ∧
          (∀ s1 code fault, bBFmt b ≠ 5 → blockStatus s.regs.featAccept t.moduli x b [] = 0 →
            fetchRows t b [] (operandA b) ((t.handle o.entry).seq * 256 + o.entry) (List.range 64) s = (s1, .error (code, fault)) →
            (∀ f, fault = some f → f.2 ≠ cAWAY) → (s1.team? o.tid).isSome = true →
            let y := if bAccum b then x else Acc.empty
            let started := if bAccum b = true ∧ x.ktot ≠ 0 then x else { y with m := fieldN b 8 1, n := fieldN b 9 1, raw := bRaw b, signed := bSigned b }
            r.acc core o.slot = { started with statid := bCtl b / 2 ^ 24 % 64, valid := false } ∧
            (r.core core).tileQ = startedQ { o with running := true, code := code, fault := fault.map fun f => (0, f.1, f.2) } (s1.core core).tileQ)) ∧
      (o.kind = .zero → ∃ r, exec (.tzeroRun core) s = .next r ∧
        r.acc core o.slot = Acc.empty ∧ (r.core core).tileQ = rest ∧ r.mem = s.mem ∧ r.localMem = s.localMem) ∧
      (∀ p ch i j, o.kind = .inject p ch i j → (accOwner s core o.slot).isSome = true → ∃ r, exec (.ctnInjectionRun core) s = .next r ∧
        (r.core core).tileQ = rest ∧
        ∀ k, NMap.get 0 k (r.acc core o.slot).res =
          if k = ch * 4096 + i * 64 + j then Nat.xor (NMap.get 0 k x.res) p % 4096 else NMap.get 0 k x.res) ∧
      (∀ form rec, o.kind = .drain form rec → o.fault = none → (∀ q ∈ (s.core core).tileQ, q.running = true → q.isDrain = false) →
        let size := drainSize form
        let fb := if form = 1 then 7 else 23
        let at_ := fun (i j : Nat) => fieldN rec 0 8 + i * fieldN rec 8 4 + j * size
        let found := fun (i j : Nat) => reconstruct t.moduli (x.legit t.moduli) (erasedChans s t.moduli) (x.elem t.moduli i j)
        let inside := fun (i j : Nat) => i < x.m ∧ j < x.n
        let fp := fun (i j : Nat) (v : Int) (y : Option Nat) => (drainFp fb (NMap.get 0 (i * 64 + j) x.flags) (x.scaled i j v) y).1
        let ran := fun (r : State) (code : Nat) =>
          exec (.drainRun core) s = .next r ∧ (r.core core).tileQ = startedQ { o with running := true, code := code } (s.core core).tileQ ∧
          r.mem = s.mem
        (drainStatus x form rec ≠ 0 → exec (.drainRun core) s = .next (s.modCore core fun y =>
          { y with tileQ := startedQ { o with running := true, code := drainStatus x form rec } y.tileQ })) ∧
        (drainStatus x form rec = 0 → (∃ i j m, inside i j ∧ found i j = .ue m) → ∃ r, ran r 13 ∧
          r.acc core o.slot = { x with valid := false } ∧ r.stores = s.stores ∧ r.localMem = s.localMem) ∧
        (∀ v : Nat → Nat → Int, drainStatus x form rec = 0 → x.m ≤ 64 → x.n ≤ 64 →
          (∀ i j, inside i j → found i j = .good (v i j) ∨ ∃ ch, found i j = .fixed (v i j) ch) →
          let kept := fun (r : State) => (r.acc core o.slot).valid = true ∧
            ((∀ i j, inside i j → found i j = .good (v i j)) → (r.acc core o.slot).res = x.res) ∧
            ∀ i j ch, inside i j → found i j = .fixed (v i j) ch →
              ((NMap.get 0 (ch * 4096 + i * 64 + j) (r.acc core o.slot).res : Nat) : Int) = v i j % ((t.moduli.mods.getD ch 1 : Nat) : Int)
          (rLocal rec = false → form ≠ 2 → form < 5 → (∀ g ∈ s.regions, g.asid ≠ t.asid.toNat) → ∃ r, ran r o.code ∧ kept r ∧
            r.localMem = s.localMem ∧ r.stores.take s.stores.length = s.stores ∧
            (r.stores.drop s.stores.length).map (fun st => (st.agent, st.agentId, st.asid, st.va, st.data)) =
              ((List.range x.m).flatMap fun i => (List.range x.n).flatMap fun j =>
                if form = 3 then [(3, drainId o, t.asid.toNat, at_ i j, natLe 8 (BitVec.ofInt 64 (v i j)).toNat)]
                else if form = 4 then (List.range t.moduli.count).map fun ch =>
                  (3, drainId o, t.asid.toNat, at_ i j + ch * fieldN rec 16 4, natLe 2 (v i j % ((t.moduli.mods.getD ch 1 : Nat) : Int)).toNat)
                else [(3, drainId o, t.asid.toNat, at_ i j, natLe size (fp i j (v i j) none))])) ∧
          (∀ p : Nat → Nat → LPlace, rLocal rec = true → form < 4 →
            (∀ i j, inside i j → localPlace s t (at_ i j) size 1 = .ok (p i j) ∧ stashAt s (p i j) = none ∧ localBad s (p i j) = false) →
            let key := fun (i j : Nat) => localKey (p i j).core (p i j).phys
            (∀ i j i' j', inside i j → inside i' j' → (i, j) ≠ (i', j') → key i j + size ≤ key i' j' ∨ key i' j' + size ≤ key i j) →
            ∃ r, ran r o.code ∧ kept r ∧ r.stores = s.stores ∧
              (∀ i j, inside i j → (List.range size).map (fun k => NMap.get 0 (key i j + k) r.localMem) =
                natLe size (if form = 3 then (BitVec.ofInt 64 (v i j)).toNat
                  else fp i j (v i j) (if form = 2 then some (leNat (s.localN (p i j).core (p i j).phys 4)) else none))) ∧
              ∀ k, (∀ i j, inside i j → k < key i j ∨ key i j + size ≤ k) → NMap.get 0 k r.localMem = NMap.get 0 k s.localMem)))) ∧
    ((s.core core).tileQ.find? (fun q => q.running && q.isTile) = some o → o.fault = none →
      ∃ r, exec (.tileOperationComplete core) s = .next r ∧ (r.core core).tileQ = dropFirst (fun q => q == o) (s.core core).tileQ ∧
        (o.entry < 32 → (r.team? o.tid).map (fun x => x.handle o.entry) = some ⟨(t.handle o.entry).seq, o.code, false, s.doneClock⟩) ∧ r.mem = s.mem) ∧
    ((s.core core).tileQ.find? (fun q => q.running && q.isDrain) = some o →
      (agentBusy s 3 (drainId o) = true → exec (.drainComplete core) s = .next s) ∧
      (agentBusy s 3 (drainId o) = false → o.fault = none → (∀ z ∈ s.fails, z.agent = 3 → z.id ≠ drainId o) →
        ∃ r, exec (.drainComplete core) s = .next r ∧ (r.core core).tileQ = dropFirst (fun q => q == o) (s.core core).tileQ ∧
          (o.entry < 32 → (r.team? o.tid).map (fun x => x.handle o.entry) = some ⟨(t.handle o.entry).seq, o.code, false, s.doneClock⟩) ∧ r.mem = s.mem) ∧
      (agentBusy s 3 (drainId o) = false → o.fault = none → o.entry < 32 → (∃ z ∈ s.fails, z.agent = 3 ∧ z.id = drainId o) →
        ∃ r, exec (.drainComplete core) s = .next r ∧ (r.core core).tileQ = dropFirst (fun q => q == o) (s.core core).tileQ ∧
          (r.team? o.tid).map (fun x => x.handle o.entry) = some ⟨(t.handle o.entry).seq, 11, false, s.doneClock⟩ ∧
          (r.acc core o.slot).valid = false ∧ (∀ z ∈ r.fails, z.agent = 3 → z.id ≠ drainId o) ∧ r.mem = s.mem)) ∧
    (∀ (feat : DWord) (b tsr : List Byte),
      (blockOk feat b = true ↔ BlockGood feat b) ∧
      (shapeOk b tsr = true ↔ (recBits b 0 4 18 16 = 5 → ShapeGood (recBits b 0 4 9 9 = 1) tsr)) ∧
      ∀ (m : Moduli) (x : Acc),
        let good := BlockGood feat b ∧ (recBits b 0 4 18 16 = 5 → ShapeGood (recBits b 0 4 9 9 = 1) tsr)
        let accum := recBits b 0 4 23 23 = 1
        let sb := recBits b 0 4 20 20 = 0
        let k := fieldN b 4 2
        let k0 := fieldN b 0x10 4
        let inside := fun (len : Nat) => len % k = 0 ∧ k0 / len = (k0 + k - 1) / len
        let differs := accum ∧ 0 < x.ktot ∧ (x.m ≠ fieldN b 8 1 ∨ x.n ≠ fieldN b 9 1 ∨ x.raw = decide sb ∨
          x.signed ≠ decide (recBits b 0 4 19 19 = 1))
        let sum := (if accum then x.ktot else 0) + k
        let status := blockStatus feat m x b tsr
        (¬good → status = 3) ∧ (good → accum → x.valid = false → status = 10) ∧
        (good → (accum → x.valid = true) → (differs → status = 3) ∧ (¬differs →
          (sb → ¬(inside (fieldN b 0x14 2) ∧ (recBits b 0 4 18 16 = 5 ∨ inside (fieldN b 0x16 2))) → status = 2) ∧
          (sb → inside (fieldN b 0x14 2) → recBits b 0 4 18 16 = 5 ∨ inside (fieldN b 0x16 2) →
            status = if m.prod < 2 * 2047 ^ 2 * sum + 1 then 9 else 0) ∧
          (¬sb → status = 0)))) ∧
    (∀ (fb : Nat) (v : Dy) (y : Nat), drainFp fb 0 v none = (roundDy fb .rne false v, false) ∧
      (fpIsNan fb y = false → fpIsInf fb y = false → drainFp fb 0 v (some y) = (roundDy fb .rne false (Dy.add (fpDy fb y) v), false)) ∧
      drainFp fb 1 v none = (fpCanon fb, false) ∧ drainFp fb 6 v none = (fpCanon fb, true) ∧
      drainFp fb 2 v none = (fpInf fb false, false) ∧ drainFp fb 4 v none = (fpInf fb true, false))

/-- R224 to R227, R259 to R262: MODSET reads its descriptor once, takes a valid one, as `ModuliGood` says, and empties the team's slots, gives 1 for
another; its forms read the set and restore the default; CTNRD reads the containment register, its clearing form zeroes it, its injecting form
queues a flip. -/
def Obligations.ResidueSystem : Prop :=
  (∀ d : List Byte, (ModuliGood d → parseModuli d =
      some ⟨fieldN d 0 1, fieldN d 1 1, (List.range (fieldN d 0 1 + fieldN d 1 1)).map fun i => fieldN d (8 + 2 * i) 2, []⟩) ∧
    (¬ModuliGood d → parseModuli d = none)) ∧
  ∀ (s : State) (c : Ctx) (f : UniR),
    let a := (c.sReg f.a).toNat
    let gives := fun (i : Instr) (t : State) (v : Nat) => exec i s = .next (Falls c t fun g => g.setS f.d.toNat (BitVec.ofNat 64 v))
    let ctn := BitVec.toNat ((s.core c.core).ctn ||| if s.erasedDie.isSome then 16 else 0)
    (Runs { cc := true } f.g s c →
      (a % 64 ≠ 0 → exec (.modset f) s = trapAllMem c s 4 a) ∧
      (a % 64 = 0 → ∀ (s1 : State) (d : List Byte), ((∀ bs, c.u.wait ≠ .queued bs) ∧ readRecord 8 s c (lowestLane c.active) a = (s1, .ok d) ∨
            c.u.wait = .queued d ∧ s1 = s) →
        (parseModuli d = none → gives (.modset f) s1 1) ∧
        (∀ m, parseModuli d = some m → teamTiles s1 c.t = false → gives (.modset f) (takeModuli s1 c.t m) 0) ∧
        (∀ m, parseModuli d = some m → teamTiles s1 c.t = true → exec (.modset f) s = .next (c.setSub s1 { c.u with wait := .queued d }))) ∧
      (teamTiles s c.t = false → gives (.modsetDefault f) (takeModuli s c.t Moduli.default) 0 ∧
        ((takeModuli s c.t Moduli.default).team? c.t.tid).map (fun x => (x.moduli.p, x.moduli.q, x.moduli.mods)) =
          (s.team? c.t.tid).map (fun _ => (4, 2, [4073, 4079, 4091, 4093, 4094, 4095])) ∧
        ∀ i, i < 4 → c.t.acc.getLsbD i = true → (takeModuli s c.t Moduli.default).acc c.core i = Acc.empty) ∧
      gives (.modsetRead f) s (let m := c.t.moduli
        let n := a % 16
        if n ≤ 5 then (if n < m.p + m.q then m.mods.getD n 0 else 0)
        else if n = 8 then m.p + m.q * 8 + (match s.erasedDie with | some d => 2 ^ (8 + d) | none => 0) else 0) ∧
      gives (.ctnrd f) s ctn) ∧
    (Runs { cc := true, priv := true } f.g s c →
      (∃ t, gives (.ctnrdClr f) t ctn ∧ (t.core c.core).ctn = 0 ∧ t.mem = s.mem) ∧
      (let p := a % 2 ^ 12
       let slot := a / 2 ^ 15 % 4
       let wrong := ∃ t, accOwner s c.core slot = some t ∧ t.moduli.p + t.moduli.q ≤ a / 2 ^ 12 % 8
       (2 ^ 29 ≤ a ∨ p = 0 ∨ wrong → exec (.ctnrdInject f) s = trapAll c s 1) ∧
       (a < 2 ^ 29 → p ≠ 0 → ¬wrong → (s.core c.core).tileQ.length < 16 →
         exec (.ctnrdInject f) s = .next (Falls c (s.modCore c.core fun x => { x with
           tileQ := x.tileQ ++ [⟨.inject p (a / 2 ^ 12 % 8) (a / 2 ^ 17 % 64) (a / 2 ^ 23 % 64), slot, c.t.tid, c.gid, 0, c.u.pc, 32, [], false, 0,
             none, 0, c.t⟩] }) id)))) ∧
    (Issues { cc := true } s c → c.t.priv = false → exec (.ctnrdClr f) s = trapAll c s 2 ∧ exec (.ctnrdInject f) s = trapAll c s 2)

/-- R215 to R217: owning and freeing a bank; CBLD takes KIND and VALID and starts the load, whose end fills the entries, or leaves none valid
where its read fails; CBW and CBR write and read one half of an entry, and wait for a load; a bank of another takes CB_OWNER, an index beyond
VALID INVALID_INDEX. (That the entries are read at the load's end is log entry 88, its wait for the pod 84.) -/
def Obligations.CodebookBanks : Prop :=
  (∀ (s : State) (c : Ctx) (f : UniR), Runs { cc := true, feat := some 1 } f.g s c →
    let gives := fun (i : Instr) (t : State) (v : Nat) => exec i s = .next (Falls c t fun g => g.setS f.d.toNat (BitVec.ofNat 64 v))
    let x := s.bank c.core f.a.toNat
    let valid := (c.sReg f.b).toNat / 256 % 512
    let held := ∃ h ∈ s.held, h.core = c.core ∧ h.seq ≠ c.t.seq ∧ f.a.toNat ∈ h.banks
    (valid = 0 ∨ 256 < valid → gives (.cballoc f) s 3) ∧
    (0 < valid → valid ≤ 256 → x.owner = some c.t.tid → gives (.cballoc f) s 2) ∧
    (0 < valid → valid ≤ 256 → x.owner ≠ some c.t.tid → x.owner.isSome = true ∨ held → gives (.cballoc f) s 1) ∧
    (0 < valid → valid ≤ 256 → x.owner = none → ¬held → gives (.cballoc f)
      (s.setBank c.core f.a.toNat ⟨some c.t.tid, (c.sReg f.b).extractLsb' 0 2, valid, [], [], none⟩) 0) ∧
    (x.owner ≠ some c.t.tid → exec (.cballocFree f) s = trapAll c s 22) ∧
    (bankBusy s c = false → (x.owner = some c.t.tid → exec (.cballocFree f) s = .next (Falls c (s.setBank c.core f.a.toNat Bank.free) id)) ∧
      exec (.cbfence f) s = .next (Falls c s id)) ∧
    (bankBusy s c = true → exec (.cbfence f) s = .next (c.setSub s { c.u with wait := .stall })) ∧
    ∀ k : BitVec 2,
      let y := s.bank c.core f.b.toNat
      let n := (c.sReg f.d).toNat % 512
      let va := (c.sReg f.a).toNat
      (y.owner ≠ some c.t.tid → exec (.cbld f k) s = trapAll c s 22) ∧
      (y.owner = some c.t.tid → n = 0 ∨ 256 < n → exec (.cbld f k) s = trapAll c s 1) ∧
      (y.owner = some c.t.tid → 0 < n → n ≤ 256 → va % 16 ≠ 0 → exec (.cbld f k) s = trapAllMem c s 4 va) ∧
      (y.owner = some c.t.tid → 0 < n → n ≤ 256 → va % 16 = 0 → ∀ s1, firstUnreadable c (lowestLane c.active) n va s = (s1, none) →
        y.load.isSome = true ∨ podRange s1 c.t.asid.toNat va (16 * n) = true ∨ lateClash s1 c (lowestLane c.active) va (16 * n) = true →
        exec (.cbld f k) s = .next (c.setSub s1 { c.u with wait := .stall })) ∧
      (y.owner = some c.t.tid → 0 < n → n ≤ 256 → va % 16 = 0 → y.load = none →
        ∀ s1, firstUnreadable c (lowestLane c.active) n va s = (s1, none) → podRange s1 c.t.asid.toNat va (16 * n) = false →
        lateClash s1 c (lowestLane c.active) va (16 * n) = false →
        exec (.cbld f k) s = .next (Falls c (s1.setBank c.core f.b.toNat
          { y with kind := k, valid := n, load := some (c.t.asid.toNat, va, c.gid, lowestLane c.active) }) id))) ∧
  (∀ (s : State) (core bank asid va gid lane : Nat), (s.bank core bank).load = some (asid, va, gid, lane) →
    let x := s.bank core bank
    let read := readEntries (x.owner.bind s.team?) core asid gid lane x.valid va s
    (podRange s asid va (16 * x.valid) = true → exec (.cbldComplete core bank) s = .next s) ∧
    (podRange s asid va (16 * x.valid) = false →
      (∀ s1 bs, read = (s1, some bs) → ∃ t, exec (.cbldComplete core bank) s = .next t ∧ (t.bank core bank).load = none ∧
        (t.bank core bank).valid = x.valid ∧
        ∀ e, e < x.valid → (t.bank core bank).entry e = BitVec.ofNat 128 (leNat ((bs.drop (16 * e)).take 16))) ∧
      (∀ s1, read = (s1, none) → exec (.cbldComplete core bank) s = .next (s1.setBank core bank { x with valid := 0, load := none })))) ∧
  (∀ (s : State) (c : Ctx) (g : BitVec 4) (d : BitVec 6) (bank : BitVec 3) (e : BitVec 8) (h : BitVec 1), Runs { cc := true, feat := some 1 } g s c →
    let x := s.bank c.core bank.toNat
    (x.owner ≠ some c.t.tid → exec (.cbw g d bank e h) s = trapAll c s 22 ∧ exec (.cbr g d e h bank) s = trapAll c s 22) ∧
    (x.owner = some c.t.tid → x.valid ≤ e.toNat → exec (.cbw g d bank e h) s = trapAll c s 24 ∧ exec (.cbr g d e h bank) s = trapAll c s 24) ∧
    (x.owner = some c.t.tid → e.toNat < x.valid → x.load.isSome = true →
      ∀ i ∈ [Instr.cbw g d bank e h, .cbr g d e h bank], exec i s = .next (c.setSub s { c.u with wait := .stall })) ∧
    (x.owner = some c.t.tid → e.toNat < x.valid → x.load = none →
      (∃ t, exec (.cbw g d bank e h) s = .next (Falls c t id) ∧ t.mem = s.mem ∧
        ∀ n, (t.bank c.core bank.toNat).entry n =
          if n ≠ e.toNat then x.entry n
          else if h = 0 then (x.entry n).extractLsb' 64 64 ++ c.sReg d else c.sReg d ++ (x.entry n).extractLsb' 0 64) ∧
      (x.badEntry e.toNat = false →
        exec (.cbr g d e h bank) s = .next (Falls c s fun g => g.setS d.toNat ((x.entry e.toNat).extractLsb' (64 * h.toNat) 64)))))

/-- R270 to R276, R280: PIN allots the lowest free ways or says why not; UNPIN gives back the highest ones; STASH maps ways at a readable,
unmapped range; its forms write each dirty line back as a store of its 128 bytes without the clean ones, end a mapping or drop its lines; a line
that no ECC corrects, or that a sluice entry locks, traps the lowest active lane first (log entry 99); COLINFO tells the team's parts. -/
def Obligations.WaysAndStash : Prop :=
  ∀ (s : State) (c : Ctx) (f : UniR), Runs {} f.g s c →
    let gives := fun (i : Instr) (t : State) (v : Nat) => exec i s = .next (Falls c t fun g => g.setS f.d.toNat (BitVec.ofNat 64 v))
    let n := (c.sReg f.a).toNat % 16
    let h := c.t.ways.length
    let free := freeWaysFor s c.core c.t.seq
    (n = 0 → gives (.pin f) s 0) ∧
    (0 < n → 14 < h + n → gives (.pin f) s 256) ∧
    (0 < n → h + n ≤ 14 → free.length < n → gives (.pin f) s 512) ∧
    (0 < n → h + n ≤ 14 → n ≤ free.length → waysTooFew s c.core n = true → gives (.pin f) s 768) ∧
    (0 < n → h + n ≤ 14 → n ≤ free.length → waysTooFew s c.core n = false → ∃ t, gives (.pin f) t n ∧
      (t.team? c.t.tid).map Team.ways = some (c.t.ways ++ free.take n) ∧ t.mem = s.mem ∧
      (∀ w ∈ free.take n, ∀ o, o < 0xC000 → t.localByte c.core (0xC000 * w + o) = 0) ∧
      ∀ k, (∀ w ∈ free.take n, k < localKey c.core (0xC000 * w) ∨ localKey c.core (0xC000 * w) + 0xC000 ≤ k) →
        NMap.get 0 k t.localMem = NMap.get 0 k s.localMem) ∧
    (h < n → exec (.unpin f) s = trapAll c s 21) ∧
    (n ≤ h → (∃ i, i < n ∧ mappedWay c.t (h - n + i) = true) → exec (.unpin f) s = trapAll c s 21) ∧
    (n ≤ h → (∀ i, i < n → mappedWay c.t (h - n + i) = false) →
      exec (.unpin f) s = .next (Falls c (s.modTeam c.t.tid fun t => { t with ways := t.ways.take (h - n) }) id)) ∧
    (let ord := (c.sReg f.b).toNat % 16
     let m := (c.sReg f.b).toNat / 16 % 16
     let base := (c.sReg f.a).toNat
     let len := 0xC000 * m
     let legal := m ≠ 0 ∧ ord + m ≤ h ∧ ∀ i, i < m → mappedWay c.t (ord + i) = false
     (¬legal → gives (.stash f) s 1) ∧
     (legal → base % 128 ≠ 0 ∨ 2 ^ 55 < base + len → gives (.stash f) s 2) ∧
     (legal → base % 128 = 0 → base + len ≤ 2 ^ 55 → ∀ s1 b, pagesReadable s c.core c.t.asid.toNat (pagesOf base len) = (s1, b) →
       (b = false → gives (.stash f) s1 3) ∧
       (b = true → (∃ x ∈ c.t.stash, overlap x.base (0xC000 * x.ways) base len = true) → gives (.stash f) s1 4) ∧
       (b = true → (∀ x ∈ c.t.stash, overlap x.base (0xC000 * x.ways) base len = false) → ∃ t, gives (.stash f) t 0 ∧ t.mem = s1.mem ∧
         ((t.team? c.t.tid).map fun x => (x.stash, x.ways)) =
           (s1.team? c.t.tid).map fun x => (x.stash ++ (List.range m).map fun i => ⟨ord + i, 1, base + i * 0xC000⟩, x.ways)))) ∧
    (let ord := n
     let m := (c.sReg f.a).toNat / 16 % 16
     let unmap := fun (s : State) => s.modTeam c.t.tid fun t =>
       { t with stash := t.stash.filter fun x => !(decide (ord ≤ x.ord) && decide (x.ord < ord + m)), stashLines := NMap.clear (ord * 384) (m * 384) t.stashLines }
     (m = 0 ∨ h < ord + m → exec (.stashWb f) s = trapAll c s 21 ∧ exec (.stashUnmap f) s = trapAll c s 21 ∧ exec (.stashDiscard f) s = trapAll c s 21) ∧
     (m ≠ 0 → ord + m ≤ h →
       exec (.stashDiscard f) s = .next (Falls c (s.modTeam c.t.tid fun t => { t with stashLines := NMap.clear (ord * 384) (m * 384) t.stashLines }) id) ∧
       (let lane := lowestLane c.active
        let lines := dirtyLines c.t ord m
        let locked := fun (q : LPlace × Nat × Nat × StashLine) => (dirtyRuns q.2.2.2.dirty).any fun r => sluiceStops s c.t (q.2.2.1 + r.1) r.2 .store
        (∀ q, lines.find? (fun q => localBad s q.1) = some q → ∀ i ∈ [Instr.stashWb f, .stashUnmap f],
          exec i s = .next (trapWith false c (localError s q.1 c.t.asid.toNat) [⟨lane, 19, q.2.2.1, c.u.pc, none, 0⟩] id)) ∧
        (∀ q, (∀ q ∈ lines, localBad s q.1 = false) → lines.find? locked = some q → ∀ i ∈ [Instr.stashWb f, .stashUnmap f],
          exec i s = .next (trapWith false c s [⟨lane, 16, q.2.2.1, c.u.pc, none, 0⟩] id)) ∧
        (∀ e, (lines.map fun q => q.2.1).Nodup → BackReady s c e lines →
          ∃ s1, writeBackAll c lane lines s = (s1, true) ∧ WrittenBack s s1 c lane e lines)) ∧
       ((∀ q ∈ dirtyLines c.t ord m, localBad s q.1 = false ∧
           ∀ r ∈ dirtyRuns q.2.2.2.dirty, sluiceStops s c.t (q.2.2.1 + r.1) r.2 .store = false) →
         ∀ s1, writeBackAll c (lowestLane c.active) (dirtyLines c.t ord m) s = (s1, true) →
         let busy := ∃ st ∈ s1.stores, st.gid = c.gid ∧ st.lane = lowestLane c.active ∧ st.kind = 3
         (busy → ∀ i ∈ [Instr.stashWb f, .stashUnmap f],
           exec i s = .next ((c.refresh s1).setSub s1 { (c.refresh s1).u with wait := .begun })) ∧
         (¬busy → exec (.stashWb f) s = .next (Falls (c.refresh s1) s1 id) ∧ exec (.stashUnmap f) s = .next (Falls (c.refresh s1) (unmap s1) id))))) ∧
    (Runs { cc := true } f.g s c → gives (.colinfo f) s (colinfo s c.t n) ∧
      (n = 0 → colinfo s c.t n = c.t.segs.length * 2 ^ 17 + c.t.ways.length * 2 ^ 13 + c.t.cols.length * 2 ^ 6 + s.colBanks c.core) ∧
      (n = 1 → ∀ i, i < 16 → colinfo s c.t n / 16 ^ i % 16 = if i < 14 then c.t.ways.getD i 0 % 16 else 0) ∧
      (n = 2 → ∀ i, i < 16 → colinfo s c.t n / 16 ^ i % 16 = c.t.segs.getD i 0 % 16) ∧
      (3 ≤ n → n ≤ 6 → ∀ j, j < 8 → colinfo s c.t n / 256 ^ j % 256 = c.t.cols.getD (8 * (n - 3) + j) 0 % 256) ∧
      (n = 7 → colinfo s c.t n < 2 ^ 14 ∧
        ∀ i, i < 14 → ((colinfo s c.t n).testBit i = true ↔ ∃ m ∈ c.t.stash, m.ord ≤ i ∧ i < m.ord + m.ways)) ∧
      (8 ≤ n → colinfo s c.t n = 0))

/-- R301, R319, R325, R342, R343: a fence waits while a load of its fibres, or of a bank that they load, has not performed, or a store that its
scope names is in flight, REMOTE UC and REPLICA ones among them, and the sequentially consistent one until every completion time has passed;
then a fibre with a pending deferred record traps with the oldest, and the other lanes complete the fence; those of scope D and wider
raise the floor of later stores to the largest time returned. -/
def Obligations.Fences : Prop :=
  ∀ (s : State) (c : Ctx) (f : UniR), Runs { waitPt := true } f.g s c →
    let mine := fun (p : Store → Bool) => ∃ st ∈ s.stores, st.agent = 0 ∧ st.gid = c.gid ∧ c.active.getLsbD st.lane = true ∧ p st = true
    let late := (∃ x ∈ c.g.late, ∃ q ∈ x.addrs, c.active.getLsbD q.1 = true) ∨
      ∃ b ∈ (s.core c.core).banks, ∃ asid va l, b.2.load = some (asid, va, c.gid, l) ∧ c.active.getLsbD l = true
    let home := fun (st : Store) => (st.uc || st.red || st.replica || st.peer.isSome) && (st.pending || st.placed.isSome)
    let device := fun (st : Store) => home st || !(st.remote || st.replica)
    let floors := fun (c : Ctx) (t : State) => Falls c t fun g =>
      { g with floor := (List.range 32).map fun l => if c.active.getLsbD l then max (g.floor.getD l 0) (g.times.getD l 0) else g.floor.getD l 0 }
    let passes := ∀ l ∈ lanesOf c.active, c.g.passAt.getD l 0 ≤ s.meridian
    ∀ (i : Instr) (waits : Prop) (done : Ctx → State → State), (i, waits, done) ∈ [
        (Instr.fenceT f, late ∨ mine home, fun c t => Falls c t id),
        (.fenceD f, late ∨ mine device, floors),
        (.fenceP f, late ∨ mine fun _ => true, floors),
        (.fenceSc f, late ∨ (mine fun _ => true) ∨ ¬passes, floors),
        (.fenceAcq f, late, fun c t => Falls c t id),
        (.fenceEng f, late ∨ mine device, fun c t => floors c (t.modTeam c.t.tid fun t => { t with engGen := t.engGen + 1 }))] →
      (waits → exec i s = .next (c.setSub s { c.u with wait := .stall })) ∧
      (¬waits → NoRecords c → exec i s = .next (done c s)) ∧
      (¬waits → ∀ l d, OneRecord s c l d → ∃ s1, Delivered s s1 c l d ∧
        let m := c.active &&& ~~~(1#32 <<< l)
        (m = 0 → exec i s = .next s1) ∧
        (m ≠ 0 → ∀ c1, s1.ctxOf c.gid (lowestLane m) = some c1 → exec i s = .next (done c1 s1)))

/-- R311 to R315: a prefetch changes no register and no store; EVICT1 drops the core's copies of its lines; WBL2 writes a dirty line to its
frame and clears its tag; PLQ tells a page's rights or the cause; PLINV and TLBI, privileged, drop the translations, lines and lookaside
entries they name; TLBI writes a dirty one of those lines to its frame, and waits while a store is held at one (log entry 16). (What a
prefetch fills is log entry 11.) -/
def Obligations.CacheAndTranslationControl : Prop :=
  ∀ (s : State) (c : Ctx) (f : UniR),
    let a := (c.sReg f.a).toNat
    let first := a / 128 % 2 ^ 48
    let len := min ((c.sReg f.b).toNat % 2 ^ 32) 16777216
    let n := if len = 0 then 0 else (a + len - 1) / 128 % 2 ^ 48 + 1 - first
    let asid := c.t.asid.toNat
    (Runs {} f.g s c →
      (∀ i ∈ [Instr.pref1 f, .pref2 f], (n = 0 → exec i s = .next (Falls c s id)) ∧
        ∃ t, exec i s = .next (Falls c t id) ∧ t.groups = s.groups ∧ t.teams = s.teams ∧ t.stores = s.stores ∧ t.localMem = s.localMem) ∧
      exec (.evict1 f) s = .next (Falls c (s.modCore c.core fun x =>
        { x with l1 := x.l1.filter fun z => !(z.asid == asid && decide (first ≤ z.line) && decide (z.line < first + n)) }) id) ∧
      (let hit := fun (x : L2Line) => x.wtag && x.asid == asid && decide (first ≤ x.line) && decide (x.line < first + n)
       (s.l2.filter hit = [] → exec (.wbl2 f) s = .next (Falls c s id)) ∧
       (∀ x, s.l2.filter hit = [x] → x.owner = none → (x.asid, x.line) ∉ s.badL2 → ∃ t, exec (.wbl2 f) s = .next t ∧
         (∀ p, t.peek p = if x.pa ≤ p ∧ p < x.pa + x.data.length ∧ isHbm p = true then x.data.getD (p - x.pa) 0 else s.peek p) ∧
         t.l2 = (s.l2.map fun y => if y.is x.asid x.line then { x with wtag := false } else y))) ∧
      (∀ s1 k, permission s c.core asid a = (s1, .error k) →
        exec (.plq f) s = .next (Falls c s1 fun g => g.setS f.d.toNat (BitVec.ofNat 64 (k * 2 ^ 16)))) ∧
      (∀ s1 e, permission s c.core asid a = (s1, .ok e) →
        let b := fun (x : Bool) (i : Nat) => if x then 2 ^ i else 0
        exec (.plq f) s = .next (Falls c s1 fun g => g.setS f.d.toNat (BitVec.ofNat 64
          (1 + b e.r 1 + b e.w 2 + b e.x 3 + b e.red 4 + b e.replica 5 + b e.uc 6 + b e.cow 7 + b e.remote 8 + (3 - e.level) * 2 ^ 9))))) ∧
    (Issues {} s c → c.t.priv = false → ∀ i ∈ [Instr.plinv f, .tlbi f, .tlbiVa f, .tlbiAll f], exec i s = trapAll c s 2) ∧
    (Runs { priv := true } f.g s c →
      let named := (c.sReg f.b).toNat % 65536
      let mode := (c.sReg f.b).toNat / 65536 % 4
      let drops := fun (p : Tlb → Bool) => exec (.plinv f) s = .next (Falls c (s.modCore c.core fun x => { x with plb := x.plb.filter fun e => !p e }) id)
      (mode = 0 → drops fun e => e.hits named a) ∧ (mode = 1 → drops fun e => e.asid == named) ∧ (mode = 2 → drops fun _ => true) ∧
      (mode = 3 → exec (.plinv f) s = trapAll c s 1) ∧
      let clears := fun (i : Instr) (page : Tlb → Bool) (line : Nat → Nat → Bool) =>
        (heldOn s line = true → exec i s = .next (c.setSub s { c.u with wait := .stall })) ∧
        (heldOn s line = false → ∃ t, exec i s = .next (Falls c t id) ∧ t.tlb = s.tlb.filter (fun e => !page e) ∧
          (∀ x ∈ t.l2, line x.asid x.line = false) ∧ t.groups = s.groups ∧
          ((∀ x ∈ s.l2, line x.asid x.line = true → x.wtag = false) → t.mem = s.mem) ∧
          (∀ x, s.l2.filter (fun x => line x.asid x.line) = [x] → x.owner = none → (x.asid, x.line) ∉ s.badL2 →
            ∀ p, t.peek p = if x.wtag = true ∧ x.pa ≤ p ∧ p < x.pa + x.data.length ∧ isHbm p = true then x.data.getD (p - x.pa) 0 else s.peek p) ∧
          ∀ k, (∀ e ∈ (t.core k).plb, page e = false) ∧ ∀ z ∈ (t.core k).l1, line z.asid z.line = false)
      clears (.tlbi f) (fun e => e.asid == a % 65536) (fun x _ => x == a % 65536) ∧
      clears (.tlbiVa f) (fun e => e.hits named a) (fun x l => x == named && coveredBy s named a l) ∧
      clears (.tlbiAll f) (fun _ => true) fun _ _ => true)

/-- R293, R296, R323, R324: a walk of the device puts its entry into the lookaside of the core it is for; a fill goes as a load's would, and
not for a UC or RED page; a line whose lease has ended leaves the core. (That the entry that came first leaves a full lookaside is log entry
15.) -/
def Obligations.WalksAndFills : Prop :=
  ∀ (s : State) (core asid : Nat) (va : DWord),
    (2 ^ 55 ≤ va.toNat → exec (.pageTableWalk core asid va) s = .next s) ∧
    (∀ s1 k, va.toNat < 2 ^ 55 → (s.core core).plb.find? (fun e => e.hits asid va.toNat) = none → translate s asid va.toNat = (s1, .error k) →
      exec (.pageTableWalk core asid va) s = .next s1) ∧
    (∀ s1 e, va.toNat < 2 ^ 55 → translate s asid va.toNat = (s1, .ok e) →
      (272 ≤ core → exec (.pageTableWalk core asid va) s = .next s1) ∧
      (core < 272 → (s.core core).plb.find? (fun e => e.hits asid va.toNat) = none →
        exec (.pageTableWalk core asid va) s = .next (s1.modCore core fun x => { x with plb := (e :: x.plb).take 1024 }))) ∧
    (∀ s1 k, translate s asid va.toNat = (s1, .error k) → exec (.lineFill core asid va) s = .next s1) ∧
    (∀ s1 e, translate s asid va.toNat = (s1, .ok e) →
      (e.uc = true ∨ e.red = true ∨ e.r = false → exec (.lineFill core asid va) s = .next s1) ∧
      (e.uc = false → e.red = false → e.r = true → e.remote = false →
        exec (.lineFill core asid va) s = .next (coreLine s1 core asid (va.toNat / 128)).1 ∧
        ∀ x, s1.l2? asid (va.toNat / 128) = some x → x.owner = none → lineBad s1 x = none → s1.meridian < leaseEnd s1 x →
          (s1.core core).l1.find? (fun z => z.asid == asid && z.line == va.toNat / 128 && decide (s1.meridian < z.lease)) = none →
          ((coreLine s1 core asid (va.toNat / 128)).1.core core).l1.head?.map (fun z => (z.asid, z.line, z.data, z.lease)) =
            some (asid, va.toNat / 128, x.data, leaseEnd s1 x))) ∧
    exec (.leaseExpiry core asid va) s = .next (s.modCore core fun x =>
      { x with l1 := x.l1.filter fun z => !(z.asid == asid && z.line == va.toNat / 128 && decide (z.lease ≤ s.meridian)) })

/-- R284, R298, R299, R301, R320, R324, R325, R333, R388, R444: the life of a retired store: at L2 it is held at its home, its line dirty and the
page's D set, or fails by the page's rights or at the owner, and waits for the pod's time where the page is of another device; held and due it
is applied to its line, once that has a write tag, and to the frame of a REMOTE or a UC page; applied, its time returns to
its fibre, after those of earlier stores to its bytes (log entry 128); failed, its fibre has a pending deferred record, which a wait point delivers.
Stores to a peer core, to a replica page, which every replica applies first in the order of the sequence (log entry 106), and to a reduction page
end by their own steps. -/
def Obligations.StoreLife : Prop :=
  ∀ (s : State) (st : Store), s.store? st.id = some st →
    let line := st.va / 128
    let put := fun (s : State) (x : Store) => { s with stores := s.stores.map fun y => if y.id == st.id then x else y }
    (st.stage = .retired → st.peer = none → (∀ x, s.l2? st.asid line = some x → x.wtag = false ∨ x.owner.isSome = true) →
      (∀ s1 k, translate s st.asid st.va = (s1, .error k) → exec (.storeAtL2 st.id) s = .next (put s1 { st with stage := .failed k })) ∧
      (∀ s1 e, translate s st.asid st.va = (s1, .ok e) → (∀ q ∈ s1.podFaults, e.owner ≠ some q.1) → e.remote = true ∨ e.replica = true →
        s1.regs.merLocked = false → exec (.storeAtL2 st.id) s = .next s1) ∧
      (∀ s1 e, translate s st.asid st.va = (s1, .ok e) → (∀ q ∈ s1.podFaults, e.owner ≠ some q.1) →
        (e.remote = true ∨ e.replica = true → s1.regs.merLocked = true) →
        let z := { st with uc := e.uc, red := e.red, replica := e.replica, remote := e.remote }
        (e.w = false → exec (.storeAtL2 st.id) s = .next (put s1 { z with stage := .failed (if e.cow then 8 else 7) })) ∧
        (e.w = true → e.red = true ∨ e.uc = true →
          exec (.storeAtL2 st.id) s = .next (put s1 { z with stage := .held (max s1.meridian st.floor) })) ∧
        (e.w = true → e.red = false → e.uc = false → ∀ s2 x, dirtyLine s1 st.asid line = (s2, .ok x) →
          exec (.storeAtL2 st.id) s = .next (put s2 { z with stage := .held (applyBound s2 x st.floor) }) ∧
          x.wtag = true ∧ s2.l2? st.asid line = some x ∧ (e.pte + 16 ≤ 0x5F80000000 → (s2.peekLe e.pte 8).testBit 11 = true))) ∧
      (∀ s1 e q, translate s st.asid st.va = (s1, .ok e) → s1.podFaults.find? (fun q => e.owner == some q.1 && e.pa st.va / 2 ^ 19 == q.2.1) = some q →
        exec (.storeAtL2 st.id) s = .next (put s1 { st with stage := .failed q.2.2 }))) ∧
    (∀ x, st.stage = .retired → st.peer = none → s.l2? st.asid line = some x → x.wtag = true → x.owner = none →
      exec (.storeAtL2 st.id) s = .next (put s { st with
        stage := .held (max s.meridian st.floor), uc := false, red := false, replica := x.replica })) ∧
    (∀ at_ x, st.stage = .held at_ → at_ ≤ s.meridian → st.red = false → st.uc = false → st.remote = false → blockedBy s st = false →
      s.l2? st.asid line = some x → x.owner = none → snapLive s x = false →
      let i : Instr := if st.replica then .replicaStore st.id else .storeApplication st.id
      (st.replica = true → s.regs.merLocked = true) →
      (x.wtag = false → exec i s = .next (put s { st with stage := .retired })) ∧
      (x.wtag = true → s.meridian < applyBound s x st.floor → exec i s = .next (put s { st with stage := .held (applyBound s x st.floor) })) ∧
      (x.wtag = true → applyBound s x st.floor ≤ s.meridian → st.skip = [] → ∃ t, exec i s = .next t ∧
        t.l2? st.asid line = some { x with
          data := mergeLine x.data (st.va % 128) st.data, cap := 0, last := s.meridian
          stored := x.stored ||| byteMask (st.va % 128) st.data.length [] } ∧
        t.stores = (s.stores.map fun y => if y.id == st.id then { st with stage := if st.replica then .sequenced s.meridian else .applied s.meridian } else y) ∧
        t.out = s.out ++ (if st.replica then [.replica st.asid st.va st.data [] st.id] else []) ∧ t.mem = s.mem ∧ t.groups = s.groups)) ∧
    (∀ at_ x d s1 e, st.stage = .held at_ → at_ ≤ s.meridian → st.red = false → st.uc = false → st.replica = false → st.remote = true →
      (s.regs.merLocked = false → exec (.storeApplication st.id) s = .next s) ∧
      (s.regs.merLocked = true → blockedBy s st = false → s.l2? st.asid line = some x → x.owner = some d → snapLive s x = false → x.wtag = true →
        applyBound s x st.floor ≤ s.meridian → st.skip = [] → translate s st.asid st.va = (s1, .ok e) → ∃ t,
        exec (.storeApplication st.id) s = .next t ∧ (t.l2? st.asid line).map L2Line.data = some (mergeLine x.data (st.va % 128) st.data) ∧
        (∀ i, i < st.data.length → t.framePeek (some d) (x.pa + st.va % 128 + i) = st.data.getD i 0) ∧
        t.stores = (s.stores.map fun y => if y.id == st.id then { st with stage := .applied s.meridian } else y) ∧ t.groups = s.groups)) ∧
    (∀ at_ s1 e, st.stage = .held at_ → at_ ≤ s.meridian → st.red = false → st.uc = true → st.remote = false → st.replica = false →
      blockedBy s st = false → st.skip = [] → translate s st.asid st.va = (s1, .ok e) → e.uc = true → e.remote = false →
      (e.w = false → exec (.storeApplication st.id) s = .next (put s1 { st with stage := .failed (if e.cow then 8 else 7) })) ∧
      (e.w = true → snapNeeds s1 (frameLine s1 e st.va) = false → ∃ t, exec (.storeApplication st.id) s = .next t ∧
        (∀ i, i < st.data.length → isHbm (e.pa st.va + i) = true → t.peek (e.pa st.va + i) = st.data.getD i 0) ∧ t.l2 = s1.l2 ∧
        t.stores = (s1.stores.map fun y => if y.id == st.id then { st with stage := .applied s.meridian } else y) ∧ t.groups = s1.groups)) ∧
    (∀ at_, st.stage = .sequenced at_ → s.regs.merLocked = true → s.portsDown ≠ BitVec.allOnes 16 → ∀ q : InboundReq, q.kind = 8 → q.len = st.id →
      (∀ y ∈ s.stores, y.id = st.id → y = st) →
      -- a store to its bytes that the sequence placed before it, and that other replicas have not all applied
      let behind := ∃ y ∈ s.stores, y.id ≠ st.id ∧ y.asid = st.asid ∧ overlap y.va y.data.length st.va st.data.length = true ∧
        ∃ b, y.stage = .sequenced b ∧ (b < at_ ∨ b = at_ ∧ y.id < st.id)
      (behind → exec (.inboundFabricRequest q) s = .next s) ∧
      (¬behind → exec (.inboundFabricRequest q) s = .next (put s { st with stage := .applied s.meridian }))) ∧
    (∀ n, st.stage = .applied n → returnsAfter s st = true → exec (.storeTimeReturn st.id) s = .next s) ∧
    (∀ n, st.stage = .applied n → st.agent = 0 → returnsAfter s st = false → ∃ t, exec (.storeTimeReturn st.id) s = .next t ∧
      t.stores = s.stores.filter (fun y => y.id != st.id) ∧ t.mem = s.mem ∧
      ∀ g, s.group? st.gid = some g → t.group? st.gid = some { g with
        times := g.times.set st.lane (max (g.times.getD st.lane 0) n)
        passAt := g.passAt.set st.lane (max (g.passAt.getD st.lane 0) (n + if st.remote then 80 else 4)) }) ∧
    (∀ k, st.stage = .failed k → st.agent = 0 → ∃ t, exec (.storeFailureReturn st.id) s = .next t ∧
      t.stores = s.stores.filter (fun y => y.id != st.id) ∧ t.mem = s.mem ∧
      let d : Defer := ⟨st.va, st.pc, st.asid, st.tslot, st.gslot, st.lane, k, st.data.length, st.kind, 0, s.meridian, st.id, st.issue⟩
      ∀ g, s.group? st.gid = some g → t.group? st.gid = some { g with defer := insertDefer d g.defer }) ∧
    (∀ core off tag kind part o, st.stage = .retired → st.peer = some (core, off, tag) → blockedBy s st = false → splitOffset off = some (kind, part, o) →
      (s.tagOf core kind part ≠ tag → exec (.peerStorePerform st.id) s = .next (put s { st with stage := .failed 18 })) ∧
      (s.tagOf core kind part = tag → stashAt s ⟨core, kind, part, o⟩ = none → ∃ t, exec (.peerStorePerform st.id) s = .next t ∧
        t.stores = (s.stores.map fun y => if y.id == st.id then { st with stage := .applied s.meridian } else y) ∧
        (∀ i, i < st.data.length → t.localByte core (off + i) = st.data.getD i 0) ∧
        (∀ k, k < localKey core off ∨ localKey core off + st.data.length ≤ k → NMap.get 0 k t.localMem = NMap.get 0 k s.localMem) ∧ t.mem = s.mem)) ∧
    (∀ at_, st.stage = .held at_ → at_ ≤ s.meridian → st.red = true → blockedBy s st = false →
      (∀ x ∈ s.colls, boundTo x st = false) → exec (.redContribution st.id) s = .next (put s { st with stage := .failed 12 })) ∧
    (∀ at_ x els, st.stage = .held at_ → at_ ≤ s.meridian → st.red = true → blockedBy s st = false → s.colls = [x] → boundTo x st = true →
      contributed x st = some els → st.skip = [] → ∃ t, exec (.redContribution st.id) s = .next t ∧
        t.stores = (s.stores.map fun y => if y.id == st.id then { st with stage := .applied s.meridian } else y) ∧ t.mem = s.mem ∧
        ∃ y, t.colls = [y] ∧ (∀ i, i < st.data.length → NMap.get 0 (st.va - kSrc x.record + i) y.given = st.data.getD i 0) ∧
          ∀ e, NMap.get false e y.took = (NMap.get false e x.took || els.contains e)) ∧
    -- what a failed store left is delivered where its fibre waits
    (∀ (c : Ctx) (f : UniR) (d : Defer), Runs { waitPt := true } f.g s c → c.active = 1#32 <<< st.lane → OneRecord s c st.lane d →
      ∃ t, Delivered s t c st.lane d ∧ ∀ i ∈ [Instr.bar f, .arrwait f, .await f, .rejoin f], exec i s = .next t)

/-! ### Engines -/

/-- R335, R356, R360, R361: SLUICE registers a range for the team and gives a token, or says that the range is bad, that the team's table is
full, or that another team holds it; it waits for an engine's range; SLUICE.unlock gives back the named entry. -/
def Obligations.Sluices : Prop :=
  ∀ (s : State) (c : Ctx) (f : UniR), Runs {} f.g s c →
    let base := (c.sReg f.a).toNat
    let len := (c.sReg f.b).toNat % 2 ^ 32
    let cl := clusterOf c.core
    let meets := fun (own : Bool) => ∃ e ∈ s.sluice, e.team.isSome = own ∧ e.team ≠ some c.t.tid ∧ e.asid = c.t.asid ∧
      ∃ r ∈ e.ranges, r.cryst = false ∧ 0 < r.len ∧ base < r.base + r.len ∧ r.base < base + len
    let mine := (s.sluice.filter fun e => e.team == some c.t.tid).length
    (∀ i m, (i, m) ∈ [(Instr.sluiceWrite f, 0), (.sluiceExcl f, 1), (.sluiceSnap f, 2)] →
      let gives := fun (t : State) (v : Nat) => exec i s = .next (Falls c t fun g => g.setS f.d.toNat (BitVec.ofNat 64 v))
      (len = 0 ∨ 2 ^ 55 < base + len → gives s 2) ∧
      (0 < len → base + len ≤ 2 ^ 55 →
        (8 ≤ mine → gives s 3) ∧
        (mine < 8 → meets true → gives s 1) ∧
        (mine < 8 → ¬meets true → meets false → exec i s = .next (c.setSub s { c.u with wait := .stall })) ∧
        (mine < 8 → ¬meets true → ¬meets false → freeSluice s cl = none → exec i s = .next (c.setSub s { c.u with wait := .stall })) ∧
        (mine < 8 → ¬meets true → ¬meets false → ∀ k, freeSluice s cl = some k →
          gives { s with
              sluice := s.sluice ++ [⟨cl, k, s.sluiceSeq, c.t.asid, [⟨base, len, m, false, false, false⟩], some c.t.tid, 0, s.meridian⟩]
              sluiceSeq := s.sluiceSeq + 1 }
            (2 ^ 63 + s.sluiceSeq % 2 ^ 47 * 2 ^ 16 + cl * 2 ^ 8 + k)))) ∧
    ∃ t, exec (.sluiceUnlock f) s = .next (Falls c t id) ∧ t.mem = s.mem ∧
      t.sluice = s.sluice.filter fun e =>
        !(e.team == some c.t.tid && base == 2 ^ 63 + e.seq % 2 ^ 47 * 2 ^ 16 + e.cluster * 2 ^ 8 + e.entry)

/-- R345 to R355, R359, R422: COPY queues a good record, as `CopyGood` says (log entry 14), on the engine of its cluster with fewer queued records
and gives its handle, completes a bad one at once with status 2, and waits with its record for an entry; the engine's oldest operation starts and
moves its rows, each kind its own bytes and stopping at the first failure, and completes with its status; CWAIT tells it. -/
def Obligations.CopyEngines : Prop :=
  (∀ (s : State) (c : Ctx) (f : UniR) (i : Instr) (kind : Nat),
    (i, kind) ∈ [(Instr.copyPlain f, 0), (.copySb12 f, 1), (.copyRp16 f, 2), (.copyBf16 f, 3), (.copyGather f, 4), (.copyDrain f, 5)] →
    Runs {} f.g s c →
    let va := (c.sReg f.a).toNat
    (va % 64 ≠ 0 → exec i s = trapAllMem c s 4 va) ∧
    (va % 64 = 0 → pendingStores s c.gid c.active true = false → ∀ (s1 : State) (r : List Byte), Reads 8 s c va s1 r →
      let fewer := fun (k : Nat) => (s1.copies.filter fun o => o.unit_ == 2 * clusterOf c.core + k).length
      let u := 2 * clusterOf c.core + if fewer 1 < fewer 0 then 1 else 0
      let seq := nextSeqOf s1.copySeq u
      (takeTicket (s1.copyTicket u) 64 = none → copyOk kind r = false → exec i s = .next (c.setSub s1 { c.u with wait := .queued r })) ∧
      ∀ e, takeTicket (s1.copyTicket u) 64 = some e →
        (copyOk kind r = false → ∃ t, exec i s = .next (Falls c t fun g => g.setS f.d.toNat (BitVec.ofNat 64 (copyHandle u e seq))) ∧
          t.copyTicket u e = ⟨seq, c.t.asid, 2, true, s1.doneClock⟩ ∧ t.copies = s1.copies ∧ t.mem = s1.mem) ∧
        (copyOk kind r = true →
          let rs := copyRanges kind r c.t.moduli.count
          (∀ x ∈ rs, x.written = true → x.cryst = false → intoTemplate s1 c.t x.base x.len = false) → lockedBy s1 c.t.tid c.t.asid rs = none →
          ∀ k, freeSluice s1 (clusterOf c.core) = some k →
            ∃ t o, exec i s = .next (Falls c t fun g => g.setS f.d.toNat (BitVec.ofNat 64 (copyHandle u e seq))) ∧
              t.copyTicket u e = ⟨seq, c.t.asid, 1, false, 0⟩ ∧ t.copies = s1.copies ++ [o] ∧
              (o.unit_, o.entry, o.seq, o.kind, o.record, o.asid, o.running, o.code) = (u, e, seq, kind, r, c.t.asid, false, 0) ∧
              t.sluice = s1.sluice ++ [⟨clusterOf c.core, k, s1.sluiceSeq, c.t.asid, rs, none, o.order, s1.meridian⟩] ∧ t.mem = s1.mem))) ∧
  (∀ (s : State) (o : CopyOp), s.copies.find? (fun x => x.unit_ == o.unit_) = some o →
    (o.running = true ∨ heldBack s o.order = true ∨ awaitsPod s o.order = true ∨ olderWork s o.tid o.gen = true →
      exec (.copyOperationStart o.unit_) s = .next s) ∧
    (o.running = false → heldBack s o.order = false → awaitsPod s o.order = false → olderWork s o.tid o.gen = false →
      let z := runCopy s { o with running := true }
      (z.2.code = 3 ∧ z.2.cause = cAWAY → exec (.copyOperationStart o.unit_) s = .next s) ∧
      (¬(z.2.code = 3 ∧ z.2.cause = cAWAY) → exec (.copyOperationStart o.unit_) s =
        .next (readAll { z.1 with copies := z.1.copies.map fun x => if x.order == z.2.order then z.2 else x } z.2.order))) ∧
    (o.running = false ∨ agentBusy s 1 o.order = true ∨ s.meridian < o.waitTo → exec (.copyOperationComplete o.unit_) s = .next s) ∧
    (o.running = true → agentBusy s 1 o.order = false → o.waitTo ≤ s.meridian → (∀ x ∈ s.fails, x.agent = 1 → x.id ≠ o.order) →
      ∃ t, exec (.copyOperationComplete o.unit_) s = .next t ∧ t.copies = s.copies.filter (fun x => x.order != o.order) ∧
        (∀ x ∈ t.sluice, x.team = none → x.order ≠ o.order) ∧ t.mem = s.mem ∧
        t.copyTicket o.unit_ o.entry = { s.copyTicket o.unit_ o.entry with
          done := true, doneAt := s.doneClock
          status := o.bytes % 2 ^ 40 * 2 ^ 24 + if o.cancelled then 5 else if o.code ≠ 0 then o.cause * 2 ^ 16 + o.code else 0 })) ∧
  (∀ (kind : Nat) (r : List Byte), kind < 6 → (copyOk kind r = true ↔ CopyGood kind r)) ∧
  -- the rows of an operation
  (∀ (s : State) (o : CopyOp),
    let r := o.record
    let rows := List.range (qRows r)
    (o.kind ≠ 4 → runCopy s o = rows.foldl (copyRow []) (s, o)) ∧
    (o.kind = 4 → o.code = 0 → ∀ s1 idx, copyRead o (qSlocal r) (qSmode r == 2) s (qAux r) (4 * qRows r) = (s1, .ok idx) →
      let outside := ∃ i ∈ rows, qXstr r < fieldN idx (4 * i) 4 * qSstr r + qLen r
      (outside → runCopy s o = (s1, { o with code := 7, cause := 0 })) ∧ (¬outside → runCopy s o = rows.foldl (copyRow idx) (s1, o)))) ∧
  (∀ (s : State) (o : CopyOp) (idx : List Byte) (row : Nat),
    let r := o.record
    let n := qLen r
    let z := copyRow idx (s, o) row
    (o.code ≠ 0 → z = (s, o)) ∧
    (o.code = 0 → o.kind ≠ 5 →
      let sb := o.kind = 3 ∨ (o.kind = 2 ∧ qSfmt r = false)
      let size := if sb then 3 * n / 2 else if o.kind = 1 then n * (if qSfmt r then 2 else 4) else if o.kind = 2 then 4 * n else n
      let src := if o.kind = 4 then qSrc r + fieldN idx (4 * row) 4 * qSstr r else qSrc r + row * qSstr r
      let dst := qDst r + row * qDstr r
      let rd := copyRead o (qSlocal r) (qSmode r == 2)
      (∀ s1 e, rd s src size = (s1, .error e) → z = (s1, { o with code := e.1, cause := e.2 })) ∧
      (∀ s1 bs s2 sc, rd s src size = (s1, .ok bs) → (sb → rd s1 (qAux r + row * qAstr r) (4 * (n / qL r)) = (s2, .ok sc)) → (¬sb → s2 = s1 ∧ sc = []) →
        let reserved := ∃ b, b < sc.length / 4 ∧ 2 ^ 22 ≤ fieldN sc (4 * b) 4
        (reserved → z = (s2, { o with code := 6, cause := 0 })) ∧
        (¬reserved → qDlocal r = false →
          let code := fun (i : Nat) => fieldN bs (3 * (i / 2)) 3 / 2 ^ (12 * (i % 2)) % 2 ^ 12
          let word := fun (i : Nat) => fieldN sc (4 * (i / qL r)) 4
          let ints := fun (i : Nat) => if qSfmt r then (fpToRange o.mods.prod (fieldN bs (4 * i) 4)).1 else sbToInt (code i) (word i)
          let block := fun (b : Nat) => blockToSb (qErrfb r) (((fpElems bs (if qSfmt r then 2 else 4) n).drop (b * qL r)).take (qL r))
          let writes : List (Nat × List Byte) :=
            if o.kind = 1 then (List.range (n / qL r)).flatMap fun b =>
              [(dst + 3 * qL r * b / 2, pack12 (block b).1), (qAux r + row * qAstr r + 4 * b, natLe 4 (block b).2.1)]
            else if o.kind = 2 then (List.range o.mods.count).map fun k =>
              (qDst r + k * qXstr r + row * qDstr r, plane o.mods k ((List.range n).map ints))
            else if o.kind = 3 then [(dst, (List.range n).flatMap fun i => natLe 2 (sbToBf (code i) (word i)))]
            else [(dst, bs)]
          (∀ w ∈ writes, Writable s2 o.asid.toNat w.1 w.2.length) →
            z.2 = { o with bytes := o.bytes + (writes.map fun w => w.2.length).sum } ∧ Issued s2 z.1 1 o.order o.asid.toNat writes ∧ z.1.mem = s2.mem))) ∧
    (o.code = 0 → o.kind = 5 → n = 256 →
      let line := qDst r + row * qDstr r
      (2 ^ 32 ≤ line ∨ granted s (line / 2 ^ 26) o.asid = false → z = (s, { o with code := 8, cause := 0 })) ∧
      (line < 2 ^ 32 → granted s (line / 2 ^ 26) o.asid = true → ∀ s1 bs, copyRead o false true s (qSrc r + row * qSstr r) 256 = (s1, .ok bs) →
        ∀ s2 ok t, crystLineWrite s1 line bs = (s2, ok, t) →
          (ok = true → z = (s2, { o with bytes := o.bytes + 256, waitTo := max o.waitTo t })) ∧ (ok = false → z.2 = { o with waitTo := max o.waitTo t, code := 9, cause := 0 })))) ∧
  (∀ (s : State) (c : Ctx) (f : UniR), Runs { waitPt := true } f.g s c → NoRecords c →
    let h := (c.sReg f.a).toNat
    let u := 2 * (h / 2 ^ 8 % 16) + h / 2 ^ 6 % 2
    let k := s.copyTicket u (h % 64)
    let gives := fun (i : Instr) (t : State) (v : Nat) => exec i s = .next (Falls c t fun g => g.setS f.d.toNat (BitVec.ofNat 64 v))
    let each := fun (v : Nat) => ∀ i ∈ [Instr.cwait f, .cwaitPoll f, .cwaitCancel f], gives i s v
    let legal := h ≠ 0 ∧ h < 2 ^ 48 ∧ h / 2 ^ 12 % 16 = 0 ∧ h / 2 ^ 7 % 2 = 0
    let known := k.seq ≠ 0 ∧ k.seq = h / 2 ^ 16 ∧ k.asid = c.t.asid
    (¬legal → each 11) ∧ (legal → ¬known → each 10) ∧ (legal → known → k.done = true → each k.status) ∧
    (legal → known → k.done = false →
      gives (.cwaitPoll f) s 1 ∧ exec (.cwait f) s = .next (c.setSub s { c.u with wait := .stall }) ∧
      ∀ o, s.copies.find? (fun x => x.unit_ == u && x.entry == h % 64) = some o →
        (o.running = false → gives (.cwaitCancel f) (endCopy s o 0 0 5) 5) ∧
        (o.running = true → ∃ t, exec (.cwaitCancel f) s = .next (c.setSub t { c.u with wait := .begun }) ∧ t.mem = s.mem ∧
          t.copies = s.copies.map fun x => if x.order = o.order then { x with cancelled := true } else x)))

/-- R363 to R369: BTBL reads its header and body, with precise faults, then loads a valid table, once the jobs that were queued before have left the
lane; BRINE queues a good job, as `JobGood` says, on the selected or the matching lane and gives its handle, a bad one completes at once with status
2 and one without a table with 9, and it waits with its record for an entry; the lane's oldest job starts, reads, decodes and writes its chunks in
order up to the first that fails, and completes; BWAIT tells its status. -/
def Obligations.BrineLanes : Prop :=
  (∀ (s : State) (c : Ctx) (f : UniR),
    let va := (c.sReg f.a).toNat
    let gives := fun (i : Instr) (t : State) (v : Nat) => exec i s = .next (Falls c t fun g => g.setS f.d.toNat (BitVec.ofNat 64 v))
    (Runs { priv := true, feat := some 3 } f.g s c →
      let lane := (c.sReg f.b).toNat % 32
      (va % 16 ≠ 0 → exec (.btbl f) s = trapAllMem c s 4 va) ∧
      let loads := fun (s : State) (order : Nat) (image : List Byte) =>
        (tableOk image = false → gives (.btbl f) s 1) ∧
        (tableOk image = true → (∃ j ∈ s.brine, j.lane = lane ∧ j.order < order) →
          exec (.btbl f) s = .next (c.setSub s { c.u with wait := .table order image })) ∧
        (tableOk image = true → (∀ j ∈ s.brine, j.lane = lane → order ≤ j.order) → ∃ t, gives (.btbl f) t 0 ∧
          t.brineTable lane = some ⟨(c.sReg f.b).toNat / 2 ^ 16 % 2 ^ 16, image⟩ ∧ (∀ l, l ≠ lane → t.brineTable l = s.brineTable l) ∧ t.mem = s.mem)
      (∀ order image, va % 16 = 0 → c.u.wait = .table order image → loads s order image) ∧
      (va % 16 = 0 → (∀ order image, c.u.wait ≠ .table order image) →
        let faults := fun (x : State × Except (Nat × Nat) (List Byte)) =>
          ∀ s1 k a, x = (s1, .error (k, a)) → k ≠ cAWAY → exec (.btbl f) s = trapAllMem c s1 k a
        let head := readRecord 2 s c (lowestLane c.active) va
        faults head ∧ ∀ s1 hd, head = (s1, .ok hd) →
          let n := min 65536 (16 + 4 * (tStates hd + tEnts hd))
          let body := readRecord ((n + 7) / 8) s1 c (lowestLane c.active) va
          faults body ∧ ∀ s2 bs, body = (s2, .ok bs) →
            loads s2 s2.engOrder (bs.take n))) ∧
    (Runs { feat := some 3 } f.g s c →
      (va % 64 ≠ 0 → exec (.brine f) s = trapAllMem c s 4 va) ∧
      (va % 64 = 0 → pendingStores s c.gid c.active true = false → ∀ (s1 : State) (r : List Byte), Reads 8 s c va s1 r →
        let sel := (c.sReg f.b).toNat
        let found := if sel / 32 % 2 = 1 then matchLane s1 (jTable r) else some (sel % 32)
        let lane := found.getD (sel % 32)
        let seq := nextSeqOf s1.brineSeq lane
        (takeTicket (s1.brineTicket lane) 16 = none → jobOk r = false → exec (.brine f) s = .next (c.setSub s1 { c.u with wait := .queued r })) ∧
        ∀ e, takeTicket (s1.brineTicket lane) 16 = some e →
          let atOnce := fun (v : Nat) => ∃ t, gives (.brine f) t (brineHandle lane e seq) ∧
            t.brineTicket lane e = ⟨seq, c.t.asid, v, true, s1.doneClock⟩ ∧ t.brine = s1.brine ∧ t.mem = s1.mem
          (jobOk r = false → atOnce 2) ∧ (jobOk r = true → found = none → atOnce 9) ∧
          (jobOk r = true → found.isSome = true → intoTemplate s1 c.t (jDst r) (jChunks r * jTstr r) = false →
            lockedBy s1 c.t.tid c.t.asid (jobRanges r) = none → ∀ k, freeSluice s1 (clusterOf c.core) = some k →
            ∃ t j, gives (.brine f) t (brineHandle lane e seq) ∧ t.brineTicket lane e = ⟨seq, c.t.asid, 1, false, 0⟩ ∧ t.brine = s1.brine ++ [j] ∧
              (j.lane, j.entry, j.seq, j.record, j.asid, j.running, j.code) = (lane, e, seq, r, c.t.asid, false, 0) ∧
              t.sluice = s1.sluice ++ [⟨clusterOf c.core, k, s1.sluiceSeq, c.t.asid, jobRanges r, none, j.order, s1.meridian⟩] ∧ t.mem = s1.mem))) ∧
    (Runs { waitPt := true, feat := some 3 } f.g s c → NoRecords c →
      let h := (c.sReg f.a).toNat
      let k := s.brineTicket (h / 2 ^ 8 % 32) (h % 16)
      let both := fun (v : Nat) => gives (.bwait f) s v ∧ gives (.bwaitPoll f) s v
      let legal := h ≠ 0 ∧ h < 2 ^ 48 ∧ h / 2 ^ 13 % 8 = 0 ∧ h / 2 ^ 4 % 16 = 0
      let known := k.seq ≠ 0 ∧ k.seq = h / 2 ^ 16 ∧ k.asid = c.t.asid
      (¬legal → both 12) ∧ (legal → ¬known → both 11) ∧ (legal → known → k.done = true → both k.status) ∧
      (legal → known → k.done = false →
        gives (.bwaitPoll f) s 1 ∧ exec (.bwait f) s = .next (c.setSub s { c.u with wait := .stall })))) ∧
  (∀ (s : State) (j : BrineJob), s.brine.find? (fun x => x.lane == j.lane) = some j →
    (j.running = true ∨ heldBack s j.order = true ∨ awaitsPod s j.order = true ∨ olderWork s j.tid j.gen = true →
      exec (.brineJobStart j.lane) s = .next s) ∧
    (j.running = false → heldBack s j.order = false → awaitsPod s j.order = false → olderWork s j.tid j.gen = false →
      (let z := runJob s { j with running := true }
       -- a read of another device waits for the lock
       (z.2.code = 3 ∧ z.2.cause = 0 → exec (.brineJobStart j.lane) s = .next s) ∧
       (¬(z.2.code = 3 ∧ z.2.cause = 0) → exec (.brineJobStart j.lane) s =
         .next { z.1 with brine := z.1.brine.map fun x => if x.order == z.2.order then z.2 else x })) ∧
      (s.brineTable j.lane = none → exec (.brineJobStart j.lane) s = .next { s with
        brine := s.brine.map fun x => if x.order == j.order then { j with running := true, code := 9, cause := 0 } else x })) ∧
    (j.running = true → agentBusy s 2 j.order = false → (∀ x ∈ s.fails, x.agent = 2 → x.id ≠ j.order) →
      ∃ t, exec (.brineJobComplete j.lane) s = .next t ∧ t.brine = s.brine.filter (fun x => x.order != j.order) ∧ t.mem = s.mem ∧
        t.brineTicket j.lane j.entry = { s.brineTicket j.lane j.entry with
          done := true, doneAt := s.doneClock, status := j.chunks * 2 ^ 32 + j.cause * 2 ^ 24 + j.code })) ∧
  (∀ r : List Byte, jobOk r = true ↔ JobGood r) ∧
  -- the chunks of a job
  (∀ (s : State) (j : BrineJob),
    ((∀ t, s.brineTable j.lane = some t → t.id ≠ jTable j.record) → runJob s j = (s, { j with code := 9, cause := 0 })) ∧
    ∀ t, s.brineTable j.lane = some t → t.id = jTable j.record → runJob s j = (List.range (jChunks j.record)).foldl (runChunk t.image) (s, j)) ∧
  (∀ (s : State) (j : BrineJob) (table : List Byte) (chunk : Nat),
    let r := j.record
    let z := runChunk table (s, j) chunk
    let fails := fun (s : State) (code cause : Nat) => z = (s, { j with code := code, cause := cause })
    (j.code ≠ 0 → z = (s, j)) ∧
    (j.code = 0 →
      (∀ s1 e, jobRead j s (jDesc r + 16 * chunk) 16 = (s1, .error e) → fails s1 e.1 e.2) ∧
      (∀ s1 d, jobRead j s (jDesc r + 16 * chunk) 16 = (s1, .ok d) →
        let off := fieldN d 0 4
        let inLen := fieldN d 4 4
        let outLen := fieldN d 8 4
        let bad := jInspan r < off + inLen ∨ outLen = 0 ∨ 262144 < outLen ∨
          (jXmode r ≠ 0 ∧ (outLen ≠ jTr r * jTc r * jIsize r ∨ jTstr r < jTr r * jTc r * jOsize r))
        (bad → fails s1 7 0) ∧
        (¬bad → (∀ s2 e, jobRead j s1 (jIn r + off) inLen = (s2, .error e) → fails s2 e.1 e.2) ∧
          ∀ s2 input, jobRead j s1 (jIn r + off) inLen = (s2, .ok input) →
            let s3 : State := { s2 with fresh := s2.fresh + 4 }
            let out := decodeChunk table input outLen ((freeWord s2.fresh).toNat % 65536)
            (∀ e, out = .error e → fails s3 e 0) ∧
            (∀ bs, out = .ok bs → crc32c bs ≠ fieldN d 12 4 → fails s3 6 0) ∧
            (∀ bs, out = .ok bs → crc32c bs = fieldN d 12 4 →
              let dst := jDst r + chunk * jTstr r
              let bytes := if jXmode r = 0 then bs else (List.range (jTr r * jTc r)).flatMap fun p =>
                (if jXmode r = 2 then zeros 2 else []) ++ slice bs ((p % jTr r * jTc r + p / jTr r) * jIsize r) (jIsize r)
              Writable s3 j.asid.toNat dst bytes.length → z.2.chunks = chunk + 1 ∧ z.2.code = 0 ∧
                Issued s3 z.1 2 j.order j.asid.toNat [(dst, bytes)] ∧ z.1.mem = s3.mem)))))

/-- R306, R307: without a request, a free notice slot or a candidate the engine does nothing; with them 64 visits halve the ages they meet, and
the page of the lowest age among those visited, the first on a tie, goes into the zone: its leaf gets Z, its place and AGE 0, a FREED notice
names its frame and ASID, and no other byte of memory changes; or FULL is set and the request ends. -/
def Obligations.ZoneEngine : Prop :=
  ∀ s : State,
    (s.regs.zoneReq = 0 ∨ noticeFree s = false ∨ zoneCandidates s = [] → exec .zoneCompression s = .next s) ∧
    (s.regs.zoneReq ≠ 0 → noticeFree s = true → ∀ z rest, zoneCandidates s = z :: rest →
      let window := zoneWindow s 64 (zoneCandidates s)
      let s1 := window.foldl visitLeaf s
      (∀ p : Nat, (∀ y ∈ window, p < y.pte ∨ y.pte + 16 ≤ p) → s1.peek p = s.peek p) ∧
      (∀ y ∈ window, y.pte + 16 ≤ Config.firmwareBase → (∀ x ∈ window, x ≠ y → x.pte + 16 ≤ y.pte ∨ y.pte + 16 ≤ x.pte) →
        leafAge s1 y = leafAge s y / 2 ^ window.count y) ∧
      ∃ (i : Nat) (v : ZoneLeaf) (t : State), window[i]? = some v ∧ (∀ y ∈ window, leafAge s1 v ≤ leafAge s1 y) ∧
        (∀ (k : Nat) (y : ZoneLeaf), k < i → window[k]? = some y → leafAge s1 v < leafAge s1 y) ∧ exec .zoneCompression s = .next t ∧
        ((t.regs.zoneFull = true ∧ t.regs.zoneReq = 0 ∧ t.zone = s.zone) ∨
         (t.regs.zoneReq = s.regs.zoneReq - 1 ∧ t.noticeNext = (s.noticeNext + 1) % 4096 ∧
          ∃ o n bytes bad, 0 < n ∧ t.zone = s.zone ++ [(o, n, bytes, bad)] ∧
            o + n ≤ s.regs.zoneSize.toNat / 4096 ∧ (∀ y ∈ s.zone, overlap y.1 y.2.1 o n = false) ∧
            let frame := s1.peekLe v.pte 8 / 2 ^ 19 % 2 ^ 33 * 2 ^ 19
            let slot := s.regs.noticeBase.toNat + 16 * s.noticeNext
            let image := s.regs.zoneBase.toNat + 4096 * o
            -- where no line of the page is in L2 or in error, and leaf, notice and image stand apart in HBM
            ((∀ x ∈ s.l2, x.asid = v.asid → x.line / 4096 ≠ v.vpage) → (∀ l ∈ s.badMem, l / 4096 ≠ frame / 2 ^ 19) →
              v.pte + 16 ≤ Config.firmwareBase → slot + 16 ≤ Config.firmwareBase → v.asid < 65536 →
              (slot + 16 ≤ v.pte ∨ v.pte + 16 ≤ slot) → (image + 4096 * n ≤ v.pte ∨ v.pte + 16 ≤ image) →
              bytes = ((s1.mem.filter fun q => decide (frame ≤ q.1) && decide (q.1 < frame + 2 ^ 19)).map fun q => (q.1 - frame, q.2)) ∧
              t.peekLe v.pte 8 = withBits (s1.peekLe v.pte 8) 7 7 1 ∧
              t.peekLe (v.pte + 8) 8 = withBits (withBits (s1.peekLe (v.pte + 8) 8) 25 0 o) 47 40 0 ∧
              t.peekLe slot 8 = frame + 2 ∧ t.peekLe (slot + 8) 8 = 2 ^ 63 + v.asid ∧
              ∀ p : Nat, p < v.pte ∨ v.pte + 16 ≤ p → p < slot ∨ slot + 16 ≤ p → p < image ∨ image + 4096 * n ≤ p → t.peek p = s1.peek p))) ∧
        t.groups = s.groups ∧ t.stores = s.stores ∧ t.localMem = s.localMem)

/-! ### The fabric -/

/-- R374 to R380: PUT, GET, PUTC and ATOMR read their record, take an entry and give a handle; a record of another kind, or one that is not good, as
`TransferGood` says, completes at once with status 2. A fired transfer waits for no older work of its team (log entry 65). A PUT sends the LEN bytes
at LADDR, what a GET or an ATOMR brings is written at LADDR, a target's failure is the transfer's, and without a port it is unreachable; the entry
ends with its status once its own writes have returned. A transfer of another device that names this one is answered: a counter of another owner
refuses a PUTC; a PUT's bytes are written at RADDR, and only then is it answered and PUTC's counter raised; a GET reads at RADDR, and an ATOMR
changes that line and no other. A line of this device that L2 does not hold is read and stored to, for another device, in its frame. -/
def Obligations.Transfers : Prop :=
  (∀ (s : State) (c : Ctx) (f : UniR) (i : Instr) (kind : Nat), (i, kind) ∈ [(Instr.putX f, 0), (.getX f, 1), (.putc f, 2), (.atomr f, 3)] →
    Runs { feat := some 4 } f.g s c →
    let va := (c.sReg f.a).toNat
    (va % 64 ≠ 0 → exec i s = trapAllMem c s 4 va) ∧
    (va % 64 = 0 → pendingStores s c.gid c.active true = false → ∀ (s1 : State) (r : List Byte), Reads 8 s c va s1 r →
      let valid := transferOk r = true ∧ xKind r = kind
      let handle := fun (e : Nat) => BitVec.ofNat 64 (fabHandle e s1.fabSeq)
      (freeTransfer s1 = none → ¬valid → exec i s = .next (c.setSub s1 { c.u with wait := .queued r })) ∧
      ∀ e, freeTransfer s1 = some e →
        (¬valid → ∃ t, exec i s = .next (Falls c t fun g => g.setS f.d.toNat (handle e)) ∧
          t.fabTicket e = ⟨s1.fabSeq, c.t.asid, 2, true, s1.doneClock⟩ ∧ t.transfers = s1.transfers ∧ t.mem = s1.mem) ∧
        (valid → (kind = 1 → xLlocal r = false → intoTemplate s1 c.t (xLaddr r) (xLen r) = false) →
          ∃ t x, exec i s = .next (Falls c t fun g => g.setS f.d.toNat (handle e)) ∧
            t.fabTicket e = ⟨s1.fabSeq, c.t.asid, 1, false, 0⟩ ∧ t.fabSeq = s1.fabSeq % (2 ^ 32 - 1) + 1 ∧ t.transfers = s1.transfers ++ [x] ∧
            (x.entry, x.asid, x.record, x.moved, x.code) = (e, c.t.asid, r, false, 0) ∧ t.mem = s1.mem))) ∧
  (∀ r : List Byte, transferOk r = true ↔ TransferGood r) ∧
  (∀ (s : State) (x : Transfer) (a : FabricResp), s.transfers.find? (fun y => y.entry == x.entry) = some x →
    (x.moved = false → x.fired = false → olderWork s x.tid x.gen = true → exec (.transferComplete x.entry a) s = .next s) ∧
    -- before the lock it waits, but where no port can ever take it
    (x.moved = false → s.regs.merLocked = false → (x.fired = true ∨ olderWork s x.tid x.gen = false) →
      exec (.transferComplete x.entry a) s = .next (if s.portsDown ≠ BitVec.allOnes 16 then s
        else { s with transfers := s.transfers.map fun z => if z.order == x.order then { x with moved := true, code := 6, cause := 0 } else z })) ∧
    (x.moved = false → s.regs.merLocked = true → (x.fired = true ∨ olderWork s x.tid x.gen = false) →
      let r := x.record
      let sends := xKind r = 0 ∨ xKind r = 2
      let becomes := fun (t : State) (y : Transfer) => exec (.transferComplete x.entry a) s =
        .next { t with transfers := t.transfers.map fun z => if z.order == x.order then y else z }
      let asks := fun (t : State) (bs : List Byte) => { t with out := t.out ++ [.fabricRequest x.asid.toNat r bs] }
      let bytes := copyRead x.op (xLlocal r) false s (xLaddr r) (xLen r)
      (sends → ∀ s1 e, bytes = (s1, .error e) → becomes s1 { x with moved := true, code := if e.1 = 9 then 7 else e.1, cause := if e.1 = 9 then 0 else e.2 }) ∧
      (∀ s1 bs, (sends → bytes = (s1, .ok bs)) → (¬sends → s1 = s ∧ bs = []) → ownDevice s1 (xDev r) = false →
        (s1.portsDown = BitVec.allOnes 16 → becomes s1 { x with moved := true, code := 6, cause := 0, bytes := 0 }) ∧
        (s1.portsDown ≠ BitVec.allOnes 16 →
          (answerOk r a = false → becomes s1 x) ∧
          (answerOk r a = true → a.code ≠ 0 → becomes (asks s1 bs)
            { x with moved := true, code := a.code, cause := a.cause, bytes := if sends then min a.written (xLen r) else 0 }) ∧
          (answerOk r a = true → a.code = 0 → sends → becomes (asks s1 bs) { x with moved := true, bytes := xLen r }) ∧
          (answerOk r a = true → a.code = 0 → ¬sends → xLlocal r = false → ownTemplate s x.lseq x.asid (xLaddr r) a.data.length = false →
            Writable s x.asid.toNat (xLaddr r) a.data.length → ∃ t,
              becomes t { x with moved := true, code := 0, cause := 0, bytes := a.data.length } ∧
              t.transfers = s.transfers ∧ Issued s t 1 x.order x.asid.toNat [(xLaddr r, a.data)] ∧ t.out = (asks s []).out ∧ t.mem = s.mem)))) ∧
    (x.moved = true → agentBusy s 1 x.order = false → (∀ y ∈ s.fails, y.agent = 1 → y.id ≠ x.order) →
      ∃ t, exec (.transferComplete x.entry a) s = .next t ∧ t.transfers = s.transfers.filter (fun y => y.order != x.order) ∧ t.mem = s.mem ∧
        t.fabTicket x.entry = { s.fabTicket x.entry with
          done := true, doneAt := s.doneClock
          status := transferDetail x x.code x.bytes % 2 ^ 32 * 2 ^ 32 + if x.code = 0 then 0 else x.cause * 2 ^ 24 + x.code })) ∧
  (∀ (s : State) (q : InboundReq), s.regs.merLocked = true → s.portsDown ≠ BitVec.allOnes 16 → requestOk q = true →
    (q.kind = 2 → counterTagged s q.asid q.rctr.toNat = false →
      exec (.inboundFabricRequest q) s = .next { s with out := s.out ++ [.fabricReply 5 0 0 []] }) ∧
    (q.kind = 0 ∨ (q.kind = 2 ∧ counterTagged s q.asid q.rctr.toNat = true) → Writable s q.asid.toNat q.raddr.toNat q.len true →
      ∃ t, exec (.inboundFabricRequest q) s = .next t ∧ t.inbound = s.inbound ++ [⟨s.engOrder, q, 0, 0, q.len⟩] ∧
        Issued s t 4 s.engOrder q.asid.toNat [(q.raddr.toNat, q.data)] ∧ t.l2 = s.l2 ∧ t.mem = s.mem ∧ t.out = s.out ∧ t.counters = s.counters) ∧
    (∀ e x, 0 < q.len → q.kind = 1 ∨ q.kind = 3 →
      let asid := q.asid.toNat
      let a := q.raddr.toNat
      let n := if q.kind = 1 then q.len else aopSize q.aop.toNat
      let old := slice x.data (a % 128) n
      n ≤ 128 - a % 128 → s.tlb.find? (fun y => y.serves asid a) = some e → e.r = true → e.red = false → e.replica = false → e.remote = false →
      e.uc = false → s.l2? asid (a / 128) = some x → x.owner = none → lineBad s x = none →
      (q.kind = 1 → ∃ t, exec (.inboundFabricRequest q) s = .next t ∧ t.out = s.out ++ [.fabricReply 0 0 0 old] ∧ t.l2 = s.l2 ∧ t.mem = s.mem) ∧
      (q.kind = 3 → e.w = true → x.wtag = true → atomicReady s x = true → ∃ t, exec (.inboundFabricRequest q) s = .next t ∧
        t.out = s.out ++ [.fabricReply 0 0 n old] ∧ t.mem = s.mem ∧
        t.l2 = match aopNew q.aop.toNat q.opnd.toNat q.cmpv.toNat (leNat old) with
          | none => s.l2
          | some v => s.l2.map fun y => if y.is asid (a / 128) then { x with
              data := mergeLine x.data (a % 128) (natLe n v), cap := 0, last := s.meridian, stored := x.stored ||| byteMask (a % 128) n [] } else y))) ∧
  (∀ (s : State) (q : InboundReq) (x : Inbound), q.kind = 10 → s.inbound.find? (fun y => y.order == q.len) = some x →
    (agentBusy s 4 x.order = true ∨ s.regs.merLocked = false → exec (.inboundFabricRequest q) s = .next s) ∧
    (s.regs.merLocked = true → agentBusy s 4 x.order = false → x.code = 0 → (∀ y ∈ s.fails, y.agent = 4 → y.id ≠ x.order) →
      ∃ t, exec (.inboundFabricRequest q) s = .next t ∧ t.out = s.out ++ [.fabricReply 0 0 x.bytes []] ∧ t.mem = s.mem ∧
        t.inbound = s.inbound.filter (fun y => y.order != x.order) ∧ (x.req.kind ≠ 2 → t.counters = s.counters) ∧
        (x.req.kind = 2 → let k := NMap.get Counter.reset x.req.rctr.toNat s.counters
          NMap.get Counter.reset x.req.rctr.toNat t.counters = { k with val := k.val + x.req.rinc.zeroExtend 64 }))) ∧
  (∀ (s : State) (q : InboundReq), s.regs.merLocked = true → s.portsDown ≠ BitVec.allOnes 16 → lineReqOk s q = true →
    let a := q.raddr.toNat
    linesAt s a = [] →
    (q.kind = 4 → s.isBad a = false → (∀ w ∈ s.podCaps, w.1 ≠ a / 128) → ∃ t, exec (.inboundFabricRequest q) s = .next t ∧ t.mem = s.mem ∧ t.l2 = s.l2 ∧
      t.out = s.out ++ [.lineReply (s.peekN a q.len) (if q.len = 128 then s.meridian + 2048 else s.meridian)] ∧
      (q.len = 128 → t.podGrants = (a / 128, s.meridian + 2048) :: s.podGrants)) ∧
    (q.kind = 5 → grantEnd s a = 0 ∨ grantEnd s a + 80 ≤ s.meridian → ∃ t, exec (.inboundFabricRequest q) s = .next t ∧
      t.out = s.out ++ [.lineReply [] s.meridian] ∧ t.l2 = s.l2 ∧ (∀ i, i < q.len → t.peek (a + i) = q.data.getD i 0) ∧
      ∀ p, p < a ∨ a + q.len ≤ p → t.peek p = s.peek p))

/-- R382 to R387: a counter read, set, waited for and added to by a team that may name it, and else CTR_OWNER; an update that reaches the
threshold of an armed send fires it; a fired send starts its transfer, in arm order; a token that names an armed slot cancels it. (Which words
name a slot, and that a counter of 4,096 or more makes TSEND give 2, are log entry 66; what a queue pair needs is 62.) -/
def Obligations.CountersAndTriggers : Prop :=
  (∀ (s : State) (c : Ctx) (f : UniR), Runs { feat := some 4 } f.g s c →
    let n := (c.sReg f.a).toNat % 4096
    let x := NMap.get Counter.reset n s.counters
    let mayName := c.t.priv = true ∨ (x.v = true ∧ x.tag = c.t.asid)
    let quiet := pendingStores s c.gid c.active true = false
    -- armed sends of the counter whose threshold the new value reaches have fired
    let fires := fun (v : DWord) => s.tsend.map fun y =>
      if y.armed = true ∧ fieldN y.record 0x32 2 % 4096 = n ∧ fieldN y.record 0x38 8 ≤ v.toNat then { y with armed := false, fired := true } else y
    (¬mayName → ∀ i ∈ [Instr.ctrrd f, .ctrset f, .ctrwait f, .ctradd f], exec i s = trapAll c s 36) ∧
    (mayName →
      exec (.ctrrd f) s = .next (Falls c s fun g => g.setS f.d.toNat x.val) ∧
      (x.val.toNat < (c.sReg f.b).toNat →
        exec (.ctrwait f) s = .next (c.setSub s { c.u.dropChain with wait := .ctr n (c.sReg f.b).toNat f.d.toNat })) ∧
      ((c.sReg f.b).toNat ≤ x.val.toNat → exec (.ctrwait f) s = .next (Falls c s fun g => g.setS f.d.toNat x.val)) ∧
      (quiet → ∃ t, exec (.ctrset f) s = .next (Falls c t id) ∧ NMap.get Counter.reset n t.counters = { x with val := c.sReg f.b } ∧ t.mem = s.mem ∧
        t.tsend = fires (c.sReg f.b)) ∧
      (quiet → ∃ t, exec (.ctradd f) s = .next (Falls c t fun g => g.setS f.d.toNat x.val) ∧
        NMap.get Counter.reset n t.counters = { x with val := x.val + c.sReg f.b } ∧ t.mem = s.mem ∧
        t.tsend = fires (x.val + c.sReg f.b))) ∧
    (let va := (c.sReg f.a).toNat
     let gives := fun (i : Instr) (t : State) (v : Nat) => exec i s = .next (Falls c t fun g => g.setS f.d.toNat (BitVec.ofNat 64 v))
     (va % 64 ≠ 0 → exec (.tsend f) s = trapAllMem c s 4 va) ∧
     (va % 64 = 0 → quiet → ∀ (s1 : State) (r : List Byte), readRecord 8 s c (lowestLane c.active) va = (s1, .ok r) →
       let m := fieldN r 0x32 2
       let y := NMap.get Counter.reset m s1.counters
       let named := c.t.priv = true ∨ (y.v = true ∧ y.tag = c.t.asid)
       (transferOk r = false ∨ 4096 ≤ m → gives (.tsend f) s1 2) ∧
       (transferOk r = true → m < 4096 → ¬named → exec (.tsend f) s = trapAll c s1 36) ∧
       (transferOk r = true → m < 4096 → named → freeTslotEntry s1 = none → gives (.tsend f) s1 1) ∧
       (transferOk r = true → m < 4096 → named → ∀ k, freeTslotEntry s1 = some k →
         ∃ t z, gives (.tsend f) t (2 ^ 63 + s1.tsendSeq * 2 ^ 16 + k) ∧ t.tsend = s1.tsend.filter (fun w => w.slot != k) ++ [z] ∧
           (z.slot, z.seq, z.asid, z.record, z.handle) = (k, s1.tsendSeq, c.t.asid, r, 0) ∧
           z.armed = decide (y.val.toNat < fieldN r 0x38 8) ∧ z.fired = !z.armed ∧ t.mem = s1.mem)) ∧
     (∀ z, s.tsend.find? (fun z => z.token == va && z.asid == c.t.asid) = some z → z.armed = true →
       gives (.tsendCancel f) { s with tsend := s.tsend.filter fun w => w.slot != z.slot } 0) ∧
     (s.tsend.find? (fun z => z.token == va && z.asid == c.t.asid) = none → gives (.tsendCancel f) s 1) ∧
     (∀ z, s.tsend.find? (fun z => z.token == va && z.asid == c.t.asid) = some z → z.armed = false → z.fired = true →
       (z.handle ≠ 0 → gives (.tsendCancel f) s z.handle) ∧
       (z.handle = 0 → exec (.tsendCancel f) s = .next (c.setSub s { c.u with wait := .stall }))))) ∧
  (∀ (s : State) (z : TSlot) (e : Nat), s.tsend.find? (fun y => y.slot == z.slot && y.fired && y.handle == 0) = some z →
    ((∃ y ∈ s.tsend, y.fired = true ∧ y.handle = 0 ∧ y.seq < z.seq) → exec (.triggeredTransferStart z.slot) s = .next s) ∧
    ((∀ y ∈ s.tsend, y.fired = true → y.handle = 0 → z.seq ≤ y.seq) → freeTransfer s = some e →
      ∃ t x, exec (.triggeredTransferStart z.slot) s = .next t ∧ t.transfers = s.transfers ++ [x] ∧ (x.entry, x.record, x.fired) = (e, z.record, true) ∧
        t.tsend = s.tsend.map (fun y => if y.slot == z.slot then { y with handle := fabHandle e s.fabSeq } else y) ∧ t.mem = s.mem)) ∧
  (∀ (s : State) (port : Nat), port < 16 →
    exec (.fabricPortDown port) s = .next { s with portsDown := s.portsDown ||| (1#16 <<< port) } ∧
    exec (.fabricPortUp port) s = .next { s with portsDown := s.portsDown &&& ~~~(1#16 <<< port) }) ∧
  (∀ (s : State) (pod : Nat), pod ≠ ownPod s → (∃ x ∈ s.colls, ∃ r ∈ x.ranks, r / 2 ^ 16 % 2 ^ 16 = pod) → routed s (ownPod s) = true → pod ∉ s.qpairs →
    (reachable s pod = true → exec (.queuePairSetup pod) s = .next { s with qpairs := s.qpairs ++ [pod] }) ∧
    ((∀ e, e < 1024 → routePod s e = pod → routePorts s e = 0) → exec (.queuePairSetup pod) s = .next s))

/-! ### Collectives -/

/-- R389 to R392: COLL reads its record, takes a collective entry and gives its handle; a record that is not good, as `CollGood` says, or one whose
RANKS entry names another device or whose RANKS entries have a reserved bit set, completes at once with status 2, and one whose RANKS cannot be read
with the failure. (Answers for other handles, and a stopped collective without a port, are log entry 72; which entry is taken, 45.) Waits, polls and
aborts answer 12 for what is no handle, 11 for one that has expired, and the status of a complete operation; an abort of a collective under way
stops it with status 8. -/
def Obligations.CollectiveCommands : Prop :=
  (∀ r : List Byte, collOk r = true ↔ CollGood r) ∧
  (∀ (s : State) (c : Ctx) (f : UniR), Runs { feat := some 4 } f.g s c →
    let va := (c.sReg f.a).toNat
    (va % 128 ≠ 0 → exec (.coll f) s = trapAllMem c s 4 va) ∧
    (va % 128 = 0 → pendingStores s c.gid c.active true = false → ∀ (s1 : State) (r : List Byte), Reads 16 s c va s1 r →
      (freeColl s1 = none → exec (.coll f) s = .next (c.setSub s1 { c.u with wait := .queued r })) ∧
      ∀ e, freeColl s1 = some e →
        let gives := fun (u t : State) => t.fabSeq = u.fabSeq % (2 ^ 32 - 1) + 1 ∧
          exec (.coll f) s = .next (Falls c t fun g => g.setS f.d.toNat (BitVec.ofNat 64 (fabHandle (2048 + e) u.fabSeq)))
        let ended := fun (u : State) (status : Nat) => ∃ t, gives u t ∧ t.colls = u.colls ∧ t.mem = u.mem ∧
          t.fabTicket (2048 + e) = ⟨u.fabSeq, c.t.asid, status, true, u.doneClock⟩
        let ranks := engRead s1 (some c.t) c.t.asid.toNat (kRanks r) (4 * kN r)
        (collOk r = false → ended s1 2) ∧
        (collOk r = true → ∀ s2 va k, ranks = (s2, .error (va, k)) →
          -- a page of another device is not read before the lock
          (k = 0 → exec (.coll f) s = .next (c.setSub s1 { c.u with wait := .queued r })) ∧
          (k ≠ 0 → ended s2 (if k = 19 ∨ k = 20 then 7 else k * 2 ^ 24 + 3))) ∧
        (collOk r = true → ∀ (s2 : State) (bs : List Byte), ranks = (s2, .ok bs) →
          let reserved := ∃ i, i < kN r ∧ fieldN bs (4 * i) 4 / 2 ^ 10 % 2 ^ 6 ≠ 0
          (namesMe s2 (fieldN bs (4 * kRank r) 4) = false ∨ reserved → ended s2 2) ∧
          (namesMe s2 (fieldN bs (4 * kRank r) 4) = true → ¬reserved → ∃ t x, gives s2 t ∧ t.colls = s2.colls ++ [x] ∧ t.mem = s2.mem ∧
            t.fabTicket (2048 + e) = ⟨s2.fabSeq, c.t.asid, 1, false, 0⟩ ∧
            (x.entry, x.asid, x.record, x.met, x.chunks, x.stop) = (e, c.t.asid, r, false, [], none) ∧
            x.ranks = (List.range (kN r)).map fun i => fieldN bs (4 * i) 4)))) ∧
  (∀ (s : State) (c : Ctx) (f : UniR), Runs { feat := some 4 } f.g s c →
    let h := (c.sReg f.a).toNat
    let k := if h / 2 ^ 15 % 2 = 1 then 2048 + h % 2 ^ 11 else h % 2 ^ 11
    let n := s.fabTicket k
    let gives := fun (i : Instr) (v : Nat) => exec i s = .next (Falls c s fun g => g.setS f.d.toNat (BitVec.ofNat 64 v))
    let all := fun (v : Nat) => gives (.collWait f) v ∧ gives (.collPoll f) v ∧ gives (.collAbort f) v
    let waits := fun (w : Wait) (t : State) => Host.Outcome.next (c.setSub t { c.u with wait := w })
    let legal := h ≠ 0 ∧ h < 2 ^ 48 ∧ h / 2 ^ 11 % 16 = 0
    let known := h / 2 ^ 16 ≠ 0 ∧ n.seq = h / 2 ^ 16 ∧ n.asid = c.t.asid
    (¬legal → all 12) ∧ (legal → ¬known → all 11) ∧
    (legal → known →
      (n.done = true → gives (.collWait f) n.status ∧ gives (.collPoll f) n.status ∧ (2048 ≤ k → gives (.collAbort f) n.status)) ∧
      (k < 2048 → gives (.collAbort f) 12) ∧
      (n.done = false → gives (.collPoll f) 1 ∧ exec (.collWait f) s = waits .stall s ∧
        ∀ x, 2048 ≤ k → s.colls.find? (fun x => 2048 + x.entry == k) = some x →
          let ports := s.portsDown ≠ BitVec.allOnes 16
          (x.stop.isSome = true → exec (.collAbort f) s = waits .saving s) ∧
          (x.stop = none → s.regs.merLocked = false → ports → exec (.collAbort f) s = waits .stall s) ∧
          (x.stop = none → s.regs.merLocked = true ∨ ¬ports → exec (.collAbort f) s = waits .saving { s with
            colls := s.colls.map (fun y => if y.order == x.order then { y with stop := some (8, 0) } else y)
            out := if ports then s.out ++ [.collAbort (kTag x.record) (kRank x.record)] else s.out }))))

/-- R390, R391, R393 to R398: participants meet once a chunk buffer is free; those that disagree stop with status 9, those that a path does not
reach with 6, an abort with 8; else the source is read and contributed. A chunk that every participant has contributed is reduced and written; a
failed write stops the collective, and its chunks that were not written whole do not count; when all are finished the collective completes with
their count, and one that stops writes DONEMAP first. The FP32 and BF16 sum goes over the fixed tree, the FXP sum does not depend on order, and
integers wrap; SKIP replaces what holds a NaN and counts what it did not. A multicast chunk lands at the named cores that the launch owns and raises
MC_CTR; the end raises LCTR where CEN asks for it. -/
def Obligations.CollectiveSteps : Prop :=
  (∀ (s : State) (x : Coll) (m : MeetResp) (a : ChunkResp) (chunk : Nat), s.colls.find? (fun y => y.entry == x.entry) = some x →
    let r := x.record
    let becomes := fun (t : State) (y : Coll) => { t with colls := t.colls.map fun z => if z.order == x.order then y else z }
    let alters := fun (h : Coll → Coll) => Host.Outcome.next { s with colls := s.colls.map fun z => if z.order == x.order then h z else z }
    let stops := fun (code : Nat) => alters fun z => { z with stop := some (code, 0) }
    let meet := exec (.collectiveMeet x.entry m) s
    let reduce := exec (.collectiveChunkReduce x.entry chunk a) s
    -- receive counter `n` has been raised if `on` and it is tagged with the collective's ASID
    let raised := fun (t : State) (n : Nat) (on : Bool) =>
      let k := NMap.get Counter.reset n s.counters
      NMap.get Counter.reset n t.counters = if on = true ∧ k.v = true ∧ k.tag = x.asid then { k with val := k.val + 1 } else k
    let ends := fun (code cause : Nat) => ∃ t, exec (.collectiveComplete x.entry) s = .next t ∧ raised t (kLctr r) (kCen r) ∧
      t.colls = s.colls.filter (fun y => y.order != x.order) ∧ t.mem = s.mem ∧
      t.fabTicket (2048 + x.entry) = { s.fabTicket (2048 + x.entry) with
        done := true, doneAt := s.doneClock, status := x.chunks.length % 2 ^ 32 * 2 ^ 32 + cause * 2 ^ 24 + code }
    -- meeting
    (x.met = true ∨ x.stop.isSome = true ∨ olderWork s x.tid x.gen = true → meet = .next s) ∧
    (x.met = false → x.stop = none → s.regs.merLocked = false → olderWork s x.tid x.gen = false →
      meet = if pathless s x then stops 6 else .next s) ∧
    (x.met = false → x.stop = none → s.regs.merLocked = true → olderWork s x.tid x.gen = false →
      (m.aborted = true → meet = stops 8) ∧
      (m.aborted = false → pathless s x = true ∨ m.reachable = false → meet = stops 6) ∧
      (m.aborted = false → pathless s x = false → m.reachable = true →
        (m.agree = false ∨ ¬x.ranks.Nodup → meet = stops 9) ∧
        (m.agree = true → x.ranks.Nodup → freeBufs s = 0 → meet = .next s) ∧
        (m.agree = true → x.ranks.Nodup → freeBufs s ≠ 0 →
          (∀ e ∈ x.ranks, e / 2 ^ 16 % 2 ^ 16 = ownPod s ∨ e / 2 ^ 16 % 2 ^ 16 ∈ s.qpairs) → kSmode r = false → ∀ (s1 : State) (bs : List Byte), engRead s (s.team? x.tid) x.asid.toNat (kSrc r) (kLen r * elemSize r) = (s1, .ok bs) →
            meet = .next (becomes { s1 with out := s1.out ++ [.contribution (kTag r) (kRank r) bs] }
              { x with met := true, src := bs, bufs := min (chunkCount r) (freeBufs s1) })))) ∧
    -- one chunk
    (x.met = false ∨ x.stop.isSome = true ∨ s.regs.merLocked = false → reduce = .next s) ∧
    (x.met = true → x.stop = none → s.regs.merLocked = true →
      (a.aborted = true → reduce = stops 8) ∧
      (a.aborted = false → chunkCount r ≤ chunk ∨ chunk ∈ x.chunks → reduce = .next s) ∧
      (a.aborted = false → x.closed = true → chunk < chunkCount r → chunk ∉ x.chunks →
        (gather x chunk a = none → reduce = .next s) ∧
        (writesResult r = false → (gather x chunk a).isSome = true →
          reduce = alters fun z => { z with chunks := z.chunks ++ [chunk], skipped := z.skipped || false }) ∧
        (writesResult r = true → ∀ cs bs counts, gather x chunk a = some cs → reduceChunk r (chunkElems r chunk) cs = (bs, counts) →
          bs.length = chunkElems r chunk * elemSize r →
          let dst := kDst r + 65536 * chunk
          let count := kCount r + 2 * (chunkFirst r chunk / if kSkip r = 2 then 64 else 1)
          let put := fun (t : State) (at_ : Nat) (bs : List Byte) => agentWrite 600 t 5 x.order x.core x.asid.toNat at_ bs
          let finished := fun (t : State) (missed : Bool) => t.colls = s.colls.map fun z =>
            if z.order == x.order then { z with chunks := z.chunks ++ [chunk], skipped := z.skipped || missed } else z
          (kMcMask r = 0 → kDst r ≠ 0 → ownTemplate s x.lseq x.asid dst bs.length = false →
            (kSkip r = 0 → ∃ t, reduce = .next t ∧ t.mem = s.mem ∧ t.stores = (put s dst bs).stores ∧ finished t false) ∧
            (kSkip r ≠ 0 → ownTemplate s x.lseq x.asid count counts.length = false → ∃ t, reduce = .next t ∧ t.mem = s.mem ∧
              t.stores = (put (put s dst bs) count counts).stores ∧ finished t false)) ∧
          -- it lands at the named cores whose segments are the launch's, which counts
          (kMcMask r ≠ 0 → kDst r = 0 → kSkip r = 0 → kMcDest r + 65536 * chunk + bs.length ≤ 0x140000 →
            let named := fun (core : Nat) => ∃ p, p < 16 ∧ (kMcMask r).testBit p = true ∧ core = 16 * kMcCluster r + p
            let owned := fun (core : Nat) => x.lseq ≠ 0 ∧ ∀ i, i < 16 →
              overlap (0x0C0000 + i * 0x8000) 0x8000 (kMcDest r) (resBytes r) = true → ∃ o, s.partOwner core 1 i = some o ∧ o.seq = x.lseq
            let at_ := kMcDest r + 65536 * chunk
            ∃ t missed, reduce = .next t ∧ t.mem = s.mem ∧ t.stores = s.stores ∧ finished t missed ∧
              (missed = true ↔ ∃ core, named core ∧ ¬owned core) ∧ raised t (kMcCtr r) true ∧
              (∀ core, named core → owned core → ∀ k, k < bs.length → t.localByte core (at_ + k) = bs.getD k 0) ∧
              ∀ k, (∀ core, named core → owned core → k < localKey core at_ ∨ localKey core at_ + bs.length ≤ k) →
                NMap.get 0 k t.localMem = NMap.get 0 k s.localMem)))) ∧
    -- the end
    (agentBusy s 5 x.order = true → exec (.collectiveComplete x.entry) s = .next s) ∧
    (agentBusy s 5 x.order = false → x.mapped = false → ∀ id va k, firstFail s 5 x.order = some (id, va, k) →
      exec (.collectiveComplete x.entry) s = .next (let t := dropFails s 5 x.order
        { t with colls := t.colls.map fun z => if z.order == x.order then
            { z with stop := some (z.stop.getD (fabFail k)), chunks := z.chunks.filter (chunkWhole s z) } else z })) ∧
    (agentBusy s 5 x.order = false → (∀ y ∈ s.fails, y.agent = 5 → y.id ≠ x.order) →
      (x.stop = none → ¬(x.met = true ∧ x.chunks.length = chunkCount r) → exec (.collectiveComplete x.entry) s = .next s) ∧
      (x.stop = none → x.met = true → x.chunks.length = chunkCount r → ends (if x.skipped then 10 else 0) 0) ∧
      (∀ code cause, x.stop = some (code, cause) →
        (kDone r = 0 ∨ x.mapped = true ∨ code = 9 → ends code cause) ∧
        (kDone r ≠ 0 → x.mapped = false → code ≠ 9 → ∃ t, exec (.collectiveComplete x.entry) s = .next t ∧ t.mem = s.mem ∧
          t.stores = (agentWrite 600 s 5 x.order x.core x.asid.toNat (kDone r) (doneMap x)).stores ∧
          t.colls = s.colls.map fun z => if z.order == x.order then { z with mapped := true } else z))) ∧
    exec (.participantUnreachable x.entry) s = (if x.stop.isSome then .next s else stops 6)) ∧
  (∀ (fs : Nat) (xs ys : List Nat), xs.Perm ys → fxpSum fs xs = fxpSum fs ys) ∧
  (∀ (d : Nat) (xs : List Nat), d ≤ 10 → xs.length ≤ 2 ^ d → (d = 0 ∨ 2 ^ (d - 1) < xs.length) → fpTree xs = pairTree d xs) ∧
  (∀ (r : List Byte) (xs : List Nat) (skip : List Bool),
    let kept := fun (identity scale : Nat) => (List.range xs.length).map fun i => if skip.getD i false then identity else xs.getD i 0 * scale
    (kType r = 0 → reduceElem r xs skip = fpTree (kept (2 ^ 31) 1)) ∧
    (kType r = 1 → reduceElem r xs skip = (f2bf false (fpTree (kept (2 ^ 31) (2 ^ 16)))).v) ∧
    (kType r = 2 → reduceElem r xs skip = xs.sum % 2 ^ 32) ∧ (kType r = 3 → reduceElem r xs skip = xs.sum % 2 ^ 64) ∧
    (kType r = 4 → reduceElem r xs skip = fxpSum (kFs r) (kept 0 1))) ∧
  -- the elements and the counts of a chunk
  (∀ (r : List Byte) (n : Nat) (cs : List (List Byte)), cs.length ≤ 1024 →
    let size := elemSize r
    let el := fun (i : Nat) (c : List Byte) => fieldN c (size * i) size
    let nan := fun (i : Nat) (c : List Byte) => fpIsNan (if kType r = 1 then 7 else 23) (el i c)
    let replaced := fun (i : Nat) (c : List Byte) =>
      if kSkip r = 1 then nan i c else decide (kSkip r = 2) && (List.range 64).any fun j => decide (i / 64 * 64 + j < n) && nan (i / 64 * 64 + j) c
    let z := reduceChunk r n cs
    z.1.length = n * size ∧ (∀ i, i < n → slice z.1 (size * i) size = natLe size (reduceElem r (cs.map (el i)) (cs.map (replaced i)))) ∧
    (kSkip r = 0 → z.2 = []) ∧
    (kSkip r = 1 → z.2.length = 2 * n ∧ ∀ i, i < n → fieldN z.2 (2 * i) 2 = (cs.filter fun c => !replaced i c).length) ∧
    (kSkip r = 2 → ∀ b, 64 * b < n → fieldN z.2 (2 * b) 2 = (cs.filter fun c => !replaced (64 * b) c).length))

/-! ### Traps -/

/-- R403 to R405, R407, R412, R414: the sub-group that traps as a whole joins an open record of its key, or opens one with the fields of R407
and parks, its chain dropped; where no permit, coalescer record or ring slot is free it backs off, twice as long each time. In a trap service
team the trap stops the team and signals the host. TRAP is cause SOFT with its operand in INFO. -/
def Obligations.TakingATrap : Prop :=
  (∀ (s : State) (c : Ctx) (f : UniR), Runs {} f.g s c →
    ∃ t, exec (.trapI f) s = .next t ∧ trapAllAt c s 38 c.u.pc c.u.pc ((c.sReg f.a).toNat % 2 ^ 32) = .next t) ∧
  (∀ (s : State) (c : Ctx) (cause addr pc info : Nat), s.ctxOf c.gid c.lane = some c → c.active ≠ 0 →
    (∀ n, c.t.kind = .service n → trapAllAt c s cause addr pc info = .next { (s.modTeam c.t.tid fun t => { t with halted := true }) with
      sigWait := s.sigWait ++ [(cause, c.t.asid.toNat, n, 16, 1)] }) ∧
    ((∀ n, c.t.kind ≠ .service n) → (∀ h ∈ s.groups, h.gid = c.gid → h = c.g) → (∀ w ∈ c.g.subs, w.mask = c.u.mask → w.wait = .ready) →
      let fits := fun (r : TrapRec) => r.core == c.core && r.kind == 0 && r.asid == c.t.asid.toNat && r.cause == cause &&
        r.addr / 2 ^ 19 % 2 ^ 36 == addr / 2 ^ 19 % 2 ^ 36 && !r.closed && decide (s.cycles < r.opened + 256)
      let leaves := fun (t : State) (u : Sub) (delivered : List (Nat × Defer)) => trapAllAt c s cause addr pc info = .next t ∧
        t.group? c.gid = some { c.g with
          subs := (c.g.subs.filter fun w => w.mask != c.u.mask).map Sub.dropChain ++ [u], delivered := delivered
          late := dropLate c.active c.g.late } ∧
        (∀ g, g ≠ c.gid → t.group? g = s.group? g) ∧ { t with groups := s.groups, recs := s.recs, nextRec := s.nextRec } = s
      let others := c.g.delivered.filter fun q => !c.active.getLsbD q.1
      let short := 4 ≤ s.permitsUsed c.core ∨ 16 ≤ s.coalUsed c.core ∨ 1024 ≤ s.ringUse.length
      (∀ r, s.recs.find? fits = some r → ∃ t, leaves t { c.u.dropChain with wait := .trapped r.seq, boff := 64 } others ∧
        t.recs = (s.recs.map fun q => if q.seq == r.seq then { q with groups := q.groups ||| (1#48 <<< c.u.slot) } else q)) ∧
      (s.recs.find? fits = none → ¬short → ∃ t, leaves t { c.u.dropChain with wait := .trapped s.nextRec, boff := 64 } others ∧
        t.nextRec = s.nextRec + 1 ∧ t.recs = s.recs ++ [{
          seq := s.nextRec, core := c.core, addr := addr, pc := pc, cause := cause, kind := 0, pos := posOf c.core, cluster := clusterOf c.core
          asid := c.t.asid.toNat, groups := 1#48 <<< c.u.slot, lanes := c.active, time := s.meridian, drec := none, info := info, info2 := 0
          opened := s.cycles, closed := false, ring := none, stuck := false }]) ∧
      (s.recs.find? fits = none → short → ∃ t,
        leaves t { c.u.dropChain with wait := .backoff (s.cycles + c.u.boff), boff := min (c.u.boff * 2) 4096 } c.g.delivered ∧
        t.recs = s.recs ∧ t.nextRec = s.nextRec)))

/-- R404 to R407, R413, R414, R417: a back-off ends; an open record closes after 256 cycles; a closed record goes whole into the next free ring
slot, and is kept where none is free, but memory errors go to the error summary; waiting signals are posted once the ring has room, and HOSTSIG
posts one. (That vector 1 is posted for every record of the summary, also where one stood unread, is log entry 79.) -/
def Obligations.TrapQueue : Prop :=
  (∀ (s : State) (c : Ctx) (n : Nat), s.ctxOf c.gid c.lane = some c → c.u.wait = .backoff n →
    (n ≤ s.cycles → ∃ t, exec (.trapBackoffExpiry c.gid c.lane) s = .next t ∧
      (t.ctxOf c.gid c.lane).map Ctx.u = some { c.u with wait := .ready } ∧ t.mem = s.mem ∧ t.recs = s.recs) ∧
    (s.cycles < n → ∃ t, exec (.trapBackoffExpiry c.gid c.lane) s = .next t ∧ (t.ctxOf c.gid c.lane).map Ctx.u = some c.u ∧ t.mem = s.mem ∧ t.recs = s.recs)) ∧
  (∀ (s : State) (r : TrapRec), s.recs.find? (fun q => q.seq == r.seq) = some r →
    (∃ t, exec (.coalescerClose r.seq) s = .next t ∧
      t.rec? r.seq = some (if r.kind = 0 ∧ r.opened + 256 ≤ s.cycles then { r with closed := true } else r) ∧ t.mem = s.mem ∧ t.groups = s.groups) ∧
    (r.closed = false ∨ r.ring.isSome = true ∨ r.stuck = true → exec (.trapQueueWrite r.seq) s = .next s) ∧
    (r.closed = true → r.ring = none → r.stuck = false →
      (ringSlot s = none → r.kind < 2 → exec (.trapQueueWrite r.seq) s = .next s) ∧
      (ringSlot s = none → 2 ≤ r.kind → ∃ t, exec (.trapQueueWrite r.seq) s = .next t ∧ t.recs = s.recs.filter (fun q => q.seq != r.seq) ∧
        t.out = s.out ++ [.msix 1] ∧ t.mem = s.mem ∧
        (s.regs.errCtl.getLsbD 0 = false → t.regs.errCtl = 1 ∧ t.regs.errRec = recordBytes r) ∧
        (s.regs.errCtl.getLsbD 0 = true → t.regs.errCtl = s.regs.errCtl ||| 8 ∧ t.regs.errRec = s.regs.errRec)) ∧
      (∀ slot e x, ringSlot s = some slot → agentBusy s 10 slot = false → (s.core r.core).exhaustWait = [] → s.regs.tqBase.toNat % 128 = 0 →
        let asid := s.regs.svcAsid.toNat
        let va := s.regs.tqBase.toNat + 128 * slot
        va < Config.maxVa → s.tlb.find? (fun y => y.serves asid va) = some e → e.w = true → e.uc = false → e.remote = false →
        s.l2? asid (va / 128) = some x → x.wtag = true → x.owner = none → snapLive s x = false → applyBound s x 0 ≤ s.meridian →
        ∃ t, exec (.trapQueueWrite r.seq) s = .next t ∧ t.ringUse = NMap.set 0 slot r.seq s.ringUse ∧ t.ringLast = slot ∧
          t.recs = (s.recs.map fun q => if q.seq == r.seq then { q with ring := some slot } else q) ∧ t.mem = s.mem ∧
          t.l2? asid (va / 128) = some { x with
            data := mergeLine x.data 0 (recordBytes r), cap := 0, last := s.meridian, stored := BitVec.allOnes 128 } ∧
          ∀ g, s.group? g.gid = some g → t.group? g.gid = some (
            if g.gslot = 0 ∧ (s.team? g.tid).map Team.kind = some (.service r.cluster) then wakeGroup g else g)))) ∧
  (∀ r : TrapRec, (recordBytes r).length = 128 ∧ (recordBytes r).getD 127 0 = 1) ∧
  (∀ (s : State) (value asid cluster pos kind : Nat) (rest : List (Nat × Nat × Nat × Nat × Nat)),
    let full := s.regs.hsigHead - s.regs.hsigTail = 256
    let slot := s.regs.hsigBase.toNat + 16 * (s.regs.hsigHead.toNat % 256)
    let entry := fun (v a cl p k : Nat) => natLe 4 v ++ natLe 2 a ++ natLe 1 cl ++ natLe 1 p ++ natLe 1 k ++ zeros 7
    let posted := fun (s t : State) (bs : List Byte) => t.mem = (s.pokeN slot bs).mem ∧ t.regs = { s.regs with hsigHead := s.regs.hsigHead + 1 } ∧
      t.out = s.out ++ [.msix 0]
    (s.sigWait = [] → exec .serviceFaultPost s = .next s) ∧
    (s.sigWait = (value, asid, cluster, pos, kind) :: rest →
      (full → exec .serviceFaultPost s = .next s) ∧
      (¬full → ∃ t, exec .serviceFaultPost s = .next t ∧ posted s t (entry value asid cluster pos kind) ∧ t.sigWait = rest ∧ t.groups = s.groups)) ∧
    ∀ (c : Ctx) (f : UniR), Runs {} f.g s c →
      (full ∨ pendingStores s c.gid c.active true = true → exec (.hostsig f) s = .next (c.setSub s { c.u with wait := .stall })) ∧
      (¬full → pendingStores s c.gid c.active true = false → ∃ t, exec (.hostsig f) s = .next (Falls c t id) ∧
        posted s t (entry ((c.sReg f.a).toNat % 2 ^ 32) c.t.asid.toNat (clusterOf c.core) (posOf c.core) 0) ∧ t.groups = s.groups))

/-- R409 to R411: TRESUME answers 1 for a stale ticket, 3 for a bad target and 2 for a group that is not parked; else its action releases the
parked sub-groups, and a record without any is freed. SAVE checks the block, writes it and answers 0 once it stands; RESTORE reads a block, and
writes its PC, and for the lanes of its mask the registers and predicates, into the sub-group, and answers 4 for another window and 3 where rows
are not to be had; the block that SAVE makes gives back what was saved. -/
def Obligations.TrapService : Prop :=
  (∀ (s : State) (c : Ctx) (f : UniR), Runs { priv := true } f.g s c →
    let t := (c.sReg f.a).toNat
    let b := (c.sReg f.b).toNat
    let g := t / 2 ^ 10 % 2 ^ 6
    let gives := fun (i : Instr) (t : State) (v : Nat) => exec i s = .next (Falls c t fun g => g.setS f.d.toNat (BitVec.ofNat 64 v))
    -- TRESUME
    (2 ^ 48 ≤ t ∨ (∀ r ∈ s.recs, r.ring = some (t % 2 ^ 10) → r.seq % 2 ^ 32 ≠ t / 2 ^ 16) → gives (.tresume f) s 1) ∧
    (∀ r, ticketRec s t = some r →
      (b % 4 = 2 → 2 ^ 55 ≤ b → gives (.tresume f) s 3) ∧
      (¬(b % 4 = 2 ∧ 2 ^ 55 ≤ b) → g ≠ 63 → r.kind ≠ 0 ∨ parkedSubs s r.seq g = [] → gives (.tresume f) s 2) ∧
      (¬(b % 4 = 2 ∧ 2 ^ 55 ≤ b) → g = 63 → parkedSubs s r.seq g = [] → gives (.tresume f) (freeRecord s r) 0) ∧
      (¬(b % 4 = 2 ∧ 2 ^ 55 ≤ b) → g = 63 ∨ r.kind = 0 → ∀ q x, parkedSubs s r.seq g = [q] → s.ctxOf q.1 q.2 = some x → x.t.curfew = none →
        let u : Sub :=
          if x.u.endPending = true ∨ b % 4 = 3 then { x.u with wait := .stopped 0, endPending := true }
          else { x.u with
            wait := .ready
            pc := if b % 4 = 0 then x.u.pc else if b % 4 = 1 then (x.u.pc + 4) % 2 ^ 55 else b / 4 % 2 ^ 53 * 4 }
        gives (.tresume f) (freeRecord ((x.setSub s u).modGroup x.gid fun g =>
          { g with delivered := g.delivered.filter fun y => !x.active.getLsbD y.1 }) r) 0)) ∧
    -- SAVE and RESTORE
    (∀ k, namedSub s t b = .error k → c.u.wait ≠ .saving → gives (.saveBlk f) s k) ∧
    (∀ k, namedSub s t b = .error k → gives (.restoreBlk f) s k) ∧
    (∀ r x, namedSub s t b = .ok (r, x) →
      (c.u.wait ≠ .saving →
        (∀ s1 k a, checkPages c (pagesOf (b / 64 * 64) (0x4C0 + 128 * x.g.win)) s = (s1, some (k, a)) → exec (.saveBlk f) s = trapAllMem c s1 k a) ∧
        (∀ s1, checkPages c (pagesOf (b / 64 * 64) (0x4C0 + 128 * x.g.win)) s = (s1, none) → exec (.saveBlk f) s =
          .next (c.setSub (agentWrite 80 s1 9 (saveId c) c.core c.t.asid.toNat (b / 64 * 64) (blockBytes r x)) { c.u.dropChain with wait := .saving }))) ∧
      (∀ s1 k a, readRecord ((0x4C0 + 128 * x.g.win) / 8) s c (lowestLane c.active) (b / 64 * 64) = (s1, .error (k, a)) → k ≠ cAWAY →
        exec (.restoreBlk f) s = trapAllMem c s1 k a) ∧
      (∀ s1 bs, readRecord ((0x4C0 + 128 * x.g.win) / 8) s c (lowestLane c.active) (b / 64 * 64) = (s1, .ok bs) →
        (fieldN bs 0x0C 1 ≠ x.g.win → gives (.restoreBlk f) s1 4) ∧
        (fieldN bs 0x0C 1 = x.g.win →
          (privatise x.gid s1 (List.range x.g.win) (x.active &&& BitVec.ofNat 32 (fieldN bs 8 4)) = none → gives (.restoreBlk f) s1 3) ∧
          (∀ s2, privatise x.gid s1 (List.range x.g.win) (x.active &&& BitVec.ofNat 32 (fieldN bs 8 4)) = some s2 →
            gives (.restoreBlk f) (restoreInto x s2 bs) 0)))) ∧
    (c.u.wait = .saving →
      (agentBusy s 9 (saveId c) = true → exec (.saveBlk f) s = .next s) ∧
      (agentBusy s 9 (saveId c) = false → (∀ y ∈ s.fails, y.agent = 9 → y.id ≠ saveId c) → gives (.saveBlk f) s 0))) ∧
  (∀ (s : State) (r : TrapRec),
    (s.isParkedIn r.seq = true → freeRecord s r = s) ∧
    (s.isParkedIn r.seq = false → (freeRecord s r).recs = s.recs.filter (fun q => q.seq != r.seq) ∧
      (freeRecord s r).ringUse = NMap.set 0 (r.ring.getD 0) 0 s.ringUse ∧ (freeRecord s r).groups = s.groups ∧ (freeRecord s r).mem = s.mem)) ∧
  (∀ (r : TrapRec) (x : Ctx), (blockBytes r x).length = 0x4C0 + 128 * x.g.win ∧ fieldN (blockBytes r x) 0 8 = x.u.pc % 2 ^ 64 ∧
    fieldN (blockBytes r x) 8 4 = x.u.mask.toNat ∧
    ∀ v l, v < x.g.win → l < 32 → fieldN (blockBytes r x) (0x4C0 + 128 * v + 4 * l) 4 = (x.g.lane v l).toNat) ∧
  (∀ (s : State) (x : Ctx) (bs : List Byte) (g : Group), s.group? x.gid = some g →
    let m := x.active &&& BitVec.ofNat 32 (fieldN bs 8 4)
    ∃ h, (restoreInto x s bs).group? x.gid = some h ∧ (∀ n, n ≠ x.gid → (restoreInto x s bs).group? n = s.group? n) ∧
      { restoreInto x s bs with groups := s.groups } = s ∧ { h with v := g.v, pred := g.pred, subs := g.subs } = g ∧
      (∀ v l, l < 32 → h.lane v l = if v < g.win ∧ m.getLsbD l = true then BitVec.ofNat 32 (fieldN bs (0x4C0 + 128 * v + 4 * l) 4) else g.lane v l) ∧
      (∀ l, l < 32 → h.predOf l = if m.getLsbD l then BitVec.ofNat 32 (fieldN bs (0x40 + 4 * l) 4) else g.predOf l) ∧
      h.subs = g.subs.map fun u => if u.mask = x.u.mask then { u with pc := fieldN bs 0 8 / 4 * 4 } else u) ∧
  (∀ (s : State) (x : Ctx) (r : TrapRec), s.group? x.gid = some x.g → x.u.pc % 4 = 0 → x.u.pc < 2 ^ 55 →
    (∀ u ∈ x.g.subs, u.mask = x.u.mask → u.pc = x.u.pc) →
    ∃ h, (restoreInto x s (blockBytes r x)).group? x.gid = some h ∧ h.subs = x.g.subs ∧
      (∀ v l, l < 32 → h.lane v l = x.g.lane v l) ∧ ∀ l, l < 32 → h.predOf l = x.g.predOf l)

/-! ### The host's side -/

/-- R92 to R94, R408, R433: START of a host program slot makes a one-fibre team on the cluster's service core, and is refused while the slot runs or
a sub-group of its aborted program is parked in a trap handler; ABORT orders its sub-groups to end; SVC_CTL starts the trap service team of a
cluster that has none. -/
def Obligations.HostPrograms : Prop :=
  (∀ (s : State) (slot : Nat) (v : DWord), slot < 16 →
    let h := s.slotOf slot
    let asid := v.extractLsb' 32 16
    let barred := h.st = 1 ∨ v.getLsbD 2 = true ∨ (h.st = 3 ∧ ∃ x ∈ s.teams, x.kind = .command slot ∧ x.halted = true ∧
      ∃ g ∈ s.groups, g.tid = x.tid ∧ ∃ u ∈ g.subs, parkedInTrap u = true)
    (barred → ∃ t, exec (.hostProgramStart slot v) s = .next t ∧ t.slotOf slot = { h with refused := true } ∧ t.teams = s.teams ∧ t.groups = s.groups) ∧
    (¬barred → s.regs.bootStatus ≠ 4 → exec (.hostProgramStart slot v) s = .next s) ∧
    (¬barred → s.regs.bootStatus = 4 → (∀ g ∈ s.groups, g.gid < s.nextGid) → (∀ x ∈ s.teams, x.tid < s.nextTid) →
      ∃ t x g, exec (.hostProgramStart slot v) s = .next t ∧ t.slotOf slot = { h with asid := asid, priv := v.getLsbD 1, st := 1, refused := false } ∧
        t.teams = s.teams ++ [x] ∧ (x.core, x.kind, x.asid, x.priv, x.tslot) = (256 + slot, .command slot, asid, v.getLsbD 1, 0) ∧
        t.groups = s.groups ++ [g] ∧ (g.tid, g.gslot, g.live, g.win) = (x.tid, 0, 1, 60) ∧
        g.subs.map (fun u => (u.pc, u.mask, u.wait)) = [(h.entry.toNat / 4 % 2 ^ 53 * 4, 1, .ready)] ∧
        g.sReg 0 = h.arg ∧ g.sReg 1 = BitVec.ofNat 64 slot ∧ (∀ i, 2 ≤ i → g.sReg i = 0) ∧ (∀ r l, g.lane r l = 0) ∧ t.mem = s.mem) ∧
    (h.st ≠ 1 → exec (.hostProgramAbort slot v) s = .next s) ∧
    (h.st = 1 → ∀ x, commandTeam s slot = some x → ∃ t, exec (.hostProgramAbort slot v) s = .next t ∧ (t.slotOf slot).st = 3 ∧
      t.groups = (s.groups.map fun g =>
        if g.tid == x.tid then { g with defer := [], subs := g.subs.map fun u => { u with endPending := true } } else g) ∧ t.mem = s.mem)) ∧
  (∀ (s : State) (n : Nat) (v : DWord), n < 16 → v.extractLsb' 0 16 = 1#16 <<< n →
    let asid := v.extractLsb' 32 16
    (serviceRuns s n = true → exec (.serviceTeamStart v) s = .next { s with regs := { s.regs with svcAsid := asid } }) ∧
    (serviceTeam s n = none → (∀ g ∈ s.groups, g.gid < s.nextGid) → (∀ x ∈ s.teams, x.tid < s.nextTid) →
      ∃ t x g, exec (.serviceTeamStart v) s = .next t ∧ t.regs = { s.regs with svcAsid := asid } ∧
        t.teams = s.teams ++ [x] ∧ (x.core, x.kind, x.asid, x.priv, x.tslot) = (256 + n, .service n, asid, true, 1) ∧
        t.groups = s.groups ++ [g] ∧ (g.tid, g.gslot, g.live, g.win) = (x.tid, 0, BitVec.allOnes 32, 60) ∧
        g.subs.map (fun u => (u.pc, u.mask, u.wait)) = [(s.regs.svcEntry.toNat, BitVec.allOnes 32, .ready)] ∧
        g.sReg 0 = s.regs.tqBase ∧ g.sReg 1 = BitVec.ofNat 64 n ∧ (∀ i, 2 ≤ i → g.sReg i = 0) ∧ (∀ r l, g.lane r l = 0) ∧ t.mem = s.mem))

/-- R122, R323, R406, R430 to R433, R440, R443, R444: writes of the registers with a rule of their own, through the window and by themselves; what
a register of the window keeps of a value is what it reads afterwards; the aperture reads and writes HBM below firmware's part. (That a write of
ERR_SUM_CTL or of an error count with another value than 0 is ignored is log entry 79.) -/
def Obligations.DeviceRegisters : Prop :=
  ∀ (s : State) (v : DWord),
    let sets := fun (i : Instr) (h : Regs → Regs) => exec i s = .next { s with regs := h s.regs }
    let write := fun (off : Nat) => exec (.registerWrite off v) s
    let reads := fun (t : State) (off n : Nat) => exec (.apertureAccess ⟨off, 8, none⟩) t = .next { t with out := t.out ++ [.readData off (natLe 8 n)] }
    -- registers with a rule of their own
    (exec (.featAcceptWrite v) s = if s.regs.launched then .next s else .next { s with regs := { s.regs with featAccept := v &&& s.regs.featOffer } }) ∧
    (∃ x, x.toNat = max 1000 (min 2000000 (v.toNat % 2 ^ 21)) ∧ sets (.curfewWinWrite v) fun r => { r with curfewWin := x }) ∧
    (∃ x, x.toNat = max 64 (min 4096 (v.toNat % 2 ^ 13)) ∧ sets (.leaseL1Write v) fun r => { r with leaseL1 := x }) ∧
    (∃ x, x.toNat = max 600 (min 1500 (v.toNat % 2 ^ 16)) ∧ sets (.pwrCapWrite v) fun r => { r with pwrCap := x }) ∧
    sets (.zoneReqWrite v) (fun r => { r with zoneReq := v.extractLsb' 0 32, zoneFull := false }) ∧
    (∃ t, exec (.tqBaseWrite v) s = .next t ∧ t.regs = { s.regs with tqBase := v &&& 0x007FFFFFFFFE0000 } ∧ t.ringFaulted = false ∧
      t.recs = s.recs.map fun r => { r with stuck := false }) ∧
    (let full := 256 < (s.regs.hsigHead - v.extractLsb' 0 32).toNat
     (full → exec (.hsigTailWrite v) s = .next s) ∧ (¬full → sets (.hsigTailWrite v) fun r => { r with hsigTail := v.extractLsb' 0 32 })) ∧
    (v = 0 → sets (.errSumCtlWrite v) fun r => { r with errCtl := 0, errRec := [] }) ∧
    (v ≠ 0 → exec (.errSumCtlWrite v) s = .next s) ∧
    (∀ off ∈ [0x8090, 0x8098, 0x80A0],
      (v ≠ 0 → write off = .next s) ∧
      (v = 0 → s.regs.bootStatus.toNat < 0x81 → ∃ t, write off = .next t ∧ reads t off 0 ∧ t.mem = s.mem ∧ t.groups = s.groups)) ∧
    sets (.merCtlWrite v) (fun r => { r with merMaster := v.getLsbD 0, merLocked := r.merLocked || v.getLsbD 0, merSlow := r.merSlow && !v.getLsbD 0 }) ∧
    -- the same registers in the window
    write 0x8048 = exec (.zoneReqWrite v) s ∧ write 0x8058 = exec (.tqBaseWrite v) s ∧ write 0x8068 = exec (.serviceTeamStart v) s ∧
    write 0x8080 = exec (.hsigTailWrite v) s ∧ write 0x8088 = exec (.errSumCtlWrite v) s ∧ write 0x80B0 = exec (.pwrCapWrite v) s ∧
    write 0x80C0 = exec (.attCtlStart v) s ∧ write 0x8188 = exec (.merCtlWrite v) s ∧ write 0x8190 = exec (.fwUpdStart v) s ∧
    write (8 * 0x106) = exec (.curfewWinWrite v) s ∧ write (8 * 0x10A) = exec (.leaseL1Write v) s ∧ write (8 * 0x10D) = exec (.featAcceptWrite v) s ∧
    (v.getLsbD 0 = true → write 0x8010 = exec .warmReset s) ∧ (v.getLsbD 0 = false → write 0x8010 = .next s) ∧
    (∀ off, off % 8 ≠ 0 → write off = .next s) ∧
    -- registers that keep bits
    (∀ q ∈ ([(0x8018, 0x000FFFFFFFF80000), (0x8020, 0x000FFFFFFFF00001), (0x8028, 0x000FFFFFFFFF0000), (0x8030, 0x000FFFFFFFF80000),
        (0x8038, 0x000FFFFFFFF80000), (0x8040, 0x000FFFFFFFFF8000), (0x8060, 0x007FFFFFFFFFFFFC), (0x8070, 0x000FFFFFFFFFF000),
        (0x8198, 0x000FFFFFFFFFF000), (0x81A0, 0x0000FFFFFFFFFFFF), (0x81A8, 0x0000FFFFFFFFFFFF)] : List (Nat × DWord)),
      s.regs.bootStatus.toNat < 0x81 → ∃ t, write q.1 = .next t ∧ reads t q.1 (v &&& q.2).toNat ∧ t.mem = s.mem ∧ t.groups = s.groups) ∧
    (s.regs.bootStatus.toNat < 0x81 →
      (s.regs.launched = false → ∃ t, write 0x8008 = .next t ∧ reads t 0x8008 (v &&& 0xFFFF03FF).toNat) ∧
      (s.regs.launched = true → write 0x8008 = .next s) ∧
      (s.regs.attNonce.length = 4 → ∀ i, i < 4 → ∃ t, write (0x80C8 + 8 * i) = .next t ∧ reads t (0x80C8 + 8 * i) v.toNat)) ∧
    (∀ i, i < 4096 → ∃ t, write (0x10000 + 8 * i) = .next t ∧ reads t (0x10000 + 8 * i) (v.toNat % 2 ^ 17)) ∧
    (∀ i, i < 64 → ∃ t, write (0x18000 + 8 * i) = .next t ∧ reads t (0x18000 + 8 * i) (v.toNat % 2 ^ 17)) ∧
    (∀ i, i < 1024 → ∃ t, write (0x24000 + 32 * i) = .next t ∧ reads t (0x24000 + 32 * i) (v &&& 0x0000FFFF0301FFFF).toNat ∧
      ∀ p ∈ t.qpairs, p ∈ s.qpairs ∧ p ≠ routePod s i ∧ p ≠ routePod t i) ∧
    -- the aperture
    (∀ (off n : Nat) (bs : List Byte), 0x80000 ≤ off → off + n ≤ 0x100000 → bs.length = n →
      s.regs.aperBase.toNat + (off - 0x80000) + n ≤ 0x5F80000000 → s.regs.bootStatus.toNat < 0x81 →
      exec (.apertureAccess ⟨off, n, some bs⟩) s = .next (s.pokeN (s.regs.aperBase.toNat + (off - 0x80000)) bs) ∧
      -- a read counts the errors that ECC corrects
      ∃ t, exec (.apertureAccess ⟨off, n, none⟩) s = .next t ∧
        { t with regs := s.regs, softErrs := s.softErrs } =
          { s with out := s.out ++ [.readData off (s.peekN (s.regs.aperBase.toNat + (off - 0x80000)) n)] } ∧
        { t.regs with ceHbm := s.regs.ceHbm } = s.regs ∧ (s.softErrs = [] → t.softErrs = [] ∧ t.regs = s.regs))

/-- R435, R437 to R439: a report or an update is started by writing 1 unless one is under way; the report is of 320 bytes over the nonce as it
stood and the running image, the update puts the staged image into flash once its signature and version pass; either ends with 3 where it fails.
R425, R427, R429, R431, R432, R434, R440, R441, R443, R444: the boot ROM shows its stages, checks the image in flash and ends in one of four codes, and
firmware offers the five features and maps HBM but for what is retired; a reset ends all work and clears the tables, and keeps the
crystallizer, fuses and flash; a warm one keeps HBM's undirtied bytes and the meridian too; after a loss of power each crystallizer region is as
its good header of the higher number says, which is as it was when a header was written; the cycles that run at a lowered clock are counted
as they run; a lock brings the meridian forward and never back, and one ahead by more than the bound counts slower instead. (What firmware finds at
boot is log entry 81, how the count of cycles wraps 80.) -/
def Obligations.ReportsResetsAndTime : Prop :=
  (∀ (s : State) (v : DWord),
    let sets := fun (i : Instr) (h : Regs → Regs) => exec i s = .next { s with regs := h s.regs }
    let one := v.extractLsb' 0 2 = 1
    (one → s.regs.attCtl ≠ 1 → sets (.attCtlStart v) fun r => { r with attCtl := 1, attReport := [], attTaken := r.attNonce }) ∧
    (¬one ∨ s.regs.attCtl = 1 → exec (.attCtlStart v) s = .next s) ∧
    (s.regs.attCtl ≠ 1 → exec .attestationComplete s = .next s) ∧
    (s.regs.attCtl = 1 →
      (Config.identityOk s.regs.attCount = true → s.regs.bootStatus = 4 → sets .attestationComplete fun r =>
        { r with attCtl := 2, attReport := reportBytes s, attCount := r.attCount + 1 }) ∧
      (Config.identityOk s.regs.attCount = false ∨ s.regs.bootStatus ≠ 4 → sets .attestationComplete fun r =>
        { r with attCtl := 3, attReport := [], attCount := r.attCount + 1 })) ∧
    (s.regs.attTaken.length = 4 → (reportBytes s).length = 320 ∧ fieldN (reportBytes s) 0 2 = 1 ∧ fieldN (reportBytes s) 4 4 = s.regs.fwSvn.toNat ∧
      fieldN (reportBytes s) 0x070 8 = s.regs.featOffer.toNat ∧ fieldN (reportBytes s) 0x078 8 = s.regs.featAccept.toNat ∧
      fieldN (reportBytes s) 0x080 8 = s.healthValue.toNat ∧ fieldN (reportBytes s) 0x088 8 = s.regs.deviceId.toNat ∧
      (∀ i, i < 64 → (reportBytes s).getD (0x030 + i) 0 = Config.imageDigest s.regs.running i) ∧
      ∀ i, i < 4 → fieldN (reportBytes s) (0x010 + 8 * i) 8 = (s.regs.attTaken.getD i 0).toNat) ∧
    (s.regs.fwUpd = 1 → exec (.fwUpdStart v) s = .next s) ∧
    (s.regs.fwUpd ≠ 1 → one → sets (.fwUpdStart v) fun r => { r with fwUpdLen := v.extractLsb' 32 32, fwUpd := 1 }) ∧
    (s.regs.fwUpd ≠ 1 → exec .fwUpdateComplete s = .next s) ∧
    (s.regs.fwUpd = 1 →
      let img := s.peekN s.regs.fwUpdSrc.toNat s.regs.fwUpdLen.toNat
      let passes := Config.imageSigned img = true ∧ s.regs.fwMin.toNat ≤ (Config.imageSvn img).toNat ∧ Config.flashWritable s.regs.fwCount = true
      (passes → sets .fwUpdateComplete fun r =>
        { r with fwUpd := 2, flash := img, flashGood := true, flashSvn := Config.imageSvn img, fwCount := r.fwCount + 1 }) ∧
      (¬passes → sets .fwUpdateComplete fun r => { r with fwUpd := 3, fwCount := r.fwCount + 1 }))) ∧
  ((∀ (s : State) (b : BootFacts),
    let sets := fun (h : Regs → Regs) => exec (.powerUp b) s = .next { s with regs := h s.regs }
    let low := s.regs.flashSvn.toNat < s.regs.fwMin.toNat
    (s.regs.bootStatus ≠ 1 → s.regs.bootStatus ≠ 2 → s.regs.bootStatus ≠ 3 → exec (.powerUp b) s = .next s) ∧
    (s.regs.bootStatus = 1 → sets fun r => { r with bootStatus := 2 }) ∧
    (s.regs.bootStatus = 2 →
      (s.regs.flashGood = false → sets fun r => { r with bootStatus := 0x81 }) ∧
      (s.regs.flashGood = true → low → sets fun r => { r with bootStatus := 0x82 }) ∧
      (s.regs.flashGood = true → ¬low → sets fun r => { r with bootStatus := 3, fwSvn := r.flashSvn, fwMin := r.flashSvn, running := r.flash })) ∧
    (s.regs.bootStatus = 3 →
      (b.testOk = false → sets fun r => { r with bootStatus := 0x83 }) ∧
      (b.testOk = true → s.retiredLines ≠ [] → mapOk s b.memMap = false → exec (.powerUp b) s = .next s) ∧
      (b.testOk = true → s.retiredLines = [] ∨ mapOk s b.memMap = true → ∃ t, exec (.powerUp b) s = .next t ∧ t.regs.bootStatus = 4 ∧
        t.regs.featOffer = 0x1F ∧ t.regs.featAccept = s.regs.featAccept ∧ t.regs.fwSvn = s.regs.fwSvn ∧ t.mem = s.mem ∧
        t.memMap = (if s.retiredLines = [] then [(0, 0x5F80000000)] else b.memMap) ∧
        (b.faulty = [] → ∀ core, s.colBanks core ≤ t.colBanks core ∧ t.softRepair = [])))) ∧
  (∀ s : State,
    let keeps := fun (t : State) => t.crystMem = s.crystMem ∧ t.regs.flash = s.regs.flash ∧ t.regs.fwMin = s.regs.fwMin ∧
      t.regs.health = s.regs.health ∧ t.erasedDie = s.erasedDie ∧ t.fuses = s.fuses ∧ t.softRepair = [] ∧
      t.retiredLines = s.retiredLines ++ s.ueLines.filter fun l => !s.retiredLines.contains l
    let clears := fun (t : State) => t.groups = [] ∧ t.teams = [] ∧ t.launches = [] ∧ t.saved = [] ∧ t.stores = [] ∧ t.l2 = [] ∧ t.cores = [] ∧
      t.counters = [] ∧ t.grants = [] ∧ t.routes = [] ∧ t.hps = [] ∧ t.recs = [] ∧ t.regs.bootStatus = 1 ∧ t.regs.featAccept = 0 ∧
      t.regs.pwrCap = 1500 ∧ t.regs.asidTable = 0 ∧ t.regs.deviceId = 0 ∧ t.regs.launched = false
    (∀ i ∈ [Instr.warmReset, .thermalTrip], ∃ t, exec i s = .next t ∧ clears t ∧ keeps t ∧ t.cryst = s.cryst ∧ t.meridian = s.meridian ∧
      t.regs.fwSvn = s.regs.fwSvn ∧ t.regs.merLocked = s.regs.merLocked ∧ t.regs.merMaster = s.regs.merMaster ∧
      ((∀ x ∈ s.l2, x.wtag = false) → t.mem = s.mem)) ∧
    (∃ t, exec .powerLoss s = .next t ∧ clears t ∧ keeps t ∧ t.meridian = 0 ∧ t.mem = [] ∧ t.regs.merLocked = false ∧
      (NMap.wf CrystRegion.new s.cryst = true → ∀ r, t.region r = fromHeader (s.region r)))) ∧
  (∀ x : CrystRegion, x.start < 2 ^ 32 → x.gap < 2 ^ 32 → x.wcount < 256 → x.remap.length ≤ 64 → (∀ e ∈ x.remap, e.1 < 2 ^ 26 ∧ e.2 < 64) →
    headerSeq x.hdrA < 2 ^ 32 - 1 → headerSeq x.hdrB < 2 ^ 32 - 1 → fromHeader (writeHeader x) = writeHeader x) ∧
  (∀ (s : State) (n : Nat),
    exec (.clockThrottle n) s = .next { s with slow := s.slow + n } ∧
    (let t := tick s n
     let ran := t.cycles - s.cycles
     s.meridian < t.meridian ∧ s.cycles ≤ t.cycles ∧ (s.slow = 0 → t.regs = s.regs ∧ t.slow = 0) ∧
     (s.slow ≠ 0 → t.slow = s.slow - ran ∧ t.regs = { s.regs with throttled := s.regs.throttled + BitVec.ofNat 24 (min ran s.slow) })) ∧
    (s.regs.merMaster = true ∨ s.regs.idWritten = false ∨ s.portsDown = BitVec.allOnes 16 → exec (.meridianLock n) s = .next s) ∧
    (s.regs.merMaster = false → s.regs.idWritten = true → s.portsDown ≠ BitVec.allOnes 16 →
      (n + 80 < s.meridian → exec (.meridianLock n) s = .next { s with regs := { s.regs with merSlow := true } }) ∧
      (s.meridian ≤ n + 80 →
        exec (.meridianLock n) s = .next { s with regs := { s.regs with merLocked := true, merSlow := false }, meridian := max s.meridian n })) ∧
    (s.regs.merMaster = true → exec .meridianLockLoss s = .next s) ∧
    (s.regs.merMaster = false → exec .meridianLockLoss s = .next { s with regs := { s.regs with merLocked := false } })))

/-! ### The machine as a whole -/

/-- R20, R21, R31, R35, R118 to R120, R483: a move of a sub-group that may issue, and that no other is due before, runs the instruction that its
fetched word decodes to, in a state that names it as the issuer and differs only in ageing counters, pipes, words fetched ahead and other
sub-groups' chains; a failed fetch and an unassigned word trap. A cycle issues for each slot at most one lane and one uniform instruction, of
two groups and without a port conflict. A move of the device runs that step. Every move takes its time first: a nanosecond, the model's choice
(log entry 6), and what the schedule adds. -/
def Obligations.AStepRunsTheInstruction : Prop :=
  ∀ (s : State) (m : Move) (rest : List Move), s.agenda = m :: rest →
    let s0 := tick { s with agenda := rest } m.dt
    s0.meridian = s.meridian + (m.dt + 1) ∧
    (∀ i, m.act = .event i → encode i = none → step s = exec i s0) ∧
    (m.act = .cycle → step s = issueEach (cycleChoice s0) (ageCycle (issueSlots s0) (cycleChoice s0) s0)) ∧
    (∀ core issue, (slotChoice s0 core issue).length ≤ 2 ∧ ∀ a b, slotChoice s0 core issue = [a, b] →
      a.gid ≠ b.gid ∧ ∀ x y, nextWord? s0 a = some x → nextWord? s0 b = some y → portConflict x y = false) ∧
    (∀ gid lane c0, m.act = .issue gid lane → s0.ctxOf gid lane = some c0 → dueInstead s0 c0 = none →
      let s1 := ageCycle [(c0.core, c0.u.issue)] [c0] s0
      { s1 with groups := s0.groups, cores := s0.cores } = s0 ∧
      ∃ c, s1.ctxOf gid lane = some c ∧ c.u = { c0.u with age := 0 } ∧ c.t = c0.t ∧ { c.g with subs := c0.g.subs } = c0.g ∧
        (c.u.mayIssue = true → c.u.endPending = false → c.u.stopPending = false → c.stoppedService = false → restoredItems c = [] →
          heldWord s1 c ≠ none ∨ podWaits s1 c (lowestLane c.active) .fetch c.u.pc 4 = false →
          (∀ s2 k, fetchWord s1 c = (s2, .error k) → step s = trapAllMem c s2 k c.u.pc) ∧
          (∀ s2 b0 b1 b2 b3, fetchWord s1 c = (s2, .ok [b0, b1, b2, b3]) →
            let w : Word := b3 ++ b2 ++ b1 ++ b0
            (pipeHeld s1 c w = true → step s = .next s1) ∧
            (∀ e, pipeHeld s1 c w = false → decode w = .error e → step s = trapAll c s2 1) ∧
            (∀ i, pipeHeld s1 c w = false → decode w = .ok i → step s = exec i (beforeIssue c i w s2) ∧
              (s2.ctxOf gid lane = some c → ∃ d, (beforeIssue c i w s2).ctx? = some d ∧ d.t = c.t ∧
                d.u = { c.u with ahead := if isWaitPoint i then [] else c.u.ahead.filter fun q => decide (c.u.pc < q.1) } ∧
                (∀ r l, d.g.lane r l = c.g.lane r l) ∧ d.g.pred = c.g.pred ∧ d.g.s = c.g.s ∧ d.g.k = c.g.k) ∧
              { beforeIssue c i w s2 with groups := s2.groups, cores := s2.cores, cur := s2.cur } = s2))))

/-- R23, R26, R36, R70, R103, R123, R139, R142, R146, R167, R169, R243, R392, R399, R409: words that the spec writes out decode to what it names, and the
two reserved words and the unassigned operation codes to nothing. -/
def Obligations.WordsOfTheSpec : Prop :=
  decode 0x00000000#32 = .error .reservedWord ∧ decode 0xFFFFFFFF#32 = .error .reservedWord ∧
  decode 0x80000000#32 = .ok .unop ∧
  decode 0x1F40C4FF#32 = .ok (.selp ⟨0xA, false, 3, 4, 0xFF⟩) ∧
  decode 0x86E1FFFF#32 = .ok (.uaddi ⟨7, 3, 0x7FFF⟩) ∧
  decode 0xBCE10001#32 = .ok (.curf ⟨7, 2, 0, 0⟩) ∧
  decode 0xA0E10000#32 = .ok (.enrol ⟨7, 2, 0, 0⟩) ∧
  decode 0xA0E11201#32 = .ok (.enrolMask ⟨7, 2, 9, 0⟩) ∧
  decode 0xA2E10000#32 = .ok (.rejoin ⟨7, 2, 0, 0⟩) ∧
  decode 0xA4E10000#32 = .ok (.strike ⟨7, 2, 0, 0⟩) ∧
  decode 0x9EE00000#32 = .ok (.ret ⟨7, 0, 0, 0⟩) ∧
  decode 0x9EE00A01#32 = .ok (.brx ⟨7, 0, 5, 0⟩) ∧
  decode 0x9EE00A02#32 = .ok (.callx ⟨7, 0, 5, 0⟩) ∧
  decode 0xA8E00001#32 = .ok (.lbrk 7 1) ∧
  decode 0xB2E00000#32 = .ok (.freeze ⟨7, 0, 0, 0⟩) ∧
  decode 0xB8E28C00#32 = .ok (.launch ⟨7, 5, 6, 0⟩) ∧
  decode 0xB8E28C01#32 = .ok (.launchTry ⟨7, 5, 6, 0⟩) ∧
  decode 0xC6E00400#32 = .ok (.tzero ⟨7, 0, 2, 0⟩) ∧
  decode 0xFAE18800#32 = .ok (.coll ⟨7, 3, 4, 0⟩) ∧
  decode 0xACE00801#32 = .ok (.sstepPod ⟨7, 0, 4, 0⟩) ∧
  decode 0xFCE18829#32 = .ok (.tresume ⟨7, 3, 4, 5⟩) ∧
  decode 0xFCE00804#32 = .ok (.hostsig ⟨7, 0, 4, 0⟩) ∧
  (∀ op ∈ [0x00, 0x2C, 0x2D, 0x2E, 0x2F, 0x36, 0x37, 0x3F], decode (BitVec.ofNat 32 (op * 2 ^ 25 + 1)) = .error .unassigned) ∧
  (∀ op ∈ [0x26, 0x27, 0x2F, 0x3F], decode (BitVec.ofNat 32 (2 ^ 31 + op * 2 ^ 25)) = .error .unassigned)

/-- R20, R23, R26, R36: a well-formed instruction's word decodes to it, with every operand; and a word that decodes is the word of its
instruction, which is well formed, so that no bit is ignored. -/
def Obligations.DecodeAndEncodeAgree : Prop :=
  (∀ (i : Instr) (w : Word), i.wf = true → encode i = some w → decode w = .ok i) ∧
  (∀ (i : Instr) (w : Word), decode w = .ok i → i.wf = true ∧ encode i = some w)

/-- R27, R35, R38, R179: a uniform instruction whose guard fails changes nothing and falls through, whatever its operands, USREAD and USWRITE of a
register that it may not name among them; before that, a feature not accepted, a compute form on a service core, and a privileged form in user
mode trap, in this order. UNOP, which has no guard, and BRD, of which no lane executes, fall through.
R32, R35, R156: a lane instruction that names a register outside its window, or whose feature is not accepted, or a compute form on a
service core, takes ILLEGAL, whatever its guard; else one that reads a latch that is not valid, whose producer is not one of the three instructions
before, or that three readers in a row have read before it, takes STALE_LATCH. -/
def Obligations.UniformChecks : Prop :=
  (∀ (s : State) (c : Ctx) (f : UniB), Issues {} s c →
    exec .unop s = .next (Falls c s id) ∧ (c.active ≠ 0 → c.execMask f.g = 0 → exec (.brd f) s = .next (Falls c s id))) ∧
  (∀ (s : State) (c : Ctx) (i : Instr) (g : BitVec 4) (G : Gate), s.ctx? = some c → uniformGate i = some (g, G) →
    let window := ∀ r ∈ G.regs, r < c.g.win
    let offered := ∀ b, G.feat = some b → s.regs.featAccept.getLsbD b = true
    let placed := G.cc = true → isService c.core = false
    let allowed := G.priv = true → c.t.priv = true
    let clear := (∀ x ∈ c.g.frag, x.sub &&& c.active ≠ 0 → ∀ r ∈ G.regs, ¬(x.d ≤ r ∧ r < x.d + 8)) ∧
      ∀ x ∈ c.g.late, (∃ q ∈ x.addrs, c.active.getLsbD q.1 = true) → ∀ r ∈ G.regs, ¬(x.d ≤ r ∧ r < x.d + (x.size + 3) / 4)
    (¬(window ∧ offered ∧ placed) → exec i s = trapAll c s 1) ∧
    (window → offered → placed → ¬allowed → exec i s = trapAll c s 2) ∧
    (window → offered → placed → allowed → clear → c.uguard g = false → exec i s = .next (Falls c s id))) ∧
  ∀ (s : State) (c : Ctx) (i : Instr) (G : Gate), s.ctx? = some c → laneGate i = some G →
    let window := ∀ r ∈ G.regs, r < c.g.win
    let offered := ∀ b, G.feat = some b → s.regs.featAccept.getLsbD b = true
    let placed := G.cc = true → isService c.core = false
    let fresh := ∀ n ∈ G.latches, ∃ b, c.u.chain[n]? = some b ∧ b.valid = true ∧ b.dist ≤ 2 ∧ c.u.latchRun < 3
    (¬(window ∧ offered ∧ placed) → exec i s = trapAll c s 1) ∧
    (window → offered → placed → ¬fresh → exec i s = trapAll c s 3)

/-- R122: CURFEW_WIN is 20,000 at reset; a privileged USWRITE stores the value clamped to 1,000 and 2,000,000, and USREAD returns it; curfew on a
team opens a window of that many cycles, which a later write leaves as it is. -/
def Obligations.CurfewWindow : Prop :=
  State.reset.regs.curfewWin = 20000 ∧
  (∀ (s : State) (c : Ctx) (f : UniI), Issues {} s c → f.i = 0x106 → c.uguard f.g = true →
    exec (.usread f) s = .next (Falls c s fun g => g.setS f.d.toNat (BitVec.ofNat 64 s.regs.curfewWin.toNat)) ∧
    (c.t.priv = true → ∃ x, x.toNat = max 1000 (min 2000000 ((c.sReg f.d).toNat % 2 ^ 21)) ∧
      exec (.uswrite f) s = .next (c.setSub { s with regs := { s.regs with curfewWin := x } } c.u.falls))) ∧
  (∀ (s : State) (L : Launch) (t x : Team) (base n : Nat), s.team? t.tid = some x →
    (((curfewOn s L t base n).team? t.tid).bind Team.curfew).map Curfew.until_ = some (s.cycles + s.regs.curfewWin.toNat)) ∧
  (∀ (s : State) (t : Team) (k : Curfew), s.team? t.tid = some t → t.curfew = some k → s.cycles < k.until_ →
    exec (.curfewWindowClose t.tid) s = .next s)

/-- R122, R316, R323, R429, R432, R434, R440, R443: the state after reset: the boot ROM runs, nothing is queued or resident, no feature is accepted, no
address space is in use, the counters of time are 0, and it meets the invariant. -/
def Obligations.ResetState : Prop :=
  let s := State.reset
  s.regs.bootStatus = 1 ∧ s.regs.featAccept = 0 ∧ s.regs.asidTable = 0 ∧ s.regs.pwrCap = 1500 ∧ s.regs.curfewWin = 20000 ∧ s.regs.leaseL1 = 256 ∧
  s.meridian = 0 ∧ s.cycles = 0 ∧ s.regs.launched = false ∧ s.groups = [] ∧ s.teams = [] ∧ s.launches = [] ∧ s.stores = [] ∧ s.recs = [] ∧
  s.counters = [] ∧ s.grants = [] ∧ s.routes = [] ∧ s.hps = [] ∧ s.inbound = [] ∧ s.podGrants = [] ∧ s.slow = 0 ∧ Memory.wf s.mem = true ∧
  s.regs.Legal ∧ s.Canonical ∧ s.SubsSound ∧ s.QueuesBounded

/-- R122, R323, R433, R440, R443: memory keeps its canonical form, and the registers with limits stay within them, in every step of the machine.
R142 to R145, R241, R293: local memory and the crystallizer keep theirs; call stacks and loop levels stay within their bounds, in
sub-groups that run and in those that are saved; the tile queues and the lookasides of the cores stay within theirs. -/
def Obligations.EveryStepKeepsTheInvariant : Prop :=
  ∀ s t : State, step s = .next t →
    (Memory.wf s.mem = true → s.regs.Legal → Memory.wf t.mem = true ∧ t.regs.Legal) ∧
    (s.Canonical → t.Canonical) ∧ (s.SubsSound → t.SubsSound) ∧ (s.QueuesBounded → t.QueuesBounded)

/-- R10, R35, R316, R444: no instruction and no step of the device ends a run: each answers a next state, wherever an instruction has its issuer, and so
does every step. But for a loss of power, the meridian never runs backwards: an instruction may leave it, a step moves it on by the nanosecond that each
takes (the model's choice: log entry 6) and what the schedule adds. -/
def Obligations.NothingStops : Prop :=
  (∀ (i : Instr) (s : State), encode i = none ∨ s.ctx?.isSome = true → ∃ t, exec i s = .next t ∧ (i = .powerLoss ∨ s.meridian ≤ t.meridian)) ∧
  (∀ s : State, ∃ t, step s = .next t ∧
    ((∃ m rest, s.agenda = m :: rest ∧ m.act = .event .powerLoss) ∨ s.meridian + ((s.agenda.head?.map Move.dt).getD 0 + 1) ≤ t.meridian))
end

