-- ==== Sys2Proof/Laws/NMap.lean ====
section
/-! SUPPORT. Laws of the sparse maps: a read after a write, what a write leaves alone, and that every operation keeps the
canonical form. -/

namespace Sys2Proof.Machine

variable {β : Type}

theorem NMap.get_erase_same (d : β) (k : Nat) (m : NMap β) : NMap.get d k (NMap.erase k m) = d := by
  induction m with
  | nil => rfl
  | cons x m ih =>
    obtain ⟨a, b⟩ := x
    by_cases h : a = k <;> simp [NMap.erase, NMap.get, h, ih]

theorem NMap.get_erase_other (d : β) {k j : Nat} (h : j ≠ k) (m : NMap β) : NMap.get d j (NMap.erase k m) = NMap.get d j m := by
  induction m with
  | nil => rfl
  | cons x m ih =>
    obtain ⟨a, b⟩ := x
    by_cases hk : a = k
    · have : a ≠ j := fun e => h (e.symm.trans hk)
      simp only [NMap.erase, if_pos hk, ih, NMap.get, if_neg this]
    · simp only [NMap.erase, if_neg hk, NMap.get, ih]

theorem NMap.get_insert_other (d : β) {k j : Nat} (h : j ≠ k) (v : β) (m : NMap β) :
    NMap.get d j (NMap.insert k v m) = NMap.get d j m := by
  induction m with
  | nil => simp [NMap.insert, NMap.get, Ne.symm h]
  | cons x m ih =>
    obtain ⟨a, b⟩ := x
    by_cases hk : k < a
    · simp [NMap.insert, hk, NMap.get, Ne.symm h]
    · simp only [NMap.insert, if_neg hk, NMap.get, ih]

theorem NMap.get_insert_erase (d : β) (k : Nat) (v : β) (m : NMap β) :
    NMap.get d k (NMap.insert k v (NMap.erase k m)) = v := by
  induction m with
  | nil => simp [NMap.erase, NMap.insert, NMap.get]
  | cons x m ih =>
    obtain ⟨a, b⟩ := x
    by_cases hk : a = k
    · simpa only [NMap.erase, if_pos hk] using ih
    · simp only [NMap.erase, if_neg hk]
      by_cases hl : k < a
      · simp [NMap.insert, hl, NMap.get]
      · simp only [NMap.insert, if_neg hl, NMap.get, if_neg hk, ih]

theorem NMap.mem_erase {k : Nat} {m : NMap β} {x : Nat × β} : x ∈ NMap.erase k m ↔ x ∈ m ∧ x.1 ≠ k := by
  induction m with
  | nil => simp [NMap.erase]
  | cons y m ih =>
    obtain ⟨a, b⟩ := y
    by_cases h : a = k
    · simp only [NMap.erase, if_pos h, ih, List.mem_cons]
      constructor
      · rintro ⟨h1, h2⟩; exact ⟨Or.inr h1, h2⟩
      · rintro ⟨rfl | h1, h2⟩
        · exact absurd h h2
        · exact ⟨h1, h2⟩
    · simp only [NMap.erase, if_neg h, List.mem_cons, ih]
      constructor
      · rintro (rfl | ⟨h1, h2⟩)
        · exact ⟨Or.inl rfl, h⟩
        · exact ⟨Or.inr h1, h2⟩
      · rintro ⟨rfl | h1, h2⟩
        · exact Or.inl rfl
        · exact Or.inr ⟨h1, h2⟩

theorem NMap.erase_sublist (k : Nat) (m : NMap β) : (NMap.erase k m).Sublist m := by
  induction m with
  | nil => exact List.Sublist.refl _
  | cons y m ih =>
    obtain ⟨a, b⟩ := y
    by_cases h : a = k
    · simp only [NMap.erase, if_pos h]; exact ih.cons _
    · simp only [NMap.erase, if_neg h]; exact ih.cons_cons _

theorem NMap.mem_insert {k : Nat} {v : β} {m : NMap β} {x : Nat × β} : x ∈ NMap.insert k v m ↔ x = (k, v) ∨ x ∈ m := by
  induction m with
  | nil => simp [NMap.insert]
  | cons y m ih =>
    obtain ⟨a, b⟩ := y
    by_cases h : k < a
    · simp [NMap.insert, h]
    · simp only [NMap.insert, if_neg h, List.mem_cons, ih]; tauto

theorem NMap.insert_pairwise {k : Nat} {v : β} {m : NMap β} (hk : ∀ x ∈ m, x.1 ≠ k) (h : m.Pairwise (fun x y => x.1 < y.1)) :
    (NMap.insert k v m).Pairwise (fun x y => x.1 < y.1) := by
  induction m with
  | nil => simp [NMap.insert]
  | cons y m ih =>
    obtain ⟨a, b⟩ := y
    rw [List.pairwise_cons] at h
    by_cases hl : k < a
    · simp only [NMap.insert, if_pos hl, List.pairwise_cons, List.mem_cons]
      refine ⟨?_, h⟩
      rintro x (rfl | hx)
      · exact hl
      · exact Nat.lt_trans hl (h.1 x hx)
    · simp only [NMap.insert, if_neg hl, List.pairwise_cons]
      refine ⟨?_, ih (fun x hx => hk x (List.mem_cons_of_mem _ hx)) h.2⟩
      intro x hx
      rcases NMap.mem_insert.1 hx with rfl | hx
      · exact Nat.lt_of_le_of_ne (Nat.le_of_not_lt hl) (hk _ (List.mem_cons_self ..))
      · exact h.1 x hx

theorem NMap.clear_sublist (lo n : Nat) (m : NMap β) : (NMap.clear lo n m).Sublist m := by
  induction m with
  | nil => exact List.Sublist.refl _
  | cons y m ih =>
    obtain ⟨a, b⟩ := y
    simp only [NMap.clear]
    split
    · exact ih.cons _
    · exact ih.cons_cons _

theorem NMap.get_clear (d : β) (lo n k : Nat) (m : NMap β) :
    NMap.get d k (NMap.clear lo n m) = if lo ≤ k ∧ k < lo + n then d else NMap.get d k m := by
  induction m with
  | nil => simp [NMap.clear, NMap.get]
  | cons x m ih =>
    obtain ⟨a, b⟩ := x
    by_cases hk : a = k
    · subst hk
      by_cases hr : lo ≤ a ∧ a < lo + n
      · simpa [NMap.clear, hr, NMap.get] using ih
      · have : (decide (lo ≤ a) && decide (a < lo + n)) = false := by simpa using hr
        simp [NMap.clear, this, NMap.get, hr]
    · by_cases hr : (decide (lo ≤ a) && decide (a < lo + n)) = true
      · simp only [NMap.clear, hr, if_true, ih, NMap.get, if_neg hk]
      · simp only [NMap.clear, if_neg hr, NMap.get, if_neg hk, ih]

variable [DecidableEq β]

/-- A read of the key written gives the value written. -/
@[simp] theorem NMap.get_set_same (d : β) (k : Nat) (v : β) (m : NMap β) : NMap.get d k (NMap.set d k v m) = v := by
  by_cases h : v = d
  · subst h; simp only [NMap.set, if_true, NMap.get_erase_same]
  · simp only [NMap.set, if_neg h, NMap.get_insert_erase]

/-- A write leaves every other key alone. -/
theorem NMap.get_set_other (d : β) {k j : Nat} (h : j ≠ k) (v : β) (m : NMap β) :
    NMap.get d j (NMap.set d k v m) = NMap.get d j m := by
  unfold NMap.set
  split
  · exact NMap.get_erase_other d h m
  · rw [NMap.get_insert_other d h, NMap.get_erase_other d h]

theorem NMap.get_set (d : β) (k j : Nat) (v : β) (m : NMap β) :
    NMap.get d j (NMap.set d k v m) = if j = k then v else NMap.get d j m := by
  by_cases h : j = k
  · simp [h]
  · simp [NMap.get_set_other d h, h]

/-! ### The canonical form -/

/-- The canonical form, said of every entry and its successors. -/
theorem NMap.wf_iff (d : β) (m : NMap β) :
    NMap.wf d m = true ↔ (∀ x ∈ m, x.2 ≠ d) ∧ m.Pairwise (fun x y => x.1 < y.1) := by
  induction m with
  | nil => simp [NMap.wf]
  | cons x m ih =>
    obtain ⟨a, b⟩ := x
    cases m with
    | nil => simp [NMap.wf]
    | cons y m =>
      obtain ⟨a', b'⟩ := y
      simp only [NMap.wf, Bool.and_eq_true, ih, List.pairwise_cons, List.mem_cons]
      constructor
      · rintro ⟨⟨hb, ha⟩, hd, hp, hs⟩
        have ha := of_decide_eq_true ha
        refine ⟨?_, ?_, hp, hs⟩
        · rintro x (rfl | h)
          · simpa using hb
          · exact hd x h
        · rintro y (rfl | h)
          · exact ha
          · exact Nat.lt_trans ha (hp y h)
      · rintro ⟨hd, hp, hq, hs⟩
        exact ⟨⟨by simpa using hd _ (Or.inl rfl), by simpa using hp _ (Or.inl rfl)⟩, fun x h => hd x (Or.inr h), hq, hs⟩

theorem NMap.wf_erase {d : β} {m : NMap β} (k : Nat) (h : NMap.wf d m = true) : NMap.wf d (NMap.erase k m) = true := by
  rw [NMap.wf_iff] at *
  exact ⟨fun x hx => h.1 x (NMap.mem_erase.1 hx).1, h.2.sublist (NMap.erase_sublist k m)⟩

/-- A write keeps the canonical form. -/
theorem NMap.wf_set {d : β} {m : NMap β} (k : Nat) (v : β) (h : NMap.wf d m = true) : NMap.wf d (NMap.set d k v m) = true := by
  unfold NMap.set
  split
  · exact NMap.wf_erase k h
  · rename_i hv
    have he := (NMap.wf_iff d _).1 (NMap.wf_erase k h)
    rw [NMap.wf_iff]
    refine ⟨fun x hx => ?_, NMap.insert_pairwise (fun x hx => (NMap.mem_erase.1 hx).2) he.2⟩
    rcases NMap.mem_insert.1 hx with rfl | hx
    · exact hv
    · exact he.1 x hx

/-- Clearing a range keeps the canonical form. -/
theorem NMap.wf_clear {d : β} {m : NMap β} (lo n : Nat) (h : NMap.wf d m = true) : NMap.wf d (NMap.clear lo n m) = true := by
  rw [NMap.wf_iff] at *
  exact ⟨fun x hx => h.1 x ((NMap.clear_sublist lo n m).subset hx), h.2.sublist (NMap.clear_sublist lo n m)⟩

theorem NMap.wf_nil (d : β) : NMap.wf d ([] : NMap β) = true := rfl

theorem NMap.get_filterMap {β : Type} [DecidableEq β] (d : β) (f : Nat → β) (k : Nat) : ∀ l : List Nat, l.Nodup →
    NMap.get d k (l.filterMap fun k => if f k = d then none else some (k, f k)) = if k ∈ l then f k else d := by
  intro l hl
  induction l with
  | nil => rfl
  | cons a l ih =>
    have ha := List.nodup_cons.mp hl
    rw [List.filterMap_cons]
    by_cases h : f a = d
    · simp only [h, if_true]
      rw [ih ha.2]
      by_cases hk : k = a
      · subst hk; simp [ha.1, h]
      · simp [hk]
    · simp only [h, if_false, NMap.get]
      by_cases hk : a = k
      · subst hk; simp
      · rw [if_neg hk, ih ha.2]; simp [Ne.symm hk]

/-- A tabled map reads as its function below the bound. -/
theorem NMap.get_tab {β : Type} [DecidableEq β] (d : β) (n : Nat) (f : Nat → β) (k : Nat) :
    NMap.get d k (NMap.tab d n f) = if k < n then f k else d := by
  rw [NMap.tab, NMap.get_filterMap d f k _ List.nodup_range]; simp

end Sys2Proof.Machine
end

