-- ==== Sys2Proof/Laws/State.lean ====
section
/-! SUPPORT. What each update of the state leaves alone: one lemma for each field and update. -/

namespace Sys2Proof.Machine

variable (s : State)

@[simp] theorem State.setCore_agenda (n : Nat) (x : CoreSt) : (s.setCore n x).agenda = s.agenda := rfl
@[simp] theorem State.setCore_cur (n : Nat) (x : CoreSt) : (s.setCore n x).cur = s.cur := rfl
@[simp] theorem State.setCore_fresh (n : Nat) (x : CoreSt) : (s.setCore n x).fresh = s.fresh := rfl
@[simp] theorem State.setCore_meridian (n : Nat) (x : CoreSt) : (s.setCore n x).meridian = s.meridian := rfl
@[simp] theorem State.setCore_cycles (n : Nat) (x : CoreSt) : (s.setCore n x).cycles = s.cycles := rfl
@[simp] theorem State.setCore_frac (n : Nat) (x : CoreSt) : (s.setCore n x).frac = s.frac := rfl
@[simp] theorem State.setCore_slow (n : Nat) (x : CoreSt) : (s.setCore n x).slow = s.slow := rfl
@[simp] theorem State.setCore_groups (n : Nat) (x : CoreSt) : (s.setCore n x).groups = s.groups := rfl
@[simp] theorem State.setCore_teams (n : Nat) (x : CoreSt) : (s.setCore n x).teams = s.teams := rfl
@[simp] theorem State.setCore_nextGid (n : Nat) (x : CoreSt) : (s.setCore n x).nextGid = s.nextGid := rfl
@[simp] theorem State.setCore_nextTid (n : Nat) (x : CoreSt) : (s.setCore n x).nextTid = s.nextTid := rfl
@[simp] theorem State.setCore_nextChild (n : Nat) (x : CoreSt) : (s.setCore n x).nextChild = s.nextChild := rfl
@[simp] theorem State.setCore_launches (n : Nat) (x : CoreSt) : (s.setCore n x).launches = s.launches := rfl
@[simp] theorem State.setCore_nextSeq (n : Nat) (x : CoreSt) : (s.setCore n x).nextSeq = s.nextSeq := rfl
@[simp] theorem State.setCore_doneClock (n : Nat) (x : CoreSt) : (s.setCore n x).doneClock = s.doneClock := rfl
@[simp] theorem State.setCore_saved (n : Nat) (x : CoreSt) : (s.setCore n x).saved = s.saved := rfl
@[simp] theorem State.setCore_held (n : Nat) (x : CoreSt) : (s.setCore n x).held = s.held := rfl
@[simp] theorem State.setCore_granules (n : Nat) (x : CoreSt) : (s.setCore n x).granules = s.granules := rfl
@[simp] theorem State.setCore_regions (n : Nat) (x : CoreSt) : (s.setCore n x).regions = s.regions := rfl
@[simp] theorem State.setCore_hps (n : Nat) (x : CoreSt) : (s.setCore n x).hps = s.hps := rfl
@[simp] theorem State.setCore_mem (n : Nat) (x : CoreSt) : (s.setCore n x).mem = s.mem := rfl
@[simp] theorem State.setCore_podMem (n : Nat) (x : CoreSt) : (s.setCore n x).podMem = s.podMem := rfl
@[simp] theorem State.setCore_localMem (n : Nat) (x : CoreSt) : (s.setCore n x).localMem = s.localMem := rfl
@[simp] theorem State.setCore_l2 (n : Nat) (x : CoreSt) : (s.setCore n x).l2 = s.l2 := rfl
@[simp] theorem State.setCore_tlb (n : Nat) (x : CoreSt) : (s.setCore n x).tlb = s.tlb := rfl
@[simp] theorem State.setCore_frames (n : Nat) (x : CoreSt) : (s.setCore n x).frames = s.frames := rfl
@[simp] theorem State.setCore_stores (n : Nat) (x : CoreSt) : (s.setCore n x).stores = s.stores := rfl
@[simp] theorem State.setCore_nextStore (n : Nat) (x : CoreSt) : (s.setCore n x).nextStore = s.nextStore := rfl
@[simp] theorem State.setCore_fails (n : Nat) (x : CoreSt) : (s.setCore n x).fails = s.fails := rfl
@[simp] theorem State.setCore_snaps (n : Nat) (x : CoreSt) : (s.setCore n x).snaps = s.snaps := rfl
@[simp] theorem State.setCore_podGrants (n : Nat) (x : CoreSt) : (s.setCore n x).podGrants = s.podGrants := rfl
@[simp] theorem State.setCore_podCaps (n : Nat) (x : CoreSt) : (s.setCore n x).podCaps = s.podCaps := rfl
@[simp] theorem State.setCore_lateSeq (n : Nat) (x : CoreSt) : (s.setCore n x).lateSeq = s.lateSeq := rfl
@[simp] theorem State.setCore_issuesLate (n : Nat) (x : CoreSt) : (s.setCore n x).issuesLate = s.issuesLate := rfl
@[simp] theorem State.setCore_zone (n : Nat) (x : CoreSt) : (s.setCore n x).zone = s.zone := rfl
@[simp] theorem State.setCore_zoneCursor (n : Nat) (x : CoreSt) : (s.setCore n x).zoneCursor = s.zoneCursor := rfl
@[simp] theorem State.setCore_noticeNext (n : Nat) (x : CoreSt) : (s.setCore n x).noticeNext = s.noticeNext := rfl
@[simp] theorem State.setCore_badMem (n : Nat) (x : CoreSt) : (s.setCore n x).badMem = s.badMem := rfl
@[simp] theorem State.setCore_badL2 (n : Nat) (x : CoreSt) : (s.setCore n x).badL2 = s.badL2 := rfl
@[simp] theorem State.setCore_badLocal (n : Nat) (x : CoreSt) : (s.setCore n x).badLocal = s.badLocal := rfl
@[simp] theorem State.setCore_softErrs (n : Nat) (x : CoreSt) : (s.setCore n x).softErrs = s.softErrs := rfl
@[simp] theorem State.setCore_podFaults (n : Nat) (x : CoreSt) : (s.setCore n x).podFaults = s.podFaults := rfl
@[simp] theorem State.setCore_badRegs (n : Nat) (x : CoreSt) : (s.setCore n x).badRegs = s.badRegs := rfl
@[simp] theorem State.setCore_badFrag (n : Nat) (x : CoreSt) : (s.setCore n x).badFrag = s.badFrag := rfl
@[simp] theorem State.setCore_badCryst (n : Nat) (x : CoreSt) : (s.setCore n x).badCryst = s.badCryst := rfl
@[simp] theorem State.setCore_fuses (n : Nat) (x : CoreSt) : (s.setCore n x).fuses = s.fuses := rfl
@[simp] theorem State.setCore_softRepair (n : Nat) (x : CoreSt) : (s.setCore n x).softRepair = s.softRepair := rfl
@[simp] theorem State.setCore_ueLines (n : Nat) (x : CoreSt) : (s.setCore n x).ueLines = s.ueLines := rfl
@[simp] theorem State.setCore_retiredLines (n : Nat) (x : CoreSt) : (s.setCore n x).retiredLines = s.retiredLines := rfl
@[simp] theorem State.setCore_copies (n : Nat) (x : CoreSt) : (s.setCore n x).copies = s.copies := rfl
@[simp] theorem State.setCore_copyTickets (n : Nat) (x : CoreSt) : (s.setCore n x).copyTickets = s.copyTickets := rfl
@[simp] theorem State.setCore_copySeq (n : Nat) (x : CoreSt) : (s.setCore n x).copySeq = s.copySeq := rfl
@[simp] theorem State.setCore_brine (n : Nat) (x : CoreSt) : (s.setCore n x).brine = s.brine := rfl
@[simp] theorem State.setCore_brineTickets (n : Nat) (x : CoreSt) : (s.setCore n x).brineTickets = s.brineTickets := rfl
@[simp] theorem State.setCore_brineSeq (n : Nat) (x : CoreSt) : (s.setCore n x).brineSeq = s.brineSeq := rfl
@[simp] theorem State.setCore_brineTables (n : Nat) (x : CoreSt) : (s.setCore n x).brineTables = s.brineTables := rfl
@[simp] theorem State.setCore_sluice (n : Nat) (x : CoreSt) : (s.setCore n x).sluice = s.sluice := rfl
@[simp] theorem State.setCore_sluiceSeq (n : Nat) (x : CoreSt) : (s.setCore n x).sluiceSeq = s.sluiceSeq := rfl
@[simp] theorem State.setCore_engOrder (n : Nat) (x : CoreSt) : (s.setCore n x).engOrder = s.engOrder := rfl
@[simp] theorem State.setCore_transfers (n : Nat) (x : CoreSt) : (s.setCore n x).transfers = s.transfers := rfl
@[simp] theorem State.setCore_fabTickets (n : Nat) (x : CoreSt) : (s.setCore n x).fabTickets = s.fabTickets := rfl
@[simp] theorem State.setCore_fabSeq (n : Nat) (x : CoreSt) : (s.setCore n x).fabSeq = s.fabSeq := rfl
@[simp] theorem State.setCore_counters (n : Nat) (x : CoreSt) : (s.setCore n x).counters = s.counters := rfl
@[simp] theorem State.setCore_tsend (n : Nat) (x : CoreSt) : (s.setCore n x).tsend = s.tsend := rfl
@[simp] theorem State.setCore_tsendSeq (n : Nat) (x : CoreSt) : (s.setCore n x).tsendSeq = s.tsendSeq := rfl
@[simp] theorem State.setCore_colls (n : Nat) (x : CoreSt) : (s.setCore n x).colls = s.colls := rfl
@[simp] theorem State.setCore_inbound (n : Nat) (x : CoreSt) : (s.setCore n x).inbound = s.inbound := rfl
@[simp] theorem State.setCore_portsDown (n : Nat) (x : CoreSt) : (s.setCore n x).portsDown = s.portsDown := rfl
@[simp] theorem State.setCore_recs (n : Nat) (x : CoreSt) : (s.setCore n x).recs = s.recs := rfl
@[simp] theorem State.setCore_nextRec (n : Nat) (x : CoreSt) : (s.setCore n x).nextRec = s.nextRec := rfl
@[simp] theorem State.setCore_ringUse (n : Nat) (x : CoreSt) : (s.setCore n x).ringUse = s.ringUse := rfl
@[simp] theorem State.setCore_ringLast (n : Nat) (x : CoreSt) : (s.setCore n x).ringLast = s.ringLast := rfl
@[simp] theorem State.setCore_ringFaulted (n : Nat) (x : CoreSt) : (s.setCore n x).ringFaulted = s.ringFaulted := rfl
@[simp] theorem State.setCore_sigWait (n : Nat) (x : CoreSt) : (s.setCore n x).sigWait = s.sigWait := rfl
@[simp] theorem State.setCore_cryst (n : Nat) (x : CoreSt) : (s.setCore n x).cryst = s.cryst := rfl
@[simp] theorem State.setCore_crystMem (n : Nat) (x : CoreSt) : (s.setCore n x).crystMem = s.crystMem := rfl
@[simp] theorem State.setCore_grants (n : Nat) (x : CoreSt) : (s.setCore n x).grants = s.grants := rfl
@[simp] theorem State.setCore_routes (n : Nat) (x : CoreSt) : (s.setCore n x).routes = s.routes := rfl
@[simp] theorem State.setCore_qpairs (n : Nat) (x : CoreSt) : (s.setCore n x).qpairs = s.qpairs := rfl
@[simp] theorem State.setCore_dieCe (n : Nat) (x : CoreSt) : (s.setCore n x).dieCe = s.dieCe := rfl
@[simp] theorem State.setCore_erasedDie (n : Nat) (x : CoreSt) : (s.setCore n x).erasedDie = s.erasedDie := rfl
@[simp] theorem State.setCore_memMap (n : Nat) (x : CoreSt) : (s.setCore n x).memMap = s.memMap := rfl
@[simp] theorem State.setCore_regs (n : Nat) (x : CoreSt) : (s.setCore n x).regs = s.regs := rfl
@[simp] theorem State.setCore_out (n : Nat) (x : CoreSt) : (s.setCore n x).out = s.out := rfl

@[simp] theorem State.modCore_agenda (n : Nat) (f : CoreSt → CoreSt) : (s.modCore n f).agenda = s.agenda := rfl
@[simp] theorem State.modCore_cur (n : Nat) (f : CoreSt → CoreSt) : (s.modCore n f).cur = s.cur := rfl
@[simp] theorem State.modCore_fresh (n : Nat) (f : CoreSt → CoreSt) : (s.modCore n f).fresh = s.fresh := rfl
@[simp] theorem State.modCore_meridian (n : Nat) (f : CoreSt → CoreSt) : (s.modCore n f).meridian = s.meridian := rfl
@[simp] theorem State.modCore_cycles (n : Nat) (f : CoreSt → CoreSt) : (s.modCore n f).cycles = s.cycles := rfl
@[simp] theorem State.modCore_frac (n : Nat) (f : CoreSt → CoreSt) : (s.modCore n f).frac = s.frac := rfl
@[simp] theorem State.modCore_slow (n : Nat) (f : CoreSt → CoreSt) : (s.modCore n f).slow = s.slow := rfl
@[simp] theorem State.modCore_groups (n : Nat) (f : CoreSt → CoreSt) : (s.modCore n f).groups = s.groups := rfl
@[simp] theorem State.modCore_teams (n : Nat) (f : CoreSt → CoreSt) : (s.modCore n f).teams = s.teams := rfl
@[simp] theorem State.modCore_nextGid (n : Nat) (f : CoreSt → CoreSt) : (s.modCore n f).nextGid = s.nextGid := rfl
@[simp] theorem State.modCore_nextTid (n : Nat) (f : CoreSt → CoreSt) : (s.modCore n f).nextTid = s.nextTid := rfl
@[simp] theorem State.modCore_nextChild (n : Nat) (f : CoreSt → CoreSt) : (s.modCore n f).nextChild = s.nextChild := rfl
@[simp] theorem State.modCore_launches (n : Nat) (f : CoreSt → CoreSt) : (s.modCore n f).launches = s.launches := rfl
@[simp] theorem State.modCore_nextSeq (n : Nat) (f : CoreSt → CoreSt) : (s.modCore n f).nextSeq = s.nextSeq := rfl
@[simp] theorem State.modCore_doneClock (n : Nat) (f : CoreSt → CoreSt) : (s.modCore n f).doneClock = s.doneClock := rfl
@[simp] theorem State.modCore_saved (n : Nat) (f : CoreSt → CoreSt) : (s.modCore n f).saved = s.saved := rfl
@[simp] theorem State.modCore_held (n : Nat) (f : CoreSt → CoreSt) : (s.modCore n f).held = s.held := rfl
@[simp] theorem State.modCore_granules (n : Nat) (f : CoreSt → CoreSt) : (s.modCore n f).granules = s.granules := rfl
@[simp] theorem State.modCore_regions (n : Nat) (f : CoreSt → CoreSt) : (s.modCore n f).regions = s.regions := rfl
@[simp] theorem State.modCore_hps (n : Nat) (f : CoreSt → CoreSt) : (s.modCore n f).hps = s.hps := rfl
@[simp] theorem State.modCore_mem (n : Nat) (f : CoreSt → CoreSt) : (s.modCore n f).mem = s.mem := rfl
@[simp] theorem State.modCore_podMem (n : Nat) (f : CoreSt → CoreSt) : (s.modCore n f).podMem = s.podMem := rfl
@[simp] theorem State.modCore_localMem (n : Nat) (f : CoreSt → CoreSt) : (s.modCore n f).localMem = s.localMem := rfl
@[simp] theorem State.modCore_l2 (n : Nat) (f : CoreSt → CoreSt) : (s.modCore n f).l2 = s.l2 := rfl
@[simp] theorem State.modCore_tlb (n : Nat) (f : CoreSt → CoreSt) : (s.modCore n f).tlb = s.tlb := rfl
@[simp] theorem State.modCore_frames (n : Nat) (f : CoreSt → CoreSt) : (s.modCore n f).frames = s.frames := rfl
@[simp] theorem State.modCore_stores (n : Nat) (f : CoreSt → CoreSt) : (s.modCore n f).stores = s.stores := rfl
@[simp] theorem State.modCore_nextStore (n : Nat) (f : CoreSt → CoreSt) : (s.modCore n f).nextStore = s.nextStore := rfl
@[simp] theorem State.modCore_fails (n : Nat) (f : CoreSt → CoreSt) : (s.modCore n f).fails = s.fails := rfl
@[simp] theorem State.modCore_snaps (n : Nat) (f : CoreSt → CoreSt) : (s.modCore n f).snaps = s.snaps := rfl
@[simp] theorem State.modCore_podGrants (n : Nat) (f : CoreSt → CoreSt) : (s.modCore n f).podGrants = s.podGrants := rfl
@[simp] theorem State.modCore_podCaps (n : Nat) (f : CoreSt → CoreSt) : (s.modCore n f).podCaps = s.podCaps := rfl
@[simp] theorem State.modCore_lateSeq (n : Nat) (f : CoreSt → CoreSt) : (s.modCore n f).lateSeq = s.lateSeq := rfl
@[simp] theorem State.modCore_issuesLate (n : Nat) (f : CoreSt → CoreSt) : (s.modCore n f).issuesLate = s.issuesLate := rfl
@[simp] theorem State.modCore_zone (n : Nat) (f : CoreSt → CoreSt) : (s.modCore n f).zone = s.zone := rfl
@[simp] theorem State.modCore_zoneCursor (n : Nat) (f : CoreSt → CoreSt) : (s.modCore n f).zoneCursor = s.zoneCursor := rfl
@[simp] theorem State.modCore_noticeNext (n : Nat) (f : CoreSt → CoreSt) : (s.modCore n f).noticeNext = s.noticeNext := rfl
@[simp] theorem State.modCore_badMem (n : Nat) (f : CoreSt → CoreSt) : (s.modCore n f).badMem = s.badMem := rfl
@[simp] theorem State.modCore_badL2 (n : Nat) (f : CoreSt → CoreSt) : (s.modCore n f).badL2 = s.badL2 := rfl
@[simp] theorem State.modCore_badLocal (n : Nat) (f : CoreSt → CoreSt) : (s.modCore n f).badLocal = s.badLocal := rfl
@[simp] theorem State.modCore_softErrs (n : Nat) (f : CoreSt → CoreSt) : (s.modCore n f).softErrs = s.softErrs := rfl
@[simp] theorem State.modCore_podFaults (n : Nat) (f : CoreSt → CoreSt) : (s.modCore n f).podFaults = s.podFaults := rfl
@[simp] theorem State.modCore_badRegs (n : Nat) (f : CoreSt → CoreSt) : (s.modCore n f).badRegs = s.badRegs := rfl
@[simp] theorem State.modCore_badFrag (n : Nat) (f : CoreSt → CoreSt) : (s.modCore n f).badFrag = s.badFrag := rfl
@[simp] theorem State.modCore_badCryst (n : Nat) (f : CoreSt → CoreSt) : (s.modCore n f).badCryst = s.badCryst := rfl
@[simp] theorem State.modCore_fuses (n : Nat) (f : CoreSt → CoreSt) : (s.modCore n f).fuses = s.fuses := rfl
@[simp] theorem State.modCore_softRepair (n : Nat) (f : CoreSt → CoreSt) : (s.modCore n f).softRepair = s.softRepair := rfl
@[simp] theorem State.modCore_ueLines (n : Nat) (f : CoreSt → CoreSt) : (s.modCore n f).ueLines = s.ueLines := rfl
@[simp] theorem State.modCore_retiredLines (n : Nat) (f : CoreSt → CoreSt) : (s.modCore n f).retiredLines = s.retiredLines := rfl
@[simp] theorem State.modCore_copies (n : Nat) (f : CoreSt → CoreSt) : (s.modCore n f).copies = s.copies := rfl
@[simp] theorem State.modCore_copyTickets (n : Nat) (f : CoreSt → CoreSt) : (s.modCore n f).copyTickets = s.copyTickets := rfl
@[simp] theorem State.modCore_copySeq (n : Nat) (f : CoreSt → CoreSt) : (s.modCore n f).copySeq = s.copySeq := rfl
@[simp] theorem State.modCore_brine (n : Nat) (f : CoreSt → CoreSt) : (s.modCore n f).brine = s.brine := rfl
@[simp] theorem State.modCore_brineTickets (n : Nat) (f : CoreSt → CoreSt) : (s.modCore n f).brineTickets = s.brineTickets := rfl
@[simp] theorem State.modCore_brineSeq (n : Nat) (f : CoreSt → CoreSt) : (s.modCore n f).brineSeq = s.brineSeq := rfl
@[simp] theorem State.modCore_brineTables (n : Nat) (f : CoreSt → CoreSt) : (s.modCore n f).brineTables = s.brineTables := rfl
@[simp] theorem State.modCore_sluice (n : Nat) (f : CoreSt → CoreSt) : (s.modCore n f).sluice = s.sluice := rfl
@[simp] theorem State.modCore_sluiceSeq (n : Nat) (f : CoreSt → CoreSt) : (s.modCore n f).sluiceSeq = s.sluiceSeq := rfl
@[simp] theorem State.modCore_engOrder (n : Nat) (f : CoreSt → CoreSt) : (s.modCore n f).engOrder = s.engOrder := rfl
@[simp] theorem State.modCore_transfers (n : Nat) (f : CoreSt → CoreSt) : (s.modCore n f).transfers = s.transfers := rfl
@[simp] theorem State.modCore_fabTickets (n : Nat) (f : CoreSt → CoreSt) : (s.modCore n f).fabTickets = s.fabTickets := rfl
@[simp] theorem State.modCore_fabSeq (n : Nat) (f : CoreSt → CoreSt) : (s.modCore n f).fabSeq = s.fabSeq := rfl
@[simp] theorem State.modCore_counters (n : Nat) (f : CoreSt → CoreSt) : (s.modCore n f).counters = s.counters := rfl
@[simp] theorem State.modCore_tsend (n : Nat) (f : CoreSt → CoreSt) : (s.modCore n f).tsend = s.tsend := rfl
@[simp] theorem State.modCore_tsendSeq (n : Nat) (f : CoreSt → CoreSt) : (s.modCore n f).tsendSeq = s.tsendSeq := rfl
@[simp] theorem State.modCore_colls (n : Nat) (f : CoreSt → CoreSt) : (s.modCore n f).colls = s.colls := rfl
@[simp] theorem State.modCore_inbound (n : Nat) (f : CoreSt → CoreSt) : (s.modCore n f).inbound = s.inbound := rfl
@[simp] theorem State.modCore_portsDown (n : Nat) (f : CoreSt → CoreSt) : (s.modCore n f).portsDown = s.portsDown := rfl
@[simp] theorem State.modCore_recs (n : Nat) (f : CoreSt → CoreSt) : (s.modCore n f).recs = s.recs := rfl
@[simp] theorem State.modCore_nextRec (n : Nat) (f : CoreSt → CoreSt) : (s.modCore n f).nextRec = s.nextRec := rfl
@[simp] theorem State.modCore_ringUse (n : Nat) (f : CoreSt → CoreSt) : (s.modCore n f).ringUse = s.ringUse := rfl
@[simp] theorem State.modCore_ringLast (n : Nat) (f : CoreSt → CoreSt) : (s.modCore n f).ringLast = s.ringLast := rfl
@[simp] theorem State.modCore_ringFaulted (n : Nat) (f : CoreSt → CoreSt) : (s.modCore n f).ringFaulted = s.ringFaulted := rfl
@[simp] theorem State.modCore_sigWait (n : Nat) (f : CoreSt → CoreSt) : (s.modCore n f).sigWait = s.sigWait := rfl
@[simp] theorem State.modCore_cryst (n : Nat) (f : CoreSt → CoreSt) : (s.modCore n f).cryst = s.cryst := rfl
@[simp] theorem State.modCore_crystMem (n : Nat) (f : CoreSt → CoreSt) : (s.modCore n f).crystMem = s.crystMem := rfl
@[simp] theorem State.modCore_grants (n : Nat) (f : CoreSt → CoreSt) : (s.modCore n f).grants = s.grants := rfl
@[simp] theorem State.modCore_routes (n : Nat) (f : CoreSt → CoreSt) : (s.modCore n f).routes = s.routes := rfl
@[simp] theorem State.modCore_qpairs (n : Nat) (f : CoreSt → CoreSt) : (s.modCore n f).qpairs = s.qpairs := rfl
@[simp] theorem State.modCore_dieCe (n : Nat) (f : CoreSt → CoreSt) : (s.modCore n f).dieCe = s.dieCe := rfl
@[simp] theorem State.modCore_erasedDie (n : Nat) (f : CoreSt → CoreSt) : (s.modCore n f).erasedDie = s.erasedDie := rfl
@[simp] theorem State.modCore_memMap (n : Nat) (f : CoreSt → CoreSt) : (s.modCore n f).memMap = s.memMap := rfl
@[simp] theorem State.modCore_regs (n : Nat) (f : CoreSt → CoreSt) : (s.modCore n f).regs = s.regs := rfl
@[simp] theorem State.modCore_out (n : Nat) (f : CoreSt → CoreSt) : (s.modCore n f).out = s.out := rfl

@[simp] theorem State.setGroup_agenda (g : Group) : (s.setGroup g).agenda = s.agenda := rfl
@[simp] theorem State.setGroup_cur (g : Group) : (s.setGroup g).cur = s.cur := rfl
@[simp] theorem State.setGroup_fresh (g : Group) : (s.setGroup g).fresh = s.fresh := rfl
@[simp] theorem State.setGroup_meridian (g : Group) : (s.setGroup g).meridian = s.meridian := rfl
@[simp] theorem State.setGroup_cycles (g : Group) : (s.setGroup g).cycles = s.cycles := rfl
@[simp] theorem State.setGroup_frac (g : Group) : (s.setGroup g).frac = s.frac := rfl
@[simp] theorem State.setGroup_slow (g : Group) : (s.setGroup g).slow = s.slow := rfl
@[simp] theorem State.setGroup_teams (g : Group) : (s.setGroup g).teams = s.teams := rfl
@[simp] theorem State.setGroup_cores (g : Group) : (s.setGroup g).cores = s.cores := rfl
@[simp] theorem State.setGroup_nextGid (g : Group) : (s.setGroup g).nextGid = s.nextGid := rfl
@[simp] theorem State.setGroup_nextTid (g : Group) : (s.setGroup g).nextTid = s.nextTid := rfl
@[simp] theorem State.setGroup_nextChild (g : Group) : (s.setGroup g).nextChild = s.nextChild := rfl
@[simp] theorem State.setGroup_launches (g : Group) : (s.setGroup g).launches = s.launches := rfl
@[simp] theorem State.setGroup_nextSeq (g : Group) : (s.setGroup g).nextSeq = s.nextSeq := rfl
@[simp] theorem State.setGroup_doneClock (g : Group) : (s.setGroup g).doneClock = s.doneClock := rfl
@[simp] theorem State.setGroup_saved (g : Group) : (s.setGroup g).saved = s.saved := rfl
@[simp] theorem State.setGroup_held (g : Group) : (s.setGroup g).held = s.held := rfl
@[simp] theorem State.setGroup_granules (g : Group) : (s.setGroup g).granules = s.granules := rfl
@[simp] theorem State.setGroup_regions (g : Group) : (s.setGroup g).regions = s.regions := rfl
@[simp] theorem State.setGroup_hps (g : Group) : (s.setGroup g).hps = s.hps := rfl
@[simp] theorem State.setGroup_mem (g : Group) : (s.setGroup g).mem = s.mem := rfl
@[simp] theorem State.setGroup_podMem (g : Group) : (s.setGroup g).podMem = s.podMem := rfl
@[simp] theorem State.setGroup_localMem (g : Group) : (s.setGroup g).localMem = s.localMem := rfl
@[simp] theorem State.setGroup_l2 (g : Group) : (s.setGroup g).l2 = s.l2 := rfl
@[simp] theorem State.setGroup_tlb (g : Group) : (s.setGroup g).tlb = s.tlb := rfl
@[simp] theorem State.setGroup_frames (g : Group) : (s.setGroup g).frames = s.frames := rfl
@[simp] theorem State.setGroup_stores (g : Group) : (s.setGroup g).stores = s.stores := rfl
@[simp] theorem State.setGroup_nextStore (g : Group) : (s.setGroup g).nextStore = s.nextStore := rfl
@[simp] theorem State.setGroup_fails (g : Group) : (s.setGroup g).fails = s.fails := rfl
@[simp] theorem State.setGroup_snaps (g : Group) : (s.setGroup g).snaps = s.snaps := rfl
@[simp] theorem State.setGroup_podGrants (g : Group) : (s.setGroup g).podGrants = s.podGrants := rfl
@[simp] theorem State.setGroup_podCaps (g : Group) : (s.setGroup g).podCaps = s.podCaps := rfl
@[simp] theorem State.setGroup_lateSeq (g : Group) : (s.setGroup g).lateSeq = s.lateSeq := rfl
@[simp] theorem State.setGroup_issuesLate (g : Group) : (s.setGroup g).issuesLate = s.issuesLate := rfl
@[simp] theorem State.setGroup_zone (g : Group) : (s.setGroup g).zone = s.zone := rfl
@[simp] theorem State.setGroup_zoneCursor (g : Group) : (s.setGroup g).zoneCursor = s.zoneCursor := rfl
@[simp] theorem State.setGroup_noticeNext (g : Group) : (s.setGroup g).noticeNext = s.noticeNext := rfl
@[simp] theorem State.setGroup_badMem (g : Group) : (s.setGroup g).badMem = s.badMem := rfl
@[simp] theorem State.setGroup_badL2 (g : Group) : (s.setGroup g).badL2 = s.badL2 := rfl
@[simp] theorem State.setGroup_badLocal (g : Group) : (s.setGroup g).badLocal = s.badLocal := rfl
@[simp] theorem State.setGroup_softErrs (g : Group) : (s.setGroup g).softErrs = s.softErrs := rfl
@[simp] theorem State.setGroup_podFaults (g : Group) : (s.setGroup g).podFaults = s.podFaults := rfl
@[simp] theorem State.setGroup_badRegs (g : Group) : (s.setGroup g).badRegs = s.badRegs := rfl
@[simp] theorem State.setGroup_badFrag (g : Group) : (s.setGroup g).badFrag = s.badFrag := rfl
@[simp] theorem State.setGroup_badCryst (g : Group) : (s.setGroup g).badCryst = s.badCryst := rfl
@[simp] theorem State.setGroup_fuses (g : Group) : (s.setGroup g).fuses = s.fuses := rfl
@[simp] theorem State.setGroup_softRepair (g : Group) : (s.setGroup g).softRepair = s.softRepair := rfl
@[simp] theorem State.setGroup_ueLines (g : Group) : (s.setGroup g).ueLines = s.ueLines := rfl
@[simp] theorem State.setGroup_retiredLines (g : Group) : (s.setGroup g).retiredLines = s.retiredLines := rfl
@[simp] theorem State.setGroup_copies (g : Group) : (s.setGroup g).copies = s.copies := rfl
@[simp] theorem State.setGroup_copyTickets (g : Group) : (s.setGroup g).copyTickets = s.copyTickets := rfl
@[simp] theorem State.setGroup_copySeq (g : Group) : (s.setGroup g).copySeq = s.copySeq := rfl
@[simp] theorem State.setGroup_brine (g : Group) : (s.setGroup g).brine = s.brine := rfl
@[simp] theorem State.setGroup_brineTickets (g : Group) : (s.setGroup g).brineTickets = s.brineTickets := rfl
@[simp] theorem State.setGroup_brineSeq (g : Group) : (s.setGroup g).brineSeq = s.brineSeq := rfl
@[simp] theorem State.setGroup_brineTables (g : Group) : (s.setGroup g).brineTables = s.brineTables := rfl
@[simp] theorem State.setGroup_sluice (g : Group) : (s.setGroup g).sluice = s.sluice := rfl
@[simp] theorem State.setGroup_sluiceSeq (g : Group) : (s.setGroup g).sluiceSeq = s.sluiceSeq := rfl
@[simp] theorem State.setGroup_engOrder (g : Group) : (s.setGroup g).engOrder = s.engOrder := rfl
@[simp] theorem State.setGroup_transfers (g : Group) : (s.setGroup g).transfers = s.transfers := rfl
@[simp] theorem State.setGroup_fabTickets (g : Group) : (s.setGroup g).fabTickets = s.fabTickets := rfl
@[simp] theorem State.setGroup_fabSeq (g : Group) : (s.setGroup g).fabSeq = s.fabSeq := rfl
@[simp] theorem State.setGroup_counters (g : Group) : (s.setGroup g).counters = s.counters := rfl
@[simp] theorem State.setGroup_tsend (g : Group) : (s.setGroup g).tsend = s.tsend := rfl
@[simp] theorem State.setGroup_tsendSeq (g : Group) : (s.setGroup g).tsendSeq = s.tsendSeq := rfl
@[simp] theorem State.setGroup_colls (g : Group) : (s.setGroup g).colls = s.colls := rfl
@[simp] theorem State.setGroup_inbound (g : Group) : (s.setGroup g).inbound = s.inbound := rfl
@[simp] theorem State.setGroup_portsDown (g : Group) : (s.setGroup g).portsDown = s.portsDown := rfl
@[simp] theorem State.setGroup_recs (g : Group) : (s.setGroup g).recs = s.recs := rfl
@[simp] theorem State.setGroup_nextRec (g : Group) : (s.setGroup g).nextRec = s.nextRec := rfl
@[simp] theorem State.setGroup_ringUse (g : Group) : (s.setGroup g).ringUse = s.ringUse := rfl
@[simp] theorem State.setGroup_ringLast (g : Group) : (s.setGroup g).ringLast = s.ringLast := rfl
@[simp] theorem State.setGroup_ringFaulted (g : Group) : (s.setGroup g).ringFaulted = s.ringFaulted := rfl
@[simp] theorem State.setGroup_sigWait (g : Group) : (s.setGroup g).sigWait = s.sigWait := rfl
@[simp] theorem State.setGroup_cryst (g : Group) : (s.setGroup g).cryst = s.cryst := rfl
@[simp] theorem State.setGroup_crystMem (g : Group) : (s.setGroup g).crystMem = s.crystMem := rfl
@[simp] theorem State.setGroup_grants (g : Group) : (s.setGroup g).grants = s.grants := rfl
@[simp] theorem State.setGroup_routes (g : Group) : (s.setGroup g).routes = s.routes := rfl
@[simp] theorem State.setGroup_qpairs (g : Group) : (s.setGroup g).qpairs = s.qpairs := rfl
@[simp] theorem State.setGroup_dieCe (g : Group) : (s.setGroup g).dieCe = s.dieCe := rfl
@[simp] theorem State.setGroup_erasedDie (g : Group) : (s.setGroup g).erasedDie = s.erasedDie := rfl
@[simp] theorem State.setGroup_memMap (g : Group) : (s.setGroup g).memMap = s.memMap := rfl
@[simp] theorem State.setGroup_regs (g : Group) : (s.setGroup g).regs = s.regs := rfl
@[simp] theorem State.setGroup_out (g : Group) : (s.setGroup g).out = s.out := rfl

@[simp] theorem State.modGroup_agenda (gid : Nat) (f : Group → Group) : (s.modGroup gid f).agenda = s.agenda := rfl
@[simp] theorem State.modGroup_cur (gid : Nat) (f : Group → Group) : (s.modGroup gid f).cur = s.cur := rfl
@[simp] theorem State.modGroup_fresh (gid : Nat) (f : Group → Group) : (s.modGroup gid f).fresh = s.fresh := rfl
@[simp] theorem State.modGroup_meridian (gid : Nat) (f : Group → Group) : (s.modGroup gid f).meridian = s.meridian := rfl
@[simp] theorem State.modGroup_cycles (gid : Nat) (f : Group → Group) : (s.modGroup gid f).cycles = s.cycles := rfl
@[simp] theorem State.modGroup_frac (gid : Nat) (f : Group → Group) : (s.modGroup gid f).frac = s.frac := rfl
@[simp] theorem State.modGroup_slow (gid : Nat) (f : Group → Group) : (s.modGroup gid f).slow = s.slow := rfl
@[simp] theorem State.modGroup_teams (gid : Nat) (f : Group → Group) : (s.modGroup gid f).teams = s.teams := rfl
@[simp] theorem State.modGroup_cores (gid : Nat) (f : Group → Group) : (s.modGroup gid f).cores = s.cores := rfl
@[simp] theorem State.modGroup_nextGid (gid : Nat) (f : Group → Group) : (s.modGroup gid f).nextGid = s.nextGid := rfl
@[simp] theorem State.modGroup_nextTid (gid : Nat) (f : Group → Group) : (s.modGroup gid f).nextTid = s.nextTid := rfl
@[simp] theorem State.modGroup_nextChild (gid : Nat) (f : Group → Group) : (s.modGroup gid f).nextChild = s.nextChild := rfl
@[simp] theorem State.modGroup_launches (gid : Nat) (f : Group → Group) : (s.modGroup gid f).launches = s.launches := rfl
@[simp] theorem State.modGroup_nextSeq (gid : Nat) (f : Group → Group) : (s.modGroup gid f).nextSeq = s.nextSeq := rfl
@[simp] theorem State.modGroup_doneClock (gid : Nat) (f : Group → Group) : (s.modGroup gid f).doneClock = s.doneClock := rfl
@[simp] theorem State.modGroup_saved (gid : Nat) (f : Group → Group) : (s.modGroup gid f).saved = s.saved := rfl
@[simp] theorem State.modGroup_held (gid : Nat) (f : Group → Group) : (s.modGroup gid f).held = s.held := rfl
@[simp] theorem State.modGroup_granules (gid : Nat) (f : Group → Group) : (s.modGroup gid f).granules = s.granules := rfl
@[simp] theorem State.modGroup_regions (gid : Nat) (f : Group → Group) : (s.modGroup gid f).regions = s.regions := rfl
@[simp] theorem State.modGroup_hps (gid : Nat) (f : Group → Group) : (s.modGroup gid f).hps = s.hps := rfl
@[simp] theorem State.modGroup_mem (gid : Nat) (f : Group → Group) : (s.modGroup gid f).mem = s.mem := rfl
@[simp] theorem State.modGroup_podMem (gid : Nat) (f : Group → Group) : (s.modGroup gid f).podMem = s.podMem := rfl
@[simp] theorem State.modGroup_localMem (gid : Nat) (f : Group → Group) : (s.modGroup gid f).localMem = s.localMem := rfl
@[simp] theorem State.modGroup_l2 (gid : Nat) (f : Group → Group) : (s.modGroup gid f).l2 = s.l2 := rfl
@[simp] theorem State.modGroup_tlb (gid : Nat) (f : Group → Group) : (s.modGroup gid f).tlb = s.tlb := rfl
@[simp] theorem State.modGroup_frames (gid : Nat) (f : Group → Group) : (s.modGroup gid f).frames = s.frames := rfl
@[simp] theorem State.modGroup_stores (gid : Nat) (f : Group → Group) : (s.modGroup gid f).stores = s.stores := rfl
@[simp] theorem State.modGroup_nextStore (gid : Nat) (f : Group → Group) : (s.modGroup gid f).nextStore = s.nextStore := rfl
@[simp] theorem State.modGroup_fails (gid : Nat) (f : Group → Group) : (s.modGroup gid f).fails = s.fails := rfl
@[simp] theorem State.modGroup_snaps (gid : Nat) (f : Group → Group) : (s.modGroup gid f).snaps = s.snaps := rfl
@[simp] theorem State.modGroup_podGrants (gid : Nat) (f : Group → Group) : (s.modGroup gid f).podGrants = s.podGrants := rfl
@[simp] theorem State.modGroup_podCaps (gid : Nat) (f : Group → Group) : (s.modGroup gid f).podCaps = s.podCaps := rfl
@[simp] theorem State.modGroup_lateSeq (gid : Nat) (f : Group → Group) : (s.modGroup gid f).lateSeq = s.lateSeq := rfl
@[simp] theorem State.modGroup_issuesLate (gid : Nat) (f : Group → Group) : (s.modGroup gid f).issuesLate = s.issuesLate := rfl
@[simp] theorem State.modGroup_zone (gid : Nat) (f : Group → Group) : (s.modGroup gid f).zone = s.zone := rfl
@[simp] theorem State.modGroup_zoneCursor (gid : Nat) (f : Group → Group) : (s.modGroup gid f).zoneCursor = s.zoneCursor := rfl
@[simp] theorem State.modGroup_noticeNext (gid : Nat) (f : Group → Group) : (s.modGroup gid f).noticeNext = s.noticeNext := rfl
@[simp] theorem State.modGroup_badMem (gid : Nat) (f : Group → Group) : (s.modGroup gid f).badMem = s.badMem := rfl
@[simp] theorem State.modGroup_badL2 (gid : Nat) (f : Group → Group) : (s.modGroup gid f).badL2 = s.badL2 := rfl
@[simp] theorem State.modGroup_badLocal (gid : Nat) (f : Group → Group) : (s.modGroup gid f).badLocal = s.badLocal := rfl
@[simp] theorem State.modGroup_softErrs (gid : Nat) (f : Group → Group) : (s.modGroup gid f).softErrs = s.softErrs := rfl
@[simp] theorem State.modGroup_podFaults (gid : Nat) (f : Group → Group) : (s.modGroup gid f).podFaults = s.podFaults := rfl
@[simp] theorem State.modGroup_badRegs (gid : Nat) (f : Group → Group) : (s.modGroup gid f).badRegs = s.badRegs := rfl
@[simp] theorem State.modGroup_badFrag (gid : Nat) (f : Group → Group) : (s.modGroup gid f).badFrag = s.badFrag := rfl
@[simp] theorem State.modGroup_badCryst (gid : Nat) (f : Group → Group) : (s.modGroup gid f).badCryst = s.badCryst := rfl
@[simp] theorem State.modGroup_fuses (gid : Nat) (f : Group → Group) : (s.modGroup gid f).fuses = s.fuses := rfl
@[simp] theorem State.modGroup_softRepair (gid : Nat) (f : Group → Group) : (s.modGroup gid f).softRepair = s.softRepair := rfl
@[simp] theorem State.modGroup_ueLines (gid : Nat) (f : Group → Group) : (s.modGroup gid f).ueLines = s.ueLines := rfl
@[simp] theorem State.modGroup_retiredLines (gid : Nat) (f : Group → Group) : (s.modGroup gid f).retiredLines = s.retiredLines := rfl
@[simp] theorem State.modGroup_copies (gid : Nat) (f : Group → Group) : (s.modGroup gid f).copies = s.copies := rfl
@[simp] theorem State.modGroup_copyTickets (gid : Nat) (f : Group → Group) : (s.modGroup gid f).copyTickets = s.copyTickets := rfl
@[simp] theorem State.modGroup_copySeq (gid : Nat) (f : Group → Group) : (s.modGroup gid f).copySeq = s.copySeq := rfl
@[simp] theorem State.modGroup_brine (gid : Nat) (f : Group → Group) : (s.modGroup gid f).brine = s.brine := rfl
@[simp] theorem State.modGroup_brineTickets (gid : Nat) (f : Group → Group) : (s.modGroup gid f).brineTickets = s.brineTickets := rfl
@[simp] theorem State.modGroup_brineSeq (gid : Nat) (f : Group → Group) : (s.modGroup gid f).brineSeq = s.brineSeq := rfl
@[simp] theorem State.modGroup_brineTables (gid : Nat) (f : Group → Group) : (s.modGroup gid f).brineTables = s.brineTables := rfl
@[simp] theorem State.modGroup_sluice (gid : Nat) (f : Group → Group) : (s.modGroup gid f).sluice = s.sluice := rfl
@[simp] theorem State.modGroup_sluiceSeq (gid : Nat) (f : Group → Group) : (s.modGroup gid f).sluiceSeq = s.sluiceSeq := rfl
@[simp] theorem State.modGroup_engOrder (gid : Nat) (f : Group → Group) : (s.modGroup gid f).engOrder = s.engOrder := rfl
@[simp] theorem State.modGroup_transfers (gid : Nat) (f : Group → Group) : (s.modGroup gid f).transfers = s.transfers := rfl
@[simp] theorem State.modGroup_fabTickets (gid : Nat) (f : Group → Group) : (s.modGroup gid f).fabTickets = s.fabTickets := rfl
@[simp] theorem State.modGroup_fabSeq (gid : Nat) (f : Group → Group) : (s.modGroup gid f).fabSeq = s.fabSeq := rfl
@[simp] theorem State.modGroup_counters (gid : Nat) (f : Group → Group) : (s.modGroup gid f).counters = s.counters := rfl
@[simp] theorem State.modGroup_tsend (gid : Nat) (f : Group → Group) : (s.modGroup gid f).tsend = s.tsend := rfl
@[simp] theorem State.modGroup_tsendSeq (gid : Nat) (f : Group → Group) : (s.modGroup gid f).tsendSeq = s.tsendSeq := rfl
@[simp] theorem State.modGroup_colls (gid : Nat) (f : Group → Group) : (s.modGroup gid f).colls = s.colls := rfl
@[simp] theorem State.modGroup_inbound (gid : Nat) (f : Group → Group) : (s.modGroup gid f).inbound = s.inbound := rfl
@[simp] theorem State.modGroup_portsDown (gid : Nat) (f : Group → Group) : (s.modGroup gid f).portsDown = s.portsDown := rfl
@[simp] theorem State.modGroup_recs (gid : Nat) (f : Group → Group) : (s.modGroup gid f).recs = s.recs := rfl
@[simp] theorem State.modGroup_nextRec (gid : Nat) (f : Group → Group) : (s.modGroup gid f).nextRec = s.nextRec := rfl
@[simp] theorem State.modGroup_ringUse (gid : Nat) (f : Group → Group) : (s.modGroup gid f).ringUse = s.ringUse := rfl
@[simp] theorem State.modGroup_ringLast (gid : Nat) (f : Group → Group) : (s.modGroup gid f).ringLast = s.ringLast := rfl
@[simp] theorem State.modGroup_ringFaulted (gid : Nat) (f : Group → Group) : (s.modGroup gid f).ringFaulted = s.ringFaulted := rfl
@[simp] theorem State.modGroup_sigWait (gid : Nat) (f : Group → Group) : (s.modGroup gid f).sigWait = s.sigWait := rfl
@[simp] theorem State.modGroup_cryst (gid : Nat) (f : Group → Group) : (s.modGroup gid f).cryst = s.cryst := rfl
@[simp] theorem State.modGroup_crystMem (gid : Nat) (f : Group → Group) : (s.modGroup gid f).crystMem = s.crystMem := rfl
@[simp] theorem State.modGroup_grants (gid : Nat) (f : Group → Group) : (s.modGroup gid f).grants = s.grants := rfl
@[simp] theorem State.modGroup_routes (gid : Nat) (f : Group → Group) : (s.modGroup gid f).routes = s.routes := rfl
@[simp] theorem State.modGroup_qpairs (gid : Nat) (f : Group → Group) : (s.modGroup gid f).qpairs = s.qpairs := rfl
@[simp] theorem State.modGroup_dieCe (gid : Nat) (f : Group → Group) : (s.modGroup gid f).dieCe = s.dieCe := rfl
@[simp] theorem State.modGroup_erasedDie (gid : Nat) (f : Group → Group) : (s.modGroup gid f).erasedDie = s.erasedDie := rfl
@[simp] theorem State.modGroup_memMap (gid : Nat) (f : Group → Group) : (s.modGroup gid f).memMap = s.memMap := rfl
@[simp] theorem State.modGroup_regs (gid : Nat) (f : Group → Group) : (s.modGroup gid f).regs = s.regs := rfl
@[simp] theorem State.modGroup_out (gid : Nat) (f : Group → Group) : (s.modGroup gid f).out = s.out := rfl

@[simp] theorem State.setTeam_agenda (t : Team) : (s.setTeam t).agenda = s.agenda := rfl
@[simp] theorem State.setTeam_cur (t : Team) : (s.setTeam t).cur = s.cur := rfl
@[simp] theorem State.setTeam_fresh (t : Team) : (s.setTeam t).fresh = s.fresh := rfl
@[simp] theorem State.setTeam_meridian (t : Team) : (s.setTeam t).meridian = s.meridian := rfl
@[simp] theorem State.setTeam_cycles (t : Team) : (s.setTeam t).cycles = s.cycles := rfl
@[simp] theorem State.setTeam_frac (t : Team) : (s.setTeam t).frac = s.frac := rfl
@[simp] theorem State.setTeam_slow (t : Team) : (s.setTeam t).slow = s.slow := rfl
@[simp] theorem State.setTeam_groups (t : Team) : (s.setTeam t).groups = s.groups := rfl
@[simp] theorem State.setTeam_cores (t : Team) : (s.setTeam t).cores = s.cores := rfl
@[simp] theorem State.setTeam_nextGid (t : Team) : (s.setTeam t).nextGid = s.nextGid := rfl
@[simp] theorem State.setTeam_nextTid (t : Team) : (s.setTeam t).nextTid = s.nextTid := rfl
@[simp] theorem State.setTeam_nextChild (t : Team) : (s.setTeam t).nextChild = s.nextChild := rfl
@[simp] theorem State.setTeam_launches (t : Team) : (s.setTeam t).launches = s.launches := rfl
@[simp] theorem State.setTeam_nextSeq (t : Team) : (s.setTeam t).nextSeq = s.nextSeq := rfl
@[simp] theorem State.setTeam_doneClock (t : Team) : (s.setTeam t).doneClock = s.doneClock := rfl
@[simp] theorem State.setTeam_saved (t : Team) : (s.setTeam t).saved = s.saved := rfl
@[simp] theorem State.setTeam_held (t : Team) : (s.setTeam t).held = s.held := rfl
@[simp] theorem State.setTeam_granules (t : Team) : (s.setTeam t).granules = s.granules := rfl
@[simp] theorem State.setTeam_regions (t : Team) : (s.setTeam t).regions = s.regions := rfl
@[simp] theorem State.setTeam_hps (t : Team) : (s.setTeam t).hps = s.hps := rfl
@[simp] theorem State.setTeam_mem (t : Team) : (s.setTeam t).mem = s.mem := rfl
@[simp] theorem State.setTeam_podMem (t : Team) : (s.setTeam t).podMem = s.podMem := rfl
@[simp] theorem State.setTeam_localMem (t : Team) : (s.setTeam t).localMem = s.localMem := rfl
@[simp] theorem State.setTeam_l2 (t : Team) : (s.setTeam t).l2 = s.l2 := rfl
@[simp] theorem State.setTeam_tlb (t : Team) : (s.setTeam t).tlb = s.tlb := rfl
@[simp] theorem State.setTeam_frames (t : Team) : (s.setTeam t).frames = s.frames := rfl
@[simp] theorem State.setTeam_stores (t : Team) : (s.setTeam t).stores = s.stores := rfl
@[simp] theorem State.setTeam_nextStore (t : Team) : (s.setTeam t).nextStore = s.nextStore := rfl
@[simp] theorem State.setTeam_fails (t : Team) : (s.setTeam t).fails = s.fails := rfl
@[simp] theorem State.setTeam_snaps (t : Team) : (s.setTeam t).snaps = s.snaps := rfl
@[simp] theorem State.setTeam_podGrants (t : Team) : (s.setTeam t).podGrants = s.podGrants := rfl
@[simp] theorem State.setTeam_podCaps (t : Team) : (s.setTeam t).podCaps = s.podCaps := rfl
@[simp] theorem State.setTeam_lateSeq (t : Team) : (s.setTeam t).lateSeq = s.lateSeq := rfl
@[simp] theorem State.setTeam_issuesLate (t : Team) : (s.setTeam t).issuesLate = s.issuesLate := rfl
@[simp] theorem State.setTeam_zone (t : Team) : (s.setTeam t).zone = s.zone := rfl
@[simp] theorem State.setTeam_zoneCursor (t : Team) : (s.setTeam t).zoneCursor = s.zoneCursor := rfl
@[simp] theorem State.setTeam_noticeNext (t : Team) : (s.setTeam t).noticeNext = s.noticeNext := rfl
@[simp] theorem State.setTeam_badMem (t : Team) : (s.setTeam t).badMem = s.badMem := rfl
@[simp] theorem State.setTeam_badL2 (t : Team) : (s.setTeam t).badL2 = s.badL2 := rfl
@[simp] theorem State.setTeam_badLocal (t : Team) : (s.setTeam t).badLocal = s.badLocal := rfl
@[simp] theorem State.setTeam_softErrs (t : Team) : (s.setTeam t).softErrs = s.softErrs := rfl
@[simp] theorem State.setTeam_podFaults (t : Team) : (s.setTeam t).podFaults = s.podFaults := rfl
@[simp] theorem State.setTeam_badRegs (t : Team) : (s.setTeam t).badRegs = s.badRegs := rfl
@[simp] theorem State.setTeam_badFrag (t : Team) : (s.setTeam t).badFrag = s.badFrag := rfl
@[simp] theorem State.setTeam_badCryst (t : Team) : (s.setTeam t).badCryst = s.badCryst := rfl
@[simp] theorem State.setTeam_fuses (t : Team) : (s.setTeam t).fuses = s.fuses := rfl
@[simp] theorem State.setTeam_softRepair (t : Team) : (s.setTeam t).softRepair = s.softRepair := rfl
@[simp] theorem State.setTeam_ueLines (t : Team) : (s.setTeam t).ueLines = s.ueLines := rfl
@[simp] theorem State.setTeam_retiredLines (t : Team) : (s.setTeam t).retiredLines = s.retiredLines := rfl
@[simp] theorem State.setTeam_copies (t : Team) : (s.setTeam t).copies = s.copies := rfl
@[simp] theorem State.setTeam_copyTickets (t : Team) : (s.setTeam t).copyTickets = s.copyTickets := rfl
@[simp] theorem State.setTeam_copySeq (t : Team) : (s.setTeam t).copySeq = s.copySeq := rfl
@[simp] theorem State.setTeam_brine (t : Team) : (s.setTeam t).brine = s.brine := rfl
@[simp] theorem State.setTeam_brineTickets (t : Team) : (s.setTeam t).brineTickets = s.brineTickets := rfl
@[simp] theorem State.setTeam_brineSeq (t : Team) : (s.setTeam t).brineSeq = s.brineSeq := rfl
@[simp] theorem State.setTeam_brineTables (t : Team) : (s.setTeam t).brineTables = s.brineTables := rfl
@[simp] theorem State.setTeam_sluice (t : Team) : (s.setTeam t).sluice = s.sluice := rfl
@[simp] theorem State.setTeam_sluiceSeq (t : Team) : (s.setTeam t).sluiceSeq = s.sluiceSeq := rfl
@[simp] theorem State.setTeam_engOrder (t : Team) : (s.setTeam t).engOrder = s.engOrder := rfl
@[simp] theorem State.setTeam_transfers (t : Team) : (s.setTeam t).transfers = s.transfers := rfl
@[simp] theorem State.setTeam_fabTickets (t : Team) : (s.setTeam t).fabTickets = s.fabTickets := rfl
@[simp] theorem State.setTeam_fabSeq (t : Team) : (s.setTeam t).fabSeq = s.fabSeq := rfl
@[simp] theorem State.setTeam_counters (t : Team) : (s.setTeam t).counters = s.counters := rfl
@[simp] theorem State.setTeam_tsend (t : Team) : (s.setTeam t).tsend = s.tsend := rfl
@[simp] theorem State.setTeam_tsendSeq (t : Team) : (s.setTeam t).tsendSeq = s.tsendSeq := rfl
@[simp] theorem State.setTeam_colls (t : Team) : (s.setTeam t).colls = s.colls := rfl
@[simp] theorem State.setTeam_inbound (t : Team) : (s.setTeam t).inbound = s.inbound := rfl
@[simp] theorem State.setTeam_portsDown (t : Team) : (s.setTeam t).portsDown = s.portsDown := rfl
@[simp] theorem State.setTeam_recs (t : Team) : (s.setTeam t).recs = s.recs := rfl
@[simp] theorem State.setTeam_nextRec (t : Team) : (s.setTeam t).nextRec = s.nextRec := rfl
@[simp] theorem State.setTeam_ringUse (t : Team) : (s.setTeam t).ringUse = s.ringUse := rfl
@[simp] theorem State.setTeam_ringLast (t : Team) : (s.setTeam t).ringLast = s.ringLast := rfl
@[simp] theorem State.setTeam_ringFaulted (t : Team) : (s.setTeam t).ringFaulted = s.ringFaulted := rfl
@[simp] theorem State.setTeam_sigWait (t : Team) : (s.setTeam t).sigWait = s.sigWait := rfl
@[simp] theorem State.setTeam_cryst (t : Team) : (s.setTeam t).cryst = s.cryst := rfl
@[simp] theorem State.setTeam_crystMem (t : Team) : (s.setTeam t).crystMem = s.crystMem := rfl
@[simp] theorem State.setTeam_grants (t : Team) : (s.setTeam t).grants = s.grants := rfl
@[simp] theorem State.setTeam_routes (t : Team) : (s.setTeam t).routes = s.routes := rfl
@[simp] theorem State.setTeam_qpairs (t : Team) : (s.setTeam t).qpairs = s.qpairs := rfl
@[simp] theorem State.setTeam_dieCe (t : Team) : (s.setTeam t).dieCe = s.dieCe := rfl
@[simp] theorem State.setTeam_erasedDie (t : Team) : (s.setTeam t).erasedDie = s.erasedDie := rfl
@[simp] theorem State.setTeam_memMap (t : Team) : (s.setTeam t).memMap = s.memMap := rfl
@[simp] theorem State.setTeam_regs (t : Team) : (s.setTeam t).regs = s.regs := rfl
@[simp] theorem State.setTeam_out (t : Team) : (s.setTeam t).out = s.out := rfl

@[simp] theorem State.modTeam_agenda (tid : Nat) (f : Team → Team) : (s.modTeam tid f).agenda = s.agenda := rfl
@[simp] theorem State.modTeam_cur (tid : Nat) (f : Team → Team) : (s.modTeam tid f).cur = s.cur := rfl
@[simp] theorem State.modTeam_fresh (tid : Nat) (f : Team → Team) : (s.modTeam tid f).fresh = s.fresh := rfl
@[simp] theorem State.modTeam_meridian (tid : Nat) (f : Team → Team) : (s.modTeam tid f).meridian = s.meridian := rfl
@[simp] theorem State.modTeam_cycles (tid : Nat) (f : Team → Team) : (s.modTeam tid f).cycles = s.cycles := rfl
@[simp] theorem State.modTeam_frac (tid : Nat) (f : Team → Team) : (s.modTeam tid f).frac = s.frac := rfl
@[simp] theorem State.modTeam_slow (tid : Nat) (f : Team → Team) : (s.modTeam tid f).slow = s.slow := rfl
@[simp] theorem State.modTeam_groups (tid : Nat) (f : Team → Team) : (s.modTeam tid f).groups = s.groups := rfl
@[simp] theorem State.modTeam_cores (tid : Nat) (f : Team → Team) : (s.modTeam tid f).cores = s.cores := rfl
@[simp] theorem State.modTeam_nextGid (tid : Nat) (f : Team → Team) : (s.modTeam tid f).nextGid = s.nextGid := rfl
@[simp] theorem State.modTeam_nextTid (tid : Nat) (f : Team → Team) : (s.modTeam tid f).nextTid = s.nextTid := rfl
@[simp] theorem State.modTeam_nextChild (tid : Nat) (f : Team → Team) : (s.modTeam tid f).nextChild = s.nextChild := rfl
@[simp] theorem State.modTeam_launches (tid : Nat) (f : Team → Team) : (s.modTeam tid f).launches = s.launches := rfl
@[simp] theorem State.modTeam_nextSeq (tid : Nat) (f : Team → Team) : (s.modTeam tid f).nextSeq = s.nextSeq := rfl
@[simp] theorem State.modTeam_doneClock (tid : Nat) (f : Team → Team) : (s.modTeam tid f).doneClock = s.doneClock := rfl
@[simp] theorem State.modTeam_saved (tid : Nat) (f : Team → Team) : (s.modTeam tid f).saved = s.saved := rfl
@[simp] theorem State.modTeam_held (tid : Nat) (f : Team → Team) : (s.modTeam tid f).held = s.held := rfl
@[simp] theorem State.modTeam_granules (tid : Nat) (f : Team → Team) : (s.modTeam tid f).granules = s.granules := rfl
@[simp] theorem State.modTeam_regions (tid : Nat) (f : Team → Team) : (s.modTeam tid f).regions = s.regions := rfl
@[simp] theorem State.modTeam_hps (tid : Nat) (f : Team → Team) : (s.modTeam tid f).hps = s.hps := rfl
@[simp] theorem State.modTeam_mem (tid : Nat) (f : Team → Team) : (s.modTeam tid f).mem = s.mem := rfl
@[simp] theorem State.modTeam_podMem (tid : Nat) (f : Team → Team) : (s.modTeam tid f).podMem = s.podMem := rfl
@[simp] theorem State.modTeam_localMem (tid : Nat) (f : Team → Team) : (s.modTeam tid f).localMem = s.localMem := rfl
@[simp] theorem State.modTeam_l2 (tid : Nat) (f : Team → Team) : (s.modTeam tid f).l2 = s.l2 := rfl
@[simp] theorem State.modTeam_tlb (tid : Nat) (f : Team → Team) : (s.modTeam tid f).tlb = s.tlb := rfl
@[simp] theorem State.modTeam_frames (tid : Nat) (f : Team → Team) : (s.modTeam tid f).frames = s.frames := rfl
@[simp] theorem State.modTeam_stores (tid : Nat) (f : Team → Team) : (s.modTeam tid f).stores = s.stores := rfl
@[simp] theorem State.modTeam_nextStore (tid : Nat) (f : Team → Team) : (s.modTeam tid f).nextStore = s.nextStore := rfl
@[simp] theorem State.modTeam_fails (tid : Nat) (f : Team → Team) : (s.modTeam tid f).fails = s.fails := rfl
@[simp] theorem State.modTeam_snaps (tid : Nat) (f : Team → Team) : (s.modTeam tid f).snaps = s.snaps := rfl
@[simp] theorem State.modTeam_podGrants (tid : Nat) (f : Team → Team) : (s.modTeam tid f).podGrants = s.podGrants := rfl
@[simp] theorem State.modTeam_podCaps (tid : Nat) (f : Team → Team) : (s.modTeam tid f).podCaps = s.podCaps := rfl
@[simp] theorem State.modTeam_lateSeq (tid : Nat) (f : Team → Team) : (s.modTeam tid f).lateSeq = s.lateSeq := rfl
@[simp] theorem State.modTeam_issuesLate (tid : Nat) (f : Team → Team) : (s.modTeam tid f).issuesLate = s.issuesLate := rfl
@[simp] theorem State.modTeam_zone (tid : Nat) (f : Team → Team) : (s.modTeam tid f).zone = s.zone := rfl
@[simp] theorem State.modTeam_zoneCursor (tid : Nat) (f : Team → Team) : (s.modTeam tid f).zoneCursor = s.zoneCursor := rfl
@[simp] theorem State.modTeam_noticeNext (tid : Nat) (f : Team → Team) : (s.modTeam tid f).noticeNext = s.noticeNext := rfl
@[simp] theorem State.modTeam_badMem (tid : Nat) (f : Team → Team) : (s.modTeam tid f).badMem = s.badMem := rfl
@[simp] theorem State.modTeam_badL2 (tid : Nat) (f : Team → Team) : (s.modTeam tid f).badL2 = s.badL2 := rfl
@[simp] theorem State.modTeam_badLocal (tid : Nat) (f : Team → Team) : (s.modTeam tid f).badLocal = s.badLocal := rfl
@[simp] theorem State.modTeam_softErrs (tid : Nat) (f : Team → Team) : (s.modTeam tid f).softErrs = s.softErrs := rfl
@[simp] theorem State.modTeam_podFaults (tid : Nat) (f : Team → Team) : (s.modTeam tid f).podFaults = s.podFaults := rfl
@[simp] theorem State.modTeam_badRegs (tid : Nat) (f : Team → Team) : (s.modTeam tid f).badRegs = s.badRegs := rfl
@[simp] theorem State.modTeam_badFrag (tid : Nat) (f : Team → Team) : (s.modTeam tid f).badFrag = s.badFrag := rfl
@[simp] theorem State.modTeam_badCryst (tid : Nat) (f : Team → Team) : (s.modTeam tid f).badCryst = s.badCryst := rfl
@[simp] theorem State.modTeam_fuses (tid : Nat) (f : Team → Team) : (s.modTeam tid f).fuses = s.fuses := rfl
@[simp] theorem State.modTeam_softRepair (tid : Nat) (f : Team → Team) : (s.modTeam tid f).softRepair = s.softRepair := rfl
@[simp] theorem State.modTeam_ueLines (tid : Nat) (f : Team → Team) : (s.modTeam tid f).ueLines = s.ueLines := rfl
@[simp] theorem State.modTeam_retiredLines (tid : Nat) (f : Team → Team) : (s.modTeam tid f).retiredLines = s.retiredLines := rfl
@[simp] theorem State.modTeam_copies (tid : Nat) (f : Team → Team) : (s.modTeam tid f).copies = s.copies := rfl
@[simp] theorem State.modTeam_copyTickets (tid : Nat) (f : Team → Team) : (s.modTeam tid f).copyTickets = s.copyTickets := rfl
@[simp] theorem State.modTeam_copySeq (tid : Nat) (f : Team → Team) : (s.modTeam tid f).copySeq = s.copySeq := rfl
@[simp] theorem State.modTeam_brine (tid : Nat) (f : Team → Team) : (s.modTeam tid f).brine = s.brine := rfl
@[simp] theorem State.modTeam_brineTickets (tid : Nat) (f : Team → Team) : (s.modTeam tid f).brineTickets = s.brineTickets := rfl
@[simp] theorem State.modTeam_brineSeq (tid : Nat) (f : Team → Team) : (s.modTeam tid f).brineSeq = s.brineSeq := rfl
@[simp] theorem State.modTeam_brineTables (tid : Nat) (f : Team → Team) : (s.modTeam tid f).brineTables = s.brineTables := rfl
@[simp] theorem State.modTeam_sluice (tid : Nat) (f : Team → Team) : (s.modTeam tid f).sluice = s.sluice := rfl
@[simp] theorem State.modTeam_sluiceSeq (tid : Nat) (f : Team → Team) : (s.modTeam tid f).sluiceSeq = s.sluiceSeq := rfl
@[simp] theorem State.modTeam_engOrder (tid : Nat) (f : Team → Team) : (s.modTeam tid f).engOrder = s.engOrder := rfl
@[simp] theorem State.modTeam_transfers (tid : Nat) (f : Team → Team) : (s.modTeam tid f).transfers = s.transfers := rfl
@[simp] theorem State.modTeam_fabTickets (tid : Nat) (f : Team → Team) : (s.modTeam tid f).fabTickets = s.fabTickets := rfl
@[simp] theorem State.modTeam_fabSeq (tid : Nat) (f : Team → Team) : (s.modTeam tid f).fabSeq = s.fabSeq := rfl
@[simp] theorem State.modTeam_counters (tid : Nat) (f : Team → Team) : (s.modTeam tid f).counters = s.counters := rfl
@[simp] theorem State.modTeam_tsend (tid : Nat) (f : Team → Team) : (s.modTeam tid f).tsend = s.tsend := rfl
@[simp] theorem State.modTeam_tsendSeq (tid : Nat) (f : Team → Team) : (s.modTeam tid f).tsendSeq = s.tsendSeq := rfl
@[simp] theorem State.modTeam_colls (tid : Nat) (f : Team → Team) : (s.modTeam tid f).colls = s.colls := rfl
@[simp] theorem State.modTeam_inbound (tid : Nat) (f : Team → Team) : (s.modTeam tid f).inbound = s.inbound := rfl
@[simp] theorem State.modTeam_portsDown (tid : Nat) (f : Team → Team) : (s.modTeam tid f).portsDown = s.portsDown := rfl
@[simp] theorem State.modTeam_recs (tid : Nat) (f : Team → Team) : (s.modTeam tid f).recs = s.recs := rfl
@[simp] theorem State.modTeam_nextRec (tid : Nat) (f : Team → Team) : (s.modTeam tid f).nextRec = s.nextRec := rfl
@[simp] theorem State.modTeam_ringUse (tid : Nat) (f : Team → Team) : (s.modTeam tid f).ringUse = s.ringUse := rfl
@[simp] theorem State.modTeam_ringLast (tid : Nat) (f : Team → Team) : (s.modTeam tid f).ringLast = s.ringLast := rfl
@[simp] theorem State.modTeam_ringFaulted (tid : Nat) (f : Team → Team) : (s.modTeam tid f).ringFaulted = s.ringFaulted := rfl
@[simp] theorem State.modTeam_sigWait (tid : Nat) (f : Team → Team) : (s.modTeam tid f).sigWait = s.sigWait := rfl
@[simp] theorem State.modTeam_cryst (tid : Nat) (f : Team → Team) : (s.modTeam tid f).cryst = s.cryst := rfl
@[simp] theorem State.modTeam_crystMem (tid : Nat) (f : Team → Team) : (s.modTeam tid f).crystMem = s.crystMem := rfl
@[simp] theorem State.modTeam_grants (tid : Nat) (f : Team → Team) : (s.modTeam tid f).grants = s.grants := rfl
@[simp] theorem State.modTeam_routes (tid : Nat) (f : Team → Team) : (s.modTeam tid f).routes = s.routes := rfl
@[simp] theorem State.modTeam_qpairs (tid : Nat) (f : Team → Team) : (s.modTeam tid f).qpairs = s.qpairs := rfl
@[simp] theorem State.modTeam_dieCe (tid : Nat) (f : Team → Team) : (s.modTeam tid f).dieCe = s.dieCe := rfl
@[simp] theorem State.modTeam_erasedDie (tid : Nat) (f : Team → Team) : (s.modTeam tid f).erasedDie = s.erasedDie := rfl
@[simp] theorem State.modTeam_memMap (tid : Nat) (f : Team → Team) : (s.modTeam tid f).memMap = s.memMap := rfl
@[simp] theorem State.modTeam_regs (tid : Nat) (f : Team → Team) : (s.modTeam tid f).regs = s.regs := rfl
@[simp] theorem State.modTeam_out (tid : Nat) (f : Team → Team) : (s.modTeam tid f).out = s.out := rfl

@[simp] theorem Ctx.setSub_agenda (c : Ctx) (u : Sub) : (c.setSub s u).agenda = s.agenda := rfl
@[simp] theorem Ctx.setSub_cur (c : Ctx) (u : Sub) : (c.setSub s u).cur = s.cur := rfl
@[simp] theorem Ctx.setSub_fresh (c : Ctx) (u : Sub) : (c.setSub s u).fresh = s.fresh := rfl
@[simp] theorem Ctx.setSub_meridian (c : Ctx) (u : Sub) : (c.setSub s u).meridian = s.meridian := rfl
@[simp] theorem Ctx.setSub_cycles (c : Ctx) (u : Sub) : (c.setSub s u).cycles = s.cycles := rfl
@[simp] theorem Ctx.setSub_frac (c : Ctx) (u : Sub) : (c.setSub s u).frac = s.frac := rfl
@[simp] theorem Ctx.setSub_slow (c : Ctx) (u : Sub) : (c.setSub s u).slow = s.slow := rfl
@[simp] theorem Ctx.setSub_teams (c : Ctx) (u : Sub) : (c.setSub s u).teams = s.teams := rfl
@[simp] theorem Ctx.setSub_cores (c : Ctx) (u : Sub) : (c.setSub s u).cores = s.cores := rfl
@[simp] theorem Ctx.setSub_nextGid (c : Ctx) (u : Sub) : (c.setSub s u).nextGid = s.nextGid := rfl
@[simp] theorem Ctx.setSub_nextTid (c : Ctx) (u : Sub) : (c.setSub s u).nextTid = s.nextTid := rfl
@[simp] theorem Ctx.setSub_nextChild (c : Ctx) (u : Sub) : (c.setSub s u).nextChild = s.nextChild := rfl
@[simp] theorem Ctx.setSub_launches (c : Ctx) (u : Sub) : (c.setSub s u).launches = s.launches := rfl
@[simp] theorem Ctx.setSub_nextSeq (c : Ctx) (u : Sub) : (c.setSub s u).nextSeq = s.nextSeq := rfl
@[simp] theorem Ctx.setSub_doneClock (c : Ctx) (u : Sub) : (c.setSub s u).doneClock = s.doneClock := rfl
@[simp] theorem Ctx.setSub_saved (c : Ctx) (u : Sub) : (c.setSub s u).saved = s.saved := rfl
@[simp] theorem Ctx.setSub_held (c : Ctx) (u : Sub) : (c.setSub s u).held = s.held := rfl
@[simp] theorem Ctx.setSub_granules (c : Ctx) (u : Sub) : (c.setSub s u).granules = s.granules := rfl
@[simp] theorem Ctx.setSub_regions (c : Ctx) (u : Sub) : (c.setSub s u).regions = s.regions := rfl
@[simp] theorem Ctx.setSub_hps (c : Ctx) (u : Sub) : (c.setSub s u).hps = s.hps := rfl
@[simp] theorem Ctx.setSub_mem (c : Ctx) (u : Sub) : (c.setSub s u).mem = s.mem := rfl
@[simp] theorem Ctx.setSub_podMem (c : Ctx) (u : Sub) : (c.setSub s u).podMem = s.podMem := rfl
@[simp] theorem Ctx.setSub_localMem (c : Ctx) (u : Sub) : (c.setSub s u).localMem = s.localMem := rfl
@[simp] theorem Ctx.setSub_l2 (c : Ctx) (u : Sub) : (c.setSub s u).l2 = s.l2 := rfl
@[simp] theorem Ctx.setSub_tlb (c : Ctx) (u : Sub) : (c.setSub s u).tlb = s.tlb := rfl
@[simp] theorem Ctx.setSub_frames (c : Ctx) (u : Sub) : (c.setSub s u).frames = s.frames := rfl
@[simp] theorem Ctx.setSub_stores (c : Ctx) (u : Sub) : (c.setSub s u).stores = s.stores := rfl
@[simp] theorem Ctx.setSub_nextStore (c : Ctx) (u : Sub) : (c.setSub s u).nextStore = s.nextStore := rfl
@[simp] theorem Ctx.setSub_fails (c : Ctx) (u : Sub) : (c.setSub s u).fails = s.fails := rfl
@[simp] theorem Ctx.setSub_snaps (c : Ctx) (u : Sub) : (c.setSub s u).snaps = s.snaps := rfl
@[simp] theorem Ctx.setSub_podGrants (c : Ctx) (u : Sub) : (c.setSub s u).podGrants = s.podGrants := rfl
@[simp] theorem Ctx.setSub_podCaps (c : Ctx) (u : Sub) : (c.setSub s u).podCaps = s.podCaps := rfl
@[simp] theorem Ctx.setSub_lateSeq (c : Ctx) (u : Sub) : (c.setSub s u).lateSeq = s.lateSeq := rfl
@[simp] theorem Ctx.setSub_issuesLate (c : Ctx) (u : Sub) : (c.setSub s u).issuesLate = s.issuesLate := rfl
@[simp] theorem Ctx.setSub_zone (c : Ctx) (u : Sub) : (c.setSub s u).zone = s.zone := rfl
@[simp] theorem Ctx.setSub_zoneCursor (c : Ctx) (u : Sub) : (c.setSub s u).zoneCursor = s.zoneCursor := rfl
@[simp] theorem Ctx.setSub_noticeNext (c : Ctx) (u : Sub) : (c.setSub s u).noticeNext = s.noticeNext := rfl
@[simp] theorem Ctx.setSub_badMem (c : Ctx) (u : Sub) : (c.setSub s u).badMem = s.badMem := rfl
@[simp] theorem Ctx.setSub_badL2 (c : Ctx) (u : Sub) : (c.setSub s u).badL2 = s.badL2 := rfl
@[simp] theorem Ctx.setSub_badLocal (c : Ctx) (u : Sub) : (c.setSub s u).badLocal = s.badLocal := rfl
@[simp] theorem Ctx.setSub_softErrs (c : Ctx) (u : Sub) : (c.setSub s u).softErrs = s.softErrs := rfl
@[simp] theorem Ctx.setSub_podFaults (c : Ctx) (u : Sub) : (c.setSub s u).podFaults = s.podFaults := rfl
@[simp] theorem Ctx.setSub_badRegs (c : Ctx) (u : Sub) : (c.setSub s u).badRegs = s.badRegs := rfl
@[simp] theorem Ctx.setSub_badFrag (c : Ctx) (u : Sub) : (c.setSub s u).badFrag = s.badFrag := rfl
@[simp] theorem Ctx.setSub_badCryst (c : Ctx) (u : Sub) : (c.setSub s u).badCryst = s.badCryst := rfl
@[simp] theorem Ctx.setSub_fuses (c : Ctx) (u : Sub) : (c.setSub s u).fuses = s.fuses := rfl
@[simp] theorem Ctx.setSub_softRepair (c : Ctx) (u : Sub) : (c.setSub s u).softRepair = s.softRepair := rfl
@[simp] theorem Ctx.setSub_ueLines (c : Ctx) (u : Sub) : (c.setSub s u).ueLines = s.ueLines := rfl
@[simp] theorem Ctx.setSub_retiredLines (c : Ctx) (u : Sub) : (c.setSub s u).retiredLines = s.retiredLines := rfl
@[simp] theorem Ctx.setSub_copies (c : Ctx) (u : Sub) : (c.setSub s u).copies = s.copies := rfl
@[simp] theorem Ctx.setSub_copyTickets (c : Ctx) (u : Sub) : (c.setSub s u).copyTickets = s.copyTickets := rfl
@[simp] theorem Ctx.setSub_copySeq (c : Ctx) (u : Sub) : (c.setSub s u).copySeq = s.copySeq := rfl
@[simp] theorem Ctx.setSub_brine (c : Ctx) (u : Sub) : (c.setSub s u).brine = s.brine := rfl
@[simp] theorem Ctx.setSub_brineTickets (c : Ctx) (u : Sub) : (c.setSub s u).brineTickets = s.brineTickets := rfl
@[simp] theorem Ctx.setSub_brineSeq (c : Ctx) (u : Sub) : (c.setSub s u).brineSeq = s.brineSeq := rfl
@[simp] theorem Ctx.setSub_brineTables (c : Ctx) (u : Sub) : (c.setSub s u).brineTables = s.brineTables := rfl
@[simp] theorem Ctx.setSub_sluice (c : Ctx) (u : Sub) : (c.setSub s u).sluice = s.sluice := rfl
@[simp] theorem Ctx.setSub_sluiceSeq (c : Ctx) (u : Sub) : (c.setSub s u).sluiceSeq = s.sluiceSeq := rfl
@[simp] theorem Ctx.setSub_engOrder (c : Ctx) (u : Sub) : (c.setSub s u).engOrder = s.engOrder := rfl
@[simp] theorem Ctx.setSub_transfers (c : Ctx) (u : Sub) : (c.setSub s u).transfers = s.transfers := rfl
@[simp] theorem Ctx.setSub_fabTickets (c : Ctx) (u : Sub) : (c.setSub s u).fabTickets = s.fabTickets := rfl
@[simp] theorem Ctx.setSub_fabSeq (c : Ctx) (u : Sub) : (c.setSub s u).fabSeq = s.fabSeq := rfl
@[simp] theorem Ctx.setSub_counters (c : Ctx) (u : Sub) : (c.setSub s u).counters = s.counters := rfl
@[simp] theorem Ctx.setSub_tsend (c : Ctx) (u : Sub) : (c.setSub s u).tsend = s.tsend := rfl
@[simp] theorem Ctx.setSub_tsendSeq (c : Ctx) (u : Sub) : (c.setSub s u).tsendSeq = s.tsendSeq := rfl
@[simp] theorem Ctx.setSub_colls (c : Ctx) (u : Sub) : (c.setSub s u).colls = s.colls := rfl
@[simp] theorem Ctx.setSub_inbound (c : Ctx) (u : Sub) : (c.setSub s u).inbound = s.inbound := rfl
@[simp] theorem Ctx.setSub_portsDown (c : Ctx) (u : Sub) : (c.setSub s u).portsDown = s.portsDown := rfl
@[simp] theorem Ctx.setSub_recs (c : Ctx) (u : Sub) : (c.setSub s u).recs = s.recs := rfl
@[simp] theorem Ctx.setSub_nextRec (c : Ctx) (u : Sub) : (c.setSub s u).nextRec = s.nextRec := rfl
@[simp] theorem Ctx.setSub_ringUse (c : Ctx) (u : Sub) : (c.setSub s u).ringUse = s.ringUse := rfl
@[simp] theorem Ctx.setSub_ringLast (c : Ctx) (u : Sub) : (c.setSub s u).ringLast = s.ringLast := rfl
@[simp] theorem Ctx.setSub_ringFaulted (c : Ctx) (u : Sub) : (c.setSub s u).ringFaulted = s.ringFaulted := rfl
@[simp] theorem Ctx.setSub_sigWait (c : Ctx) (u : Sub) : (c.setSub s u).sigWait = s.sigWait := rfl
@[simp] theorem Ctx.setSub_cryst (c : Ctx) (u : Sub) : (c.setSub s u).cryst = s.cryst := rfl
@[simp] theorem Ctx.setSub_crystMem (c : Ctx) (u : Sub) : (c.setSub s u).crystMem = s.crystMem := rfl
@[simp] theorem Ctx.setSub_grants (c : Ctx) (u : Sub) : (c.setSub s u).grants = s.grants := rfl
@[simp] theorem Ctx.setSub_routes (c : Ctx) (u : Sub) : (c.setSub s u).routes = s.routes := rfl
@[simp] theorem Ctx.setSub_qpairs (c : Ctx) (u : Sub) : (c.setSub s u).qpairs = s.qpairs := rfl
@[simp] theorem Ctx.setSub_dieCe (c : Ctx) (u : Sub) : (c.setSub s u).dieCe = s.dieCe := rfl
@[simp] theorem Ctx.setSub_erasedDie (c : Ctx) (u : Sub) : (c.setSub s u).erasedDie = s.erasedDie := rfl
@[simp] theorem Ctx.setSub_memMap (c : Ctx) (u : Sub) : (c.setSub s u).memMap = s.memMap := rfl
@[simp] theorem Ctx.setSub_regs (c : Ctx) (u : Sub) : (c.setSub s u).regs = s.regs := rfl
@[simp] theorem Ctx.setSub_out (c : Ctx) (u : Sub) : (c.setSub s u).out = s.out := rfl

@[simp] theorem State.switchPipe_agenda (core issue gid : Nat) (mask : Word) : (s.switchPipe core issue gid mask).agenda = s.agenda := rfl
@[simp] theorem State.switchPipe_cur (core issue gid : Nat) (mask : Word) : (s.switchPipe core issue gid mask).cur = s.cur := rfl
@[simp] theorem State.switchPipe_fresh (core issue gid : Nat) (mask : Word) : (s.switchPipe core issue gid mask).fresh = s.fresh := rfl
@[simp] theorem State.switchPipe_meridian (core issue gid : Nat) (mask : Word) : (s.switchPipe core issue gid mask).meridian = s.meridian := rfl
@[simp] theorem State.switchPipe_cycles (core issue gid : Nat) (mask : Word) : (s.switchPipe core issue gid mask).cycles = s.cycles := rfl
@[simp] theorem State.switchPipe_frac (core issue gid : Nat) (mask : Word) : (s.switchPipe core issue gid mask).frac = s.frac := rfl
@[simp] theorem State.switchPipe_slow (core issue gid : Nat) (mask : Word) : (s.switchPipe core issue gid mask).slow = s.slow := rfl
@[simp] theorem State.switchPipe_teams (core issue gid : Nat) (mask : Word) : (s.switchPipe core issue gid mask).teams = s.teams := rfl
@[simp] theorem State.switchPipe_cores (core issue gid : Nat) (mask : Word) : (s.switchPipe core issue gid mask).cores = s.cores := rfl
@[simp] theorem State.switchPipe_nextGid (core issue gid : Nat) (mask : Word) : (s.switchPipe core issue gid mask).nextGid = s.nextGid := rfl
@[simp] theorem State.switchPipe_nextTid (core issue gid : Nat) (mask : Word) : (s.switchPipe core issue gid mask).nextTid = s.nextTid := rfl
@[simp] theorem State.switchPipe_nextChild (core issue gid : Nat) (mask : Word) : (s.switchPipe core issue gid mask).nextChild = s.nextChild := rfl
@[simp] theorem State.switchPipe_launches (core issue gid : Nat) (mask : Word) : (s.switchPipe core issue gid mask).launches = s.launches := rfl
@[simp] theorem State.switchPipe_nextSeq (core issue gid : Nat) (mask : Word) : (s.switchPipe core issue gid mask).nextSeq = s.nextSeq := rfl
@[simp] theorem State.switchPipe_doneClock (core issue gid : Nat) (mask : Word) : (s.switchPipe core issue gid mask).doneClock = s.doneClock := rfl
@[simp] theorem State.switchPipe_saved (core issue gid : Nat) (mask : Word) : (s.switchPipe core issue gid mask).saved = s.saved := rfl
@[simp] theorem State.switchPipe_held (core issue gid : Nat) (mask : Word) : (s.switchPipe core issue gid mask).held = s.held := rfl
@[simp] theorem State.switchPipe_granules (core issue gid : Nat) (mask : Word) : (s.switchPipe core issue gid mask).granules = s.granules := rfl
@[simp] theorem State.switchPipe_regions (core issue gid : Nat) (mask : Word) : (s.switchPipe core issue gid mask).regions = s.regions := rfl
@[simp] theorem State.switchPipe_hps (core issue gid : Nat) (mask : Word) : (s.switchPipe core issue gid mask).hps = s.hps := rfl
@[simp] theorem State.switchPipe_mem (core issue gid : Nat) (mask : Word) : (s.switchPipe core issue gid mask).mem = s.mem := rfl
@[simp] theorem State.switchPipe_podMem (core issue gid : Nat) (mask : Word) : (s.switchPipe core issue gid mask).podMem = s.podMem := rfl
@[simp] theorem State.switchPipe_localMem (core issue gid : Nat) (mask : Word) : (s.switchPipe core issue gid mask).localMem = s.localMem := rfl
@[simp] theorem State.switchPipe_l2 (core issue gid : Nat) (mask : Word) : (s.switchPipe core issue gid mask).l2 = s.l2 := rfl
@[simp] theorem State.switchPipe_tlb (core issue gid : Nat) (mask : Word) : (s.switchPipe core issue gid mask).tlb = s.tlb := rfl
@[simp] theorem State.switchPipe_frames (core issue gid : Nat) (mask : Word) : (s.switchPipe core issue gid mask).frames = s.frames := rfl
@[simp] theorem State.switchPipe_stores (core issue gid : Nat) (mask : Word) : (s.switchPipe core issue gid mask).stores = s.stores := rfl
@[simp] theorem State.switchPipe_nextStore (core issue gid : Nat) (mask : Word) : (s.switchPipe core issue gid mask).nextStore = s.nextStore := rfl
@[simp] theorem State.switchPipe_fails (core issue gid : Nat) (mask : Word) : (s.switchPipe core issue gid mask).fails = s.fails := rfl
@[simp] theorem State.switchPipe_snaps (core issue gid : Nat) (mask : Word) : (s.switchPipe core issue gid mask).snaps = s.snaps := rfl
@[simp] theorem State.switchPipe_podGrants (core issue gid : Nat) (mask : Word) : (s.switchPipe core issue gid mask).podGrants = s.podGrants := rfl
@[simp] theorem State.switchPipe_podCaps (core issue gid : Nat) (mask : Word) : (s.switchPipe core issue gid mask).podCaps = s.podCaps := rfl
@[simp] theorem State.switchPipe_lateSeq (core issue gid : Nat) (mask : Word) : (s.switchPipe core issue gid mask).lateSeq = s.lateSeq := rfl
@[simp] theorem State.switchPipe_issuesLate (core issue gid : Nat) (mask : Word) : (s.switchPipe core issue gid mask).issuesLate = s.issuesLate := rfl
@[simp] theorem State.switchPipe_zone (core issue gid : Nat) (mask : Word) : (s.switchPipe core issue gid mask).zone = s.zone := rfl
@[simp] theorem State.switchPipe_zoneCursor (core issue gid : Nat) (mask : Word) : (s.switchPipe core issue gid mask).zoneCursor = s.zoneCursor := rfl
@[simp] theorem State.switchPipe_noticeNext (core issue gid : Nat) (mask : Word) : (s.switchPipe core issue gid mask).noticeNext = s.noticeNext := rfl
@[simp] theorem State.switchPipe_badMem (core issue gid : Nat) (mask : Word) : (s.switchPipe core issue gid mask).badMem = s.badMem := rfl
@[simp] theorem State.switchPipe_badL2 (core issue gid : Nat) (mask : Word) : (s.switchPipe core issue gid mask).badL2 = s.badL2 := rfl
@[simp] theorem State.switchPipe_badLocal (core issue gid : Nat) (mask : Word) : (s.switchPipe core issue gid mask).badLocal = s.badLocal := rfl
@[simp] theorem State.switchPipe_softErrs (core issue gid : Nat) (mask : Word) : (s.switchPipe core issue gid mask).softErrs = s.softErrs := rfl
@[simp] theorem State.switchPipe_podFaults (core issue gid : Nat) (mask : Word) : (s.switchPipe core issue gid mask).podFaults = s.podFaults := rfl
@[simp] theorem State.switchPipe_badRegs (core issue gid : Nat) (mask : Word) : (s.switchPipe core issue gid mask).badRegs = s.badRegs := rfl
@[simp] theorem State.switchPipe_badFrag (core issue gid : Nat) (mask : Word) : (s.switchPipe core issue gid mask).badFrag = s.badFrag := rfl
@[simp] theorem State.switchPipe_badCryst (core issue gid : Nat) (mask : Word) : (s.switchPipe core issue gid mask).badCryst = s.badCryst := rfl
@[simp] theorem State.switchPipe_fuses (core issue gid : Nat) (mask : Word) : (s.switchPipe core issue gid mask).fuses = s.fuses := rfl
@[simp] theorem State.switchPipe_softRepair (core issue gid : Nat) (mask : Word) : (s.switchPipe core issue gid mask).softRepair = s.softRepair := rfl
@[simp] theorem State.switchPipe_ueLines (core issue gid : Nat) (mask : Word) : (s.switchPipe core issue gid mask).ueLines = s.ueLines := rfl
@[simp] theorem State.switchPipe_retiredLines (core issue gid : Nat) (mask : Word) : (s.switchPipe core issue gid mask).retiredLines = s.retiredLines := rfl
@[simp] theorem State.switchPipe_copies (core issue gid : Nat) (mask : Word) : (s.switchPipe core issue gid mask).copies = s.copies := rfl
@[simp] theorem State.switchPipe_copyTickets (core issue gid : Nat) (mask : Word) : (s.switchPipe core issue gid mask).copyTickets = s.copyTickets := rfl
@[simp] theorem State.switchPipe_copySeq (core issue gid : Nat) (mask : Word) : (s.switchPipe core issue gid mask).copySeq = s.copySeq := rfl
@[simp] theorem State.switchPipe_brine (core issue gid : Nat) (mask : Word) : (s.switchPipe core issue gid mask).brine = s.brine := rfl
@[simp] theorem State.switchPipe_brineTickets (core issue gid : Nat) (mask : Word) : (s.switchPipe core issue gid mask).brineTickets = s.brineTickets := rfl
@[simp] theorem State.switchPipe_brineSeq (core issue gid : Nat) (mask : Word) : (s.switchPipe core issue gid mask).brineSeq = s.brineSeq := rfl
@[simp] theorem State.switchPipe_brineTables (core issue gid : Nat) (mask : Word) : (s.switchPipe core issue gid mask).brineTables = s.brineTables := rfl
@[simp] theorem State.switchPipe_sluice (core issue gid : Nat) (mask : Word) : (s.switchPipe core issue gid mask).sluice = s.sluice := rfl
@[simp] theorem State.switchPipe_sluiceSeq (core issue gid : Nat) (mask : Word) : (s.switchPipe core issue gid mask).sluiceSeq = s.sluiceSeq := rfl
@[simp] theorem State.switchPipe_engOrder (core issue gid : Nat) (mask : Word) : (s.switchPipe core issue gid mask).engOrder = s.engOrder := rfl
@[simp] theorem State.switchPipe_transfers (core issue gid : Nat) (mask : Word) : (s.switchPipe core issue gid mask).transfers = s.transfers := rfl
@[simp] theorem State.switchPipe_fabTickets (core issue gid : Nat) (mask : Word) : (s.switchPipe core issue gid mask).fabTickets = s.fabTickets := rfl
@[simp] theorem State.switchPipe_fabSeq (core issue gid : Nat) (mask : Word) : (s.switchPipe core issue gid mask).fabSeq = s.fabSeq := rfl
@[simp] theorem State.switchPipe_counters (core issue gid : Nat) (mask : Word) : (s.switchPipe core issue gid mask).counters = s.counters := rfl
@[simp] theorem State.switchPipe_tsend (core issue gid : Nat) (mask : Word) : (s.switchPipe core issue gid mask).tsend = s.tsend := rfl
@[simp] theorem State.switchPipe_tsendSeq (core issue gid : Nat) (mask : Word) : (s.switchPipe core issue gid mask).tsendSeq = s.tsendSeq := rfl
@[simp] theorem State.switchPipe_colls (core issue gid : Nat) (mask : Word) : (s.switchPipe core issue gid mask).colls = s.colls := rfl
@[simp] theorem State.switchPipe_inbound (core issue gid : Nat) (mask : Word) : (s.switchPipe core issue gid mask).inbound = s.inbound := rfl
@[simp] theorem State.switchPipe_portsDown (core issue gid : Nat) (mask : Word) : (s.switchPipe core issue gid mask).portsDown = s.portsDown := rfl
@[simp] theorem State.switchPipe_recs (core issue gid : Nat) (mask : Word) : (s.switchPipe core issue gid mask).recs = s.recs := rfl
@[simp] theorem State.switchPipe_nextRec (core issue gid : Nat) (mask : Word) : (s.switchPipe core issue gid mask).nextRec = s.nextRec := rfl
@[simp] theorem State.switchPipe_ringUse (core issue gid : Nat) (mask : Word) : (s.switchPipe core issue gid mask).ringUse = s.ringUse := rfl
@[simp] theorem State.switchPipe_ringLast (core issue gid : Nat) (mask : Word) : (s.switchPipe core issue gid mask).ringLast = s.ringLast := rfl
@[simp] theorem State.switchPipe_ringFaulted (core issue gid : Nat) (mask : Word) : (s.switchPipe core issue gid mask).ringFaulted = s.ringFaulted := rfl
@[simp] theorem State.switchPipe_sigWait (core issue gid : Nat) (mask : Word) : (s.switchPipe core issue gid mask).sigWait = s.sigWait := rfl
@[simp] theorem State.switchPipe_cryst (core issue gid : Nat) (mask : Word) : (s.switchPipe core issue gid mask).cryst = s.cryst := rfl
@[simp] theorem State.switchPipe_crystMem (core issue gid : Nat) (mask : Word) : (s.switchPipe core issue gid mask).crystMem = s.crystMem := rfl
@[simp] theorem State.switchPipe_grants (core issue gid : Nat) (mask : Word) : (s.switchPipe core issue gid mask).grants = s.grants := rfl
@[simp] theorem State.switchPipe_routes (core issue gid : Nat) (mask : Word) : (s.switchPipe core issue gid mask).routes = s.routes := rfl
@[simp] theorem State.switchPipe_qpairs (core issue gid : Nat) (mask : Word) : (s.switchPipe core issue gid mask).qpairs = s.qpairs := rfl
@[simp] theorem State.switchPipe_dieCe (core issue gid : Nat) (mask : Word) : (s.switchPipe core issue gid mask).dieCe = s.dieCe := rfl
@[simp] theorem State.switchPipe_erasedDie (core issue gid : Nat) (mask : Word) : (s.switchPipe core issue gid mask).erasedDie = s.erasedDie := rfl
@[simp] theorem State.switchPipe_memMap (core issue gid : Nat) (mask : Word) : (s.switchPipe core issue gid mask).memMap = s.memMap := rfl
@[simp] theorem State.switchPipe_regs (core issue gid : Nat) (mask : Word) : (s.switchPipe core issue gid mask).regs = s.regs := rfl
@[simp] theorem State.switchPipe_out (core issue gid : Nat) (mask : Word) : (s.switchPipe core issue gid mask).out = s.out := rfl

end Sys2Proof.Machine
end

