-- ==== Sys2Proof/Laws/Find.lean ====
section
/-! SUPPORT. Finding groups, teams and sub-groups after an update, and reading the rows of a group. -/

namespace Sys2Proof.Machine

/-! ### Groups and teams -/

theorem State.group?_modGroup (s : State) (gid i : Nat) (f : Group → Group) (h : ∀ g, (f g).gid = g.gid) :
    (s.modGroup gid f).group? i = if i = gid then (s.group? i).map f else s.group? i := by
  simp only [State.group?, State.modGroup, List.find?_map]
  have hp : ((fun g : Group => g.gid == i) ∘ fun g => if g.gid == gid then f g else g) = fun g => g.gid == i := by
    funext g; simp only [Function.comp]; split <;> simp [h]
  rw [hp]
  cases hf : s.groups.find? fun g => g.gid == i with
  | none => simp
  | some g =>
    have hg : g.gid = i := by simpa using List.find?_some hf
    by_cases e : i = gid <;> simp [hg, e]

theorem State.group?_modGroup_same (s : State) (gid : Nat) (f : Group → Group) (h : ∀ g, (f g).gid = g.gid) :
    (s.modGroup gid f).group? gid = (s.group? gid).map f := by simp [State.group?_modGroup s gid gid f h]

@[simp] theorem State.team?_modGroup (s : State) (gid i : Nat) (f : Group → Group) : (s.modGroup gid f).team? i = s.team? i := rfl
@[simp] theorem State.team?_modCore (s : State) (n i : Nat) (f : CoreSt → CoreSt) : (s.modCore n f).team? i = s.team? i := rfl
@[simp] theorem State.group?_modCore (s : State) (n i : Nat) (f : CoreSt → CoreSt) : (s.modCore n f).group? i = s.group? i := rfl
@[simp] theorem State.group?_modTeam (s : State) (n i : Nat) (f : Team → Team) : (s.modTeam n f).group? i = s.group? i := rfl

theorem State.team?_modTeam (s : State) (tid i : Nat) (f : Team → Team) (h : ∀ t, (f t).tid = t.tid) :
    (s.modTeam tid f).team? i = if i = tid then (s.team? i).map f else s.team? i := by
  simp only [State.team?, State.modTeam, List.find?_map]
  have hp : ((fun g : Team => g.tid == i) ∘ fun g => if g.tid == tid then f g else g) = fun g => g.tid == i := by
    funext g; simp only [Function.comp]; split <;> simp [h]
  rw [hp]
  cases hf : s.teams.find? fun g => g.tid == i with
  | none => simp
  | some g =>
    have hg : g.tid = i := by simpa using List.find?_some hf
    by_cases e : i = tid <;> simp [hg, e]

theorem State.group?_gid {s : State} {i : Nat} {g : Group} (h : s.group? i = some g) : g.gid = i := by
  simpa using List.find?_some h
theorem State.team?_tid {s : State} {i : Nat} {t : Team} (h : s.team? i = some t) : t.tid = i := by
  simpa using List.find?_some h

/-! ### Contexts -/

theorem State.ctxOf_eq {s : State} {gid lane : Nat} {c : Ctx} :
    s.ctxOf gid lane = some c ↔
      c.gid = gid ∧ c.lane = lane ∧ s.group? gid = some c.g ∧ c.g.subAt? lane = some c.u ∧ s.team? c.g.tid = some c.t := by
  unfold State.ctxOf
  constructor
  · intro h
    split at h
    · cases h
    · rename_i g hg
      split at h
      · rename_i u t hu ht
        cases h
        exact ⟨rfl, rfl, hg, hu, ht⟩
      · cases h
  · rintro ⟨rfl, rfl, hg, hu, ht⟩
    simp only [hg, hu, ht]

/-- The context of the issuer is the context of its group and lane. -/
theorem State.ctx?_ctxOf {s : State} {c : Ctx} (h : s.ctx? = some c) : s.ctxOf c.gid c.lane = some c := by
  unfold State.ctx? at h
  split at h
  · cases h
  · rename_i gid lane _
    obtain ⟨rfl, rfl, _⟩ := State.ctxOf_eq.1 h
    exact h

theorem Group.subAt?_mask {g : Group} {lane : Nat} {u : Sub} (h : g.subAt? lane = some u) : u.mask.getLsbD lane = true := by
  simpa using List.find?_some h

/-- The issuing sub-group is found again where it was replaced by one of the same lanes. -/
theorem Group.subAt?_setSub (g : Group) {lane : Nat} {u v : Sub} (h : g.subAt? lane = some u) (hm : v.mask = u.mask) :
    (g.setSub u.mask v).subAt? lane = some v := by
  have hl := Group.subAt?_mask h
  unfold Group.subAt? at h ⊢
  simp only [Group.setSub, List.find?_map]
  have hp : ((fun w : Sub => w.mask.getLsbD lane) ∘ fun w => if w.mask == u.mask then v else w) = fun w => w.mask.getLsbD lane := by
    funext w
    simp only [Function.comp]
    split
    · rename_i e
      rw [hm, ← eq_of_beq e]
    · rfl
  rw [hp, h]
  simp

/-! ### Rows -/

@[simp] theorem zeroRow_getD (l : Nat) : zeroRow.getD l 0 = 0 := by
  simp only [zeroRow, List.getD_eq_getElem?_getD, List.getElem?_replicate]; split <;> rfl

theorem replicate_getD (x : Word) {l : Nat} (h : l < 32) : (List.replicate 32 x).getD l 0 = x := by
  rw [List.getD_eq_getElem?_getD, List.getElem?_replicate, if_pos h]; rfl

theorem rowMap_getD (f : Nat → Word) {l : Nat} (h : l < 32) : ((List.range 32).map f).getD l 0 = f l := by
  simp [List.getD_eq_getElem?_getD, h]

/-- May row `r` be written: the group has no image, or the row is private. -/
def Group.canWrite (g : Group) (r : Nat) : Prop := g.img = none ∨ g.priv.getLsbD r = true

theorem Group.row_setRow (g : Group) (d r : Nat) (m : Word) (f : Nat → Word) :
    (g.setRow d m f).row r =
      if r = d ∧ (g.img = none ∨ g.priv.getLsbD d = true) then (List.range 32).map (fun l => if m.getLsbD l then f l else (g.row d).getD l 0)
      else g.row r := by
  unfold Group.row Group.setRow
  cases hi : g.img with
  | none =>
    by_cases e : r = d
    · subst e; simp [hi, Group.row]
    · simp [e, NMap.get_set_other zeroRow e]
  | some v =>
    simp only
    by_cases e : r = d
    · subst e
      by_cases hp : g.priv.getLsbD r = true
      · simp [hp, Group.row, hi]
      · simp [hp]
    · by_cases hp : g.priv.getLsbD r = true <;> simp [hp, e, NMap.get_set_other zeroRow e]

/-- A row write changes the lanes of the mask and nothing else. -/
theorem Group.lane_setRow (g : Group) {d r l : Nat} (m : Word) (f : Nat → Word) (hl : l < 32) (hw : g.canWrite d ∨ m = 0) :
    (g.setRow d m f).lane r l = if r = d ∧ m.getLsbD l then f l else g.lane r l := by
  unfold Group.lane
  rw [Group.row_setRow]
  rcases hw with hw | rfl
  · by_cases e : r = d
    · subst e
      have hw' : g.img = none ∨ g.priv.getLsbD r = true := hw
      rw [if_pos ⟨rfl, hw'⟩, rowMap_getD _ hl]
      by_cases hm : m.getLsbD l = true
      · rw [if_pos hm, if_pos ⟨rfl, hm⟩]
      · rw [if_neg hm, if_neg (fun h => hm h.2)]
    · rw [if_neg (fun h => e h.1), if_neg (fun h => e h.1)]
  · rw [if_neg (c := r = d ∧ (0 : Word).getLsbD l = true) (fun h => by simp at h)]
    split
    · rename_i h
      rw [rowMap_getD _ hl, if_neg (by simp), h.1]
    · rfl

@[simp] theorem Group.setRow_gid (g : Group) (d : Nat) (m : Word) (f : Nat → Word) : (g.setRow d m f).gid = g.gid := rfl
@[simp] theorem Group.setRow_tid (g : Group) (d : Nat) (m : Word) (f : Nat → Word) : (g.setRow d m f).tid = g.tid := rfl
@[simp] theorem Group.setRow_subs (g : Group) (d : Nat) (m : Word) (f : Nat → Word) : (g.setRow d m f).subs = g.subs := rfl
@[simp] theorem Group.setRow_pred (g : Group) (d : Nat) (m : Word) (f : Nat → Word) : (g.setRow d m f).pred = g.pred := rfl
@[simp] theorem Group.setRow_img (g : Group) (d : Nat) (m : Word) (f : Nat → Word) : (g.setRow d m f).img = g.img := rfl
@[simp] theorem Group.setRow_priv (g : Group) (d : Nat) (m : Word) (f : Nat → Word) : (g.setRow d m f).priv = g.priv := rfl
@[simp] theorem Group.setRow_bare (g : Group) (d : Nat) (m : Word) (f : Nat → Word) : (g.setRow d m f).bare = g.bare := rfl
@[simp] theorem Group.setPredWord_bare (g : Group) (m : Word) (f : Nat → Word) : (g.setPredWord m f).bare = g.bare := rfl

theorem Group.canWrite_setRow {g : Group} {r : Nat} (d : Nat) (m : Word) (f : Nat → Word) (h : g.canWrite r) : (g.setRow d m f).canWrite r := h

theorem Group.predOf_setPredWord (g : Group) (m : Word) (f : Nat → Word) {l : Nat} (hl : l < 32) :
    (g.setPredWord m f).predOf l = if m.getLsbD l then f l else g.predOf l := by
  simp [Group.predOf, Group.setPredWord, List.getD_eq_getElem?_getD, hl]

@[simp] theorem Group.lane_setPredWord (g : Group) (m : Word) (f : Nat → Word) (r l : Nat) : (g.setPredWord m f).lane r l = g.lane r l := rfl

/-- Reading a uniform register after writing one. -/
theorem Group.sReg_setS (g : Group) (d r : Nat) (x : DWord) : (g.setS d x).sReg r = if r = d then x else g.sReg r := by
  simp [Group.sReg, Group.setS, NMap.get_set]

/-- `k7` reads 1, whatever was written to it (R28, R159). -/
theorem Group.kReg_seven (g : Group) : g.kReg 7 = true := rfl

/-- A search that finds nothing is one whose range holds nothing. -/
theorem firstFrom_none {p : Nat → Bool} {lo n : Nat} : firstFrom p lo n = none ↔ ∀ i, lo ≤ i → i < lo + n → p i = false := by
  induction n generalizing lo with
  | zero => simp [firstFrom]; omega
  | succ n ih =>
    rw [firstFrom]
    cases h : p lo with
    | true => simp; exact ⟨lo, by omega, by omega, h⟩
    | false =>
      simp only [Bool.false_eq_true, if_false, ih]
      constructor
      · intro H i h1 h2
        by_cases hi : i = lo
        · rw [hi, h]
        · exact H i (by omega) (by omega)
      · intro H i h1 h2; exact H i (by omega) (by omega)

/-- A search answers the first number of its range that passes. -/
theorem firstFrom_some {p : Nat → Bool} {lo n i : Nat} (h : firstFrom p lo n = some i) :
    lo ≤ i ∧ i < lo + n ∧ p i = true ∧ ∀ j, lo ≤ j → j < i → p j = false := by
  induction n generalizing lo with
  | zero => simp [firstFrom] at h
  | succ n ih =>
    rw [firstFrom] at h
    cases hp : p lo with
    | true => simp [hp] at h; subst h; exact ⟨by omega, by omega, hp, by omega⟩
    | false =>
      simp [hp] at h
      obtain ⟨h1, h2, h3, h4⟩ := ih h
      refine ⟨by omega, by omega, h3, fun j hj hji => ?_⟩
      by_cases hjl : j = lo
      · rw [hjl, hp]
      · exact h4 j (by omega) hji

end Sys2Proof.Machine
end

