-- ==== Sys2Proof/Laws/Lane.lean ====
section
/-! SUPPORT. What lane instructions do: the state after the pipe has switched and rows have become private, and the next state of
the two moulds of lane instructions. -/

namespace Sys2Proof.Machine

/-! ### Nothing but chains and rows differ -/

/-- `t` and `s` hold the same but for latch chains of other sub-groups, which rows are private and the core's list of those parked for
rows. -/
structure Alike (c : Ctx) (s t : State) : Prop where
  regs : ∀ gid r l, l < 32 → t.laneReg gid r l = s.laneReg gid r l
  preds : ∀ gid l, t.predWord gid l = s.predWord gid l
  subs : t.groups.map (fun g => g.subs.map Sub.bare) = s.groups.map fun g => g.subs.map Sub.bare
  groups : t.groups.map Group.bare = s.groups.map Group.bare
  teams : t.teams.map Team.bare = s.teams.map Team.bare
  cores : t.cores = s.cores ∨ t.cores = (gotRows c s).cores
  rest : { t with groups := s.groups, teams := s.teams, cores := s.cores } = s

/-- The context `c1` in `t` is that of `c` in `s`, with the rows `rows` writable in the lanes `m`. -/
structure Ready (s t : State) (c c1 : Ctx) (rows : List Nat) (m : Word) : Prop where
  alike : Alike c s t
  ctx : t.ctxOf c.gid c.lane = some c1
  gid : c1.gid = c.gid
  lane : c1.lane = c.lane
  sub : c1.u = c.u
  team : c1.t.bare = c.t.bare
  group : c1.g.bare = c.g.bare
  pred : c1.g.pred = c.g.pred
  regs : ∀ r l, l < 32 → c1.g.lane r l = c.g.lane r l
  rows : ∀ r ∈ rows, r < 60 → c1.g.canWrite r ∨ m = 0

/-- The sub-groups that lose their chains when the pipe switches. -/
def dropOthers (issue gid : Nat) (mask : Word) (g : Group) : Group :=
  { g with subs := g.subs.map fun u => if u.issue == issue && !(g.gid == gid && u.mask == mask) then u.dropChain else u }

theorem Sub.dropChain_mask (u : Sub) : u.dropChain.mask = u.mask := rfl
@[simp] theorem Sub.dropChain_bare (u : Sub) : u.dropChain.bare = u.bare := rfl

/-- What a switch does to one group. -/
def switchOne (s : State) (core issue gid : Nat) (mask : Word) (g : Group) : Group :=
  if (match s.team? g.tid with | some t => t.core == core | none => false) then dropOthers issue gid mask g else g

theorem switchOne_or (s : State) (core issue gid : Nat) (mask : Word) (g : Group) :
    switchOne s core issue gid mask g = dropOthers issue gid mask g ∨ switchOne s core issue gid mask g = g := by
  unfold switchOne
  generalize (match s.team? g.tid with | some t => t.core == core | none => false) = b
  cases b
  · exact Or.inr rfl
  · exact Or.inl rfl

theorem switchOne_keep {α : Type} (s : State) (core issue gid : Nat) (mask : Word) (g : Group) (p : Group → α)
    (h : p (dropOthers issue gid mask g) = p g) : p (switchOne s core issue gid mask g) = p g := by
  rcases switchOne_or s core issue gid mask g with e | e <;> rw [e]
  exact h

theorem State.switchPipe_groups (s : State) (core issue gid : Nat) (mask : Word) :
    (s.switchPipe core issue gid mask).groups = s.groups.map (switchOne s core issue gid mask) := rfl

theorem State.group?_switchPipe (s : State) (core issue gid : Nat) (mask : Word) (i : Nat) :
    (s.switchPipe core issue gid mask).group? i = (s.group? i).map (switchOne s core issue gid mask) := by
  simp only [State.group?, State.switchPipe_groups, List.find?_map]
  have hp : (fun g : Group => g.gid == i) ∘ switchOne s core issue gid mask = fun g => g.gid == i := by
    funext g; exact switchOne_keep s core issue gid mask g (fun g => g.gid == i) rfl
  rw [hp]

theorem subAt?_dropOthers (g : Group) (issue : Nat) (lane : Nat) (u : Sub) (h : g.subAt? lane = some u) :
    (dropOthers issue g.gid u.mask g).subAt? lane = some u := by
  unfold Group.subAt? at h ⊢
  simp only [dropOthers, List.find?_map]
  have hp : ((fun w : Sub => w.mask.getLsbD lane) ∘ fun w =>
      if w.issue == issue && !(g.gid == g.gid && w.mask == u.mask) then w.dropChain else w) = fun w => w.mask.getLsbD lane := by
    funext w; simp only [Function.comp]; split <;> rfl
  rw [hp, h]
  simp

theorem dropOthers_bare (issue gid : Nat) (mask : Word) (g : Group) :
    (dropOthers issue gid mask g).subs.map Sub.bare = g.subs.map Sub.bare := by
  simp only [dropOthers, List.map_map]
  refine List.map_congr_left fun u _ => ?_
  simp only [Function.comp]; split <;> rfl

theorem switchPipe_alike (c : Ctx) (s : State) (core issue gid : Nat) (mask : Word) : Alike c s (s.switchPipe core issue gid mask) where
  regs i r l _ := by
    simp only [State.laneReg, State.group?_switchPipe, Option.map_map]
    congr 1
    cases s.group? i with
    | none => rfl
    | some g => exact congrArg some (switchOne_keep s core issue gid mask g (fun g => g.lane r l) rfl)
  preds i l := by
    simp only [State.predWord, State.group?_switchPipe, Option.map_map]
    congr 1
    cases s.group? i with
    | none => rfl
    | some g => exact congrArg some (switchOne_keep s core issue gid mask g (fun g => g.predOf l) rfl)
  subs := by
    simp only [State.switchPipe_groups, List.map_map]
    refine List.map_congr_left fun g _ => ?_
    exact switchOne_keep s core issue gid mask g (fun g => g.subs.map Sub.bare) (dropOthers_bare issue gid mask g)
  groups := by
    simp only [State.switchPipe_groups, List.map_map]
    refine List.map_congr_left fun g _ => ?_
    exact switchOne_keep s core issue gid mask g Group.bare rfl
  teams := rfl
  cores := Or.inl rfl
  rest := rfl

theorem switchPipe_ctx {s : State} {c : Ctx} (h : s.ctxOf c.gid c.lane = some c) :
    ∃ c1, (s.switchPipe c.core c.u.issue c.gid c.u.mask).ctxOf c.gid c.lane = some c1 ∧ c1.gid = c.gid ∧ c1.lane = c.lane ∧ c1.u = c.u ∧
      c1.t = c.t ∧ c1.g.bare = c.g.bare ∧ c1.g.pred = c.g.pred ∧ (∀ r l, c1.g.lane r l = c.g.lane r l) ∧ c1.g.img = c.g.img ∧
      c1.g.priv = c.g.priv := by
  obtain ⟨-, -, hg, hu, ht⟩ := State.ctxOf_eq.1 h
  have hid : c.g.gid = c.gid := State.group?_gid hg
  refine ⟨⟨c.gid, c.lane, dropOthers c.u.issue c.gid c.u.mask c.g, c.u, c.t⟩, State.ctxOf_eq.2 ⟨rfl, rfl, ?_, ?_, ?_⟩,
    rfl, rfl, rfl, rfl, rfl, rfl, fun _ _ => rfl, rfl, rfl⟩
  · rw [State.group?_switchPipe, hg]
    simp [switchOne, ht, Ctx.core]
  · show (dropOthers c.u.issue c.gid c.u.mask c.g).subAt? c.lane = some c.u
    rw [← hid]; exact subAt?_dropOthers c.g c.u.issue c.lane c.u hu
  · exact ht

/-! ### Making rows private -/

theorem foldl_setV (v : List Word) (need : List Nat) (g : Group) :
    need.foldl (fun (g : Group) r => { g with v := NMap.set zeroRow r (List.replicate 32 (v.getD r 0)) g.v }) g =
      { g with v := need.foldl (fun m r => NMap.set zeroRow r (List.replicate 32 (v.getD r 0)) m) g.v } := by
  induction need generalizing g with
  | nil => rfl
  | cons r rs ih => simp only [List.foldl_cons, ih]

theorem get_foldl_set (x : Nat → List Word) (need : List Nat) (m : NMap (List Word)) (r : Nat) :
    NMap.get zeroRow r (need.foldl (fun m r => NMap.set zeroRow r (x r) m) m) = if r ∈ need then x r else NMap.get zeroRow r m := by
  induction need generalizing m with
  | nil => simp
  | cons a rs ih =>
    rw [List.foldl_cons, ih, NMap.get_set]
    by_cases h : r ∈ rs
    · simp [h]
    · by_cases e : r = a
      · subst e; simp [h]
      · simp [h, e]

/-- The bits of a set of rows. -/
def privBits (l : List Nat) : BitVec 60 := l.foldl (fun (a : BitVec 60) r => a ||| (1#60 <<< r)) 0

theorem getLsbD_foldl_or (l : List Nat) (a : BitVec 60) (r : Nat) :
    (l.foldl (fun (a : BitVec 60) r => a ||| (1#60 <<< r)) a).getLsbD r = (a.getLsbD r || (decide (r < 60) && decide (r ∈ l))) := by
  induction l generalizing a with
  | nil => simp
  | cons x xs ih =>
    rw [List.foldl_cons, ih]
    simp only [BitVec.getLsbD_or, BitVec.getLsbD_shiftLeft, BitVec.getLsbD_one, List.mem_cons]
    by_cases h : r < 60
    · by_cases e : r = x
      · subst e; simp [h]
      · have : ¬(r - x = 0 ∧ x ≤ r) := fun hx => e (by omega)
        by_cases hx : r < x
        · simp [h, e, hx]
        · have h2 : r - x ≠ 0 := by omega
          simp [h, e, h2]
    · simp [h]

theorem privBits_getLsbD (l : List Nat) (r : Nat) : (privBits l).getLsbD r = (decide (r < 60) && decide (r ∈ l)) := by
  simp [privBits, getLsbD_foldl_or]

/-- What `privatise` does to the group: the rows `need` take the image value `v` in every lane. -/
def takeRows (v : List Word) (need rsv : List Nat) (g : Group) : Group :=
  { g with v := need.foldl (fun m r => NMap.set zeroRow r (List.replicate 32 (v.getD r 0)) m) g.v
           priv := g.priv ||| privBits need, rsv := g.rsv ||| privBits rsv }

theorem takeRows_lane {g : Group} {v : List Word} (hv : g.img = some v) (need rsv : List Nat) (hn : ∀ r ∈ need, g.priv.getLsbD r = false)
    (r l : Nat) : (takeRows v need rsv g).lane r l = g.lane r l := by
  unfold Group.lane Group.row takeRows
  simp only [hv, BitVec.getLsbD_or, privBits_getLsbD, get_foldl_set]
  by_cases h : r ∈ need
  · by_cases h6 : r < 60
    · simp only [h, h6, hn r h]; simp
    · have : g.priv.getLsbD r = false := hn r h
      simp only [h6, this]; simp
  · by_cases hp : g.priv.getLsbD r = true <;> simp [h, hp]

/-- The reserve rows that a role gives. -/
def takeLeft (role n : Nat) (t : Team) : Team :=
  { t with roles := (List.range t.roles.length).zipWith (fun i ro => if i = role then { ro with left := ro.left - n } else ro) t.roles }

theorem zipWith_range_map {α β : Type} (f : Nat → α → α) (p : α → β) (h : ∀ i a, p (f i a) = p a) (l : List α) (k : Nat) :
    ((List.range' k l.length).zipWith f l).map p = l.map p := by
  induction l generalizing k with
  | nil => rfl
  | cons a l ih =>
    rw [List.length_cons, List.range'_succ, List.zipWith_cons_cons, List.map_cons, List.map_cons, h, ih]

theorem takeLeft_bare (role n : Nat) (t : Team) : (takeLeft role n t).bare = t.bare := by
  simp only [Team.bare, takeLeft, List.range_eq_range']
  rw [zipWith_range_map]
  intro i a; split <;> rfl

/-- All that `privatise` can answer. -/
theorem privatise_cases {gid : Nat} {s t : State} {rows : List Nat} {m : Word} {g : Group} {tm : Team} (hg : s.group? gid = some g)
    (ht : s.team? g.tid = some tm) (h : privatise gid s rows m = some t) :
    (t = s ∧ ∀ r ∈ rows, g.canWrite r ∨ m = 0) ∨
    ∃ v rsv n, g.img = some v ∧ m ≠ 0 ∧
      t = (s.modTeam tm.tid (takeLeft g.role n)).modGroup gid (takeRows v (rows.filter fun r => !g.priv.getLsbD r) rsv) := by
  unfold privatise at h
  simp only [hg, ht] at h
  cases hi : g.img with
  | none =>
    simp only [hi, Option.some.injEq] at h
    exact Or.inl ⟨h.symm, fun r _ => Or.inl (Or.inl hi)⟩
  | some v =>
    simp only [hi] at h
    by_cases hm : m = 0
    · simp only [hm, if_pos, List.isEmpty_nil, Option.some.injEq] at h
      exact Or.inl ⟨h.symm, fun r _ => Or.inr hm⟩
    · simp only [if_neg hm] at h
      split at h
      · rename_i he
        refine Or.inl ⟨(Option.some.inj h).symm, fun r hr => Or.inl (Or.inr ?_)⟩
        have := List.isEmpty_iff.1 he
        rw [List.filter_eq_nil_iff] at this
        simpa using this r hr
      · split at h
        · cases h
        · let keep := (rows.filter fun r => !g.priv.getLsbD r).take (((tm.roles[g.role]?).map (·.left)).getD 0)
          refine Or.inr ⟨v, keep, keep.length, rfl, hm, ?_⟩
          rw [← Option.some.inj h]
          simp only [foldl_setV]
          rfl

theorem Alike.refl (c : Ctx) (s : State) : Alike c s s := ⟨fun _ _ _ _ => rfl, fun _ _ => rfl, rfl, rfl, rfl, Or.inl rfl, rfl⟩

theorem map_modGroup {β : Type} (s : State) (gid : Nat) (f : Group → Group) (p : Group → β) (h : ∀ g, p (f g) = p g) :
    (s.modGroup gid f).groups.map p = s.groups.map p := by
  simp only [State.modGroup, List.map_map]
  refine List.map_congr_left fun g _ => ?_
  simp only [Function.comp]; split
  · exact h g
  · rfl

/-- Rows become private without a visible change. -/
theorem privatise_ready {s t : State} {c : Ctx} {rows : List Nat} {m : Word} (hc : s.ctxOf c.gid c.lane = some c)
    (h : privatise c.gid s rows m = some t) : Ready s t c (c.refresh t) rows m ∧ t.cores = s.cores := by
  obtain ⟨-, -, hg, hu, ht⟩ := State.ctxOf_eq.1 hc
  rcases privatise_cases hg ht h with ⟨rfl, hw⟩ | ⟨v, rsv, n, hv, hm, rfl⟩
  · have hr : c.refresh t = c := by simp [Ctx.refresh, hc]
    rw [hr]
    exact ⟨⟨Alike.refl _ _, hc, rfl, rfl, rfl, rfl, rfl, rfl, fun _ _ _ => rfl, fun r hr _ => hw r hr⟩, rfl⟩
  · generalize hneed : (rows.filter fun r => !c.g.priv.getLsbD r) = need
    have hn : ∀ r ∈ need, c.g.priv.getLsbD r = false := by
      intro r hr; rw [← hneed] at hr; simpa using (List.mem_filter.1 hr).2
    generalize hS : (s.modTeam c.t.tid (takeLeft c.g.role n)).modGroup c.gid (takeRows v need rsv) = S
    have hgid : ∀ g, (takeRows v need rsv g).gid = g.gid := fun _ => rfl
    have hG : ∀ i, S.group? i = if i = c.gid then (s.group? i).map (takeRows v need rsv) else s.group? i := by
      intro i
      rw [← hS, State.group?_modGroup _ _ _ _ hgid]
      rfl
    have hT : S.team? c.g.tid = some (takeLeft c.g.role n c.t) := by
      rw [← hS]
      show (s.modTeam c.t.tid (takeLeft c.g.role n)).team? c.g.tid = _
      rw [State.team?_modTeam s c.t.tid c.g.tid (takeLeft c.g.role n) (fun _ => rfl), ht, if_pos (State.team?_tid ht).symm]
      rfl
    have hctx : S.ctxOf c.gid c.lane = some ⟨c.gid, c.lane, takeRows v need rsv c.g, c.u, takeLeft c.g.role n c.t⟩ := by
      refine State.ctxOf_eq.2 ⟨rfl, rfl, ?_, hu, hT⟩
      rw [hG, if_pos rfl, hg]; rfl
    have hr : c.refresh S = ⟨c.gid, c.lane, takeRows v need rsv c.g, c.u, takeLeft c.g.role n c.t⟩ := by simp [Ctx.refresh, hctx]
    rw [hr]
    refine ⟨⟨⟨?_, ?_, ?_, ?_, ?_, ?_, ?_⟩, hctx, rfl, rfl, rfl, takeLeft_bare _ _ _, rfl, rfl, fun r l _ => takeRows_lane hv _ _ hn r l, ?_⟩,
      by rw [← hS]; rfl⟩
    · intro i r l _
      simp only [State.laneReg, hG]
      split
      · rename_i e
        subst e
        simp only [hg, Option.map_some, Option.getD_some]
        exact takeRows_lane hv _ _ hn r l
      · rfl
    · intro i l
      simp only [State.predWord, hG]
      split
      · cases s.group? i <;> rfl
      · rfl
    · rw [← hS]; exact map_modGroup _ _ _ _ fun _ => rfl
    · rw [← hS]; exact map_modGroup _ _ _ _ fun _ => rfl
    · rw [← hS]
      show ((s.modTeam c.t.tid (takeLeft c.g.role n)).teams).map Team.bare = _
      simp only [State.modTeam, List.map_map]
      refine List.map_congr_left fun t _ => ?_
      simp only [Function.comp]; split
      · exact takeLeft_bare _ _ _
      · rfl
    · exact Or.inl (by rw [← hS]; rfl)
    · rw [← hS]; rfl
    · intro r hr h60
      refine Or.inl (Or.inr ?_)
      show (c.g.priv ||| privBits need).getLsbD r = true
      rw [BitVec.getLsbD_or, privBits_getLsbD]
      by_cases hp : c.g.priv.getLsbD r = true
      · simp [hp]
      · have : r ∈ need := by rw [← hneed]; exact List.mem_filter.2 ⟨hr, by simpa using hp⟩
        simp [this, h60]

/-! ### Switching the pipe, then making rows private -/

theorem regsUsed_switchPipe (s : State) (core issue gid : Nat) (mask : Word) (n : Nat) :
    (s.switchPipe core issue gid mask).regsUsed n = s.regsUsed n := by
  have hk : ∀ t : Nat, (s.switchPipe core issue gid mask).groups.filter (fun g => g.tid == t) =
      (s.groups.filter fun g => g.tid == t).map (switchOne s core issue gid mask) := by
    intro t
    rw [State.switchPipe_groups, List.filter_map]
    congr 2
    funext g
    exact switchOne_keep s core issue gid mask g (fun g => g.tid == t) rfl
  have hf : ∀ (p : BitVec 60 → Nat) (t b : Nat), ((s.switchPipe core issue gid mask).groups.filter fun g => g.tid == t).foldl
      (fun b g => b + p (g.priv &&& ~~~g.rsv) * 32) b =
      (s.groups.filter fun g => g.tid == t).foldl (fun b g => b + p (g.priv &&& ~~~g.rsv) * 32) b := by
    intro p t b
    rw [hk, List.foldl_map]
    have h1 : ∀ g, (switchOne s core issue gid mask g).priv = g.priv := fun g => switchOne_keep s core issue gid mask g Group.priv rfl
    have h2 : ∀ g, (switchOne s core issue gid mask g).rsv = g.rsv := fun g => switchOne_keep s core issue gid mask g Group.rsv rfl
    simp only [h1, h2]
  have hp := hf (fun x => popN 60 x.toNat)
  unfold State.regsUsed
  simp only [State.switchPipe_teams, hp]

theorem regFreeFor_switchPipe (s : State) (core issue gid : Nat) (mask : Word) (n seq : Nat) :
    (s.switchPipe core issue gid mask).regFreeFor n seq = s.regFreeFor n seq := by
  unfold State.regFreeFor State.regFree
  rw [regsUsed_switchPipe]
  rfl

/-- Whether rows are to be had does not depend on the chains. -/
theorem RowsFree.switchPipe {s : State} {c : Ctx} {rows : List Nat} {m : Word} (core issue gid : Nat) (mask : Word)
    (h : RowsFree s c rows m) : privatise c.gid (s.switchPipe core issue gid mask) rows m ≠ none := by
  intro hn
  apply h
  unfold privatise at hn ⊢
  rw [State.group?_switchPipe] at hn
  cases hg : s.group? c.gid with
  | none => simp [hg] at hn
  | some g =>
    have hi := switchOne_keep s core issue gid mask g (fun g => g.img) rfl
    have hp := switchOne_keep s core issue gid mask g (fun g => g.priv) rfl
    have hr := switchOne_keep s core issue gid mask g (fun g => g.role) rfl
    have ht := switchOne_keep s core issue gid mask g (fun g => g.tid) rfl
    have hT : ∀ i, (s.switchPipe core issue gid mask).team? i = s.team? i := fun _ => rfl
    simp only [hg, Option.map_some, hi, hp, hr, ht, regFreeFor_switchPipe, hT] at hn ⊢
    split at hn
    · rename_i v tm hi' ht'
      by_cases hm : m = 0
      · simp [hm] at hn
      · simp only [if_neg hm] at hn ⊢
        split at hn
        · cases hn
        · rename_i he
          rw [if_neg he]
          split at hn
          · rename_i hl; rw [if_pos hl]
          · cases hn
    · cases hn

/-- Where nothing else differs, the core's list loses the same entry. -/
theorem gotRows_cores {c c' : Ctx} {s t : State} (hc : t.cores = s.cores) (hcore : c'.core = c.core) (hg : c'.gid = c.gid) (hu : c'.u = c.u) :
    (gotRows c' t).cores = (gotRows c s).cores := by
  have ha : c'.active = c.active := by simp only [Ctx.active, hu]
  have hx : t.core c.core = s.core c.core := by simp only [State.core, hc]
  have ho : RowWait.of c' = RowWait.of c := by funext r; simp only [RowWait.of, hg, ha]
  simp only [gotRows, hcore, ho, hx]
  by_cases h : (s.core c.core).rowWait.any (RowWait.of c) = true
  · rw [if_pos h, if_pos h]
    simp only [State.modCore, State.setCore, hx, hc]
  · rw [if_neg h, if_neg h, hc]

@[simp] theorem gotRows_groups (c : Ctx) (s : State) : (gotRows c s).groups = s.groups := by unfold gotRows; split <;> rfl
@[simp] theorem gotRows_teams (c : Ctx) (s : State) : (gotRows c s).teams = s.teams := by unfold gotRows; split <;> rfl
theorem gotRows_rest (c : Ctx) (s : State) : { gotRows c s with cores := s.cores } = s := by unfold gotRows; split <;> rfl
@[simp] theorem gotRows_ctxOf (c : Ctx) (s : State) (gid lane : Nat) : (gotRows c s).ctxOf gid lane = s.ctxOf gid lane := by
  unfold gotRows; split <;> rfl

theorem Alike.trans {c c' : Ctx} {s t w : State} (h : Alike c s t) (k : Alike c' t w) (hc : t.cores = s.cores) (hcore : c'.core = c.core)
    (hg : c'.gid = c.gid) (hu : c'.u = c.u) : Alike c s w where
  regs i r l hl := (k.regs i r l hl).trans (h.regs i r l hl)
  preds i l := (k.preds i l).trans (h.preds i l)
  subs := k.subs.trans h.subs
  groups := k.groups.trans h.groups
  teams := k.teams.trans h.teams
  cores := by
    rcases k.cores with e | e
    · exact Or.inl (e.trans hc)
    · exact Or.inr (e.trans (gotRows_cores hc hcore hg hu))
  rest := by
    have a := h.rest
    have b := k.rest
    calc { w with groups := s.groups, teams := s.teams, cores := s.cores }
        = { ({ w with groups := t.groups, teams := t.teams, cores := t.cores } : State) with groups := s.groups, teams := s.teams, cores := s.cores } := rfl
      _ = s := by rw [b]; exact a

/-- The core's list of those parked for rows has no other part in an instruction. -/
theorem gotRows_alike (c : Ctx) (s : State) : Alike c s (gotRows c s) where
  regs i r l _ := by simp only [State.laneReg, State.group?, gotRows_groups]
  preds i l := by simp only [State.predWord, State.group?, gotRows_groups]
  subs := by rw [gotRows_groups]
  groups := by rw [gotRows_groups]
  teams := by rw [gotRows_teams]
  cores := Or.inr rfl
  rest := by
    have h := gotRows_rest c s
    have hg := gotRows_groups c s
    have ht := gotRows_teams c s
    rw [← hg, ← ht]
    exact h

/-- The context after the pipe has switched and the rows have become private. -/
theorem ready_of {s : State} {c : Ctx} {rows : List Nat} {m : Word} (hc : s.ctxOf c.gid c.lane = some c) (hr : RowsFree s c rows m) :
    ∃ s1, privatise c.gid (s.switchPipe c.core c.u.issue c.gid c.u.mask) rows m = some s1 ∧
      Ready s (gotRows c s1) c (c.refresh (gotRows c s1)) rows m := by
  obtain ⟨s1, h1⟩ := Option.ne_none_iff_exists'.1 (hr.switchPipe c.core c.u.issue c.gid c.u.mask)
  refine ⟨s1, h1, ?_⟩
  obtain ⟨c0, k, kg, kl, ku, kt, kb, kp, kr, -, -⟩ := switchPipe_ctx hc
  have k' : (s.switchPipe c.core c.u.issue c.gid c.u.mask).ctxOf c0.gid c0.lane = some c0 := by rw [kg, kl]; exact k
  obtain ⟨R, hcs⟩ := privatise_ready k' (by rw [kg]; exact h1)
  have hcore : c0.core = c.core := by simp only [Ctx.core, kt]
  have e : c0.refresh s1 = c.refresh (gotRows c s1) := by
    have hx := R.ctx
    rw [kg, kl] at hx
    generalize c0.refresh s1 = c1 at hx
    rw [Ctx.refresh, gotRows_ctxOf, hx, Option.getD_some]
  rw [e] at R
  have A := ((switchPipe_alike c s c.core c.u.issue c.gid c.u.mask).trans R.alike rfl hcore kg ku).trans (gotRows_alike c s1)
    (hcs.trans rfl) rfl rfl rfl
  refine ⟨A, by rw [gotRows_ctxOf, ← kg, ← kl]; exact R.ctx, R.gid.trans kg,
    R.lane.trans kl, R.sub.trans ku, R.team.trans (by rw [kt]), R.group.trans kb, R.pred.trans kp,
    fun r l hl => (R.regs r l hl).trans (kr r l), R.rows⟩

end Sys2Proof.Machine
end

