-- ==== Sys2Proof/Laws/Moulds.lean ====
section
/-! SUPPORT. The next state of the moulds of lane and uniform instructions. -/

namespace Sys2Proof.Machine

/-! ### The checks -/

/-- An instruction that issues runs its effect. -/
theorem gated_issues {G : Gate} {s : State} {c : Ctx} (h : Issues G s c) (k : Ctx → State → Res) : gated G s k = k c s := by
  obtain ⟨h1, h2, h3, h4⟩ := h
  unfold gated
  simp only [h1, h2, h3, h4]
  rfl

theorem Issues.noWait {G : Gate} {s : State} {c : Ctx} (h : Issues G s c) : Issues { G with waitPt := false } s c := by
  refine ⟨h.1, h.2.1, ?_, h.2.2.2⟩
  have h3 := h.2.2.1
  unfold fragHit at h3 ⊢
  rw [List.find?_eq_none] at h3 ⊢
  intro f hf hx
  refine h3 f hf ?_
  simp only [Bool.false_or, Bool.and_eq_true, bne_iff_ne, ne_eq] at hx ⊢
  exact ⟨hx.1, by rw [Bool.or_eq_true]; exact Or.inr hx.2⟩

/-- A uniform instruction whose guard holds runs its effect. -/
theorem uniform_runs {G : Gate} {g : BitVec 4} {s : State} {c : Ctx} (h : Runs G g s c) (k : Ctx → State → Res) :
    uniform G g s k = k c s := by
  unfold uniform
  rw [gated_issues h.1.noWait]
  simp only [h.2, if_true]
  split
  · exact gated_issues h.1 k
  · rfl

/-- A uniform instruction whose guard fails changes nothing but the chain and the PC (R27). -/
theorem uniform_not {G : Gate} {g : BitVec 4} {s : State} {c : Ctx} (h : Issues { G with waitPt := false } s c) (hg : c.uguard g = false)
    (k : Ctx → State → Res) : uniform G g s k = fin c s := by
  unfold uniform
  rw [gated_issues h]
  simp [hg]

theorem fin_eq (c : Ctx) (s : State) : fin c s = .next (c.setSub s (c.u.dropChain.next c.u.pc)) := rfl

/-- One s register written. -/
theorem uniS_runs {G : Gate} {g : BitVec 4} {s : State} {c : Ctx} (h : Runs G g s c) (d : BitVec 6) (op : Ctx → DWord) :
    uniS G g d s op = .next (Falls c s fun g => g.setS d.toNat (op c)) := by
  unfold uniS; rw [uniform_runs h]; rfl

/-- One uniform predicate written. -/
theorem uniK_runs {G : Gate} {g : BitVec 4} {s : State} {c : Ctx} (h : Runs G g s c) (d : BitVec 6) (op : Ctx → Bool) :
    uniK G g d s op = .next (Falls c s fun g => g.setK d.toNat (op c)) := by
  unfold uniK; rw [uniform_runs h]; rfl

/-- No pending record: a wait point delivers nothing. -/
theorem deliver_none {c : Ctx} (h : NoRecords c) (flags : Nat) (s : State) (k : Ctx → State → Res) : deliver flags c s k = k c s := by
  have hi : (lanesOf c.active).filterMap (fun l =>
      (c.g.defer.find? fun d => d.lane == l).map fun d => (⟨l, d.cause, d.va, c.u.pc, some d, 0⟩ : TrapItem)) = [] := by
    rw [List.filterMap_eq_nil_iff]
    intro l hl
    rw [Option.map_eq_none_iff, List.find?_eq_none]
    intro d hd
    simpa using h l hl d hd
  unfold deliver
  simp only [hi, List.isEmpty_nil, if_true]

/-! ### Lane instructions -/

@[simp] theorem maskOf_false : maskOf (fun _ => false) = 0 := by decide

theorem Sub.next_mask (u : Sub) (a : Nat) : (u.next a).mask = u.mask := by
  unfold Sub.next; split <;> rfl
theorem Sub.ageChain_mask (u : Sub) (b : Bool) : (u.ageChain b).mask = u.mask := rfl
theorem Sub.push_mask (u : Sub) (ex : Word) (f : Nat → Word) : (u.push ex f).mask = u.mask := rfl

theorem Sub.classA_mask (u : Sub) (reads push : Bool) (ex : Word) (val : Nat → Word) : (u.classA reads push ex val).mask = u.mask := by
  unfold Sub.classA; rw [Sub.next_mask]; split <;> rfl

/-- An instruction of class A that runs. -/
theorem classAx_next {G : Gate} {mask : Ctx → Word} {rows : List Nat} {s : State} {c : Ctx} (hi : Issues G s c)
    (hb : regErrors s c.gid G.reads (mask c) = []) (hr : RowsFree s c rows (mask c)) (push : Bool)
    (upd : Ctx → Word → Group → Group) (val : Ctx → Word → Nat → Word) (post : Ctx → Word → State → State) :
    ∃ s1 c1, Ready s s1 c c1 rows (mask c) ∧
      classAx G mask rows push s upd val post =
        .next (c1.setSub (post c1 (mask c) (s1.modGroup c1.gid (upd c1 (mask c))))
          (c1.u.classA (!G.latches.isEmpty) push (mask c) (val c1 (mask c)))) := by
  have hc := State.ctx?_ctxOf hi.1
  obtain ⟨s1, hp, R⟩ := ready_of hc hr
  refine ⟨gotRows c s1, c.refresh (gotRows c s1), R, ?_⟩
  unfold classAx
  rw [gated_issues hi]
  simp only [cellTraps, cellRecords]
  have hb' : regErrors (s.switchPipe c.core c.u.issue c.gid c.u.mask) c.gid G.reads (mask c) = [] := hb
  simp only [hb', List.foldl_nil, List.map_nil, List.contains_nil, maskOf_false]
  have hm : mask c &&& ~~~(0 : Word) = mask c := BitVec.and_allOnes
  rw [hm]
  unfold withRows
  simp only [hp, trapWith]
  rfl

/-- A lane instruction outside class A that runs, whatever cells it reads. -/
theorem laneOpOf_next {errs : Ctx → (Nat → Nat → Bool) → List Nat} {G : Gate} {g : BitVec 4} {s : State} {c : Ctx} (hi : Issues G s c)
    (hb : errs c (s.badCell c.gid) = []) (k : Ctx → Word → State → Res) :
    laneOpOf errs G g s k = k c (c.execMask g) (s.switchPipe c.core c.u.issue c.gid c.u.mask) := by
  unfold laneOpOf
  rw [gated_issues hi]
  have hb' : errs c ((s.switchPipe c.core c.u.issue c.gid c.u.mask).badCell c.gid) = [] := hb
  simp only [hb']

/-- A lane instruction outside class A that runs. -/
theorem laneOp_next {G : Gate} {g : BitVec 4} {s : State} {c : Ctx} (hi : Issues G s c)
    (hb : regErrors s c.gid G.reads (c.execMask g) = []) (k : Ctx → Word → State → Res) :
    laneOp G g s k = k c (c.execMask g) (s.switchPipe c.core c.u.issue c.gid c.u.mask) := by
  unfold laneOp
  exact laneOpOf_next hi hb k

/-- Its rows become private without a visible change. -/
theorem withRows_next {s : State} {c : Ctx} {rows : List Nat} {m : Word} (hc : s.ctxOf c.gid c.lane = some c) (hr : RowsFree s c rows m)
    (k : Ctx → State → Res) :
    ∃ s1 c1, Ready s s1 c c1 rows m ∧ withRows c (s.switchPipe c.core c.u.issue c.gid c.u.mask) rows m k = k c1 s1 := by
  obtain ⟨s1, hp, R⟩ := ready_of hc hr
  refine ⟨gotRows c s1, c.refresh (gotRows c s1), R, ?_⟩
  unfold withRows
  simp only [hp]

/-- A lane write outside class A that runs. -/
theorem laneWrite_next {G : Gate} {g : BitVec 4} {rows : List Nat} {s : State} {c : Ctx} (h : LaneRuns G g rows s c)
    (upd : Ctx → Word → Group → Group) :
    ∃ s1 c1, Ready s s1 c c1 rows (c.execMask g) ∧
      laneWrite G g rows s upd = .next (c1.setSub (s1.modGroup c1.gid (upd c1 (c.execMask g))) (c1.u.dropChain.next c1.u.pc)) := by
  obtain ⟨hi, hb, hr⟩ := h
  obtain ⟨s1, c1, R, e⟩ := withRows_next (State.ctx?_ctxOf hi.1) hr fun c' s' => fin c' (s'.modGroup c'.gid (upd c' (c.execMask g)))
  exact ⟨s1, c1, R, by unfold laneWrite; rw [laneOp_next hi hb]; exact e⟩

/-! ### From the mould's next state to what it leaves -/

theorem map_pair {α β γ : Type} {f : α → β} {g : α → γ} : ∀ {l l' : List α}, l.map f = l'.map f → l.map g = l'.map g →
    l.map (fun a => (f a, g a)) = l'.map fun a => (f a, g a)
  | [], [], _, _ => rfl
  | [], _ :: _, h, _ => by cases h
  | _ :: _, [], h, _ => by cases h
  | a :: l, b :: l', h, k => by
    simp only [List.map_cons, List.cons.injEq] at h k ⊢
    exact ⟨by rw [h.1, k.1], map_pair h.2 k.2⟩

/-- A change of one group, of the issuing sub-group and of the counters, after `Ready`. -/
theorem Ready.done {s s1 : State} {c c1 : Ctx} {rows : List Nat} {m : Word} (R : Ready s s1 c c1 rows m) {upd : Group → Group} {u : Sub}
    {L : List Launch} {val : Nat → Nat → Option Word} {pred : Nat → Option Word} (hgid : ∀ g, (upd g).gid = g.gid)
    (htid : ∀ g, (upd g).tid = g.tid) (hsubs : ∀ g, (upd g).subs = g.subs) (hbare : ∀ g, (upd g).bare = g.bare)
    (hval : ∀ r l, l < 32 → (upd c1.g).lane r l = (val r l).getD (c.g.lane r l))
    (hpred : ∀ l, l < 32 → (upd c1.g).predOf l = (pred l).getD (c.g.predOf l)) (hmask : u.mask = c.u.mask) (P : State)
    (hP : P = { s1.modGroup c1.gid upd with launches := L }) : LaneDone s (c1.setSub P u) c val pred u L := by
  subst hP
  obtain ⟨-, -, hg1, hu1, ht1⟩ := State.ctxOf_eq.1 R.ctx
  rw [← R.lane] at hu1
  rw [R.gid]
  have hcu : c1.u.mask = c.u.mask := by rw [R.sub]
  generalize hS : c1.setSub { s1.modGroup c.gid upd with launches := L } u = S
  have hG : ∀ i, S.group? i = if i = c.gid then (s1.group? i).map (fun g => (upd g).setSub c.u.mask u) else s1.group? i := by
    intro i
    rw [← hS]
    have e : c1.setSub { s1.modGroup c.gid upd with launches := L } u =
        ({ (s1.modGroup c.gid upd) with launches := L } : State).modGroup c.gid fun g => g.setSub c.u.mask u := by
      unfold Ctx.setSub; rw [R.gid, hcu]
    rw [e, State.group?_modGroup _ c.gid i (fun g => g.setSub c.u.mask u) (fun _ => rfl)]
    have e2 : ∀ j, ({ (s1.modGroup c.gid upd) with launches := L } : State).group? j = (s1.modGroup c.gid upd).group? j := fun _ => rfl
    rw [e2, State.group?_modGroup _ _ _ _ hgid]
    split
    · simp only [Option.map_map]; rfl
    · rfl
  have hT : ∀ i, S.team? i = s1.team? i := by intro i; rw [← hS]; rfl
  have hlane : ∀ (g : Group) (v : Sub) (r l : Nat), (g.setSub c.u.mask v).lane r l = g.lane r l := fun _ _ _ _ => rfl
  have hp0 : ∀ (g : Group) (v : Sub) (l : Nat), (g.setSub c.u.mask v).predOf l = g.predOf l := fun _ _ _ => rfl
  have hsub0 : S.groups = s1.groups.map fun g => if g.gid = c.gid then (upd g).setSub c.u.mask u else g := by
    rw [← hS]
    unfold Ctx.setSub
    simp only [State.modGroup, List.map_map, R.gid, hcu]
    refine List.map_congr_left fun g _ => ?_
    simp only [Function.comp, beq_iff_eq]
    by_cases e : g.gid = c.gid
    · simp [e, hgid]
    · simp [e]
  constructor
  · intro i r l hl
    simp only [State.laneReg, hG]
    by_cases e : i = c.gid
    · subst e
      have h0 := R.alike.regs c.gid r l hl
      simp only [State.laneReg, hg1, Option.map_some, Option.getD_some] at h0
      simp only [if_true, hg1, Option.map_some, Option.getD_some, hlane, hval r l hl]
      rw [← R.regs r l hl, h0]
    · have h0 := R.alike.regs i r l hl
      simpa only [if_neg e, Option.getD_none, State.laneReg] using h0
  · intro i l hl
    simp only [State.predWord, hG]
    by_cases e : i = c.gid
    · subst e
      have h0 := R.alike.preds c.gid l
      simp only [State.predWord, hg1, Option.map_some, Option.getD_some] at h0
      have hp : c.g.predOf l = c1.g.predOf l := by simp only [Group.predOf, R.pred]
      simp only [if_true, hg1, Option.map_some, Option.getD_some, hp0, hpred l hl]
      rw [hp, h0]
    · have h0 := R.alike.preds i l
      simpa only [if_neg e, Option.getD_none, State.predWord] using h0
  · have : S.ctxOf c.gid c.lane = some ⟨c.gid, c.lane, (upd c1.g).setSub c.u.mask u, u, c1.t⟩ := by
      refine State.ctxOf_eq.2 ⟨rfl, rfl, ?_, ?_, ?_⟩
      · rw [hG, if_pos rfl, hg1]; rfl
      · show ((upd c1.g).setSub c.u.mask u).subAt? c.lane = some u
        rw [← hcu]
        refine Group.subAt?_setSub _ (u := c1.u) ?_ (hmask.trans hcu.symm)
        show (upd c1.g).subs.find? _ = _
        rw [hsubs, ← R.lane]; exact hu1
      · rw [hT]; show s1.team? (upd c1.g).tid = _; rw [htid]; exact ht1
    rw [this]; rfl
  · rw [hsub0, List.map_map]
    have hpair := map_pair R.alike.groups R.alike.subs
    have k := congrArg (List.map fun (x : Group × List Sub) =>
      x.2.map fun w => if x.1.gid = c.gid ∧ w.mask = c.u.mask then u.bare else w) hpair
    simp only [List.map_map] at k
    refine Eq.trans (List.map_congr_left fun g _ => ?_) (k.trans (List.map_congr_left fun g _ => ?_))
    · simp only [Function.comp, List.map_map]
      by_cases e : g.gid = c.gid
      · rw [if_pos e]
        simp only [Group.setSub, hsubs, List.map_map]
        refine List.map_congr_left fun w _ => ?_
        have e' : g.bare.gid = c.gid := e
        simp only [Function.comp, e', true_and, beq_iff_eq]
        have : w.bare.mask = w.mask := rfl
        rw [this]; split <;> rfl
      · rw [if_neg e]
        refine List.map_congr_left fun w _ => ?_
        have e' : ¬g.bare.gid = c.gid := e
        simp only [Function.comp, e', false_and, if_false]
    · simp only [Function.comp, List.map_map]
      refine List.map_congr_left fun w _ => ?_
      rfl
  · rw [hsub0, List.map_map, ← R.alike.groups]
    refine List.map_congr_left fun g _ => ?_
    simp only [Function.comp]
    split
    · exact hbare g
    · rfl
  · rw [← R.alike.teams, ← hS]; rfl
  · rw [← hS]; exact R.alike.cores
  · rw [← hS]; rfl
  · have h0 := R.alike.rest
    have e : { S with groups := s.groups, teams := s.teams, cores := s.cores, launches := s.launches } =
        ({ ({ s1 with groups := s.groups, teams := s.teams, cores := s.cores } : State) with launches := s.launches } : State) := by
      rw [← hS]; rfl
    rw [e, h0]

end Sys2Proof.Machine
end

