-- ==== Sys2Proof/Laws/Results.lean ====
section
/-! SUPPORT. The results of the moulds of class A and of lane writes, said in registers, predicates, chains and counters. -/

namespace Sys2Proof.Machine

variable {s s1 : State} {c c1 : Ctx} {rows : List Nat} {m : Word}

/-! ### What the meanings read stays as it was -/

theorem Ready.src (R : Ready s s1 c c1 rows m) (x : BitVec 6) {l : Nat} (hl : l < 32) : c1.src x l = c.src x l := by
  unfold Ctx.src; rw [R.regs _ _ hl, R.sub]
theorem Ready.reg (R : Ready s s1 c c1 rows m) (x : BitVec 6) {l : Nat} (hl : l < 32) : c1.reg x l = c.reg x l := R.regs _ _ hl
theorem Ready.pairReg (R : Ready s s1 c c1 rows m) (x : BitVec 6) {l : Nat} (hl : l < 32) : c1.pairReg x l = c.pairReg x l := by
  unfold Ctx.pairReg Group.pair; rw [R.regs _ _ hl, R.regs _ _ hl]
theorem Ready.sReg (R : Ready s s1 c c1 rows m) (x : BitVec 6) : c1.sReg x = c.sReg x := by
  have h := congrArg Group.s R.group
  have h' : c1.g.s = c.g.s := h
  unfold Ctx.sReg Group.sReg; rw [h']
theorem Ready.p (R : Ready s s1 c c1 rows m) (n l : Nat) : c1.g.p n l = c.g.p n l := by
  unfold Group.p Group.predOf; rw [R.pred]
theorem Ready.predOf (R : Ready s s1 c c1 rows m) (l : Nat) : c1.g.predOf l = c.g.predOf l := by
  unfold Group.predOf; rw [R.pred]
theorem Ready.index (R : Ready s s1 c c1 rows m) (l : Nat) : c1.g.index l = c.g.index l := by
  have h := congrArg Group.idx R.group
  have h' : c1.g.idx = c.g.idx := h
  unfold Group.index; rw [h']
theorem Ready.active (R : Ready s s1 c c1 rows m) : c1.active = c.active := by unfold Ctx.active; rw [R.sub]
theorem Ready.ftz (R : Ready s s1 c c1 rows m) : c1.t.ftz = c.t.ftz := by
  have h := congrArg Team.ftz R.team
  exact h
theorem Ready.seq (R : Ready s s1 c c1 rows m) : c1.t.seq = c.t.seq := by
  have h := congrArg Team.seq R.team
  exact h
theorem Ready.moduli (R : Ready s s1 c c1 rows m) : c1.t.moduli = c.t.moduli := by
  have h := congrArg Team.moduli R.team
  exact h
theorem Ready.statid (R : Ready s s1 c c1 rows m) : c1.g.statid = c.g.statid := by
  have h := congrArg Group.statid R.group
  exact h
theorem Ready.launches (R : Ready s s1 c c1 rows m) : s1.launches = s.launches := by
  have h := congrArg State.launches R.alike.rest
  exact h
theorem Ready.execMask (R : Ready s s1 c c1 rows m) (g : BitVec 4) : c1.execMask g = c.execMask g := by
  unfold Ctx.execMask; simp only [R.active, R.p]

/-! ### Rows and predicates written -/

theorem push_congr (u : Sub) (ex : Word) {f g : Nat → Word} (h : ∀ l, l < 32 → f l = g l) : u.push ex f = u.push ex g := by
  have : (List.range 32).map (fun l => if ex.getLsbD l then f l else 0) = (List.range 32).map fun l => if ex.getLsbD l then g l else 0 :=
    List.map_congr_left fun l hl => by rw [h l (List.mem_range.1 hl)]
  unfold Sub.push; rw [this]

theorem classA_congr (u : Sub) (r p : Bool) (ex : Word) {f g : Nat → Word} (h : ∀ l, l < 32 → f l = g l) :
    u.classA r p ex f = u.classA r p ex g := by
  unfold Sub.classA; rw [push_congr _ ex h]

theorem Ready.row_lane (R : Ready s s1 c c1 rows m) {d : Nat} (hd : d ∈ rows) (h60 : d < 60) {f g : Nat → Word}
    (hf : ∀ l, l < 32 → f l = g l) (r : Nat) {l : Nat} (hl : l < 32) :
    (c1.g.setRow d m f).lane r l = (writes d m g r l).getD (c.g.lane r l) := by
  rw [Group.lane_setRow _ m f hl (R.rows d hd h60), R.regs r l hl, hf l hl]
  unfold writes; split <;> rfl

theorem Ready.pair_lane (R : Ready s s1 c c1 rows m) {d : Nat} (hd : d ∈ rows ∧ d + 1 ∈ rows) (h60 : d + 1 < 60) {f g : Nat → DWord}
    (hf : ∀ l, l < 32 → f l = g l) (r : Nat) {l : Nat} (hl : l < 32) :
    ((c1.g.setRow d m fun l => (f l).extractLsb' 0 32).setRow (d + 1) m fun l => (f l).extractLsb' 32 32).lane r l =
      (writesPair d m g r l).getD (c.g.lane r l) := by
  have h1 := R.rows d hd.1 (by omega)
  have h2 : (c1.g.setRow d m fun l => (f l).extractLsb' 0 32).canWrite (d + 1) ∨ m = 0 := R.rows (d + 1) hd.2 h60
  rw [Group.lane_setRow _ m _ hl h2, Group.lane_setRow _ m _ hl h1, R.regs r l hl, hf l hl]
  unfold writesPair
  by_cases e : r = d
  · subst e
    have : ¬ r = r + 1 := by omega
    simp only [this, false_and, if_false, true_and]; split <;> rfl
  · simp only [e, false_and, if_false]; split <;> rfl

theorem Ready.pred_word (R : Ready s s1 c c1 rows m) (n : Nat) {f g : Nat → Bool} (hf : ∀ l, l < 32 → f l = g l) {l : Nat} (hl : l < 32) :
    (c1.g.setP n m f).predOf l = (predBit c n m g l).getD (c.g.predOf l) := by
  unfold Group.setP
  rw [Group.predOf_setPredWord _ _ _ hl, R.predOf, hf l hl]
  unfold predBit; split <;> rfl

/-! ### Class A -/

/-- A class A instruction that writes one row (unless W) and pushes. -/
theorem classAx_row {G : Gate} {mask : Ctx → Word} {d : Nat} {w : Bool} (hi : Issues G s c)
    (hb : regErrors s c.gid G.reads (mask c) = []) (hr : RowsFree s c (if w then [] else [d]) (mask c)) (hd : d < 60)
    (val : Ctx → Word → Nat → Word) (post : Ctx → Word → State → State) (L : List Launch)
    (hval : ∀ s1 c1, Ready s s1 c c1 (if w then [] else [d]) (mask c) → ∀ l, l < 32 → val c1 (mask c) l = val c (mask c) l)
    (hpost : ∀ s1 c1, Ready s s1 c c1 (if w then [] else [d]) (mask c) →
      ∀ P : State, P.launches = s.launches → post c1 (mask c) P = { P with launches := L }) :
    ∃ t, classAx G mask (if w then [] else [d]) true s (fun c ex g => if w then g else g.setRow d ex (val c ex)) val post = .next t ∧
      LaneDone s t c (if w then writesNone else writes d (mask c) (val c (mask c))) predsNone
        (c.u.classA (!G.latches.isEmpty) true (mask c) (val c (mask c))) L := by
  obtain ⟨s1, c1, R, e⟩ := classAx_next hi hb hr true (fun c ex g => if w then g else g.setRow d ex (val c ex)) val post
  refine ⟨_, e, ?_⟩
  have hu : c1.u.classA (!G.latches.isEmpty) true (mask c) (val c1 (mask c)) =
      c.u.classA (!G.latches.isEmpty) true (mask c) (val c (mask c)) := by
    rw [R.sub]; exact classA_congr _ _ _ _ (hval s1 c1 R)
  rw [hu]
  cases w with
  | true =>
    exact R.done (upd := fun g => g) (fun _ => rfl) (fun _ => rfl) (fun _ => rfl) (fun _ => rfl)
      (fun r l hl => by rw [R.regs r l hl]; rfl) (fun l _ => by rw [R.predOf]; rfl) (Sub.classA_mask ..) _
      (hpost s1 c1 R _ (by rw [State.modGroup_launches, R.launches]))
  | false =>
    exact R.done (upd := fun g => g.setRow d (mask c) (val c1 (mask c))) (fun _ => rfl) (fun _ => rfl) (fun _ => rfl) (fun _ => rfl)
      (fun r l hl => R.row_lane (List.mem_singleton.2 rfl) hd (hval s1 c1 R) r hl) (fun l _ => by
        show c1.g.predOf l = _; rw [R.predOf]; rfl)
      (Sub.classA_mask ..) _ (hpost s1 c1 R _ (by rw [State.modGroup_launches, R.launches]))

/-- A class A instruction that writes a pair (unless W) and pushes its low half. -/
theorem classA_pair {G : Gate} {mask : Ctx → Word} {d : Nat} {w : Bool} (hi : Issues G s c)
    (hb : regErrors s c.gid G.reads (mask c) = []) (hr : RowsFree s c (if w then [] else [d, d + 1]) (mask c)) (hd : d + 1 < 60)
    (op : Ctx → Nat → DWord)
    (hval : ∀ s1 c1, Ready s s1 c c1 (if w then [] else [d, d + 1]) (mask c) → ∀ l, l < 32 → op c1 l = op c l) :
    ∃ t, classA G mask (if w then [] else [d, d + 1]) true s (fun c ex g => if w then g else
        (g.setRow d ex fun l => (op c l).extractLsb' 0 32).setRow (d + 1) ex fun l => (op c l).extractLsb' 32 32)
        (fun c l => (op c l).extractLsb' 0 32) = .next t ∧
      LaneDone s t c (if w then writesNone else writesPair d (mask c) (op c)) predsNone
        (c.u.classA (!G.latches.isEmpty) true (mask c) fun l => (op c l).extractLsb' 0 32) s.launches := by
  obtain ⟨s1, c1, R, e⟩ := classAx_next hi hb hr true (fun c ex g => if w then g else
        (g.setRow d ex fun l => (op c l).extractLsb' 0 32).setRow (d + 1) ex fun l => (op c l).extractLsb' 32 32)
        (fun c _ l => (op c l).extractLsb' 0 32) (fun _ _ s => s)
  refine ⟨_, e, ?_⟩
  have hu : (c1.u.classA (!G.latches.isEmpty) true (mask c) fun l => (op c1 l).extractLsb' 0 32) =
      c.u.classA (!G.latches.isEmpty) true (mask c) fun l => (op c l).extractLsb' 0 32 := by
    rw [R.sub]; exact classA_congr _ _ _ _ (fun l hl => by rw [hval s1 c1 R l hl])
  rw [hu]
  have hL : ∀ f, s1.modGroup c1.gid f = { s1.modGroup c1.gid f with launches := s.launches } := by
    intro f; rw [← R.launches]; rfl
  cases w with
  | true =>
    exact R.done (upd := fun g => g) (fun _ => rfl) (fun _ => rfl) (fun _ => rfl) (fun _ => rfl)
      (fun r l hl => by rw [R.regs r l hl]; rfl) (fun l _ => by rw [R.predOf]; rfl) (Sub.classA_mask ..) _ (hL _)
  | false =>
    exact R.done (upd := fun g => (g.setRow d (mask c) fun l => (op c1 l).extractLsb' 0 32).setRow (d + 1) (mask c)
        fun l => (op c1 l).extractLsb' 32 32) (fun _ => rfl) (fun _ => rfl) (fun _ => rfl) (fun _ => rfl)
      (fun r l hl => R.pair_lane ⟨by simp, by simp⟩ hd (hval s1 c1 R) r hl) (fun l _ => by
        show c1.g.predOf l = _; rw [R.predOf]; rfl)
      (Sub.classA_mask ..) _ (hL _)

/-- An instruction that writes no row needs none. -/
theorem RowsFree.none (s : State) (c : Ctx) (m : Word) : RowsFree s c [] m := by
  unfold RowsFree privatise
  split
  · simp
  · split <;> simp

/-- A class A instruction that writes one predicate. -/
theorem classAx_pred {G : Gate} {mask : Ctx → Word} (hi : Issues G s c)
    (hb : regErrors s c.gid G.reads (mask c) = []) (n : Nat) (r : Ctx → Group → Nat → Bool) (val : Ctx → Word → Nat → Word)
    (post : Ctx → Word → State → State) (L : List Launch)
    (hval : ∀ s1 c1, Ready s s1 c c1 [] (mask c) → ∀ l, l < 32 → r c1 c1.g l = r c c.g l)
    (hpost : ∀ s1 c1, Ready s s1 c c1 [] (mask c) →
      ∀ P : State, P.launches = s.launches → post c1 (mask c) P = { P with launches := L }) :
    ∃ t, classAx G mask [] false s (fun c ex g => g.setP n ex (r c g)) val post = .next t ∧
      LaneDone s t c writesNone (predBit c n (mask c) (r c c.g)) (c.u.classA (!G.latches.isEmpty) false (mask c) fun _ => 0) L := by
  obtain ⟨s1, c1, R, e⟩ := classAx_next hi hb (RowsFree.none s c (mask c)) false (fun c ex g => g.setP n ex (r c g)) val post
  refine ⟨_, e, ?_⟩
  have hu : c1.u.classA (!G.latches.isEmpty) false (mask c) (val c1 (mask c)) =
      c.u.classA (!G.latches.isEmpty) false (mask c) fun _ => 0 := by rw [R.sub]; rfl
  rw [hu]
  exact R.done (upd := fun g => g.setP n (mask c) (r c1 g)) (fun _ => rfl) (fun _ => rfl) (fun _ => rfl) (fun _ => rfl)
    (fun r l hl => by show c1.g.lane r l = _; rw [R.regs r l hl]; rfl) (fun l hl => R.pred_word n (hval s1 c1 R) hl)
    (Sub.classA_mask ..) _ (hpost s1 c1 R _ (by rw [State.modGroup_launches, R.launches]))

/-! ### Lane writes outside class A -/

theorem Sub.falls_mask (u : Sub) : u.falls.mask = u.mask := by unfold Sub.falls; rw [Sub.next_mask]; rfl

/-- One row written. -/
theorem laneWrite_row {G : Gate} {g : BitVec 4} {d : Nat} (h : LaneRuns G g [d] s c) (hd : d < 60) (val : Ctx → Word → Nat → Word)
    (hval : ∀ s1 c1, Ready s s1 c c1 [d] (c.execMask g) → ∀ l, l < 32 → val c1 (c.execMask g) l = val c (c.execMask g) l) :
    ∃ t, laneWrite G g [d] s (fun c ex g => g.setRow d ex (val c ex)) = .next t ∧
      LaneDone s t c (writes d (c.execMask g) (val c (c.execMask g))) predsNone c.u.falls s.launches := by
  obtain ⟨s1, c1, R, e⟩ := laneWrite_next h fun c ex g => g.setRow d ex (val c ex)
  refine ⟨_, e, ?_⟩
  have hu : c1.u.dropChain.next c1.u.pc = c.u.falls := by rw [R.sub]; rfl
  rw [hu]
  exact R.done (upd := fun g' => g'.setRow d (c.execMask g) (val c1 (c.execMask g))) (fun _ => rfl) (fun _ => rfl) (fun _ => rfl) (fun _ => rfl)
    (fun r l hl => R.row_lane (List.mem_singleton.2 rfl) hd (hval s1 c1 R) r hl) (fun l _ => by
      show c1.g.predOf l = _; rw [R.predOf]; rfl)
    (Sub.falls_mask _) _ (by rw [← R.launches]; rfl)

/-- One predicate written. -/
theorem laneWrite_pred {G : Gate} {g : BitVec 4} (h : LaneRuns G g [] s c) (n : Nat) (r : Ctx → Word → Nat → Bool)
    (hval : ∀ s1 c1, Ready s s1 c c1 [] (c.execMask g) → ∀ l, l < 32 → r c1 (c.execMask g) l = r c (c.execMask g) l) :
    ∃ t, laneWrite G g [] s (fun c ex g => g.setP n ex (r c ex)) = .next t ∧
      LaneDone s t c writesNone (predBit c n (c.execMask g) (r c (c.execMask g))) c.u.falls s.launches := by
  obtain ⟨s1, c1, R, e⟩ := laneWrite_next h fun c ex g => g.setP n ex (r c ex)
  refine ⟨_, e, ?_⟩
  have hu : c1.u.dropChain.next c1.u.pc = c.u.falls := by rw [R.sub]; rfl
  rw [hu]
  exact R.done (upd := fun g' => g'.setP n (c.execMask g) (r c1 (c.execMask g))) (fun _ => rfl) (fun _ => rfl) (fun _ => rfl) (fun _ => rfl)
    (fun r l hl => by show c1.g.lane r l = _; rw [R.regs r l hl]; rfl) (fun l hl => R.pred_word n (hval s1 c1 R) hl)
    (Sub.falls_mask _) _ (by rw [← R.launches]; rfl)

/-! ### Statistics -/

/-- A count changes the launches alone, in a way that depends on the launches alone. -/
theorem countFor_eq (s P : State) (h : P.launches = s.launches) (seq id kind n : Nat) :
    P.countFor seq id kind n = { P with launches := (s.countFor seq id kind n).launches } := by
  unfold State.countFor
  split
  · rw [← h]
  · rw [h]

/-- The counts of a lane's three kinds, in the state where the instruction issues. -/
theorem countRes_eq (R : Ready s s1 c c1 rows m) {r : Ctx → Nat → FRes} (hr : ∀ l, l < 32 → r c1 l = r c l) (ex : Word) (P : State)
    (h : P.launches = s.launches) : countRes r c1 ex P = { P with launches := (countRes r c ex s).launches } := by
  have hm : ∀ p : FRes → Bool, maskOf (fun l => ex.getLsbD l && p (r c1 l)) = maskOf fun l => ex.getLsbD l && p (r c l) := by
    intro p
    congr 1
    funext l
    by_cases hl : l < 32
    · rw [hr l hl]
    · have : ex.getLsbD l = false := BitVec.getLsbD_of_ge ex l (by omega)
      simp [this]
  unfold countRes Ctx.count
  simp only [hm, R.seq, R.statid]
  generalize (lanesOf (maskOf fun l => ex.getLsbD l && (r c l).sat)).length = n1
  generalize (lanesOf (maskOf fun l => ex.getLsbD l && (r c l).flush)).length = n2
  generalize (lanesOf (maskOf fun l => ex.getLsbD l && (r c l).nan)).length = n3
  have k1 := countFor_eq s P h c.t.seq c.g.statid.toNat kSAT n1
  have k2 := countFor_eq (s.countFor c.t.seq c.g.statid.toNat kSAT n1) (P.countFor c.t.seq c.g.statid.toNat kSAT n1) (by rw [k1])
    c.t.seq c.g.statid.toNat kFLUSH n2
  have k3 := countFor_eq ((s.countFor c.t.seq c.g.statid.toNat kSAT n1).countFor c.t.seq c.g.statid.toNat kFLUSH n2)
    ((P.countFor c.t.seq c.g.statid.toNat kSAT n1).countFor c.t.seq c.g.statid.toNat kFLUSH n2) (by rw [k2]) c.t.seq c.g.statid.toNat kNAN n3
  rw [k3, k2, k1]

end Sys2Proof.Machine
end

