-- ==== Sys2Proof/Laws/LaneForms.lean ====
section
/-! SUPPORT. The result of each operand form of the lane set, from the moulds: one lemma per form, which statements about single
instructions cite. -/

namespace Sys2Proof.Machine

variable {i : Instr} {s : State} {c : Ctx} {f : LaneR}

/-! ### Class A with a row result -/

/-- Format LR with B. -/
theorem aluR_two (h : LaneRuns (gateTwo f) f.g (rowsOf f.w f.d) s c) (hd : f.d.toNat < 60)
    {op : Ctx → Nat → Word} (hi : exec i s = aluR f true s op)
    (hv : ∀ s1 c1, Ready s s1 c c1 (rowsOf f.w f.d) (c.execMask f.g) → ∀ l, l < 32 → op c1 l = op c l) :
    Pushes i s c (gateTwo f) (c.execMask f.g) f.w f.d (op c) s.launches := by
  unfold Pushes
  rw [hi]
  exact classAx_row (G := gateTwo f) (mask := fun c => c.execMask f.g) h.1 h.2.1 h.2.2 hd (fun c _ => op c) (fun _ _ s => s) _ hv
    fun _ _ _ P h => by rw [← h]

/-- Format LR without B. -/
theorem aluR_one (h : LaneRuns (gateOne f) f.g (rowsOf f.w f.d) s c) (hd : f.d.toNat < 60)
    {op : Ctx → Nat → Word} (hi : exec i s = aluR f false s op)
    (hv : ∀ s1 c1, Ready s s1 c c1 (rowsOf f.w f.d) (c.execMask f.g) → ∀ l, l < 32 → op c1 l = op c l) :
    Pushes i s c (gateOne f) (c.execMask f.g) f.w f.d (op c) s.launches := by
  unfold Pushes
  rw [hi]
  simp only [aluR, Bool.false_eq_true, if_false, List.append_nil]
  exact classAx_row (G := gateOne f) (mask := fun c => c.execMask f.g) h.1 h.2.1 h.2.2 hd (fun c _ => op c) (fun _ _ s => s) _ hv
    fun _ _ _ P h => by rw [← h]

/-- Format LR that reads its old destination. -/
theorem aluRD_three (h : LaneRuns (gateThree f) f.g (rowsOf f.w f.d) s c) (hd : f.d.toNat < 60)
    {op : Ctx → Nat → Word} (hi : exec i s = aluRD f s op)
    (hv : ∀ s1 c1, Ready s s1 c c1 (rowsOf f.w f.d) (c.execMask f.g) → ∀ l, l < 32 → op c1 l = op c l) :
    Pushes i s c (gateThree f) (c.execMask f.g) f.w f.d (op c) s.launches := by
  unfold Pushes
  rw [hi]
  exact classAx_row (G := gateThree f) (mask := fun c => c.execMask f.g) h.1 h.2.1 h.2.2 hd (fun c _ => op c) (fun _ _ s => s) _ hv
    fun _ _ _ P h => by rw [← h]

/-- The other forms of class A with a row result. -/
theorem classA_form {G : Gate} {mask : Ctx → Word} {w : Bool} {d : BitVec 6} (hi : Issues G s c)
    (hb : regErrors s c.gid G.reads (mask c) = []) (hr : RowsFree s c (rowsOf w d) (mask c)) (hd : d.toNat < 60)
    {op : Ctx → Nat → Word}
    (he : exec i s = classA G mask (if w then [] else [d.toNat]) true s (fun c ex g => if w then g else g.setRow d.toNat ex (op c)) op)
    (hv : ∀ s1 c1, Ready s s1 c c1 (rowsOf w d) (mask c) → ∀ l, l < 32 → op c1 l = op c l) :
    Pushes i s c G (mask c) w d (op c) s.launches := by
  unfold Pushes
  rw [he]
  exact classAx_row (G := G) (mask := mask) hi hb hr hd (fun c _ => op c) (fun _ _ s => s) _ hv fun _ _ _ P h => by rw [← h]

/-- A pair result. -/
theorem aluPair_form {reads : List Nat} {latches : List Nat}
    (h : LaneRuns { regs := pairOf f.d ++ reads, reads := reads, latches := latches } f.g (pairRowsOf f.w f.d) s c)
    (hd : f.d.toNat + 1 < 60) {op : Ctx → Nat → DWord} (hi : exec i s = aluPair f reads latches s op)
    (hv : ∀ s1 c1, Ready s s1 c c1 (pairRowsOf f.w f.d) (c.execMask f.g) → ∀ l, l < 32 → op c1 l = op c l) :
    PushesPair i s c { regs := pairOf f.d ++ reads, reads := reads, latches := latches } (c.execMask f.g) f.w f.d (op c) := by
  unfold PushesPair
  rw [hi]
  exact classA_pair (G := { regs := pairOf f.d ++ reads, reads := reads, latches := latches }) (mask := fun c => c.execMask f.g)
    h.1 h.2.1 h.2.2 hd op hv

/-! ### Class A with a predicate result -/

theorem compare_form (hi : Issues (gateCompared f) s c)
    (hb : regErrors s c.gid (gateCompared f).reads (c.execMask f.g) = []) {r : Ctx → Nat → Bool} (he : exec i s = compare f s r)
    (hv : ∀ s1 c1, Ready s s1 c c1 [] (c.execMask f.g) → ∀ l, l < 32 → r c1 l = r c l) :
    SetsPred i s c (gateCompared f) (c.execMask f.g) f.d (fun l => if f.w then c.g.p f.d.toNat l && r c l else r c l) s.launches := by
  unfold SetsPred
  rw [he]
  exact classAx_pred (G := gateCompared f) (mask := fun c => c.execMask f.g) hi hb _
    (fun c g l => if f.w then g.p f.d.toNat l && r c l else r c l) (fun _ _ _ => 0) (fun _ _ s => s) _
    (fun s1 c1 R l hl => by simp only [R.p, hv s1 c1 R l hl]) fun _ _ _ P h => by rw [← h]

theorem classA_pred {G : Gate} (hi : Issues G s c) (hb : regErrors s c.gid G.reads (c.execMask f.g) = []) {r : Ctx → Nat → Bool}
    (he : exec i s = classA G (fun c => c.execMask f.g) [] false s (fun c ex g => g.setP f.d.toNat ex (r c)) fun _ _ => 0)
    (hv : ∀ s1 c1, Ready s s1 c c1 [] (c.execMask f.g) → ∀ l, l < 32 → r c1 l = r c l) :
    SetsPred i s c G (c.execMask f.g) f.d (r c) s.launches := by
  unfold SetsPred
  rw [he]
  exact classAx_pred (G := G) (mask := fun c => c.execMask f.g) hi hb _ (fun c _ => r c) (fun _ _ _ => 0) (fun _ _ s => s) _ hv fun _ _ _ P h => by rw [← h]

/-! ### Floating point -/

/-- A count of results and the write of their values. -/
theorem fAlu_form {b d : Bool} {G : Gate} (hG : G = (if d then gateThree f else if b then gateTwo f else gateOne f))
    (hbd : d = true → b = true) (h : LaneRuns G f.g (rowsOf f.w f.d) s c) (hd : f.d.toNat < 60)
    {op : Bool → Nat → Nat → Nat → FRes} (hi : exec i s = fAlu f b d s op) :
    let r := fun (c : Ctx) (l : Nat) => op c.t.ftz (c.src f.a l).toNat (c.src f.b l).toNat (c.reg f.d l).toNat
    Pushes i s c G (c.execMask f.g) f.w f.d (fun l => BitVec.ofNat 32 (r c l).v) (countRes r c (c.execMask f.g) s).launches := by
  intro r
  have hr : ∀ s1 c1, Ready s s1 c c1 (rowsOf f.w f.d) (c.execMask f.g) → ∀ l, l < 32 → r c1 l = r c l := by
    intro s1 c1 R l hl
    simp only [r, R.ftz, R.src _ hl, R.reg _ hl]
  unfold Pushes
  rw [hi]
  obtain ⟨h1, h2, h3⟩ := h
  have key : ∀ G', (gateCause G' s c = gateCause G s c) → fragHit G' c = fragHit G c → lateHit G' c = lateHit G c → G'.reads = G.reads → G'.latches = G.latches →
      ∃ t, classAx G' (fun c => c.execMask f.g) (if f.w then [] else [f.d.toNat]) true s
        (fun c ex g => if f.w then g else g.setRow f.d.toNat ex fun l => BitVec.ofNat 32 (r c l).v)
        (fun c _ l => BitVec.ofNat 32 (r c l).v) (countRes r) = .next t ∧
      LaneDone s t c (if f.w then writesNone else writes f.d.toNat (c.execMask f.g) fun l => BitVec.ofNat 32 (r c l).v) predsNone
        (c.u.classA (!G.latches.isEmpty) true (c.execMask f.g) fun l => BitVec.ofNat 32 (r c l).v)
        (countRes r c (c.execMask f.g) s).launches := by
    intro G' e1 e2 e5 e3 e4
    have hI : Issues G' s c := ⟨h1.1, e1.trans h1.2.1, e2.trans h1.2.2.1, e5.trans h1.2.2.2⟩
    rw [← e4]
    exact classAx_row (G := G') (mask := fun c => c.execMask f.g) hI (by rw [e3]; exact h2) h3 hd (fun c _ l => BitVec.ofNat 32 (r c l).v)
      (countRes r) _ (fun s1 c1 R l hl => by rw [hr s1 c1 R l hl]) fun s1 c1 R P hP => countRes_eq R (hr s1 c1 R) _ P hP
  subst hG
  cases b <;> cases d
  · exact key _ (by simp [gateOne]) (by simp [gateOne]) (by simp [gateOne]) (by simp [gateOne]) (by simp [gateOne])
  · exact absurd (hbd rfl) (by decide)
  · exact key _ (by simp [gateTwo]) (by simp [gateTwo]) (by simp [gateTwo]) (by simp [gateTwo]) (by simp [gateTwo])
  · have e : ∀ (p : Nat → Bool), ((regOf f.d ++ (regOf f.a ++ regOf f.b ++ regOf f.d)).any p) = (regOf f.a ++ regOf f.b ++ regOf f.d).any p := by
      intro p; simp only [List.any_append]; cases (regOf f.d).any p <;> cases (regOf f.a).any p <;> cases (regOf f.b).any p <;> rfl
    refine key _ ?_ ?_ ?_ rfl rfl
    · show gateCause { regs := regOf f.d ++ (regOf f.a ++ regOf f.b ++ regOf f.d), reads := _, latches := _ } s c = gateCause (gateThree f) s c
      unfold gateCause gateThree
      simp only [e, Bool.false_eq_true, if_false]
      rfl
    · show fragHit { regs := regOf f.d ++ (regOf f.a ++ regOf f.b ++ regOf f.d), reads := _, latches := _ } c = fragHit (gateThree f) c
      unfold fragHit gateThree
      simp only [e]
    · show lateHit { regs := regOf f.d ++ (regOf f.a ++ regOf f.b ++ regOf f.d), reads := _, latches := _ } c = lateHit (gateThree f) c
      unfold lateHit gateThree
      simp only [e]

theorem fCompare_form (hi : Issues (gateCompared f) s c)
    (hb : regErrors s c.gid (gateCompared f).reads (c.execMask f.g) = []) {k : FRel} (he : exec i s = fCompare f k s) :
    let r := fun (l : Nat) => fRel k c.t.ftz (c.src f.a l).toNat (c.src f.b l).toNat
    SetsPred i s c (gateCompared f) (c.execMask f.g) f.d (fun l => if f.w then c.g.p f.d.toNat l && (r l).1 else (r l).1)
      (c.count s kFLUSH (maskOf fun l => (c.execMask f.g).getLsbD l && (r l).2)).launches := by
  intro r
  have hr : ∀ s1 c1, Ready s s1 c c1 [] (c.execMask f.g) → ∀ l, l < 32 →
      fRel k c1.t.ftz (c1.src f.a l).toNat (c1.src f.b l).toNat = r l := by
    intro s1 c1 R l hl
    simp only [r, R.ftz, R.src _ hl]
  unfold SetsPred
  rw [he]
  refine classAx_pred (G := gateCompared f) (mask := fun c => c.execMask f.g) hi hb _
    (fun c g l => if f.w then g.p f.d.toNat l && (fRel k c.t.ftz (c.src f.a l).toNat (c.src f.b l).toNat).1 else
      (fRel k c.t.ftz (c.src f.a l).toNat (c.src f.b l).toNat).1) (fun _ _ _ => 0)
    (fun c ex s => c.count s kFLUSH (maskOf fun l => ex.getLsbD l && (fRel k c.t.ftz (c.src f.a l).toNat (c.src f.b l).toNat).2)) _
    (fun s1 c1 R l hl => by simp only [R.p, hr s1 c1 R l hl]; rfl) ?_
  intro s1 c1 R P hP
  have hm : maskOf (fun l => (c.execMask f.g).getLsbD l && (fRel k c1.t.ftz (c1.src f.a l).toNat (c1.src f.b l).toNat).2) =
      maskOf fun l => (c.execMask f.g).getLsbD l && (r l).2 := by
    congr 1
    funext l
    by_cases hl : l < 32
    · rw [hr s1 c1 R l hl]
    · have : (c.execMask f.g).getLsbD l = false := BitVec.getLsbD_of_ge _ l (by omega)
      simp [this]
  simp only [hm]
  unfold Ctx.count
  simp only [R.seq, R.statid]
  exact countFor_eq s P hP _ _ _ _

/-! ### Outside class A -/

theorem laneWrite_form {G : Gate} (h : LaneRuns G f.g [f.d.toNat] s c) (hd : f.d.toNat < 60) {v : Ctx → Word → Nat → Word}
    (he : exec i s = laneWrite G f.g [f.d.toNat] s fun c ex g => g.setRow f.d.toNat ex (v c ex))
    (hv : ∀ s1 c1, Ready s s1 c c1 [f.d.toNat] (c.execMask f.g) → ∀ l, l < 32 → v c1 (c.execMask f.g) l = v c (c.execMask f.g) l) :
    WritesRow i s c (c.execMask f.g) f.d (v c (c.execMask f.g)) s.launches := by
  unfold WritesRow; rw [he]; exact laneWrite_row h hd v hv

theorem laneWrite_predForm {G : Gate} (h : LaneRuns G f.g [] s c) {r : Ctx → Word → Nat → Bool}
    (he : exec i s = laneWrite G f.g [] s fun c ex g => g.setP f.d.toNat ex (r c ex))
    (hv : ∀ s1 c1, Ready s s1 c c1 [] (c.execMask f.g) → ∀ l, l < 32 → r c1 (c.execMask f.g) l = r c (c.execMask f.g) l) :
    WritesPred i s c (c.execMask f.g) f.d (r c (c.execMask f.g)) := by
  unfold WritesPred; rw [he]; exact laneWrite_pred h _ r hv

/-- No lane of a reduction reads a cell with an error. -/
theorem reduceErrs_none {cell : Nat → Nat → Bool} (h : ∀ l ∈ lanesOf (c.execMask f.g), cell f.a.toNat l = false) (keep : Nat → Nat → Bool) :
    reduceErrs f keep c cell = [] := by
  unfold reduceErrs
  rw [List.filter_eq_nil_iff]
  intro l _ hx
  obtain ⟨m, hm, hk⟩ := List.any_eq_true.1 hx
  rw [h m hm, Bool.and_false] at hk
  exact absurd hk (by decide)

/-- The executing lanes of a check of registers read no cell with an error. -/
theorem regErrors_none {reads : List Nat} {m : Word} (h : regErrors s c.gid reads m = []) {r : Nat} (hr : r ∈ reads) :
    ∀ l ∈ lanesOf m, s.badCell c.gid r l = false := by
  intro l hl
  unfold regErrors at h
  rw [List.filter_eq_nil_iff] at h
  cases hc : s.badCell c.gid r l
  · rfl
  · exact absurd (List.any_eq_true.2 ⟨r, hr, hc⟩) (h l hl)

/-- An integer reduction whose cells are sound is a lane write. -/
theorem reduceI_clean (hd : f.a.toNat < 60) (h : LaneRuns { regs := regOf f.d ++ regOf f.a, reads := regOf f.a } f.g [f.d.toNat] s c)
    (keep : Nat → Nat → Bool) (r : Ctx → Word → Nat → Word) :
    reduceI f keep s r = laneWrite { regs := regOf f.d ++ regOf f.a, reads := regOf f.a } f.g [f.d.toNat] s
      fun c ex g => g.setRow f.d.toNat ex (r c ex) := by
  unfold reduceI laneWrite
  rw [laneOpOf_next h.1 (reduceErrs_none (regErrors_none h.2.1 (by simp [regOf, hd])) keep), laneOp_next h.1 h.2.1]

/-- A shuffle whose cells are sound is a lane write. -/
theorem shuffle_clean (ha : f.a.toNat < 60) (hb : f.b.toNat < 60)
    (h : LaneRuns { regs := regOf f.d ++ (regOf f.a ++ regOf f.b), reads := regOf f.a ++ regOf f.b } f.g [f.d.toNat] s c)
    (hs : regErrors s c.gid (regOf f.a) c.active = []) (src : Nat → Nat → Nat) :
    shuffle f s src = laneWrite { regs := regOf f.d ++ (regOf f.a ++ regOf f.b), reads := regOf f.a ++ regOf f.b } f.g [f.d.toNat] s
      fun c ex g => g.setRow f.d.toNat ex fun l =>
        if c.active.getLsbD (src l (shAmt (c.reg f.b l))) then c.reg f.a (src l (shAmt (c.reg f.b l))) else 0 := by
  have key : (lanesOf (c.execMask f.g)).filter (fun l =>
      (s.switchPipe c.core c.u.issue c.gid c.u.mask).badCell c.gid f.b.toNat l ||
        c.active.getLsbD (src l (shAmt (c.reg f.b l))) &&
          (s.switchPipe c.core c.u.issue c.gid c.u.mask).badCell c.gid f.a.toNat (src l (shAmt (c.reg f.b l)))) = [] := by
    rw [List.filter_eq_nil_iff]
    intro l hl hx
    have e1 : (s.switchPipe c.core c.u.issue c.gid c.u.mask).badCell c.gid f.b.toNat l = false :=
      regErrors_none h.2.1 (by simp [regOf, hb]) l hl
    rw [e1, Bool.false_or, Bool.and_eq_true] at hx
    have e2 : (s.switchPipe c.core c.u.issue c.gid c.u.mask).badCell c.gid f.a.toNat (src l (shAmt (c.reg f.b l))) = false :=
      regErrors_none hs (by simp [regOf, ha]) _ (by simpa [lanesOf] using ⟨BitVec.lt_of_getLsbD hx.1, hx.1⟩)
    rw [e2] at hx
    exact absurd hx.2 (by decide)
  unfold shuffle laneWrite
  rw [laneOpOf_next h.1 rfl, laneOp_next h.1 h.2.1]
  simp only [key, List.contains_nil, maskOf_false, cellRecords, cellTraps, List.foldl_nil, List.map_nil]
  rw [show c.execMask f.g &&& ~~~(0 : Word) = c.execMask f.g from BitVec.and_allOnes]
  rfl

/-- A row of results that are counted. -/
theorem counted_form (h : LaneRuns (gateOne f) f.g [f.d.toNat] s c) (hd : f.d.toNat < 60) {r : Ctx → Nat → FRes}
    {errs : Ctx → (Nat → Nat → Bool) → List Nat} (hb : errs c (s.badCell c.gid) = [])
    (he : exec i s = laneOpOf errs (gateOne f) f.g s fun c ex s => withRows c s [f.d.toNat] ex fun c s =>
      fin c (countRes r c ex (s.modGroup c.gid fun g => g.setRow f.d.toNat ex fun l => BitVec.ofNat 32 (r c l).v)))
    (hv : ∀ s1 c1, Ready s s1 c c1 [f.d.toNat] (c.execMask f.g) → ∀ l, l < 32 → r c1 l = r c l) :
    WritesRow i s c (c.execMask f.g) f.d (fun l => BitVec.ofNat 32 (r c l).v) (countRes r c (c.execMask f.g) s).launches := by
  obtain ⟨h1, h2, h3⟩ := h
  unfold WritesRow
  rw [he, laneOpOf_next h1 hb]
  obtain ⟨s1, c1, R, e⟩ := withRows_next (State.ctx?_ctxOf h1.1) h3 fun c' s' =>
    fin c' (countRes r c' (c.execMask f.g) (s'.modGroup c'.gid fun g => g.setRow f.d.toNat (c.execMask f.g) fun l => BitVec.ofNat 32 (r c' l).v))
  refine ⟨_, e, ?_⟩
  have hu : c1.u.dropChain.next c1.u.pc = c.u.falls := by rw [R.sub]; rfl
  rw [hu]
  exact R.done (upd := fun g => g.setRow f.d.toNat (c.execMask f.g) fun l => BitVec.ofNat 32 (r c1 l).v) (fun _ => rfl) (fun _ => rfl)
    (fun _ => rfl) (fun _ => rfl) (fun r' l hl => R.row_lane (List.mem_singleton.2 rfl) hd (fun l hl => by rw [hv s1 c1 R l hl]) r' hl)
    (fun l _ => by show c1.g.predOf l = _; rw [R.predOf]; rfl) (Sub.falls_mask _) _
    (countRes_eq R (hv s1 c1 R) _ _ (by rw [State.modGroup_launches, R.launches]))

end Sys2Proof.Machine
end

