-- ==== Sys2Proof/Laws/Memory.lean ====
section
/-! SUPPORT. Laws of physical memory: a read after a write, what a write leaves alone, and that every operation that changes HBM
keeps its canonical form. -/

namespace Sys2Proof.Machine

variable {s : State}

/-! ### One byte -/

theorem State.poke_eq (pa : Nat) (b : Byte) : s.poke pa b = { s with mem := (s.poke pa b).mem } := by
  unfold State.poke; split <;> rfl

/-- A byte of HBM reads as it was written. -/
theorem State.peek_poke_same {pa : Nat} (b : Byte) (h : isHbm pa = true) : (s.poke pa b).peek pa = b := by
  simp [State.poke, State.peek, h]

/-- Every other byte of the physical space is left alone. -/
theorem State.peek_poke_other {pa a : Nat} (b : Byte) (h : a ≠ pa) : (s.poke pa b).peek a = s.peek a := by
  unfold State.poke
  split
  · simp only [State.peek, NMap.get_set_other ramDefault h]
    rfl
  · rfl

/-- Outside HBM a write is discarded. -/
theorem State.poke_discarded {pa : Nat} (b : Byte) (h : isHbm pa = false) : s.poke pa b = s := by simp [State.poke, h]

theorem Memory.wf_poke {pa : Nat} {b : Byte} (h : Memory.wf s.mem = true) : Memory.wf (s.poke pa b).mem = true := by
  unfold State.poke
  split
  · exact NMap.wf_set pa b h
  · exact h

/-! ### Runs of bytes -/

/-- A run of writes changes HBM and nothing else. -/
theorem State.pokeN_eq (bs : List Byte) : ∀ (s : State) (pa : Nat), ∃ m, s.pokeN pa bs = { s with mem := m } := by
  induction bs with
  | nil => exact fun s pa => ⟨s.mem, rfl⟩
  | cons b bs ih =>
    intro s pa
    obtain ⟨m, h⟩ := ih (s.poke pa b) (pa + 1)
    exact ⟨m, h.trans (by rw [State.poke_eq])⟩

theorem Memory.wf_pokeN (bs : List Byte) : ∀ {s : State} {pa : Nat}, Memory.wf s.mem = true → Memory.wf (s.pokeN pa bs).mem = true := by
  induction bs with
  | nil => exact fun h => h
  | cons b bs ih => exact fun h => ih (Memory.wf_poke h)

/-- A run of writes leaves every byte outside it alone. -/
theorem State.peek_pokeN_other (bs : List Byte) : ∀ {s : State} {pa a : Nat}, a < pa ∨ pa + bs.length ≤ a → (s.pokeN pa bs).peek a = s.peek a := by
  induction bs with
  | nil => intro s pa a _; rfl
  | cons b bs ih =>
    intro s pa a h
    simp only [List.length_cons] at h
    exact (ih (by omega)).trans (State.peek_poke_other b (by omega))

/-- A run of bytes of HBM reads as it was written. -/
theorem State.peek_pokeN_same (bs : List Byte) : ∀ {s : State} {pa : Nat}, (∀ i, i < bs.length → isHbm (pa + i) = true) →
    ∀ i, (h : i < bs.length) → (s.pokeN pa bs).peek (pa + i) = bs[i] := by
  induction bs with
  | nil => intro s pa _ i h; exact absurd h (Nat.not_lt_zero i)
  | cons b bs ih =>
    intro s pa hb i h
    cases i with
    | zero =>
      show ((s.poke pa b).pokeN (pa + 1) bs).peek pa = b
      rw [State.peek_pokeN_other bs (Or.inl (Nat.lt_succ_self pa))]
      exact State.peek_poke_same b (hb 0 h)
    | succ i =>
      have hb' : ∀ j, j < bs.length → isHbm (pa + 1 + j) = true := fun j hj => by
        have := hb (j + 1) (by simpa using hj)
        rwa [show pa + 1 + j = pa + (j + 1) by omega]
      have := ih (s := s.poke pa b) hb' i (by simpa using h)
      rw [show pa + (i + 1) = pa + 1 + i by omega]
      exact this

/-! ### The operations over them -/

theorem Memory.wf_writePte {pte w0 w1 : Nat} (h : Memory.wf s.mem = true) : Memory.wf (writePte s pte w0 w1).mem = true := Memory.wf_pokeN _ h

theorem Memory.wf_framePokeN {owner : Option Nat} {pa : Nat} {bs : List Byte} (h : Memory.wf s.mem = true) :
    Memory.wf (s.framePokeN owner pa bs).mem = true := by
  cases owner with
  | none => exact Memory.wf_pokeN bs h
  | some d => exact h

theorem Memory.wf_setDirty {e : Tlb} (h : Memory.wf s.mem = true) : Memory.wf (setDirty s e).mem = true := by
  unfold setDirty
  simp only []
  split
  · exact h
  · exact Memory.wf_writePte h

theorem State.countSoft_mem (s : State) (n line : Nat) : (countSoft s n line).mem = s.mem := by
  unfold countSoft
  split <;> rfl

theorem Memory.wf_flushLine {x : L2Line} (h : Memory.wf s.mem = true) : Memory.wf (flushLine s x).mem = true := by
  unfold flushLine
  split
  · exact h
  · split
    · exact h
    · simp only []
      split
      · rw [State.countSoft_mem]; exact h
      · exact Memory.wf_pokeN _ (by rw [State.countSoft_mem]; exact h)

/-- The bytes of a stored page image. -/
theorem Memory.wf_pokes (frame : Nat) (page : List (Nat × Byte)) :
    ∀ {s : State}, Memory.wf s.mem = true → Memory.wf (page.foldl (fun s q => s.poke (frame + q.1) q.2) s).mem = true := by
  induction page with
  | nil => exact fun h => h
  | cons q page ih => exact fun h => ih (Memory.wf_poke h)

/-- Expanding a page (R308) clears its frame and writes it. -/
theorem Memory.wf_expand {e : Tlb} (h : Memory.wf s.mem = true) : Memory.wf (expand s e).1.mem = true := by
  unfold expand
  simp only []
  split
  · exact h
  · exact Memory.wf_writePte (Memory.wf_pokes _ _ (NMap.wf_clear _ _ (Memory.wf_pokeN _ h)))

theorem Memory.wf_reset : Memory.wf State.reset.mem = true := rfl

end Sys2Proof.Machine
end

