-- ==== Sys2Proof/Laws/PerInstr.lean ====
section
/-! SUPPORT. The family `Coding`, of every instruction as syntax: the fields that the decoder reads from an encoded word, before the
checks of R35, are those that the encoder put there (R23, R26). -/

namespace Sys2Proof.Laws

/-! ### Fields of packed words -/

theorem extract_append_low {a b n k : Nat} (x : BitVec a) (y : BitVec b) (h : n + k ≤ b) :
    (x ++ y).extractLsb' n k = y.extractLsb' n k := by
  apply BitVec.eq_of_getLsbD_eq
  intro i hi
  simp only [BitVec.getLsbD_extractLsb', BitVec.getLsbD_append]
  simp [show n + i < b by omega]

theorem extract_append_high {a b n k : Nat} (x : BitVec a) (y : BitVec b) (h : b ≤ n) :
    (x ++ y).extractLsb' n k = x.extractLsb' (n - b) k := by
  apply BitVec.eq_of_getLsbD_eq
  intro i hi
  simp only [BitVec.getLsbD_extractLsb', BitVec.getLsbD_append]
  simp [show ¬ n + i < b by omega, show n - b + i = n + i - b by omega]

theorem extract_all {k : Nat} (x : BitVec k) : x.extractLsb' 0 k = x := by
  apply BitVec.eq_of_getLsbD_eq
  intro i hi
  simp [hi]

theorem getLsbD_append_low {a b n : Nat} (x : BitVec a) (y : BitVec b) (h : n < b) : (x ++ y).getLsbD n = y.getLsbD n := by
  simp [BitVec.getLsbD_append, h]

theorem getLsbD_append_high {a b n : Nat} (x : BitVec a) (y : BitVec b) (h : b ≤ n) : (x ++ y).getLsbD n = x.getLsbD (n - b) := by
  simp [BitVec.getLsbD_append, show ¬ n < b by omega]

theorem getLsbD_bit (b : Bool) : (bit b).getLsbD 0 = b := by cases b <;> rfl

/-! ### Words of each format -/


/-- What the decoder finds in a word of format LR, LL or LG. -/
theorem raw_packR {op : BitVec 6} {f : LaneR} {c : BitVec 2} {r : Option Instr}
    (h : ∀ w, laneR w = f → f2Of w = c → laneForm op.toNat w = r) : decodeRaw (packR op f c) = r := by
  have hu : isUniformWord (packR op f c) = false := by
    simp (disch := decide) only [isUniformWord, packR, getLsbD_append_high, Nat.reduceSub]; rfl
  have ho : opOf (packR op f c) = op := by
    simp (disch := decide) only [opOf, packR, extract_append_low, extract_append_high, extract_all, Nat.reduceSub]
  have hr : laneR (packR op f c) = f := by
    simp (disch := decide) only [laneR, packR, extract_append_low, extract_append_high, extract_all, getLsbD_append_low, getLsbD_append_high, getLsbD_bit, Nat.reduceSub]
  have hc : f2Of (packR op f c) = c := by
    simp (disch := decide) only [f2Of, packR, extract_append_low, extract_all]
  rw [decodeRaw, hu, if_neg (by decide), ho]
  exact h _ hr hc

/-- Format LI. -/
theorem raw_packI {op : BitVec 6} {f : LaneI} {r : Option Instr}
    (h : ∀ w, laneI w = f → laneForm op.toNat w = r) : decodeRaw (packI op f) = r := by
  have hu : isUniformWord (packI op f) = false := by
    simp (disch := decide) only [isUniformWord, packI, getLsbD_append_high, Nat.reduceSub]; rfl
  have ho : opOf (packI op f) = op := by
    simp (disch := decide) only [opOf, packI, extract_append_low, extract_append_high, extract_all, Nat.reduceSub]
  have hr : laneI (packI op f) = f := by
    simp (disch := decide) only [laneI, packI, extract_append_low, extract_append_high, extract_all, getLsbD_append_low, getLsbD_append_high, getLsbD_bit, Nat.reduceSub]
  rw [decodeRaw, hu, if_neg (by decide), ho]
  exact h _ hr

/-- Operation 12. -/
theorem raw_packSh {k : BitVec 3} {f : LaneSh} {r : Option Instr}
    (h : ∀ w, laneSh w = f → w.extractLsb' 5 3 = k → laneForm 0x12 w = r) : decodeRaw (packSh k f) = r := by
  have hu : isUniformWord (packSh k f) = false := by
    simp (disch := decide) only [isUniformWord, packSh, getLsbD_append_high, Nat.reduceSub]; rfl
  have ho : opOf (packSh k f) = 0x12#6 := by
    simp (disch := decide) only [opOf, packSh, extract_append_low, extract_append_high, extract_all, Nat.reduceSub]
  have hr : laneSh (packSh k f) = f := by
    simp (disch := decide) only [laneSh, packSh, extract_append_low, extract_append_high, extract_all, getLsbD_append_low, getLsbD_append_high, getLsbD_bit, Nat.reduceSub]
  have hk : (packSh k f).extractLsb' 5 3 = k := by
    simp (disch := decide) only [packSh, extract_append_low, extract_append_high, extract_all, Nat.reduceSub]
  rw [decodeRaw, hu, if_neg (by decide), ho]
  exact h _ hr hk

/-- Format UR. -/
theorem raw_packU {op : BitVec 6} {f : UniR} {c : BitVec 3} {r : Option Instr}
    (h : ∀ w, uniR w = f → f3Of w = c → uniformForm op.toNat w = r) : decodeRaw (packU op f c) = r := by
  have hu : isUniformWord (packU op f c) = true := by
    simp (disch := decide) only [isUniformWord, packU, getLsbD_append_high, Nat.reduceSub]; rfl
  have ho : opOf (packU op f c) = op := by
    simp (disch := decide) only [opOf, packU, extract_append_low, extract_append_high, extract_all, Nat.reduceSub]
  have hr : uniR (packU op f c) = f := by
    simp (disch := decide) only [uniR, packU, extract_append_low, extract_append_high, extract_all, Nat.reduceSub]
  have hc : f3Of (packU op f c) = c := by
    simp (disch := decide) only [f3Of, packU, extract_append_low, extract_all]
  rw [decodeRaw, hu, if_pos rfl, ho]
  exact h _ hr hc

/-- Format UI. -/
theorem raw_packUI {op : BitVec 6} {f : UniI} {r : Option Instr}
    (h : ∀ w, uniI w = f → uniformForm op.toNat w = r) : decodeRaw (packUI op f) = r := by
  have hu : isUniformWord (packUI op f) = true := by
    simp (disch := decide) only [isUniformWord, packUI, getLsbD_append_high, Nat.reduceSub]; rfl
  have ho : opOf (packUI op f) = op := by
    simp (disch := decide) only [opOf, packUI, extract_append_low, extract_append_high, extract_all, Nat.reduceSub]
  have hr : uniI (packUI op f) = f := by
    simp (disch := decide) only [uniI, packUI, extract_append_low, extract_append_high, extract_all, Nat.reduceSub]
  rw [decodeRaw, hu, if_pos rfl, ho]
  exact h _ hr

/-- Format UB. -/
theorem raw_packUB {op : BitVec 6} {f : UniB} {r : Option Instr}
    (h : ∀ w, uniB w = f → uniformForm op.toNat w = r) : decodeRaw (packUB op f) = r := by
  have hu : isUniformWord (packUB op f) = true := by
    simp (disch := decide) only [isUniformWord, packUB, getLsbD_append_high, Nat.reduceSub]; rfl
  have ho : opOf (packUB op f) = op := by
    simp (disch := decide) only [opOf, packUB, extract_append_low, extract_append_high, extract_all, Nat.reduceSub]
  have hr : uniB (packUB op f) = f := by
    simp (disch := decide) only [uniB, packUB, extract_append_low, extract_append_high, extract_all, Nat.reduceSub]
  rw [decodeRaw, hu, if_pos rfl, ho]
  exact h _ hr

/-- Format UL. -/
theorem raw_packUL {c : BitVec 1} {f : UniL} {r : Option Instr}
    (h : ∀ w, uniL w = f → w.getLsbD 10 = c.getLsbD 0 → uniformForm 0x13 w = r) : decodeRaw (packUL c f) = r := by
  have hu : isUniformWord (packUL c f) = true := by
    simp (disch := decide) only [isUniformWord, packUL, getLsbD_append_high, Nat.reduceSub]; rfl
  have ho : opOf (packUL c f) = 0x13#6 := by
    simp (disch := decide) only [opOf, packUL, extract_append_low, extract_append_high, extract_all, Nat.reduceSub]
  have hr : uniL (packUL c f) = f := by
    simp (disch := decide) only [uniL, packUL, extract_append_low, extract_append_high, extract_all, Nat.reduceSub]
  have hc : (packUL c f).getLsbD 10 = c.getLsbD 0 := by
    simp (disch := decide) only [packUL, getLsbD_append_low, getLsbD_append_high, Nat.reduceSub]
  rw [decodeRaw, hu, if_pos rfl, ho]
  exact h _ hr hc

/-- Any uniform word. -/
theorem raw_uniform {w : Word} {n : BitVec 6} {r : Option Instr} (hu : isUniformWord w = true) (ho : opOf w = n)
    (h : uniformForm n.toNat w = r) : decodeRaw w = r := by rw [decodeRaw, hu, if_pos rfl, ho, h]

/-- A form number with a leading zero bit. -/
theorem low_of_f2 {w : Word} {x : BitVec 1} (h : f2Of w = 0#1 ++ x) : w.getLsbD 1 = false ∧ w.extractLsb' 0 1 = x := by
  refine ⟨by
    rw [show w.getLsbD 1 = (f2Of w).getLsbD 1 by simp [f2Of], h]
    exact getLsbD_append_high _ _ (Nat.le_refl 1), ?_⟩
  have := congrArg (fun v => v.extractLsb' 0 1) h
  simpa (disch := decide) only [f2Of, extract_append_low, extract_all, BitVec.extractLsb'_extractLsb'_of_le, Nat.add_zero] using this

theorem low_of_f3 {w : Word} {x : BitVec 2} (h : f3Of w = 0#1 ++ x) : w.getLsbD 2 = false ∧ f2Of w = x := by
  refine ⟨by
    rw [show w.getLsbD 2 = (f3Of w).getLsbD 2 by simp [f3Of], h]
    exact getLsbD_append_high _ _ (Nat.le_refl 2), ?_⟩
  have := congrArg (fun v => v.extractLsb' 0 2) h
  simpa (disch := decide) only [f3Of, f2Of, extract_append_low, extract_all, BitVec.extractLsb'_extractLsb'_of_le, Nat.add_zero] using this

/-! ### The family -/

/-- Every field of an encoded word is read back. -/
def Coding.Statement (i : Instr) : Prop := ∀ w, encode i = some w → decodeRaw w = some i

namespace Coding

theorem iadd (f : LaneR) : Statement (.iadd f) := fun w h => by cases h; exact raw_packR fun w hr hc => by subst hr; exact congrArg (sel4 · _ _ _ _) hc
theorem iadds (f : LaneR) : Statement (.iadds f) := fun w h => by cases h; exact raw_packR fun w hr hc => by subst hr; exact congrArg (sel4 · _ _ _ _) hc
theorem iaddd (f : LaneR) : Statement (.iaddd f) := fun w h => by cases h; exact raw_packR fun w hr hc => by subst hr; exact congrArg (sel4 · _ _ _ _) hc
theorem isub (f : LaneR) : Statement (.isub f) := fun w h => by cases h; exact raw_packR fun w hr hc => by subst hr; exact congrArg (sel4 · _ _ _ _) hc
theorem isubs (f : LaneR) : Statement (.isubs f) := fun w h => by cases h; exact raw_packR fun w hr hc => by subst hr; exact congrArg (sel4 · _ _ _ _) hc
theorem isubd (f : LaneR) : Statement (.isubd f) := fun w h => by cases h; exact raw_packR fun w hr hc => by subst hr; exact congrArg (sel4 · _ _ _ _) hc
theorem imul (f : LaneR) : Statement (.imul f) := fun w h => by cases h; exact raw_packR fun w hr hc => by subst hr; exact congrArg (sel4 · _ _ _ _) hc
theorem imulh (f : LaneR) : Statement (.imulh f) := fun w h => by cases h; exact raw_packR fun w hr hc => by subst hr; exact congrArg (sel4 · _ _ _ _) hc
theorem imulhu (f : LaneR) : Statement (.imulhu f) := fun w h => by cases h; exact raw_packR fun w hr hc => by subst hr; exact congrArg (sel4 · _ _ _ _) hc
theorem imulw (f : LaneR) : Statement (.imulw f) := fun w h => by cases h; exact raw_packR fun w hr hc => by subst hr; exact congrArg (sel4 · _ _ _ _) hc
theorem imad (f : LaneR) : Statement (.imad f) := fun w h => by cases h; exact raw_packR fun w hr hc => by subst hr; exact congrArg (sel4 · _ _ _ _) hc
theorem imadw (f : LaneR) : Statement (.imadw f) := fun w h => by cases h; exact raw_packR fun w hr hc => by subst hr; exact congrArg (sel4 · _ _ _ _) hc
theorem idot4 (f : LaneR) : Statement (.idot4 f) := fun w h => by cases h; exact raw_packR fun w hr hc => by subst hr; exact congrArg (sel4 · _ _ _ _) hc
theorem imin (f : LaneR) : Statement (.imin f) := fun w h => by cases h; exact raw_packR fun w hr hc => by subst hr; exact congrArg (sel4 · _ _ _ _) hc
theorem iminu (f : LaneR) : Statement (.iminu f) := fun w h => by cases h; exact raw_packR fun w hr hc => by subst hr; exact congrArg (sel4 · _ _ _ _) hc
theorem imax (f : LaneR) : Statement (.imax f) := fun w h => by cases h; exact raw_packR fun w hr hc => by subst hr; exact congrArg (sel4 · _ _ _ _) hc
theorem imaxu (f : LaneR) : Statement (.imaxu f) := fun w h => by cases h; exact raw_packR fun w hr hc => by subst hr; exact congrArg (sel4 · _ _ _ _) hc
theorem andL (f : LaneR) : Statement (.andL f) := fun w h => by cases h; exact raw_packR fun w hr hc => by subst hr; exact congrArg (sel4 · _ _ _ _) hc
theorem orL (f : LaneR) : Statement (.orL f) := fun w h => by cases h; exact raw_packR fun w hr hc => by subst hr; exact congrArg (sel4 · _ _ _ _) hc
theorem xorL (f : LaneR) : Statement (.xorL f) := fun w h => by cases h; exact raw_packR fun w hr hc => by subst hr; exact congrArg (sel4 · _ _ _ _) hc
theorem andn (f : LaneR) : Statement (.andn f) := fun w h => by cases h; exact raw_packR fun w hr hc => by subst hr; exact congrArg (sel4 · _ _ _ _) hc
theorem shl (f : LaneR) : Statement (.shl f) := fun w h => by cases h; exact raw_packR fun w hr hc => by subst hr; exact congrArg (sel4 · _ _ _ _) hc
theorem shr (f : LaneR) : Statement (.shr f) := fun w h => by cases h; exact raw_packR fun w hr hc => by subst hr; exact congrArg (sel4 · _ _ _ _) hc
theorem sar (f : LaneR) : Statement (.sar f) := fun w h => by cases h; exact raw_packR fun w hr hc => by subst hr; exact congrArg (sel4 · _ _ _ _) hc
theorem rotl (f : LaneR) : Statement (.rotl f) := fun w h => by cases h; exact raw_packR fun w hr hc => by subst hr; exact congrArg (sel4 · _ _ _ _) hc
theorem popc (f : LaneR) : Statement (.popc f) := fun w h => by cases h; exact raw_packR fun w hr hc => by subst hr; exact congrArg (sel4 · _ _ _ _) hc
theorem clz (f : LaneR) : Statement (.clz f) := fun w h => by cases h; exact raw_packR fun w hr hc => by subst hr; exact congrArg (sel4 · _ _ _ _) hc
theorem brev (f : LaneR) : Statement (.brev f) := fun w h => by cases h; exact raw_packR fun w hr hc => by subst hr; exact congrArg (sel4 · _ _ _ _) hc
theorem iabs (f : LaneR) : Statement (.iabs f) := fun w h => by cases h; exact raw_packR fun w hr hc => by subst hr; exact congrArg (sel4 · _ _ _ _) hc
theorem bfx (f : LaneR) : Statement (.bfx f) := fun w h => by cases h; exact raw_packR fun w hr hc => by subst hr; exact congrArg (sel4 · _ _ _ _) hc
theorem bfxs (f : LaneR) : Statement (.bfxs f) := fun w h => by cases h; exact raw_packR fun w hr hc => by subst hr; exact congrArg (sel4 · _ _ _ _) hc
theorem bfi (f : LaneR) : Statement (.bfi f) := fun w h => by cases h; exact raw_packR fun w hr hc => by subst hr; exact congrArg (sel4 · _ _ _ _) hc
theorem icmpEq (f : LaneR) : Statement (.icmpEq f) := fun w h => by cases h; exact raw_packR fun w hr hc => by subst hr; exact congrArg (sel4 · _ _ _ _) hc
theorem icmpNe (f : LaneR) : Statement (.icmpNe f) := fun w h => by cases h; exact raw_packR fun w hr hc => by subst hr; exact congrArg (sel4 · _ _ _ _) hc
theorem icmpLt (f : LaneR) : Statement (.icmpLt f) := fun w h => by cases h; exact raw_packR fun w hr hc => by subst hr; exact congrArg (sel4 · _ _ _ _) hc
theorem icmpLe (f : LaneR) : Statement (.icmpLe f) := fun w h => by cases h; exact raw_packR fun w hr hc => by subst hr; exact congrArg (sel4 · _ _ _ _) hc
theorem icmpuLt (f : LaneR) : Statement (.icmpuLt f) := fun w h => by cases h; exact raw_packR fun w hr hc => by subst hr; exact congrArg (sel4 · _ _ _ _) hc
theorem icmpuLe (f : LaneR) : Statement (.icmpuLe f) := fun w h => by cases h; exact raw_packR fun w hr hc => by subst hr; exact congrArg (sel4 · _ _ _ _) hc
theorem icmpuGt (f : LaneR) : Statement (.icmpuGt f) := fun w h => by cases h; exact raw_packR fun w hr hc => by subst hr; exact congrArg (sel4 · _ _ _ _) hc
theorem icmpuGe (f : LaneR) : Statement (.icmpuGe f) := fun w h => by cases h; exact raw_packR fun w hr hc => by subst hr; exact congrArg (sel4 · _ _ _ _) hc
theorem pand (f : LaneR) : Statement (.pand f) := fun w h => by cases h; exact raw_packR fun w hr hc => by subst hr; exact congrArg (sel4 · _ _ _ _) hc
theorem por (f : LaneR) : Statement (.por f) := fun w h => by cases h; exact raw_packR fun w hr hc => by subst hr; exact congrArg (sel4 · _ _ _ _) hc
theorem pxor (f : LaneR) : Statement (.pxor f) := fun w h => by cases h; exact raw_packR fun w hr hc => by subst hr; exact congrArg (sel4 · _ _ _ _) hc
theorem pnand (f : LaneR) : Statement (.pnand f) := fun w h => by cases h; exact raw_packR fun w hr hc => by subst hr; exact congrArg (sel4 · _ _ _ _) hc
theorem pmovr (f : LaneR) : Statement (.pmovr f) := fun w h => by cases h; exact raw_packR fun w hr hc => by subst hr; exact congrArg (sel4 · _ _ _ _) hc
theorem pmovw (f : LaneR) : Statement (.pmovw f) := fun w h => by cases h; exact raw_packR fun w hr hc => by subst hr; exact congrArg (sel4 · _ _ _ _) hc
theorem pbit (f : LaneR) : Statement (.pbit f) := fun w h => by cases h; exact raw_packR fun w hr hc => by subst hr; exact congrArg (sel4 · _ _ _ _) hc
theorem mov (f : LaneR) : Statement (.mov f) := fun w h => by cases h; exact raw_packR fun w hr hc => by subst hr; exact congrArg (sel4 · _ _ _ _) hc
theorem movs (f : LaneR) : Statement (.movs f) := fun w h => by cases h; exact raw_packR fun w hr hc => by subst hr; exact congrArg (sel4 · _ _ _ _) hc
theorem selfIx (f : LaneR) : Statement (.selfIx f) := fun w h => by cases h; exact raw_packR fun w hr hc => by subst hr; exact congrArg (sel4 · _ _ _ _) hc
theorem laneid (f : LaneR) : Statement (.laneid f) := fun w h => by cases h; exact raw_packR fun w hr hc => by subst hr; exact congrArg (sel4 · _ _ _ _) hc
theorem selp (f : LaneI) : Statement (.selp f) := fun w h => by cases h; exact raw_packI fun w hr => by subst hr; rfl
theorem iaddi (f : LaneI) : Statement (.iaddi f) := fun w h => by cases h; exact raw_packI fun w hr => by subst hr; rfl
theorem movi (f : LaneI) : Statement (.movi f) := fun w h => by cases h; exact raw_packI fun w hr => by subst hr; rfl
theorem shli (f : LaneSh) : Statement (.shli f) := fun w h => by cases h; exact raw_packSh fun w hr hc => by subst hr; exact congrArg (sel8 · _ _ _ _ _ _ _ _) hc
theorem shri (f : LaneSh) : Statement (.shri f) := fun w h => by cases h; exact raw_packSh fun w hr hc => by subst hr; exact congrArg (sel8 · _ _ _ _ _ _ _ _) hc
theorem sari (f : LaneSh) : Statement (.sari f) := fun w h => by cases h; exact raw_packSh fun w hr hc => by subst hr; exact congrArg (sel8 · _ _ _ _ _ _ _ _) hc
theorem rotli (f : LaneSh) : Statement (.rotli f) := fun w h => by cases h; exact raw_packSh fun w hr hc => by subst hr; exact congrArg (sel8 · _ _ _ _ _ _ _ _) hc
theorem andi (f : LaneI) : Statement (.andi f) := fun w h => by cases h; exact raw_packI fun w hr => by subst hr; rfl
theorem nbl (f : LaneR) : Statement (.nbl f) := fun w h => by cases h; exact raw_packR fun w hr hc => by subst hr; exact congrArg (sel4 · _ _ _ _) hc
theorem nbr (f : LaneR) : Statement (.nbr f) := fun w h => by cases h; exact raw_packR fun w hr hc => by subst hr; exact congrArg (sel4 · _ _ _ _) hc
theorem nblb (f : LaneR) : Statement (.nblb f) := fun w h => by cases h; exact raw_packR fun w hr hc => by subst hr; exact congrArg (sel4 · _ _ _ _) hc
theorem nbrb (f : LaneR) : Statement (.nbrb f) := fun w h => by cases h; exact raw_packR fun w hr hc => by subst hr; exact congrArg (sel4 · _ _ _ _) hc
theorem shflIdx (f : LaneR) : Statement (.shflIdx f) := fun w h => by cases h; exact raw_packR fun w hr hc => by subst hr; exact congrArg (sel4 · _ _ _ _) hc
theorem shflXor (f : LaneR) : Statement (.shflXor f) := fun w h => by cases h; exact raw_packR fun w hr hc => by subst hr; exact congrArg (sel4 · _ _ _ _) hc
theorem shflUp (f : LaneR) : Statement (.shflUp f) := fun w h => by cases h; exact raw_packR fun w hr hc => by subst hr; exact congrArg (sel4 · _ _ _ _) hc
theorem shflDn (f : LaneR) : Statement (.shflDn f) := fun w h => by cases h; exact raw_packR fun w hr hc => by subst hr; exact congrArg (sel4 · _ _ _ _) hc
theorem ballot (f : LaneR) : Statement (.ballot f) := fun w h => by cases h; exact raw_packR fun w hr hc => by subst hr; exact congrArg (sel4 · _ _ _ _) hc
theorem anyP (f : LaneR) : Statement (.anyP f) := fun w h => by cases h; exact raw_packR fun w hr hc => by subst hr; exact congrArg (sel4 · _ _ _ _) hc
theorem allP (f : LaneR) : Statement (.allP f) := fun w h => by cases h; exact raw_packR fun w hr hc => by subst hr; exact congrArg (sel4 · _ _ _ _) hc
theorem elect (f : LaneR) : Statement (.elect f) := fun w h => by cases h; exact raw_packR fun w hr hc => by subst hr; exact congrArg (sel4 · _ _ _ _) hc
theorem lredIadd (f : LaneR) : Statement (.lredIadd f) := fun w h => by cases h; exact raw_packR fun w hr hc => by subst hr; exact congrArg (sel4 · _ _ _ _) hc
theorem lredImax (f : LaneR) : Statement (.lredImax f) := fun w h => by cases h; exact raw_packR fun w hr hc => by subst hr; exact congrArg (sel4 · _ _ _ _) hc
theorem lredFadd (f : LaneR) : Statement (.lredFadd f) := fun w h => by cases h; exact raw_packR fun w hr hc => by subst hr; exact congrArg (sel4 · _ _ _ _) hc
theorem lredFmax (f : LaneR) : Statement (.lredFmax f) := fun w h => by cases h; exact raw_packR fun w hr hc => by subst hr; exact congrArg (sel4 · _ _ _ _) hc
theorem lscanIaddEx (f : LaneR) : Statement (.lscanIaddEx f) := fun w h => by cases h; exact raw_packR fun w hr hc => by subst hr; exact congrArg (sel4 · _ _ _ _) hc
theorem lscanIaddIn (f : LaneR) : Statement (.lscanIaddIn f) := fun w h => by cases h; exact raw_packR fun w hr hc => by subst hr; exact congrArg (sel4 · _ _ _ _) hc
theorem lscanFaddEx (f : LaneR) : Statement (.lscanFaddEx f) := fun w h => by cases h; exact raw_packR fun w hr hc => by subst hr; exact congrArg (sel4 · _ _ _ _) hc
theorem lscanFaddIn (f : LaneR) : Statement (.lscanFaddIn f) := fun w h => by cases h; exact raw_packR fun w hr hc => by subst hr; exact congrArg (sel4 · _ _ _ _) hc
theorem fadd (f : LaneR) (rm : BitVec 2) : Statement (.fadd f rm) := fun w h => by cases h; exact raw_packR fun w hr hc => by subst hr hc; rfl
theorem fsub (f : LaneR) (rm : BitVec 2) : Statement (.fsub f rm) := fun w h => by cases h; exact raw_packR fun w hr hc => by subst hr hc; rfl
theorem fmul (f : LaneR) (rm : BitVec 2) : Statement (.fmul f rm) := fun w h => by cases h; exact raw_packR fun w hr hc => by subst hr hc; rfl
theorem ffma (f : LaneR) (rm : BitVec 2) : Statement (.ffma f rm) := fun w h => by cases h; exact raw_packR fun w hr hc => by subst hr hc; rfl
theorem fmin (f : LaneR) : Statement (.fmin f) := fun w h => by cases h; exact raw_packR fun w hr hc => by subst hr; exact congrArg (sel4 · _ _ _ _) hc
theorem fmax (f : LaneR) : Statement (.fmax f) := fun w h => by cases h; exact raw_packR fun w hr hc => by subst hr; exact congrArg (sel4 · _ _ _ _) hc
theorem fminn (f : LaneR) : Statement (.fminn f) := fun w h => by cases h; exact raw_packR fun w hr hc => by subst hr; exact congrArg (sel4 · _ _ _ _) hc
theorem fmaxn (f : LaneR) : Statement (.fmaxn f) := fun w h => by cases h; exact raw_packR fun w hr hc => by subst hr; exact congrArg (sel4 · _ _ _ _) hc
theorem fcmpEq (f : LaneR) : Statement (.fcmpEq f) := fun w h => by cases h; exact raw_packR fun w hr hc => by subst hr; exact congrArg (sel4 · _ _ _ _) hc
theorem fcmpLt (f : LaneR) : Statement (.fcmpLt f) := fun w h => by cases h; exact raw_packR fun w hr hc => by subst hr; exact congrArg (sel4 · _ _ _ _) hc
theorem fcmpLe (f : LaneR) : Statement (.fcmpLe f) := fun w h => by cases h; exact raw_packR fun w hr hc => by subst hr; exact congrArg (sel4 · _ _ _ _) hc
theorem fcmpUn (f : LaneR) : Statement (.fcmpUn f) := fun w h => by cases h; exact raw_packR fun w hr hc => by subst hr; exact congrArg (sel4 · _ _ _ _) hc
theorem fabs (f : LaneR) : Statement (.fabs f) := fun w h => by cases h; exact raw_packR fun w hr hc => by subst hr; exact congrArg (sel4 · _ _ _ _) hc
theorem fneg (f : LaneR) : Statement (.fneg f) := fun w h => by cases h; exact raw_packR fun w hr hc => by subst hr; exact congrArg (sel4 · _ _ _ _) hc
theorem frint (f : LaneR) : Statement (.frint f) := fun w h => by cases h; exact raw_packR fun w hr hc => by subst hr; exact congrArg (sel4 · _ _ _ _) hc
theorem fclass (f : LaneR) : Statement (.fclass f) := fun w h => by cases h; exact raw_packR fun w hr hc => by subst hr; exact congrArg (sel4 · _ _ _ _) hc
theorem frcp (f : LaneR) : Statement (.frcp f) := fun w h => by cases h; exact raw_packR fun w hr hc => by subst hr; exact congrArg (sel4 · _ _ _ _) hc
theorem frsq (f : LaneR) : Statement (.frsq f) := fun w h => by cases h; exact raw_packR fun w hr hc => by subst hr; exact congrArg (sel4 · _ _ _ _) hc
theorem fex2 (f : LaneR) : Statement (.fex2 f) := fun w h => by cases h; exact raw_packR fun w hr hc => by subst hr; exact congrArg (sel4 · _ _ _ _) hc
theorem flg2 (f : LaneR) : Statement (.flg2 f) := fun w h => by cases h; exact raw_packR fun w hr hc => by subst hr; exact congrArg (sel4 · _ _ _ _) hc
theorem hadd2 (f : LaneR) : Statement (.hadd2 f) := fun w h => by cases h; exact raw_packR fun w hr hc => by subst hr; exact congrArg (sel4 · _ _ _ _) hc
theorem hmul2 (f : LaneR) : Statement (.hmul2 f) := fun w h => by cases h; exact raw_packR fun w hr hc => by subst hr; exact congrArg (sel4 · _ _ _ _) hc
theorem hfma2 (f : LaneR) : Statement (.hfma2 f) := fun w h => by cases h; exact raw_packR fun w hr hc => by subst hr; exact congrArg (sel4 · _ _ _ _) hc
theorem hmax2 (f : LaneR) : Statement (.hmax2 f) := fun w h => by cases h; exact raw_packR fun w hr hc => by subst hr; exact congrArg (sel4 · _ _ _ _) hc
theorem f2bf (f : LaneR) : Statement (.f2bf f) := fun w h => by cases h; exact raw_packR fun w hr hc => by subst hr; exact congrArg (sel4 · _ _ _ _) hc
theorem bf2f (f : LaneR) : Statement (.bf2f f) := fun w h => by cases h; exact raw_packR fun w hr hc => by subst hr; exact congrArg (sel4 · _ _ _ _) hc
theorem f2i (f : LaneR) : Statement (.f2i f) := fun w h => by cases h; exact raw_packR fun w hr hc => by subst hr; exact congrArg (sel4 · _ _ _ _) hc
theorem i2f (f : LaneR) : Statement (.i2f f) := fun w h => by cases h; exact raw_packR fun w hr hc => by subst hr; exact congrArg (sel4 · _ _ _ _) hc
theorem f2iz (f : LaneR) : Statement (.f2iz f) := fun w h => by cases h; exact raw_packR fun w hr hc => by subst hr; exact congrArg (sel4 · _ _ _ _) hc
theorem u2f (f : LaneR) : Statement (.u2f f) := fun w h => by cases h; exact raw_packR fun w hr hc => by subst hr; exact congrArg (sel4 · _ _ _ _) hc
theorem f2uz (f : LaneR) : Statement (.f2uz f) := fun w h => by cases h; exact raw_packR fun w hr hc => by subst hr; exact congrArg (sel4 · _ _ _ _) hc
theorem bscale (f : LaneR) : Statement (.bscale f) := fun w h => by cases h; exact raw_packR fun w hr hc => by subst hr; exact congrArg (sel4 · _ _ _ _) hc
theorem bsq (f : LaneR) : Statement (.bsq f) := fun w h => by cases h; exact raw_packR fun w hr hc => by subst hr; exact congrArg (sel4 · _ _ _ _) hc
theorem bsqe (f : LaneR) : Statement (.bsqe f) := fun w h => by cases h; exact raw_packR fun w hr hc => by subst hr; exact congrArg (sel4 · _ _ _ _) hc
theorem bsdq (f : LaneR) : Statement (.bsdq f) := fun w h => by cases h; exact raw_packR fun w hr hc => by subst hr; exact congrArg (sel4 · _ _ _ _) hc
theorem cbxB8 (f : LaneR) : Statement (.cbxB8 f) := fun w h => by cases h; exact raw_packR fun w hr hc => by subst hr; exact congrArg (sel4 · _ _ _ _) hc
theorem cbxN4 (f : LaneR) : Statement (.cbxN4 f) := fun w h => by cases h; exact raw_packR fun w hr hc => by subst hr; exact congrArg (sel4 · _ _ _ _) hc
theorem xffma (f : LaneR) (k : BitVec 2) : Statement (.xffma f k) := fun w h => by cases h; exact raw_packR fun w hr hc => by subst hr hc; rfl
theorem xfmul (f : LaneR) (k : BitVec 2) : Statement (.xfmul f k) := fun w h => by cases h; exact raw_packR fun w hr hc => by subst hr hc; rfl
theorem mfrag (f : LaneR) : Statement (.mfrag f) := fun w h => by cases h; exact raw_packR fun w hr hc => by subst hr; exact congrArg (sel4 · _ _ _ _) hc
theorem mfraga (f : LaneR) : Statement (.mfraga f) := fun w h => by cases h; exact raw_packR fun w hr hc => by subst hr; exact congrArg (sel4 · _ _ _ _) hc
theorem mfragx (f : LaneR) : Statement (.mfragx f) := fun w h => by cases h; exact raw_packR fun w hr hc => by subst hr; exact congrArg (sel4 · _ _ _ _) hc
theorem rmod (f : LaneR) : Statement (.rmod f) := fun w h => by cases h; exact raw_packR fun w hr hc => by subst hr; exact congrArg (sel4 · _ _ _ _) hc
theorem rrec (f : LaneR) : Statement (.rrec f) := fun w h => by cases h; exact raw_packR fun w hr hc => by subst hr; exact congrArg (sel4 · _ _ _ _) hc
theorem rchk (f : LaneR) : Statement (.rchk f) := fun w h => by cases h; exact raw_packR fun w hr hc => by subst hr; exact congrArg (sel4 · _ _ _ _) hc
theorem rmadC03 (f : LaneR) (c : BitVec 2) : Statement (.rmadC03 f c) := fun w h => by cases h; exact raw_packR fun w hr hc => by subst hr hc; rfl
theorem rmadC45 (f : LaneR) (c : BitVec 1) : Statement (.rmadC45 f c) := fun w h => by
  cases h
  refine raw_packR fun w hr hc => ?_
  subst hr
  exact (if_neg (ne_true_of_eq_false (low_of_f2 hc).1)).trans (by rw [(low_of_f2 hc).2])
theorem ldl (f : LaneR) (sz : BitVec 2) : Statement (.ldl f sz) := fun w h => by cases h; exact raw_packR fun w hr hc => by subst hr hc; rfl
theorem stl (f : LaneR) (sz : BitVec 2) : Statement (.stl f sz) := fun w h => by cases h; exact raw_packR fun w hr hc => by subst hr hc; rfl
theorem ldlv (f : LaneR) (sz : BitVec 2) : Statement (.ldlv f sz) := fun w h => by cases h; exact raw_packR fun w hr hc => by subst hr hc; rfl
theorem stlv (f : LaneR) (sz : BitVec 2) : Statement (.stlv f sz) := fun w h => by cases h; exact raw_packR fun w hr hc => by subst hr hc; rfl
theorem atlAdd (f : LaneR) : Statement (.atlAdd f) := fun w h => by cases h; exact raw_packR fun w hr hc => by subst hr; exact congrArg (sel4 · _ _ _ _) hc
theorem atlMax (f : LaneR) : Statement (.atlMax f) := fun w h => by cases h; exact raw_packR fun w hr hc => by subst hr; exact congrArg (sel4 · _ _ _ _) hc
theorem atlMin (f : LaneR) : Statement (.atlMin f) := fun w h => by cases h; exact raw_packR fun w hr hc => by subst hr; exact congrArg (sel4 · _ _ _ _) hc
theorem atlExch (f : LaneR) : Statement (.atlExch f) := fun w h => by cases h; exact raw_packR fun w hr hc => by subst hr; exact congrArg (sel4 · _ _ _ _) hc
theorem casl (f : LaneR) (z : BitVec 1) : Statement (.casl f z) := fun w h => by
  cases h
  refine raw_packR fun w hr hc => ?_
  subst hr
  exact (if_neg (ne_true_of_eq_false (low_of_f2 hc).1)).trans (by rw [(low_of_f2 hc).2])
theorem ld (f : LaneR) (sz : BitVec 2) : Statement (.ld f sz) := fun w h => by cases h; exact raw_packR fun w hr hc => by subst hr hc; rfl
theorem st (f : LaneR) (sz : BitVec 2) : Statement (.st f sz) := fun w h => by cases h; exact raw_packR fun w hr hc => by subst hr hc; rfl
theorem lda (f : LaneR) (fo : BitVec 2) : Statement (.lda f fo) := fun w h => by cases h; exact raw_packR fun w hr hc => by subst hr hc; rfl
theorem str (f : LaneR) (fo : BitVec 2) : Statement (.str f fo) := fun w h => by cases h; exact raw_packR fun w hr hc => by subst hr hc; rfl
theorem atomAdd (f : LaneR) : Statement (.atomAdd f) := fun w h => by cases h; exact raw_packR fun w hr hc => by subst hr; exact congrArg (sel4 · _ _ _ _) hc
theorem atomMax (f : LaneR) : Statement (.atomMax f) := fun w h => by cases h; exact raw_packR fun w hr hc => by subst hr; exact congrArg (sel4 · _ _ _ _) hc
theorem atomMin (f : LaneR) : Statement (.atomMin f) := fun w h => by cases h; exact raw_packR fun w hr hc => by subst hr; exact congrArg (sel4 · _ _ _ _) hc
theorem atomExch (f : LaneR) : Statement (.atomExch f) := fun w h => by cases h; exact raw_packR fun w hr hc => by subst hr; exact congrArg (sel4 · _ _ _ _) hc
theorem atombAnd (f : LaneR) : Statement (.atombAnd f) := fun w h => by cases h; exact raw_packR fun w hr hc => by subst hr; exact congrArg (sel4 · _ _ _ _) hc
theorem atombOr (f : LaneR) : Statement (.atombOr f) := fun w h => by cases h; exact raw_packR fun w hr hc => by subst hr; exact congrArg (sel4 · _ _ _ _) hc
theorem atombXor (f : LaneR) : Statement (.atombXor f) := fun w h => by cases h; exact raw_packR fun w hr hc => by subst hr; exact congrArg (sel4 · _ _ _ _) hc
theorem atombAddf (f : LaneR) : Statement (.atombAddf f) := fun w h => by cases h; exact raw_packR fun w hr hc => by subst hr; exact congrArg (sel4 · _ _ _ _) hc
theorem casW (f : LaneR) : Statement (.casW f) := fun w h => by cases h; exact raw_packR fun w hr hc => by subst hr; exact congrArg (sel4 · _ _ _ _) hc
theorem casD (f : LaneR) : Statement (.casD f) := fun w h => by cases h; exact raw_packR fun w hr hc => by subst hr; exact congrArg (sel4 · _ _ _ _) hc
theorem casQ (f : LaneR) : Statement (.casQ f) := fun w h => by cases h; exact raw_packR fun w hr hc => by subst hr; exact congrArg (sel4 · _ _ _ _) hc
theorem casQAr (f : LaneR) : Statement (.casQAr f) := fun w h => by cases h; exact raw_packR fun w hr hc => by subst hr; exact congrArg (sel4 · _ _ _ _) hc
theorem unop : Statement (.unop) := fun w h => by cases h; decide
theorem uadd (f : UniR) : Statement (.uadd f) := fun w h => by cases h; exact raw_packU fun w hr hc => by subst hr; exact congrArg (sel8 · _ _ _ _ _ _ _ _) hc
theorem usub (f : UniR) : Statement (.usub f) := fun w h => by cases h; exact raw_packU fun w hr hc => by subst hr; exact congrArg (sel8 · _ _ _ _ _ _ _ _) hc
theorem umul (f : UniR) : Statement (.umul f) := fun w h => by cases h; exact raw_packU fun w hr hc => by subst hr; exact congrArg (sel8 · _ _ _ _ _ _ _ _) hc
theorem umulh (f : UniR) : Statement (.umulh f) := fun w h => by cases h; exact raw_packU fun w hr hc => by subst hr; exact congrArg (sel8 · _ _ _ _ _ _ _ _) hc
theorem umulhu (f : UniR) : Statement (.umulhu f) := fun w h => by cases h; exact raw_packU fun w hr hc => by subst hr; exact congrArg (sel8 · _ _ _ _ _ _ _ _) hc
theorem umin (f : UniR) : Statement (.umin f) := fun w h => by cases h; exact raw_packU fun w hr hc => by subst hr; exact congrArg (sel8 · _ _ _ _ _ _ _ _) hc
theorem umax (f : UniR) : Statement (.umax f) := fun w h => by cases h; exact raw_packU fun w hr hc => by subst hr; exact congrArg (sel8 · _ _ _ _ _ _ _ _) hc
theorem uminu (f : UniR) : Statement (.uminu f) := fun w h => by cases h; exact raw_packU fun w hr hc => by subst hr; exact congrArg (sel8 · _ _ _ _ _ _ _ _) hc
theorem uand (f : UniR) : Statement (.uand f) := fun w h => by cases h; exact raw_packU fun w hr hc => by subst hr; exact congrArg (sel8 · _ _ _ _ _ _ _ _) hc
theorem uor (f : UniR) : Statement (.uor f) := fun w h => by cases h; exact raw_packU fun w hr hc => by subst hr; exact congrArg (sel8 · _ _ _ _ _ _ _ _) hc
theorem uxor (f : UniR) : Statement (.uxor f) := fun w h => by cases h; exact raw_packU fun w hr hc => by subst hr; exact congrArg (sel8 · _ _ _ _ _ _ _ _) hc
theorem uandn (f : UniR) : Statement (.uandn f) := fun w h => by cases h; exact raw_packU fun w hr hc => by subst hr; exact congrArg (sel8 · _ _ _ _ _ _ _ _) hc
theorem ushl (f : UniR) : Statement (.ushl f) := fun w h => by cases h; exact raw_packU fun w hr hc => by subst hr; exact congrArg (sel8 · _ _ _ _ _ _ _ _) hc
theorem ushr (f : UniR) : Statement (.ushr f) := fun w h => by cases h; exact raw_packU fun w hr hc => by subst hr; exact congrArg (sel8 · _ _ _ _ _ _ _ _) hc
theorem usar (f : UniR) : Statement (.usar f) := fun w h => by cases h; exact raw_packU fun w hr hc => by subst hr; exact congrArg (sel8 · _ _ _ _ _ _ _ _) hc
theorem urotl (f : UniR) : Statement (.urotl f) := fun w h => by cases h; exact raw_packU fun w hr hc => by subst hr; exact congrArg (sel8 · _ _ _ _ _ _ _ _) hc
theorem uaddi (f : UniI) : Statement (.uaddi f) := fun w h => by cases h; exact raw_packUI fun w hr => by subst hr; rfl
theorem uli (f : UniI) : Statement (.uli f) := fun w h => by cases h; exact raw_packUI fun w hr => by subst hr; rfl
theorem ulih (f : UniI) : Statement (.ulih f) := fun w h => by cases h; exact raw_packUI fun w hr => by subst hr; rfl
theorem ucmpEq (f : UniR) : Statement (.ucmpEq f) := fun w h => by cases h; exact raw_packU fun w hr hc => by subst hr; exact congrArg (sel8 · _ _ _ _ _ _ _ _) hc
theorem ucmpNe (f : UniR) : Statement (.ucmpNe f) := fun w h => by cases h; exact raw_packU fun w hr hc => by subst hr; exact congrArg (sel8 · _ _ _ _ _ _ _ _) hc
theorem ucmpLt (f : UniR) : Statement (.ucmpLt f) := fun w h => by cases h; exact raw_packU fun w hr hc => by subst hr; exact congrArg (sel8 · _ _ _ _ _ _ _ _) hc
theorem ucmpLe (f : UniR) : Statement (.ucmpLe f) := fun w h => by cases h; exact raw_packU fun w hr hc => by subst hr; exact congrArg (sel8 · _ _ _ _ _ _ _ _) hc
theorem ucmpLtu (f : UniR) : Statement (.ucmpLtu f) := fun w h => by cases h; exact raw_packU fun w hr hc => by subst hr; exact congrArg (sel8 · _ _ _ _ _ _ _ _) hc
theorem ucmpLeu (f : UniR) : Statement (.ucmpLeu f) := fun w h => by cases h; exact raw_packU fun w hr hc => by subst hr; exact congrArg (sel8 · _ _ _ _ _ _ _ _) hc
theorem kand (f : UniR) : Statement (.kand f) := fun w h => by cases h; exact raw_packU fun w hr hc => by subst hr; exact congrArg (sel8 · _ _ _ _ _ _ _ _) hc
theorem kor (f : UniR) : Statement (.kor f) := fun w h => by cases h; exact raw_packU fun w hr hc => by subst hr; exact congrArg (sel8 · _ _ _ _ _ _ _ _) hc
theorem kxor (f : UniR) : Statement (.kxor f) := fun w h => by cases h; exact raw_packU fun w hr hc => by subst hr; exact congrArg (sel8 · _ _ _ _ _ _ _ _) hc
theorem knot (f : UniR) : Statement (.knot f) := fun w h => by cases h; exact raw_packU fun w hr hc => by subst hr; exact congrArg (sel8 · _ _ _ _ _ _ _ _) hc
theorem kany (f : UniR) : Statement (.kany f) := fun w h => by cases h; exact raw_packU fun w hr hc => by subst hr; exact congrArg (sel8 · _ _ _ _ _ _ _ _) hc
theorem kall (f : UniR) : Statement (.kall f) := fun w h => by cases h; exact raw_packU fun w hr hc => by subst hr; exact congrArg (sel8 · _ _ _ _ _ _ _ _) hc
theorem knone (f : UniR) : Statement (.knone f) := fun w h => by cases h; exact raw_packU fun w hr hc => by subst hr; exact congrArg (sel8 · _ _ _ _ _ _ _ _) hc
theorem umov (f : UniR) : Statement (.umov f) := fun w h => by cases h; exact raw_packU fun w hr hc => by subst hr; exact congrArg (sel8 · _ _ _ _ _ _ _ _) hc
theorem ufirst (f : UniR) : Statement (.ufirst f) := fun w h => by cases h; exact raw_packU fun w hr hc => by subst hr; exact congrArg (sel8 · _ _ _ _ _ _ _ _) hc
theorem uactive (f : UniR) : Statement (.uactive f) := fun w h => by cases h; exact raw_packU fun w hr hc => by subst hr; exact congrArg (sel8 · _ _ _ _ _ _ _ _) hc
theorem ucount (f : UniR) : Statement (.ucount f) := fun w h => by cases h; exact raw_packU fun w hr hc => by subst hr; exact congrArg (sel8 · _ _ _ _ _ _ _ _) hc
theorem ulea (f : UniR) (n : BitVec 3) : Statement (.ulea f n) := fun w h => by cases h; exact raw_packU fun w hr hc => by subst hr hc; rfl
theorem usread (f : UniI) : Statement (.usread f) := fun w h => by cases h; exact raw_packUI fun w hr => by subst hr; rfl
theorem uswrite (f : UniI) : Statement (.uswrite f) := fun w h => by cases h; exact raw_packUI fun w hr => by subst hr; rfl
theorem bra (f : UniB) : Statement (.bra f) := fun w h => by cases h; exact raw_packUB fun w hr => by subst hr; rfl
theorem brd (f : UniB) : Statement (.brd f) := fun w h => by cases h; exact raw_packUB fun w hr => by subst hr; rfl
theorem call (f : UniB) : Statement (.call f) := fun w h => by cases h; exact raw_packUB fun w hr => by subst hr; rfl
theorem ret (f : UniR) : Statement (.ret f) := fun w h => by cases h; exact raw_packU fun w hr hc => by subst hr; exact congrArg (sel8 · _ _ _ _ _ _ _ _) hc
theorem brx (f : UniR) : Statement (.brx f) := fun w h => by cases h; exact raw_packU fun w hr hc => by subst hr; exact congrArg (sel8 · _ _ _ _ _ _ _ _) hc
theorem callx (f : UniR) : Statement (.callx f) := fun w h => by cases h; exact raw_packU fun w hr hc => by subst hr; exact congrArg (sel8 · _ _ _ _ _ _ _ _) hc
theorem enrol (f : UniR) : Statement (.enrol f) := fun w h => by cases h; exact raw_packU fun w hr hc => by subst hr; exact congrArg (sel8 · _ _ _ _ _ _ _ _) hc
theorem enrolMask (f : UniR) : Statement (.enrolMask f) := fun w h => by cases h; exact raw_packU fun w hr hc => by subst hr; exact congrArg (sel8 · _ _ _ _ _ _ _ _) hc
theorem rejoin (f : UniR) : Statement (.rejoin f) := fun w h => by cases h; exact raw_packU fun w hr hc => by subst hr; exact congrArg (sel8 · _ _ _ _ _ _ _ _) hc
theorem strike (f : UniR) : Statement (.strike f) := fun w h => by cases h; exact raw_packU fun w hr hc => by subst hr; exact congrArg (sel8 · _ _ _ _ _ _ _ _) hc
theorem loopImm (f : UniL) : Statement (.loopImm f) := fun w h => by cases h; exact raw_packUL fun w hr hc => by subst hr; exact if_pos hc
theorem loopReg (f : UniL) : Statement (.loopReg f) := fun w h => by cases h; exact raw_packUL fun w hr hc => by subst hr; exact if_neg (ne_true_of_eq_false hc)
theorem lbrk (g : BitVec 4) (level : BitVec 2) : Statement (.lbrk g level) := fun w h => by
  cases h
  refine raw_uniform (n := 0x14#6) ?_ ?_ ?_
  · simp (disch := decide) only [isUniformWord, getLsbD_append_high, Nat.reduceSub]; rfl
  · simp (disch := decide) only [opOf, extract_append_low, extract_append_high, extract_all, Nat.reduceSub]
  · refine (if_pos ?_).trans (congrArg some ?_)
    · simp (disch := decide) only [extract_append_low, extract_append_high, extract_all, Nat.reduceSub]; rfl
    · simp (disch := decide) only [uniR, f2Of, extract_append_low, extract_append_high, extract_all, Nat.reduceSub]
theorem bar (f : UniR) : Statement (.bar f) := fun w h => by cases h; exact raw_packU fun w hr hc => by subst hr; exact congrArg (sel8 · _ _ _ _ _ _ _ _) hc
theorem arrive (f : UniR) : Statement (.arrive f) := fun w h => by cases h; exact raw_packU fun w hr hc => by subst hr; exact congrArg (sel8 · _ _ _ _ _ _ _ _) hc
theorem await (f : UniR) : Statement (.await f) := fun w h => by cases h; exact raw_packU fun w hr hc => by subst hr; exact congrArg (sel8 · _ _ _ _ _ _ _ _) hc
theorem arrwait (f : UniR) : Statement (.arrwait f) := fun w h => by cases h; exact raw_packU fun w hr hc => by subst hr; exact congrArg (sel8 · _ _ _ _ _ _ _ _) hc
theorem sstep (f : UniR) : Statement (.sstep f) := fun w h => by cases h; exact raw_packU fun w hr hc => by subst hr; exact congrArg (sel8 · _ _ _ _ _ _ _ _) hc
theorem sstepPod (f : UniR) : Statement (.sstepPod f) := fun w h => by cases h; exact raw_packU fun w hr hc => by subst hr; exact congrArg (sel8 · _ _ _ _ _ _ _ _) hc
theorem napUntil (f : UniR) : Statement (.napUntil f) := fun w h => by cases h; exact raw_packU fun w hr hc => by subst hr; exact congrArg (sel8 · _ _ _ _ _ _ _ _) hc
theorem napWake (f : UniR) : Statement (.napWake f) := fun w h => by cases h; exact raw_packU fun w hr hc => by subst hr; exact congrArg (sel8 · _ _ _ _ _ _ _ _) hc
theorem napCyc (f : UniR) : Statement (.napCyc f) := fun w h => by cases h; exact raw_packU fun w hr hc => by subst hr; exact congrArg (sel8 · _ _ _ _ _ _ _ _) hc
theorem wake (f : UniR) : Statement (.wake f) := fun w h => by cases h; exact raw_packU fun w hr hc => by subst hr; exact congrArg (sel8 · _ _ _ _ _ _ _ _) hc
theorem spawn (f : UniR) : Statement (.spawn f) := fun w h => by cases h; exact raw_packU fun w hr hc => by subst hr; exact congrArg (sel8 · _ _ _ _ _ _ _ _) hc
theorem spawnf (f : UniR) : Statement (.spawnf f) := fun w h => by cases h; exact raw_packU fun w hr hc => by subst hr; exact congrArg (sel8 · _ _ _ _ _ _ _ _) hc
theorem freeze (f : UniR) : Statement (.freeze f) := fun w h => by cases h; exact raw_packU fun w hr hc => by subst hr; exact congrArg (sel8 · _ _ _ _ _ _ _ _) hc
theorem freezen (f : UniR) : Statement (.freezen f) := fun w h => by cases h; exact raw_packU fun w hr hc => by subst hr; exact congrArg (sel8 · _ _ _ _ _ _ _ _) hc
theorem nest (f : UniR) : Statement (.nest f) := fun w h => by cases h; exact raw_packU fun w hr hc => by subst hr; exact congrArg (sel8 · _ _ _ _ _ _ _ _) hc
theorem endU (f : UniR) : Statement (.endU f) := fun w h => by cases h; exact raw_packU fun w hr hc => by subst hr; exact congrArg (sel8 · _ _ _ _ _ _ _ _) hc
theorem endl (f : UniR) : Statement (.endl f) := fun w h => by cases h; exact raw_packU fun w hr hc => by subst hr; exact congrArg (sel8 · _ _ _ _ _ _ _ _) hc
theorem endlRemoteStop (gid : Nat) (lane : Nat) : Statement (.endlRemoteStop gid lane) := nofun
theorem launch (f : UniR) : Statement (.launch f) := fun w h => by cases h; exact raw_packU fun w hr hc => by subst hr; exact congrArg (sel8 · _ _ _ _ _ _ _ _) hc
theorem launchTry (f : UniR) : Statement (.launchTry f) := fun w h => by cases h; exact raw_packU fun w hr hc => by subst hr; exact congrArg (sel8 · _ _ _ _ _ _ _ _) hc
theorem lwait (f : UniR) : Statement (.lwait f) := fun w h => by cases h; exact raw_packU fun w hr hc => by subst hr; exact congrArg (sel8 · _ _ _ _ _ _ _ _) hc
theorem lwaitPoll (f : UniR) : Statement (.lwaitPoll f) := fun w h => by cases h; exact raw_packU fun w hr hc => by subst hr; exact congrArg (sel8 · _ _ _ _ _ _ _ _) hc
theorem yield (f : UniR) : Statement (.yield f) := fun w h => by cases h; exact raw_packU fun w hr hc => by subst hr; exact congrArg (sel8 · _ _ _ _ _ _ _ _) hc
theorem curf (f : UniR) : Statement (.curf f) := fun w h => by cases h; exact raw_packU fun w hr hc => by subst hr; exact congrArg (sel8 · _ _ _ _ _ _ _ _) hc
theorem statid (f : UniR) : Statement (.statid f) := fun w h => by cases h; exact raw_packU fun w hr hc => by subst hr; exact congrArg (sel8 · _ _ _ _ _ _ _ _) hc
theorem tile (f : UniR) : Statement (.tile f) := fun w h => by cases h; exact raw_packU fun w hr hc => by subst hr; exact congrArg (sel8 · _ _ _ _ _ _ _ _) hc
theorem tileL (f : UniR) : Statement (.tileL f) := fun w h => by cases h; exact raw_packU fun w hr hc => by subst hr; exact congrArg (sel8 · _ _ _ _ _ _ _ _) hc
theorem twait (f : UniR) : Statement (.twait f) := fun w h => by cases h; exact raw_packU fun w hr hc => by subst hr; exact congrArg (sel8 · _ _ _ _ _ _ _ _) hc
theorem twaitPoll (f : UniR) : Statement (.twaitPoll f) := fun w h => by cases h; exact raw_packU fun w hr hc => by subst hr; exact congrArg (sel8 · _ _ _ _ _ _ _ _) hc
theorem tdrainFp32 (f : UniR) : Statement (.tdrainFp32 f) := fun w h => by cases h; exact raw_packU fun w hr hc => by subst hr; exact congrArg (sel8 · _ _ _ _ _ _ _ _) hc
theorem tdrainBf16 (f : UniR) : Statement (.tdrainBf16 f) := fun w h => by cases h; exact raw_packU fun w hr hc => by subst hr; exact congrArg (sel8 · _ _ _ _ _ _ _ _) hc
theorem tdrainAcc (f : UniR) : Statement (.tdrainAcc f) := fun w h => by cases h; exact raw_packU fun w hr hc => by subst hr; exact congrArg (sel8 · _ _ _ _ _ _ _ _) hc
theorem tdrainI64 (f : UniR) : Statement (.tdrainI64 f) := fun w h => by cases h; exact raw_packU fun w hr hc => by subst hr; exact congrArg (sel8 · _ _ _ _ _ _ _ _) hc
theorem tdrainPlanes (f : UniR) : Statement (.tdrainPlanes f) := fun w h => by cases h; exact raw_packU fun w hr hc => by subst hr; exact congrArg (sel8 · _ _ _ _ _ _ _ _) hc
theorem tzero (f : UniR) : Statement (.tzero f) := fun w h => by cases h; exact raw_packU fun w hr hc => by subst hr; exact congrArg (sel8 · _ _ _ _ _ _ _ _) hc
theorem modset (f : UniR) : Statement (.modset f) := fun w h => by cases h; exact raw_packU fun w hr hc => by subst hr; exact congrArg (sel8 · _ _ _ _ _ _ _ _) hc
theorem modsetRead (f : UniR) : Statement (.modsetRead f) := fun w h => by cases h; exact raw_packU fun w hr hc => by subst hr; exact congrArg (sel8 · _ _ _ _ _ _ _ _) hc
theorem modsetDefault (f : UniR) : Statement (.modsetDefault f) := fun w h => by cases h; exact raw_packU fun w hr hc => by subst hr; exact congrArg (sel8 · _ _ _ _ _ _ _ _) hc
theorem ctnrd (f : UniR) : Statement (.ctnrd f) := fun w h => by cases h; exact raw_packU fun w hr hc => by subst hr; exact congrArg (sel8 · _ _ _ _ _ _ _ _) hc
theorem ctnrdInject (f : UniR) : Statement (.ctnrdInject f) := fun w h => by cases h; exact raw_packU fun w hr hc => by subst hr; exact congrArg (sel8 · _ _ _ _ _ _ _ _) hc
theorem ctnrdClr (f : UniR) : Statement (.ctnrdClr f) := fun w h => by cases h; exact raw_packU fun w hr hc => by subst hr; exact congrArg (sel8 · _ _ _ _ _ _ _ _) hc
theorem cballoc (f : UniR) : Statement (.cballoc f) := fun w h => by cases h; exact raw_packU fun w hr hc => by subst hr; exact congrArg (sel8 · _ _ _ _ _ _ _ _) hc
theorem cballocFree (f : UniR) : Statement (.cballocFree f) := fun w h => by cases h; exact raw_packU fun w hr hc => by subst hr; exact congrArg (sel8 · _ _ _ _ _ _ _ _) hc
theorem cbfence (f : UniR) : Statement (.cbfence f) := fun w h => by cases h; exact raw_packU fun w hr hc => by subst hr; exact congrArg (sel8 · _ _ _ _ _ _ _ _) hc
theorem cbld (f : UniR) (k : BitVec 2) : Statement (.cbld f k) := fun w h => by
  cases h
  refine raw_packU fun w hr hc => ?_
  subst hr
  exact (if_neg (ne_true_of_eq_false (low_of_f3 hc).1)).trans (by rw [(low_of_f3 hc).2])
theorem cbw (g : BitVec 4) (d : BitVec 6) (bank : BitVec 3) (e : BitVec 8) (h : BitVec 1) : Statement (.cbw g d bank e h) := fun w h => by
  cases h
  refine raw_uniform (n := 0x2A#6) ?_ ?_ ?_
  · simp (disch := decide) only [isUniformWord, getLsbD_append_high, Nat.reduceSub]; rfl
  · simp (disch := decide) only [opOf, extract_append_low, extract_append_high, extract_all, Nat.reduceSub]
  · refine (if_pos ?_).trans (congrArg some ?_)
    · simp (disch := decide) only [extract_append_low, extract_append_high, extract_all, Nat.reduceSub]; rfl
    · simp (disch := decide) only [uniR, extract_append_low, extract_append_high, extract_all, Nat.reduceSub]
theorem cbr (g : BitVec 4) (d : BitVec 6) (e : BitVec 8) (h : BitVec 1) (bank : BitVec 3) : Statement (.cbr g d e h bank) := fun w h => by
  cases h
  refine raw_uniform (n := 0x2B#6) ?_ ?_ ?_
  · simp (disch := decide) only [isUniformWord, getLsbD_append_high, Nat.reduceSub]; rfl
  · simp (disch := decide) only [opOf, extract_append_low, extract_append_high, extract_all, Nat.reduceSub]
  · refine (if_pos ?_).trans (congrArg some ?_)
    · simp (disch := decide) only [extract_append_low, extract_append_high, extract_all, Nat.reduceSub]; rfl
    · simp (disch := decide) only [uniR, f3Of, extract_append_low, extract_append_high, extract_all, Nat.reduceSub]
theorem pin (f : UniR) : Statement (.pin f) := fun w h => by cases h; exact raw_packU fun w hr hc => by subst hr; exact congrArg (sel8 · _ _ _ _ _ _ _ _) hc
theorem unpin (f : UniR) : Statement (.unpin f) := fun w h => by cases h; exact raw_packU fun w hr hc => by subst hr; exact congrArg (sel8 · _ _ _ _ _ _ _ _) hc
theorem stash (f : UniR) : Statement (.stash f) := fun w h => by cases h; exact raw_packU fun w hr hc => by subst hr; exact congrArg (sel8 · _ _ _ _ _ _ _ _) hc
theorem stashWb (f : UniR) : Statement (.stashWb f) := fun w h => by cases h; exact raw_packU fun w hr hc => by subst hr; exact congrArg (sel8 · _ _ _ _ _ _ _ _) hc
theorem stashUnmap (f : UniR) : Statement (.stashUnmap f) := fun w h => by cases h; exact raw_packU fun w hr hc => by subst hr; exact congrArg (sel8 · _ _ _ _ _ _ _ _) hc
theorem stashDiscard (f : UniR) : Statement (.stashDiscard f) := fun w h => by cases h; exact raw_packU fun w hr hc => by subst hr; exact congrArg (sel8 · _ _ _ _ _ _ _ _) hc
theorem colinfo (f : UniR) : Statement (.colinfo f) := fun w h => by cases h; exact raw_packU fun w hr hc => by subst hr; exact congrArg (sel8 · _ _ _ _ _ _ _ _) hc
theorem fenceT (f : UniR) : Statement (.fenceT f) := fun w h => by cases h; exact raw_packU fun w hr hc => by subst hr; exact congrArg (sel8 · _ _ _ _ _ _ _ _) hc
theorem fenceD (f : UniR) : Statement (.fenceD f) := fun w h => by cases h; exact raw_packU fun w hr hc => by subst hr; exact congrArg (sel8 · _ _ _ _ _ _ _ _) hc
theorem fenceP (f : UniR) : Statement (.fenceP f) := fun w h => by cases h; exact raw_packU fun w hr hc => by subst hr; exact congrArg (sel8 · _ _ _ _ _ _ _ _) hc
theorem fenceSc (f : UniR) : Statement (.fenceSc f) := fun w h => by cases h; exact raw_packU fun w hr hc => by subst hr; exact congrArg (sel8 · _ _ _ _ _ _ _ _) hc
theorem fenceAcq (f : UniR) : Statement (.fenceAcq f) := fun w h => by cases h; exact raw_packU fun w hr hc => by subst hr; exact congrArg (sel8 · _ _ _ _ _ _ _ _) hc
theorem fenceEng (f : UniR) : Statement (.fenceEng f) := fun w h => by cases h; exact raw_packU fun w hr hc => by subst hr; exact congrArg (sel8 · _ _ _ _ _ _ _ _) hc
theorem pref2 (f : UniR) : Statement (.pref2 f) := fun w h => by cases h; exact raw_packU fun w hr hc => by subst hr; exact congrArg (sel8 · _ _ _ _ _ _ _ _) hc
theorem pref1 (f : UniR) : Statement (.pref1 f) := fun w h => by cases h; exact raw_packU fun w hr hc => by subst hr; exact congrArg (sel8 · _ _ _ _ _ _ _ _) hc
theorem evict1 (f : UniR) : Statement (.evict1 f) := fun w h => by cases h; exact raw_packU fun w hr hc => by subst hr; exact congrArg (sel8 · _ _ _ _ _ _ _ _) hc
theorem wbl2 (f : UniR) : Statement (.wbl2 f) := fun w h => by cases h; exact raw_packU fun w hr hc => by subst hr; exact congrArg (sel8 · _ _ _ _ _ _ _ _) hc
theorem plq (f : UniR) : Statement (.plq f) := fun w h => by cases h; exact raw_packU fun w hr hc => by subst hr; exact congrArg (sel8 · _ _ _ _ _ _ _ _) hc
theorem plinv (f : UniR) : Statement (.plinv f) := fun w h => by cases h; exact raw_packU fun w hr hc => by subst hr; exact congrArg (sel8 · _ _ _ _ _ _ _ _) hc
theorem tlbi (f : UniR) : Statement (.tlbi f) := fun w h => by cases h; exact raw_packU fun w hr hc => by subst hr; exact congrArg (sel8 · _ _ _ _ _ _ _ _) hc
theorem tlbiVa (f : UniR) : Statement (.tlbiVa f) := fun w h => by cases h; exact raw_packU fun w hr hc => by subst hr; exact congrArg (sel8 · _ _ _ _ _ _ _ _) hc
theorem tlbiAll (f : UniR) : Statement (.tlbiAll f) := fun w h => by cases h; exact raw_packU fun w hr hc => by subst hr; exact congrArg (sel8 · _ _ _ _ _ _ _ _) hc
theorem copyPlain (f : UniR) : Statement (.copyPlain f) := fun w h => by cases h; exact raw_packU fun w hr hc => by subst hr; exact congrArg (sel8 · _ _ _ _ _ _ _ _) hc
theorem copySb12 (f : UniR) : Statement (.copySb12 f) := fun w h => by cases h; exact raw_packU fun w hr hc => by subst hr; exact congrArg (sel8 · _ _ _ _ _ _ _ _) hc
theorem copyRp16 (f : UniR) : Statement (.copyRp16 f) := fun w h => by cases h; exact raw_packU fun w hr hc => by subst hr; exact congrArg (sel8 · _ _ _ _ _ _ _ _) hc
theorem copyBf16 (f : UniR) : Statement (.copyBf16 f) := fun w h => by cases h; exact raw_packU fun w hr hc => by subst hr; exact congrArg (sel8 · _ _ _ _ _ _ _ _) hc
theorem copyGather (f : UniR) : Statement (.copyGather f) := fun w h => by cases h; exact raw_packU fun w hr hc => by subst hr; exact congrArg (sel8 · _ _ _ _ _ _ _ _) hc
theorem copyDrain (f : UniR) : Statement (.copyDrain f) := fun w h => by cases h; exact raw_packU fun w hr hc => by subst hr; exact congrArg (sel8 · _ _ _ _ _ _ _ _) hc
theorem cwait (f : UniR) : Statement (.cwait f) := fun w h => by cases h; exact raw_packU fun w hr hc => by subst hr; exact congrArg (sel8 · _ _ _ _ _ _ _ _) hc
theorem cwaitPoll (f : UniR) : Statement (.cwaitPoll f) := fun w h => by cases h; exact raw_packU fun w hr hc => by subst hr; exact congrArg (sel8 · _ _ _ _ _ _ _ _) hc
theorem cwaitCancel (f : UniR) : Statement (.cwaitCancel f) := fun w h => by cases h; exact raw_packU fun w hr hc => by subst hr; exact congrArg (sel8 · _ _ _ _ _ _ _ _) hc
theorem sluiceExcl (f : UniR) : Statement (.sluiceExcl f) := fun w h => by cases h; exact raw_packU fun w hr hc => by subst hr; exact congrArg (sel8 · _ _ _ _ _ _ _ _) hc
theorem sluiceWrite (f : UniR) : Statement (.sluiceWrite f) := fun w h => by cases h; exact raw_packU fun w hr hc => by subst hr; exact congrArg (sel8 · _ _ _ _ _ _ _ _) hc
theorem sluiceSnap (f : UniR) : Statement (.sluiceSnap f) := fun w h => by cases h; exact raw_packU fun w hr hc => by subst hr; exact congrArg (sel8 · _ _ _ _ _ _ _ _) hc
theorem sluiceUnlock (f : UniR) : Statement (.sluiceUnlock f) := fun w h => by cases h; exact raw_packU fun w hr hc => by subst hr; exact congrArg (sel8 · _ _ _ _ _ _ _ _) hc
theorem brine (f : UniR) : Statement (.brine f) := fun w h => by cases h; exact raw_packU fun w hr hc => by subst hr; exact congrArg (sel8 · _ _ _ _ _ _ _ _) hc
theorem bwait (f : UniR) : Statement (.bwait f) := fun w h => by cases h; exact raw_packU fun w hr hc => by subst hr; exact congrArg (sel8 · _ _ _ _ _ _ _ _) hc
theorem bwaitPoll (f : UniR) : Statement (.bwaitPoll f) := fun w h => by cases h; exact raw_packU fun w hr hc => by subst hr; exact congrArg (sel8 · _ _ _ _ _ _ _ _) hc
theorem btbl (f : UniR) : Statement (.btbl f) := fun w h => by cases h; exact raw_packU fun w hr hc => by subst hr; exact congrArg (sel8 · _ _ _ _ _ _ _ _) hc
theorem putX (f : UniR) : Statement (.putX f) := fun w h => by cases h; exact raw_packU fun w hr hc => by subst hr; exact congrArg (sel8 · _ _ _ _ _ _ _ _) hc
theorem getX (f : UniR) : Statement (.getX f) := fun w h => by cases h; exact raw_packU fun w hr hc => by subst hr; exact congrArg (sel8 · _ _ _ _ _ _ _ _) hc
theorem putc (f : UniR) : Statement (.putc f) := fun w h => by cases h; exact raw_packU fun w hr hc => by subst hr; exact congrArg (sel8 · _ _ _ _ _ _ _ _) hc
theorem atomr (f : UniR) : Statement (.atomr f) := fun w h => by cases h; exact raw_packU fun w hr hc => by subst hr; exact congrArg (sel8 · _ _ _ _ _ _ _ _) hc
theorem tsend (f : UniR) : Statement (.tsend f) := fun w h => by cases h; exact raw_packU fun w hr hc => by subst hr; exact congrArg (sel8 · _ _ _ _ _ _ _ _) hc
theorem tsendCancel (f : UniR) : Statement (.tsendCancel f) := fun w h => by cases h; exact raw_packU fun w hr hc => by subst hr; exact congrArg (sel8 · _ _ _ _ _ _ _ _) hc
theorem ctrrd (f : UniR) : Statement (.ctrrd f) := fun w h => by cases h; exact raw_packU fun w hr hc => by subst hr; exact congrArg (sel8 · _ _ _ _ _ _ _ _) hc
theorem ctrset (f : UniR) : Statement (.ctrset f) := fun w h => by cases h; exact raw_packU fun w hr hc => by subst hr; exact congrArg (sel8 · _ _ _ _ _ _ _ _) hc
theorem ctrwait (f : UniR) : Statement (.ctrwait f) := fun w h => by cases h; exact raw_packU fun w hr hc => by subst hr; exact congrArg (sel8 · _ _ _ _ _ _ _ _) hc
theorem ctradd (f : UniR) : Statement (.ctradd f) := fun w h => by cases h; exact raw_packU fun w hr hc => by subst hr; exact congrArg (sel8 · _ _ _ _ _ _ _ _) hc
theorem coll (f : UniR) : Statement (.coll f) := fun w h => by cases h; exact raw_packU fun w hr hc => by subst hr; exact congrArg (sel8 · _ _ _ _ _ _ _ _) hc
theorem collWait (f : UniR) : Statement (.collWait f) := fun w h => by cases h; exact raw_packU fun w hr hc => by subst hr; exact congrArg (sel8 · _ _ _ _ _ _ _ _) hc
theorem collPoll (f : UniR) : Statement (.collPoll f) := fun w h => by cases h; exact raw_packU fun w hr hc => by subst hr; exact congrArg (sel8 · _ _ _ _ _ _ _ _) hc
theorem collAbort (f : UniR) : Statement (.collAbort f) := fun w h => by cases h; exact raw_packU fun w hr hc => by subst hr; exact congrArg (sel8 · _ _ _ _ _ _ _ _) hc
theorem trapI (f : UniR) : Statement (.trapI f) := fun w h => by cases h; exact raw_packU fun w hr hc => by subst hr; exact congrArg (sel8 · _ _ _ _ _ _ _ _) hc
theorem tresume (f : UniR) : Statement (.tresume f) := fun w h => by cases h; exact raw_packU fun w hr hc => by subst hr; exact congrArg (sel8 · _ _ _ _ _ _ _ _) hc
theorem saveBlk (f : UniR) : Statement (.saveBlk f) := fun w h => by cases h; exact raw_packU fun w hr hc => by subst hr; exact congrArg (sel8 · _ _ _ _ _ _ _ _) hc
theorem restoreBlk (f : UniR) : Statement (.restoreBlk f) := fun w h => by cases h; exact raw_packU fun w hr hc => by subst hr; exact congrArg (sel8 · _ _ _ _ _ _ _ _) hc
theorem hostsig (f : UniR) : Statement (.hostsig f) := fun w h => by cases h; exact raw_packU fun w hr hc => by subst hr; exact congrArg (sel8 · _ _ _ _ _ _ _ _) hc
theorem trapBackoffExpiry (gid : Nat) (lane : Nat) : Statement (.trapBackoffExpiry gid lane) := nofun
theorem coalescerClose (rec : Nat) : Statement (.coalescerClose rec) := nofun
theorem trapQueueWrite (rec : Nat) : Statement (.trapQueueWrite rec) := nofun
theorem serviceFaultPost : Statement (.serviceFaultPost) := nofun
theorem hostProgramStart (slot : Nat) (v : DWord) : Statement (.hostProgramStart slot v) := nofun
theorem hostProgramAbort (slot : Nat) (v : DWord) : Statement (.hostProgramAbort slot v) := nofun
theorem serviceTeamStart (v : DWord) : Statement (.serviceTeamStart v) := nofun
theorem registerWrite (off : Nat) (v : DWord) : Statement (.registerWrite off v) := nofun
theorem apertureAccess (a : ApertureReq) : Statement (.apertureAccess a) := nofun
theorem featAcceptWrite (v : DWord) : Statement (.featAcceptWrite v) := nofun
theorem curfewWinWrite (v : DWord) : Statement (.curfewWinWrite v) := nofun
theorem leaseL1Write (v : DWord) : Statement (.leaseL1Write v) := nofun
theorem pwrCapWrite (v : DWord) : Statement (.pwrCapWrite v) := nofun
theorem zoneReqWrite (v : DWord) : Statement (.zoneReqWrite v) := nofun
theorem tqBaseWrite (v : DWord) : Statement (.tqBaseWrite v) := nofun
theorem hsigTailWrite (v : DWord) : Statement (.hsigTailWrite v) := nofun
theorem errSumCtlWrite (v : DWord) : Statement (.errSumCtlWrite v) := nofun
theorem merCtlWrite (v : DWord) : Statement (.merCtlWrite v) := nofun
theorem attCtlStart (v : DWord) : Statement (.attCtlStart v) := nofun
theorem attestationComplete : Statement (.attestationComplete) := nofun
theorem fwUpdStart (v : DWord) : Statement (.fwUpdStart v) := nofun
theorem fwUpdateComplete : Statement (.fwUpdateComplete) := nofun
theorem warmReset : Statement (.warmReset) := nofun
theorem powerUp (b : BootFacts) : Statement (.powerUp b) := nofun
theorem powerLoss : Statement (.powerLoss) := nofun
theorem thermalTrip : Statement (.thermalTrip) := nofun
theorem clockThrottle (cycles : Nat) : Statement (.clockThrottle cycles) := nofun
theorem meridianLock (ns : Nat) : Statement (.meridianLock ns) := nofun
theorem meridianLockLoss : Statement (.meridianLockLoss) := nofun
theorem queuePairSetup (pod : Nat) : Statement (.queuePairSetup pod) := nofun
theorem inboundFabricRequest (r : InboundReq) : Statement (.inboundFabricRequest r) := nofun
theorem redContribution (store : Nat) : Statement (.redContribution store) := nofun
theorem replicaStore (store : Nat) : Statement (.replicaStore store) := nofun
theorem schedulerPass : Statement (.schedulerPass) := nofun
theorem curfewWindowClose (team : Nat) : Statement (.curfewWindowClose team) := nofun
theorem teamSave (team : Nat) : Statement (.teamSave team) := nofun
theorem launchLate (entry : Nat) : Statement (.launchLate entry) := nofun
theorem launchCompletion (entry : Nat) : Statement (.launchCompletion entry) := nofun
theorem binTimerExpiry (core : Nat) (bin : Nat) : Statement (.binTimerExpiry core bin) := nofun
theorem binGroupFormation (core : Nat) (bin : Nat) : Statement (.binGroupFormation core bin) := nofun
theorem parkedRowRetry (gid : Nat) (lane : Nat) : Statement (.parkedRowRetry gid lane) := nofun
theorem brdSlotTimeout (gid : Nat) (lane : Nat) : Statement (.brdSlotTimeout gid lane) := nofun
theorem napUntilExpiry (gid : Nat) (lane : Nat) : Statement (.napUntilExpiry gid lane) := nofun
theorem napCycleExpiry (gid : Nat) (lane : Nat) : Statement (.napCycleExpiry gid lane) := nofun
theorem storeAtL2 (store : Nat) : Statement (.storeAtL2 store) := nofun
theorem storeApplication (store : Nat) : Statement (.storeApplication store) := nofun
theorem storeTimeReturn (store : Nat) : Statement (.storeTimeReturn store) := nofun
theorem storeFailureReturn (store : Nat) : Statement (.storeFailureReturn store) := nofun
theorem pageTableWalk (core : Nat) (asid : Nat) (va : DWord) : Statement (.pageTableWalk core asid va) := nofun
theorem lineFill (core : Nat) (asid : Nat) (va : DWord) : Statement (.lineFill core asid va) := nofun
theorem leaseExpiry (core : Nat) (asid : Nat) (va : DWord) : Statement (.leaseExpiry core asid va) := nofun
theorem zoneCompression : Statement (.zoneCompression) := nofun
theorem cbldComplete (core : Nat) (bank : Nat) : Statement (.cbldComplete core bank) := nofun
theorem tileOperationStart (core : Nat) : Statement (.tileOperationStart core) := nofun
theorem tileOperationComplete (core : Nat) : Statement (.tileOperationComplete core) := nofun
theorem tzeroRun (core : Nat) : Statement (.tzeroRun core) := nofun
theorem ctnInjectionRun (core : Nat) : Statement (.ctnInjectionRun core) := nofun
theorem drainRun (core : Nat) : Statement (.drainRun core) := nofun
theorem drainComplete (core : Nat) : Statement (.drainComplete core) := nofun
theorem fragmentComplete (gid : Nat) : Statement (.fragmentComplete gid) := nofun
theorem copyOperationStart (engine : Nat) : Statement (.copyOperationStart engine) := nofun
theorem copyOperationComplete (engine : Nat) : Statement (.copyOperationComplete engine) := nofun
theorem brineJobStart (brineLane : Nat) : Statement (.brineJobStart brineLane) := nofun
theorem brineJobComplete (brineLane : Nat) : Statement (.brineJobComplete brineLane) := nofun
theorem transferComplete (entry : Nat) (r : FabricResp) : Statement (.transferComplete entry r) := nofun
theorem triggeredTransferStart (slot : Nat) : Statement (.triggeredTransferStart slot) := nofun
theorem collectiveMeet (entry : Nat) (r : MeetResp) : Statement (.collectiveMeet entry r) := nofun
theorem collectiveChunkReduce (entry : Nat) (chunk : Nat) (r : ChunkResp) : Statement (.collectiveChunkReduce entry chunk r) := nofun
theorem collectiveComplete (entry : Nat) : Statement (.collectiveComplete entry) := nofun
theorem participantUnreachable (entry : Nat) : Statement (.participantUnreachable entry) := nofun
theorem superstepComplete (entry : Nat) (others : Nat) (first : Nat) : Statement (.superstepComplete entry others first) := nofun
theorem fabricPortDown (port : Nat) : Statement (.fabricPortDown port) := nofun
theorem fabricPortUp (port : Nat) : Statement (.fabricPortUp port) := nofun
theorem peerStorePerform (store : Nat) : Statement (.peerStorePerform store) := nofun

end Coding

end Sys2Proof.Laws
end

