-- ==== Sys2Proof/Laws/Placing.lean ====
section
/-! SUPPORT. The choice of a core (R114). -/

namespace Sys2Proof.Machine

theorem foldl_isSome {f : Option Nat → Nat → Option Nat} (h : ∀ b c, (f b c).isSome = true) :
    ∀ (l : List Nat) (b : Option Nat), b.isSome = true ∨ l ≠ [] → (l.foldl f b).isSome = true
  | [], b, hb => by simpa using hb
  | c :: l, b, _ => foldl_isSome h l (f b c) (Or.inl (h b c))

/-- Where a compute core has room, a core is chosen. -/
theorem chooseCore_isSome {s : State} {seq : Nat} {n : Need} {core : Nat} (hc : core < Config.computeCores) (hf : fits s seq n core = true) :
    (chooseCore s seq n).isSome = true := by
  unfold chooseCore
  refine foldl_isSome (fun b c => ?_) _ _ (Or.inr ?_)
  · cases b with
    | none => rfl
    | some a => show (if _ then some c else some a).isSome = true; split <;> rfl
  · exact List.ne_nil_of_mem (List.mem_filter.2 ⟨List.mem_range.2 hc, hf⟩)

end Sys2Proof.Machine
end

