-- ==== Sys2Proof/Laws/Reads.lean ====
section
/-! SUPPORT. Reads at the home of lines that L2 holds, through translations that the controllers hold: they change nothing. -/

namespace Sys2Proof.Machine

variable {s : State} {asid va n : Nat}

/-- A translation that a controller holds is used as it is. -/
theorem translate_held {e : Tlb} (hv : va < Config.maxVa) (he : e ∈ s.tlb) (hs : e.serves asid va = true) :
    ∃ e ∈ s.tlb, translate s asid va = (s, .ok e) := by
  unfold translate
  rw [if_neg (by omega)]
  cases hf : s.tlb.find? fun e => e.serves asid va with
  | none => exact absurd hs (List.find?_eq_none.1 hf e he)
  | some x => exact ⟨x, List.mem_of_find?_eq_some hf, rfl⟩

/-- A sound line at its home on this device, which L2 holds and whose readable page a controller holds. -/
structure HeldLine (s : State) (asid va : Nat) (x : L2Line) : Prop where
  inSpace : va < Config.maxVa
  served : ∃ e ∈ s.tlb, e.serves asid va = true
  pages : ∀ e ∈ s.tlb, e.r = true ∧ e.red = false ∧ e.uc = false
  reaches : s.podFaults = []
  locked : s.regs.merLocked = true
  found : s.l2? asid (va / lineBytes) = some x
  own : x.owner = none
  sound : lineBad s x = none
  exact_ : s.softErrs = []

theorem HeldLine.reach {x : L2Line} (h : HeldLine s asid va x) : ∃ e ∈ s.tlb, Machine.reach s asid va = (s, .ok e) := by
  obtain ⟨e, he, hs⟩ := h.served
  obtain ⟨y, hy, ht⟩ := translate_held h.inSpace he hs
  exact ⟨y, hy, by unfold Machine.reach; simp [ht, h.reaches]⟩

theorem HeldLine.homeRead {x : L2Line} (h : HeldLine s asid va x) :
    Machine.homeRead s asid va n = (s, .ok (slice x.data (va % lineBytes) n)) := by
  obtain ⟨e, he, hr⟩ := h.reach
  unfold Machine.homeRead lineBytesAt Machine.homeLine countSoft
  simp [hr, (h.pages e he).2.2, h.found, h.own, h.sound, h.exact_]

theorem HeldLine.engHome {x : L2Line} (h : HeldLine s asid va x) : Machine.engHome s asid va n = (s, .ok (slice x.data (va % lineBytes) n)) := by
  unfold Machine.engHome
  simp [h.locked, h.homeRead]

/-- An operation's read of such a line. -/
theorem HeldLine.engPiece {x : L2Line} {t : Option Team} (h : HeldLine s asid va x)
    (ht : (t.bind fun t => t.cow.find? fun y => y.va == va / lineBytes * lineBytes) = none) :
    Machine.engPiece s t asid va n = (s, .ok (slice x.data (va % lineBytes) n)) := by
  obtain ⟨e, he, hr⟩ := h.reach
  unfold Machine.engPiece engPage
  simp [ht, hr, (h.pages e he).1, (h.pages e he).2.1, h.engHome]

/-- Pieces whose reads change nothing. -/
theorem readPieces_held {rd : State → Nat → Nat → State × Except (Nat × Nat) (List Byte)} {f : Nat × Nat → List Byte} :
    ∀ ps : List (Nat × Nat), (∀ p ∈ ps, rd s p.1 p.2 = (s, .ok (f p))) → readPieces rd ps s = (s, .ok (ps.flatMap f))
  | [], _ => rfl
  | (a, k) :: ps, h => by
    have h0 := h (a, k) (List.mem_cons_self ..)
    have ih := readPieces_held ps fun p hp => h p (List.mem_cons_of_mem _ hp)
    simp only at h0
    simp [readPieces, h0, ih]

/-- The bytes that a read at the home finds in L2. -/
def heldBytes (s : State) (asid va n : Nat) : List Byte :=
  (pieces va n).flatMap fun p => slice (((s.l2? asid (p.1 / lineBytes)).map L2Line.data).getD []) (p.1 % lineBytes) p.2

/-- A read over held lines gives their bytes. -/
theorem engRead_held {t : Option Team} (ht : ∀ x, t = some x → x.cow = []) (h : ∀ p ∈ pieces va n, ∃ x, HeldLine s asid p.1 x) :
    engRead s t asid va n = (s, .ok (heldBytes s asid va n)) := by
  unfold engRead heldBytes
  refine readPieces_held _ fun p hp => ?_
  obtain ⟨x, hx⟩ := h p hp
  rw [hx.engPiece]
  · rw [hx.found]; rfl
  · cases t with
    | none => rfl
    | some t => simp [ht t rfl]

/-- So does the read of an image record (R69, R73). -/
theorem readImage_held {r : ImageRef} {off : Nat} (h : ∀ p ∈ pieces (r.addr + off) n, ∃ x, HeldLine s r.asid p.1 x) :
    readImage s r off n = (s, some (heldBytes s r.asid (r.addr + off) n)) := by
  unfold readImage
  rw [engRead_held (by simp) h]

end Sys2Proof.Machine
end

