-- ==== Sys2Proof/Laws/Uniform.lean ====
section
/-! SUPPORT. Every uniform instruction with a guard is the shared mould under the gate that `uniformGate` names. -/

namespace Sys2Proof.Machine

theorem exec_uniform (s : State) (i : Instr) (g : BitVec 4) (G : Gate) (h : uniformGate i = some (g, G)) :
    ∃ k, exec i s = uniform G g s k := by
  cases i <;> first | (cases h; done) | (cases h; exact ⟨_, rfl⟩)

end Sys2Proof.Machine
end

