-- ==== Sys2Proof/Tests/Slice0.lean ====
section
/-! SUPPORT. Tests: words of every encoded row (R39, R42), ill-formed terms, witnesses for the hypotheses of the statements, single
steps. Expected values are worked out by hand from the rules cited. -/

namespace Sys2Proof.Tests

set_option Elab.async false

open Sys2Proof.Machine

/-! ### A word of every row that has an encoding (R23, R26, R39, R42): its match bits, and fields in the places those rules give -/

theorem test_decode_lane_0 : ∀ q ∈ ([
     (0x02617D4C#32, .iadd ⟨3, false, 5, 61, 19⟩),
     (0x02617D4D#32, .iadds ⟨3, false, 5, 61, 19⟩),
     (0x0261863A#32, .iaddd ⟨3, false, 6, 6, 14⟩),
     (0x04617D4C#32, .isub ⟨3, false, 5, 61, 19⟩),
     (0x04617D4D#32, .isubs ⟨3, false, 5, 61, 19⟩),
     (0x0461863A#32, .isubd ⟨3, false, 6, 6, 14⟩),
     (0x06617D4C#32, .imul ⟨3, false, 5, 61, 19⟩),
     (0x06617D4D#32, .imulh ⟨3, false, 5, 61, 19⟩),
     (0x06617D4E#32, .imulhu ⟨3, false, 5, 61, 19⟩),
     (0x0661BD4F#32, .imulw ⟨3, false, 6, 61, 19⟩),
     (0x08617D4C#32, .imad ⟨3, false, 5, 61, 19⟩),
     (0x0861BD4D#32, .imadw ⟨3, false, 6, 61, 19⟩),
     (0x08617D4E#32, .idot4 ⟨3, false, 5, 61, 19⟩),
     (0x0A617D4C#32, .imin ⟨3, false, 5, 61, 19⟩),
     (0x0A617D4D#32, .iminu ⟨3, false, 5, 61, 19⟩),
     (0x0A617D4E#32, .imax ⟨3, false, 5, 61, 19⟩),
     (0x0A617D4F#32, .imaxu ⟨3, false, 5, 61, 19⟩),
     (0x0C617D4C#32, .andL ⟨3, false, 5, 61, 19⟩),
     (0x0C617D4D#32, .orL ⟨3, false, 5, 61, 19⟩),
     (0x0C617D4E#32, .xorL ⟨3, false, 5, 61, 19⟩),
     (0x0C617D4F#32, .andn ⟨3, false, 5, 61, 19⟩),
     (0x0E617D4C#32, .shl ⟨3, false, 5, 61, 19⟩),
     (0x0E617D4D#32, .shr ⟨3, false, 5, 61, 19⟩),
     (0x0E617D4E#32, .sar ⟨3, false, 5, 61, 19⟩)] : List (Word × Instr)), decode q.1 = .ok q.2 := by decide

theorem test_decode_lane_1 : ∀ q ∈ ([
     (0x0E617D4F#32, .rotl ⟨3, false, 5, 61, 19⟩),
     (0x10617D00#32, .popc ⟨3, false, 5, 61, 0⟩),
     (0x10617D01#32, .clz ⟨3, false, 5, 61, 0⟩),
     (0x10617D02#32, .brev ⟨3, false, 5, 61, 0⟩),
     (0x10617D03#32, .iabs ⟨3, false, 5, 61, 0⟩),
     (0x12617D4C#32, .bfx ⟨3, false, 5, 61, 19⟩),
     (0x12617D4D#32, .bfxs ⟨3, false, 5, 61, 19⟩),
     (0x12617D4E#32, .bfi ⟨3, false, 5, 61, 19⟩),
     (0x14647D4C#32, .icmpEq ⟨3, false, 17, 61, 19⟩),
     (0x14647D4D#32, .icmpNe ⟨3, false, 17, 61, 19⟩),
     (0x14647D4E#32, .icmpLt ⟨3, false, 17, 61, 19⟩),
     (0x14647D4F#32, .icmpLe ⟨3, false, 17, 61, 19⟩),
     (0x16647D4C#32, .icmpuLt ⟨3, false, 17, 61, 19⟩),
     (0x16647D4D#32, .icmpuLe ⟨3, false, 17, 61, 19⟩),
     (0x16647D4E#32, .icmpuGt ⟨3, false, 17, 61, 19⟩),
     (0x16647D4F#32, .icmpuGe ⟨3, false, 17, 61, 19⟩),
     (0x18645178#32, .pand ⟨3, false, 17, 17, 30⟩),
     (0x18645179#32, .por ⟨3, false, 17, 17, 30⟩),
     (0x1864517A#32, .pxor ⟨3, false, 17, 17, 30⟩),
     (0x1864517B#32, .pnand ⟨3, false, 17, 17, 30⟩),
     (0x1A614000#32, .pmovr ⟨3, false, 5, 0, 0⟩),
     (0x1A603D01#32, .pmovw ⟨3, false, 0, 61, 0⟩),
     (0x1A647D7E#32, .pbit ⟨3, false, 17, 61, 31⟩),
     (0x1C617D00#32, .mov ⟨3, false, 5, 61, 0⟩)] : List (Word × Instr)), decode q.1 = .ok q.2 := by decide

theorem test_decode_lane_2 : ∀ q ∈ ([
     (0x1C616D05#32, .movs ⟨3, false, 5, 45, 1⟩),
     (0x1C614702#32, .selfIx ⟨3, false, 5, 7, 0⟩),
     (0x1C614003#32, .laneid ⟨3, false, 5, 0, 0⟩),
     (0x1E617DA7#32, .selp ⟨3, false, 5, 61, 0xA7⟩),
     (0x20617DA7#32, .iaddi ⟨3, false, 5, 61, 0xA7⟩),
     (0x226140A7#32, .movi ⟨3, false, 5, 0, 0xA7⟩),
     (0x24617D13#32, .shli ⟨3, false, 5, 61, 19⟩),
     (0x24617D33#32, .shri ⟨3, false, 5, 61, 19⟩),
     (0x24617D53#32, .sari ⟨3, false, 5, 61, 19⟩),
     (0x24617D73#32, .rotli ⟨3, false, 5, 61, 19⟩),
     (0x26617DA7#32, .andi ⟨3, false, 5, 61, 0xA7⟩),
     (0x28614900#32, .nbl ⟨3, false, 5, 9, 0⟩),
     (0x28614901#32, .nbr ⟨3, false, 5, 9, 0⟩),
     (0x28614986#32, .nblb ⟨3, false, 5, 9, 33⟩),
     (0x28614987#32, .nbrb ⟨3, false, 5, 9, 33⟩),
     (0x2A614984#32, .shflIdx ⟨3, false, 5, 9, 33⟩),
     (0x2A614985#32, .shflXor ⟨3, false, 5, 9, 33⟩),
     (0x2A614986#32, .shflUp ⟨3, false, 5, 9, 33⟩),
     (0x2A614987#32, .shflDn ⟨3, false, 5, 9, 33⟩),
     (0x2C615100#32, .ballot ⟨3, false, 5, 17, 0⟩),
     (0x2C645101#32, .anyP ⟨3, false, 17, 17, 0⟩),
     (0x2C645102#32, .allP ⟨3, false, 17, 17, 0⟩),
     (0x2C644003#32, .elect ⟨3, false, 17, 0, 0⟩),
     (0x2E614900#32, .lredIadd ⟨3, false, 5, 9, 0⟩)] : List (Word × Instr)), decode q.1 = .ok q.2 := by decide

theorem test_decode_lane_3 : ∀ q ∈ ([
     (0x2E614901#32, .lredImax ⟨3, false, 5, 9, 0⟩),
     (0x2E614902#32, .lredFadd ⟨3, false, 5, 9, 0⟩),
     (0x2E614903#32, .lredFmax ⟨3, false, 5, 9, 0⟩),
     (0x30614900#32, .lscanIaddEx ⟨3, false, 5, 9, 0⟩),
     (0x30614901#32, .lscanIaddIn ⟨3, false, 5, 9, 0⟩),
     (0x30614902#32, .lscanFaddEx ⟨3, false, 5, 9, 0⟩),
     (0x30614903#32, .lscanFaddIn ⟨3, false, 5, 9, 0⟩),
     (0x32617D4D#32, .fadd ⟨3, false, 5, 61, 19⟩ 1),
     (0x34617D4D#32, .fsub ⟨3, false, 5, 61, 19⟩ 1),
     (0x36617D4D#32, .fmul ⟨3, false, 5, 61, 19⟩ 1),
     (0x38617D4D#32, .ffma ⟨3, false, 5, 61, 19⟩ 1),
     (0x3A617D4C#32, .fmin ⟨3, false, 5, 61, 19⟩),
     (0x3A617D4D#32, .fmax ⟨3, false, 5, 61, 19⟩),
     (0x3A617D4E#32, .fminn ⟨3, false, 5, 61, 19⟩),
     (0x3A617D4F#32, .fmaxn ⟨3, false, 5, 61, 19⟩),
     (0x3C647D4C#32, .fcmpEq ⟨3, false, 17, 61, 19⟩),
     (0x3C647D4D#32, .fcmpLt ⟨3, false, 17, 61, 19⟩),
     (0x3C647D4E#32, .fcmpLe ⟨3, false, 17, 61, 19⟩),
     (0x3C647D4F#32, .fcmpUn ⟨3, false, 17, 61, 19⟩),
     (0x3E617D00#32, .fabs ⟨3, false, 5, 61, 0⟩),
     (0x3E617D01#32, .fneg ⟨3, false, 5, 61, 0⟩),
     (0x3E617D02#32, .frint ⟨3, false, 5, 61, 0⟩),
     (0x3E617D03#32, .fclass ⟨3, false, 5, 61, 0⟩),
     (0x40614900#32, .frcp ⟨3, false, 5, 9, 0⟩)] : List (Word × Instr)), decode q.1 = .ok q.2 := by decide

theorem test_decode_lane_4 : ∀ q ∈ ([
     (0x40614901#32, .frsq ⟨3, false, 5, 9, 0⟩),
     (0x40614902#32, .fex2 ⟨3, false, 5, 9, 0⟩),
     (0x40614903#32, .flg2 ⟨3, false, 5, 9, 0⟩),
     (0x42617D4C#32, .hadd2 ⟨3, false, 5, 61, 19⟩),
     (0x42617D4D#32, .hmul2 ⟨3, false, 5, 61, 19⟩),
     (0x42617D4E#32, .hfma2 ⟨3, false, 5, 61, 19⟩),
     (0x42617D4F#32, .hmax2 ⟨3, false, 5, 61, 19⟩),
     (0x44617D00#32, .f2bf ⟨3, false, 5, 61, 0⟩),
     (0x44617D01#32, .bf2f ⟨3, false, 5, 61, 0⟩),
     (0x44617D02#32, .f2i ⟨3, false, 5, 61, 0⟩),
     (0x44617D03#32, .i2f ⟨3, false, 5, 61, 0⟩),
     (0x46617D00#32, .f2iz ⟨3, false, 5, 61, 0⟩),
     (0x46617D01#32, .u2f ⟨3, false, 5, 61, 0⟩),
     (0x46617D02#32, .f2uz ⟨3, false, 5, 61, 0⟩),
     (0x48617D4C#32, .bscale ⟨3, false, 5, 61, 19⟩),
     (0x48617D4D#32, .bsq ⟨3, false, 5, 61, 19⟩),
     (0x48617D4E#32, .bsqe ⟨3, false, 5, 61, 19⟩),
     (0x48617D4F#32, .bsdq ⟨3, false, 5, 61, 19⟩),
     (0x4A614968#32, .cbxB8 ⟨3, false, 5, 9, 26⟩),
     (0x4A614969#32, .cbxN4 ⟨3, false, 5, 9, 26⟩),
     (0x4C614985#32, .xffma ⟨3, false, 5, 9, 33⟩ 1),
     (0x4E614985#32, .xfmul ⟨3, false, 5, 9, 33⟩ 1),
     (0x50621080#32, .mfrag ⟨3, false, 8, 16, 32⟩),
     (0x50621081#32, .mfraga ⟨3, false, 8, 16, 32⟩)] : List (Word × Instr)), decode q.1 = .ok q.2 := by decide

theorem test_decode_lane_5 : ∀ q ∈ ([
     (0x50621086#32, .mfragx ⟨3, false, 8, 16, 33⟩),
     (0x52614984#32, .rmod ⟨3, false, 5, 9, 33⟩),
     (0x5261B985#32, .rrec ⟨3, false, 6, 57, 33⟩),
     (0x52617986#32, .rchk ⟨3, false, 5, 57, 33⟩),
     (0x54614985#32, .rmadC03 ⟨3, false, 5, 9, 33⟩ 1),
     (0x56614985#32, .rmadC45 ⟨3, false, 5, 9, 33⟩ 1),
     (0x60618969#32, .ldl ⟨3, false, 6, 9, 26⟩ 1),
     (0x62618969#32, .stl ⟨3, false, 6, 9, 26⟩ 1),
     (0x64630969#32, .ldlv ⟨3, false, 12, 9, 26⟩ 1),
     (0x66630969#32, .stlv ⟨3, false, 12, 9, 26⟩ 1),
     (0x68614984#32, .atlAdd ⟨3, false, 5, 9, 33⟩),
     (0x68614985#32, .atlMax ⟨3, false, 5, 9, 33⟩),
     (0x68614986#32, .atlMin ⟨3, false, 5, 9, 33⟩),
     (0x68614987#32, .atlExch ⟨3, false, 5, 9, 33⟩),
     (0x6A618939#32, .casl ⟨3, false, 6, 9, 14⟩ 1),
     (0x70618969#32, .ld ⟨3, false, 6, 9, 26⟩ 1),
     (0x72618969#32, .st ⟨3, false, 6, 9, 26⟩ 1),
     (0x74618969#32, .lda ⟨3, false, 6, 9, 26⟩ 1),
     (0x76618969#32, .str ⟨3, false, 6, 9, 26⟩ 1),
     (0x78614968#32, .atomAdd ⟨3, false, 5, 9, 26⟩),
     (0x78614969#32, .atomMax ⟨3, false, 5, 9, 26⟩),
     (0x7861496A#32, .atomMin ⟨3, false, 5, 9, 26⟩),
     (0x7861496B#32, .atomExch ⟨3, false, 5, 9, 26⟩),
     (0x7A614968#32, .atombAnd ⟨3, false, 5, 9, 26⟩)] : List (Word × Instr)), decode q.1 = .ok q.2 := by decide

theorem test_decode_lane_6 : ∀ q ∈ ([
     (0x7A614969#32, .atombOr ⟨3, false, 5, 9, 26⟩),
     (0x7A61496A#32, .atombXor ⟨3, false, 5, 9, 26⟩),
     (0x7A61496B#32, .atombAddf ⟨3, false, 5, 9, 26⟩),
     (0x7C618968#32, .casW ⟨3, false, 6, 9, 26⟩),
     (0x7C6E0969#32, .casD ⟨3, false, 56, 9, 26⟩),
     (0x7C6C096A#32, .casQ ⟨3, false, 48, 9, 26⟩),
     (0x7C6C096B#32, .casQAr ⟨3, false, 48, 9, 26⟩)] : List (Word × Instr)), decode q.1 = .ok q.2 := by decide

theorem test_decode_uniform_0 : ∀ q ∈ ([
     (0x80000000#32, .unop),
     (0x826ADAD0#32, .uadd ⟨3, 21, 45, 26⟩),
     (0x826ADAD1#32, .usub ⟨3, 21, 45, 26⟩),
     (0x826ADAD2#32, .umul ⟨3, 21, 45, 26⟩),
     (0x826ADAD3#32, .umulh ⟨3, 21, 45, 26⟩),
     (0x826ADAD4#32, .umulhu ⟨3, 21, 45, 26⟩),
     (0x826ADAD5#32, .umin ⟨3, 21, 45, 26⟩),
     (0x826ADAD6#32, .umax ⟨3, 21, 45, 26⟩),
     (0x826ADAD7#32, .uminu ⟨3, 21, 45, 26⟩),
     (0x846ADAD0#32, .uand ⟨3, 21, 45, 26⟩),
     (0x846ADAD1#32, .uor ⟨3, 21, 45, 26⟩),
     (0x846ADAD2#32, .uxor ⟨3, 21, 45, 26⟩),
     (0x846ADAD3#32, .uandn ⟨3, 21, 45, 26⟩),
     (0x846ADAD4#32, .ushl ⟨3, 21, 45, 26⟩),
     (0x846ADAD5#32, .ushr ⟨3, 21, 45, 26⟩),
     (0x846ADAD6#32, .usar ⟨3, 21, 45, 26⟩),
     (0x846ADAD7#32, .urotl ⟨3, 21, 45, 26⟩),
     (0x866AFA53#32, .uaddi ⟨3, 21, 0x7a53⟩),
     (0x886AFA53#32, .uli ⟨3, 21, 0x7a53⟩),
     (0x8A6AFA53#32, .ulih ⟨3, 21, 0x7a53⟩),
     (0x8C61DAD0#32, .ucmpEq ⟨3, 3, 45, 26⟩),
     (0x8C61DAD1#32, .ucmpNe ⟨3, 3, 45, 26⟩),
     (0x8C61DAD2#32, .ucmpLt ⟨3, 3, 45, 26⟩),
     (0x8C61DAD3#32, .ucmpLe ⟨3, 3, 45, 26⟩)] : List (Word × Instr)), decode q.1 = .ok q.2 := by decide

theorem test_decode_uniform_1 : ∀ q ∈ ([
     (0x8C61DAD4#32, .ucmpLtu ⟨3, 3, 45, 26⟩),
     (0x8C61DAD5#32, .ucmpLeu ⟨3, 3, 45, 26⟩),
     (0x8E618A30#32, .kand ⟨3, 3, 5, 6⟩),
     (0x8E618A31#32, .kor ⟨3, 3, 5, 6⟩),
     (0x8E618A32#32, .kxor ⟨3, 3, 5, 6⟩),
     (0x8E618A03#32, .knot ⟨3, 3, 5, 0⟩),
     (0x8E61A204#32, .kany ⟨3, 3, 17, 0⟩),
     (0x8E61A205#32, .kall ⟨3, 3, 17, 0⟩),
     (0x8E61A206#32, .knone ⟨3, 3, 17, 0⟩),
     (0x906ADA00#32, .umov ⟨3, 21, 45, 0⟩),
     (0x906A8E01#32, .ufirst ⟨3, 21, 7, 0⟩),
     (0x906A8002#32, .uactive ⟨3, 21, 0, 0⟩),
     (0x906A8003#32, .ucount ⟨3, 21, 0, 0⟩),
     (0x926ADAD3#32, .ulea ⟨3, 21, 45, 26⟩ 3),
     (0x946A85A3#32, .usread ⟨3, 21, 0x5a3⟩),
     (0x966A85A3#32, .uswrite ⟨3, 21, 0x5a3⟩),
     (0x98723456#32, .bra ⟨3, 0x123456⟩),
     (0x9A723456#32, .brd ⟨3, 0x123456⟩),
     (0x9C723456#32, .call ⟨3, 0x123456⟩),
     (0x9E600000#32, .ret ⟨3, 0, 0, 0⟩),
     (0x9E605A01#32, .brx ⟨3, 0, 45, 0⟩),
     (0x9E605A02#32, .callx ⟨3, 0, 45, 0⟩),
     (0xA0630000#32, .enrol ⟨3, 6, 0, 0⟩),
     (0xA0635A01#32, .enrolMask ⟨3, 6, 45, 0⟩)] : List (Word × Instr)), decode q.1 = .ok q.2 := by decide

theorem test_decode_uniform_2 : ∀ q ∈ ([
     (0xA2630000#32, .rejoin ⟨3, 6, 0, 0⟩),
     (0xA4630000#32, .strike ⟨3, 6, 0, 0⟩),
     (0xA6753E90#32, .loopImm ⟨3, 2, 0xA7, 0x290⟩),
     (0xA6753A90#32, .loopReg ⟨3, 2, 0xA7, 0x290⟩),
     (0xA8600002#32, .lbrk 3 2),
     (0xAA601600#32, .bar ⟨3, 0, 11, 0⟩),
     (0xAA6A9631#32, .arrive ⟨3, 21, 11, 6⟩),
     (0xAA6A9602#32, .await ⟨3, 21, 11, 0⟩),
     (0xAA6A9633#32, .arrwait ⟨3, 21, 11, 6⟩),
     (0xAC600000#32, .sstep ⟨3, 0, 0, 0⟩),
     (0xAC605A01#32, .sstepPod ⟨3, 0, 45, 0⟩),
     (0xAE605A00#32, .napUntil ⟨3, 0, 45, 0⟩),
     (0xAE600001#32, .napWake ⟨3, 0, 0, 0⟩),
     (0xAE605A02#32, .napCyc ⟨3, 0, 45, 0⟩),
     (0xAE605A03#32, .wake ⟨3, 0, 45, 0⟩),
     (0xB06ADAD0#32, .spawn ⟨3, 21, 45, 26⟩),
     (0xB06ADAD1#32, .spawnf ⟨3, 21, 45, 26⟩),
     (0xB2600000#32, .freeze ⟨3, 0, 0, 0⟩),
     (0xB2605A01#32, .freezen ⟨3, 0, 45, 0⟩),
     (0xB4605AD0#32, .nest ⟨3, 0, 45, 26⟩),
     (0xB6600000#32, .endU ⟨3, 0, 0, 0⟩),
     (0xB6600001#32, .endl ⟨3, 0, 0, 0⟩),
     (0xB86ADA00#32, .launch ⟨3, 21, 45, 0⟩),
     (0xB86ADA01#32, .launchTry ⟨3, 21, 45, 0⟩)] : List (Word × Instr)), decode q.1 = .ok q.2 := by decide

theorem test_decode_uniform_3 : ∀ q ∈ ([
     (0xBA6ADA00#32, .lwait ⟨3, 21, 45, 0⟩),
     (0xBA6ADA01#32, .lwaitPoll ⟨3, 21, 45, 0⟩),
     (0xBC6ADAD0#32, .yield ⟨3, 21, 45, 26⟩),
     (0xBC618001#32, .curf ⟨3, 3, 0, 0⟩),
     (0xBE605A00#32, .statid ⟨3, 0, 45, 0⟩),
     (0xC06ADA00#32, .tile ⟨3, 21, 45, 0⟩),
     (0xC06ADA01#32, .tileL ⟨3, 21, 45, 0⟩),
     (0xC26ADA00#32, .twait ⟨3, 21, 45, 0⟩),
     (0xC26ADA01#32, .twaitPoll ⟨3, 21, 45, 0⟩),
     (0xC46ADA18#32, .tdrainFp32 ⟨3, 21, 45, 3⟩),
     (0xC46ADA19#32, .tdrainBf16 ⟨3, 21, 45, 3⟩),
     (0xC46ADA1A#32, .tdrainAcc ⟨3, 21, 45, 3⟩),
     (0xC46ADA1B#32, .tdrainI64 ⟨3, 21, 45, 3⟩),
     (0xC46ADA1C#32, .tdrainPlanes ⟨3, 21, 45, 3⟩),
     (0xC6600400#32, .tzero ⟨3, 0, 2, 0⟩),
     (0xC86ADA00#32, .modset ⟨3, 21, 45, 0⟩),
     (0xC86ADA01#32, .modsetRead ⟨3, 21, 45, 0⟩),
     (0xC86A8002#32, .modsetDefault ⟨3, 21, 0, 0⟩),
     (0xCA6A8000#32, .ctnrd ⟨3, 21, 0, 0⟩),
     (0xCA605A01#32, .ctnrdInject ⟨3, 0, 45, 0⟩),
     (0xCA6A8002#32, .ctnrdClr ⟨3, 21, 0, 0⟩),
     (0xD06A8AD0#32, .cballoc ⟨3, 21, 5, 26⟩),
     (0xD0600A01#32, .cballocFree ⟨3, 0, 5, 0⟩),
     (0xD0600002#32, .cbfence ⟨3, 0, 0, 0⟩)] : List (Word × Instr)), decode q.1 = .ok q.2 := by decide

theorem test_decode_uniform_4 : ∀ q ∈ ([
     (0xD26ADA13#32, .cbld ⟨3, 21, 45, 2⟩ 3),
     (0xD46ADA71#32, .cbw 3 21 5 0xA7 1),
     (0xD66A8A7D#32, .cbr 3 21 0xA7 1 5),
     (0xD86ADA00#32, .pin ⟨3, 21, 45, 0⟩),
     (0xD8605A01#32, .unpin ⟨3, 0, 45, 0⟩),
     (0xDA6ADAD0#32, .stash ⟨3, 21, 45, 26⟩),
     (0xDA605A01#32, .stashWb ⟨3, 0, 45, 0⟩),
     (0xDA605A02#32, .stashUnmap ⟨3, 0, 45, 0⟩),
     (0xDA605A03#32, .stashDiscard ⟨3, 0, 45, 0⟩),
     (0xDC6ADA00#32, .colinfo ⟨3, 21, 45, 0⟩),
     (0xE0600000#32, .fenceT ⟨3, 0, 0, 0⟩),
     (0xE0600001#32, .fenceD ⟨3, 0, 0, 0⟩),
     (0xE0600002#32, .fenceP ⟨3, 0, 0, 0⟩),
     (0xE0600003#32, .fenceSc ⟨3, 0, 0, 0⟩),
     (0xE0600004#32, .fenceAcq ⟨3, 0, 0, 0⟩),
     (0xE0600005#32, .fenceEng ⟨3, 0, 0, 0⟩),
     (0xE2605AD0#32, .pref2 ⟨3, 0, 45, 26⟩),
     (0xE2605AD1#32, .pref1 ⟨3, 0, 45, 26⟩),
     (0xE2605AD2#32, .evict1 ⟨3, 0, 45, 26⟩),
     (0xE2605AD3#32, .wbl2 ⟨3, 0, 45, 26⟩),
     (0xE46ADA00#32, .plq ⟨3, 21, 45, 0⟩),
     (0xE4605AD1#32, .plinv ⟨3, 0, 45, 26⟩),
     (0xE6605A00#32, .tlbi ⟨3, 0, 45, 0⟩),
     (0xE6605AD1#32, .tlbiVa ⟨3, 0, 45, 26⟩)] : List (Word × Instr)), decode q.1 = .ok q.2 := by decide

theorem test_decode_uniform_5 : ∀ q ∈ ([
     (0xE6600002#32, .tlbiAll ⟨3, 0, 0, 0⟩),
     (0xE86ADA00#32, .copyPlain ⟨3, 21, 45, 0⟩),
     (0xE86ADA01#32, .copySb12 ⟨3, 21, 45, 0⟩),
     (0xE86ADA02#32, .copyRp16 ⟨3, 21, 45, 0⟩),
     (0xE86ADA03#32, .copyBf16 ⟨3, 21, 45, 0⟩),
     (0xE86ADA04#32, .copyGather ⟨3, 21, 45, 0⟩),
     (0xE86ADA05#32, .copyDrain ⟨3, 21, 45, 0⟩),
     (0xEA6ADA00#32, .cwait ⟨3, 21, 45, 0⟩),
     (0xEA6ADA01#32, .cwaitPoll ⟨3, 21, 45, 0⟩),
     (0xEA6ADA02#32, .cwaitCancel ⟨3, 21, 45, 0⟩),
     (0xEC6ADAD0#32, .sluiceExcl ⟨3, 21, 45, 26⟩),
     (0xEC6ADAD1#32, .sluiceWrite ⟨3, 21, 45, 26⟩),
     (0xEC6ADAD2#32, .sluiceSnap ⟨3, 21, 45, 26⟩),
     (0xEC605A03#32, .sluiceUnlock ⟨3, 0, 45, 0⟩),
     (0xEE6ADAD0#32, .brine ⟨3, 21, 45, 26⟩),
     (0xF06ADA00#32, .bwait ⟨3, 21, 45, 0⟩),
     (0xF06ADA01#32, .bwaitPoll ⟨3, 21, 45, 0⟩),
     (0xF26ADAD0#32, .btbl ⟨3, 21, 45, 26⟩),
     (0xF46ADA00#32, .putX ⟨3, 21, 45, 0⟩),
     (0xF46ADA01#32, .getX ⟨3, 21, 45, 0⟩),
     (0xF46ADA02#32, .putc ⟨3, 21, 45, 0⟩),
     (0xF46ADA03#32, .atomr ⟨3, 21, 45, 0⟩),
     (0xF66ADA00#32, .tsend ⟨3, 21, 45, 0⟩),
     (0xF66ADA01#32, .tsendCancel ⟨3, 21, 45, 0⟩)] : List (Word × Instr)), decode q.1 = .ok q.2 := by decide

theorem test_decode_uniform_6 : ∀ q ∈ ([
     (0xF86ADA00#32, .ctrrd ⟨3, 21, 45, 0⟩),
     (0xF8605AD1#32, .ctrset ⟨3, 0, 45, 26⟩),
     (0xF86ADAD2#32, .ctrwait ⟨3, 21, 45, 26⟩),
     (0xF86ADAD3#32, .ctradd ⟨3, 21, 45, 26⟩),
     (0xFA6ADA00#32, .coll ⟨3, 21, 45, 0⟩),
     (0xFA6ADA01#32, .collWait ⟨3, 21, 45, 0⟩),
     (0xFA6ADA02#32, .collPoll ⟨3, 21, 45, 0⟩),
     (0xFA6ADA03#32, .collAbort ⟨3, 21, 45, 0⟩),
     (0xFC605A00#32, .trapI ⟨3, 0, 45, 0⟩),
     (0xFC6ADAD1#32, .tresume ⟨3, 21, 45, 26⟩),
     (0xFC6ADAD2#32, .saveBlk ⟨3, 21, 45, 26⟩),
     (0xFC6ADAD3#32, .restoreBlk ⟨3, 21, 45, 26⟩),
     (0xFC605A04#32, .hostsig ⟨3, 0, 45, 0⟩)] : List (Word × Instr)), decode q.1 = .ok q.2 := by decide

/-! ### Ill-formed terms (R24, R25, R27, R28, R34) -/

/-- One ill-formed term for each check of WellFormed: guard, selector, W, and every kind of field. -/
theorem test_wf_refuses :
    ∀ i ∈ ([.iadd ⟨15, false, 0, 0, 0⟩, .selp ⟨7, false, 0, 0, 0⟩, .brd ⟨0xF, 0⟩, .uaddi ⟨15, 0, 0⟩, .iadd ⟨7, true, 1, 0, 0⟩, .pand ⟨7, true, 1, 0, 0⟩,
      .iadd ⟨7, false, 60, 0, 0⟩, .iaddd ⟨7, false, 3, 0, 0⟩, .iaddd ⟨7, false, 60, 0, 0⟩, .icmpEq ⟨7, false, 32, 0, 0⟩, .ballot ⟨7, false, 0, 32, 0⟩,
      .popc ⟨7, false, 0, 0, 1⟩, .shflIdx ⟨7, false, 0, 60, 0⟩, .pbit ⟨7, false, 0, 0, 32⟩, .movs ⟨7, false, 0, 0, 2⟩, .selfIx ⟨7, false, 0, 8, 0⟩,
      .movi ⟨7, false, 0, 1, 0⟩, .rrec ⟨7, false, 0, 58, 0⟩, .mfrag ⟨7, false, 4, 16, 32⟩, .mfrag ⟨7, false, 16, 16, 32⟩, .mfragx ⟨7, false, 8, 16, 9⟩,
      .ldl ⟨7, false, 1, 0, 0⟩ 3, .ldlv ⟨7, false, 0, 0, 0⟩ 3, .ldlv ⟨7, false, 3, 0, 0⟩ 0, .casl ⟨7, false, 0, 0, 1⟩ 1, .casD ⟨7, false, 2, 0, 0⟩,
      .casQ ⟨7, false, 4, 0, 0⟩, .usread ⟨7, 0, 0x1000⟩, .loopImm ⟨7, 3, 0, 1⟩, .loopReg ⟨7, 0, 0, 1⟩, .lbrk 7 3, .kand ⟨7, 7, 0, 0⟩,
      .kand ⟨7, 0, 8, 0⟩, .rejoin ⟨7, 8, 0, 0⟩, .tzero ⟨7, 0, 4, 0⟩, .cballoc ⟨7, 0, 8, 0⟩, .bar ⟨7, 0, 16, 0⟩, .arrive ⟨7, 0, 0, 0⟩,
      .arrive ⟨7, 0, 0, 16⟩, .ucount ⟨7, 0, 1, 0⟩, .ufirst ⟨7, 0, 60, 0⟩] : List Instr), i.wf = false := by decide

/-- Each of them is refused where it has a word: the word itself is ILLEGAL (R35, R36). -/
theorem test_decode_refuses :
    decode 0x03E00000#32 = .error .badField ∧ decode 0x02F04000#32 = .error .badField ∧ decode 0x02EF0000#32 = .error .badField ∧
    decode 0x1EE00000#32 = .error .badField ∧ decode 0x10E00004#32 = .error .badField := by decide

/-- UNOP is one word, and 0x80000001 is not it (R36). -/
theorem test_decode_unop_bits : decode 0x80000001#32 ≠ .ok .unop := by decide

/-! ### Witnesses: states that meet the hypotheses of the statements -/

/-- A privileged team on compute core 0, one group of 32 lanes, one sub-group, all features. -/
def tSub : Sub := newSub 0x1000 0xFFFFFFFF 0 0
def tGroup : Group :=
  { newGroup 1 1 0 0 60 0xFFFFFFFF (List.replicate 32 noIndex) ⟨0x1000, 0, [], 0, none⟩ tSub with
    s := [(1, 0x2000), (2, 5), (3, 0x100)] }
def tTeam : Team := probeTeam State.reset
/-- The issuer of a state made by `at_`. -/
def tc (u : Sub) (g : Group) (t : Team) : Ctx := ⟨1, 0, { g with subs := [u] }, u, t⟩
/-- `s` with the one sub-group `u` of group `g` of team `t`, which issues. -/
def at_ (s : State) (u : Sub) (g : Group) (t : Team) : State :=
  { s with
    cur := some (1, 0), groups := [{ g with subs := [u] }], teams := [t], nextGid := 2, nextTid := 2
    regs := { s.regs with bootStatus := 4, featOffer := 31, featAccept := 31, merLocked := true } }
def c0 : Ctx := tc tSub tGroup tTeam
def s0 : State := at_ State.reset tSub tGroup tTeam
def fR (d a b : BitVec 6) : LaneR := ⟨7, false, d, a, b⟩
def fU (d a b : BitVec 6) : UniR := ⟨7, d, a, b⟩

theorem hyp_LaneIntegerResults :
    (fR 3 1 2).ok .push .dst .srcA .srcA = true ∧ LaneRuns (gateTwo (fR 3 1 2)) 7 (rowsOf false 3) s0 c0 ∧
    (fR 59 1 0).ok .push .dst .srcA .srcA = true ∧ LaneRuns (gateOne (fR 59 1 0)) 7 (rowsOf false 59) s0 c0 := by
  unfold LaneRuns Issues RowsFree; decide

theorem hyp_LanePairsAndAccumulates :
    (fR 58 4 6).ok .push .pair .pair .pair = true ∧
    LaneRuns { regs := pairOf 58 ++ (pairOf 4 ++ pairOf 6), reads := pairOf 4 ++ pairOf 6 } 7 (pairRowsOf false 58) s0 c0 ∧
    (fR 2 4 5).ok .push .pair .srcA .srcA = true ∧
    LaneRuns { regs := pairOf 2 ++ (regOf 4 ++ regOf 5), reads := regOf 4 ++ regOf 5, latches := latchOf 4 ++ latchOf 5 } 7 (pairRowsOf false 2) s0 c0 ∧
    LaneRuns { regs := pairOf 2 ++ (regOf 4 ++ regOf 5 ++ pairOf 2), reads := regOf 4 ++ regOf 5 ++ pairOf 2, latches := latchOf 4 ++ latchOf 5 } 7
      (pairRowsOf false 2) s0 c0 ∧
    (fR 2 4 5).ok .push .dst .srcA .srcA = true ∧ LaneRuns (gateThree (fR 2 4 5)) 7 (rowsOf false 2) s0 c0 := by
  unfold LaneRuns Issues RowsFree; and_intros <;> decide +kernel

def fI (g : BitVec 4) : LaneI := ⟨g, false, 3, 1, 0x80⟩
theorem hyp_LaneMovesAndImmediates :
    (fR 3 59 0).ok .push .dst .srcA .zero = true ∧ LaneRuns (gateOne (fR 3 59 0)) 7 (rowsOf false 3) s0 c0 ∧
    (fR 3 63 1).ok .push .dst .any (.below 2) = true ∧ (fR 3 7 0).ok .push .dst (.below 8) .zero = true ∧
    (fR 3 0 0).ok .push .dst .zero .zero = true ∧ (∀ f ∈ [fR 3 63 1, fR 3 7 0, fR 3 0 0], LaneRuns (gateNone f) f.g (rowsOf f.w f.d) s0 c0) ∧
    (fI 7).ok guardOk true = true ∧ LaneRuns (gateI (fI 7)) 7 (rowsOf false 3) s0 c0 ∧
    ({ fI 7 with a := 0 } : LaneI).ok guardOk false = true ∧ LaneRuns { regs := regOf 3 } 7 (rowsOf false 3) s0 c0 ∧
    (fI 0xA).ok selectorOk true = true ∧ Issues (gateI (fI 0xA)) s0 c0 ∧ regErrors s0 c0.gid (regOf 1) c0.active = [] ∧
    RowsFree s0 c0 (rowsOf false 3) c0.active ∧
    (⟨7, false, 3, 1, 31⟩ : LaneSh).ok = true ∧ LaneRuns (gateSh ⟨7, false, 3, 1, 31⟩) 7 (rowsOf false 3) s0 c0 := by
  unfold LaneRuns Issues RowsFree; and_intros <;> decide +kernel

theorem hyp_LaneComparesAndPredicates :
    (fR 31 1 2).ok .anded .pred .srcA .srcA = true ∧ Issues (gateCompared (fR 31 1 2)) s0 c0 ∧
    regErrors s0 c0.gid (gateCompared (fR 31 1 2)).reads (c0.execMask 7) = [] ∧
    (fR 31 0 30).ok .off .pred .pred .pred = true ∧ Issues {} s0 c0 ∧
    (fR 59 0 0).ok .off .dst .zero .zero = true ∧ LaneRuns (gateNone (fR 59 0 0)) 7 [59] s0 c0 ∧
    (fR 0 1 0).ok .off .zero .srcA .zero = true ∧ (fR 31 1 31).ok .off .pred .srcA (.below 32) = true ∧
    Issues { regs := regOf 1, reads := regOf 1, latches := latchOf 1 } s0 c0 ∧ regErrors s0 c0.gid (regOf 1) (c0.execMask 7) = [] := by
  unfold LaneRuns Issues RowsFree; and_intros <;> decide +kernel

theorem hyp_CrossLaneResults :
    (fR 3 1 2).ok .off .dst .src .src = true ∧
    LaneRuns { regs := regOf 3 ++ (regOf 1 ++ regOf 2), reads := regOf 1 ++ regOf 2 } 7 [3] s0 c0 ∧
    (fR 3 31 0).ok .off .dst .pred .zero = true ∧ LaneRuns (gateNone (fR 3 31 0)) 7 [3] s0 c0 ∧
    (fR 31 0 0).ok .off .pred .pred .zero = true ∧ (fR 31 0 0).ok .off .pred .zero .zero = true ∧ LaneRuns {} 7 [] s0 c0 ∧
    (fR 3 1 0).ok .off .dst .src .zero = true ∧ LaneRuns { regs := regOf 3 ++ regOf 1, reads := regOf 1 } 7 [3] s0 c0 := by
  unfold LaneRuns Issues RowsFree; and_intros <;> decide +kernel

theorem hyp_LaneFloatResults :
    (fR 3 1 2).ok .push .dst .srcA .srcA = true ∧ LaneRuns (gateTwo (fR 3 1 2)) 7 (rowsOf false 3) s0 c0 ∧
    LaneRuns (gateThree (fR 3 1 2)) 7 (rowsOf false 3) s0 c0 ∧
    (fR 3 1 0).ok .push .dst .srcA .zero = true ∧ LaneRuns (gateOne (fR 3 1 0)) 7 (rowsOf false 3) s0 c0 ∧
    (fR 3 1 0).ok .off .dst .src .zero = true ∧ LaneRuns (gateOne (fR 3 1 0)) 7 [3] s0 c0 ∧
    fpIsNan 23 0x7F7FFFFF = false ∧ fpIsInf 23 0x7F7FFFFF = false ∧ fpIsInf 23 0xFF800000 = true ∧ fpIsZero 23 0x80000000 = true ∧
    fpIsNan 23 0x7F800001 = true ∧ fpIsSub 23 0x807FFFFF = true ∧ fpVal 23 0xFF800000 = .inf true ∧ fpVal 23 1 = .fin false 1 (-149) ∧
    (254 * 4096 : Nat) / 4096 % 256 ≠ 0 ∧ (254 * 4096 : Nat) / 4096 % 256 ≠ 255 := by
  unfold LaneRuns Issues RowsFree; and_intros <;> decide +kernel

/-- Lanes 0 and 31 of the only group, at the ends of the team's first 32 positions. -/
def uNb : Sub := newSub 0x1000 0x80000001 0 0
def tNb : Team := { tTeam with nb := NMap.tab Nb.none 32 fun _ => ⟨0, 0, 0, true, false⟩ }
def sNb : State := at_ State.reset uNb tGroup tNb
def cNb : Ctx := tc uNb tGroup tNb
/-- Both directions, with and without a chain-end value; the neighbours of lanes 0 and 31 have published instance 1. -/
theorem hyp_NeighbourReads :
    (fR 3 1 2).ok .off .dst .src .src = true ∧ (fR 3 1 0).ok .off .dst .src .zero = true ∧ cNb.t.linked = false ∧
    LaneRuns { regs := regOf 3 ++ (regOf 1 ++ regOf 2), reads := regOf 1 ++ regOf 2 } 7 [3] sNb cNb ∧
    LaneRuns { regs := regOf 3 ++ (regOf 1 ++ []), reads := regOf 1 ++ [] } 7 [3] sNb cNb ∧
    (∀ l ∈ lanesOf cNb.active, (NMap.get Nb.none (32 * cNb.g.gslot + l) cNb.t.nb).live = true ∧ 32 * cNb.g.gslot + l < cNb.t.positions) ∧
    (∀ q ∈ [1, 30, 31, 0], (NMap.get Nb.none q cNb.t.nb).c = 0 ∧ (NMap.get Nb.none q cNb.t.nb).ended = false) := by
  unfold LaneRuns Issues RowsFree; and_intros <;> decide +kernel

def bank0 : Bank := ⟨some tTeam.tid, 0, 256, [], [], none⟩
def sCb (k : BitVec 2) : State := { s0 with cores := [(0, { CoreSt.reset with banks := [(1, { bank0 with kind := k })] })] }
theorem hyp_CodebookExpansion :
    (fR 3 1 8).ok .off .dst .src .any = true ∧
    LaneRuns { regs := regOf 3 ++ regOf 1, reads := regOf 1, cc := true, feat := some 1 } 7 [3] (sCb 0) c0 ∧
    ((sCb 0).bank c0.core 1).owner = some c0.t.tid ∧ ((sCb 0).bank c0.core 1).load = none ∧ 8 % 8 < slotCount ((sCb 0).bank c0.core 1).kind ∧
    (∀ l ∈ lanesOf (c0.execMask 7), (c0.reg 1 l).toNat % 256 < ((sCb 0).bank c0.core 1).valid ∧
      ((sCb 0).bank c0.core 1).badEntry ((c0.reg 1 l).toNat % 256) = false) ∧
    (fR 3 1 2).ok .off .dst .src .src = true ∧ ((sCb 2).bank c0.core 1).kind ≠ 3 ∧
    (∀ l ∈ lanesOf (c0.execMask 7), (c0.reg 2 l).toNat / 256 % 8 < slotCount ((sCb 2).bank c0.core 1).kind ∧
      (c0.reg 2 l).toNat % 256 < ((sCb 2).bank c0.core 1).valid) ∧
    LaneRuns { regs := regOf 3 ++ (regOf 1 ++ regOf 2 ++ regOf 3), reads := regOf 1 ++ regOf 2 ++ regOf 3, cc := true, feat := some 1 } 7 [3] (sCb 2) c0 := by
  unfold LaneRuns Issues RowsFree; and_intros <;> decide +kernel

theorem hyp_LaneResidues :
    (fR 3 1 2).ok .off .dst .src .src = true ∧
    LaneRuns { regs := regOf 3 ++ (regOf 1 ++ regOf 2), reads := regOf 1 ++ regOf 2, cc := true, feat := some 2 } 7 [3] s0 c0 ∧
    (∀ l ∈ lanesOf (c0.execMask 7), (c0.reg 2 l).toNat % 8 < c0.t.moduli.count) ∧
    LaneRuns { regs := regOf 1 ++ regOf 2 ++ regOf 3, reads := regOf 1 ++ regOf 2 ++ regOf 3, cc := true, feat := some 2 } 7 [3] s0 c0 ∧
    (3 : BitVec 2).toNat < c0.t.moduli.count ∧ 4 + (1 : BitVec 1).toNat < c0.t.moduli.count ∧
    (fR 58 57 2).ok .off .pair (.below 58) .src = true ∧ (∀ l ∈ [0, 31], laneRecon s0 c0 (fR 58 57 2) l = .good 0) ∧
    LaneRuns { regs := pairOf 58 ++ (groupOf 57 3 ++ regOf 2), reads := groupOf 57 3 ++ regOf 2, cc := true, feat := some 2 } 7 [58, 59] s0 c0 ∧
    (fR 3 57 2).ok .off .dst (.below 58) .src = true ∧
    LaneRuns { regs := regOf 3 ++ (groupOf 57 3 ++ regOf 2), reads := groupOf 57 3 ++ regOf 2, cc := true, feat := some 2 } 7 [3] s0 c0 := by
  unfold LaneRuns Issues RowsFree; and_intros <;> decide +kernel

def sX : State := { s0 with cores := [(0, { CoreSt.reset with banks := [(0, { bank0 with kind := 2 })] })] }
def pend0 : FragPending := ⟨0xFFFFFFFF, 0xFFFFFFFF, 52, true, 0x1000, Moduli.default, List.replicate 256 [], false⟩
def gFrag : Group := { tGroup with frag := [pend0] }
theorem hyp_FragmentProducts :
    2 * (48 * 2048 * 2048) + 1 ≤ c0.t.moduli.prod ∧ c0.g.live &&& ~~~c0.active = 0 ∧ (∀ q ∈ s0.badFrag, q.1 ≠ c0.core) ∧
    (Instr.mfrag (fR 48 0 12)).wf = true ∧
    LaneRuns { regs := groupOf 48 8 ++ (groupOf 0 12 ++ groupOf 12 12), reads := groupOf 0 12 ++ groupOf 12 12, cc := true } 7 (groupOf 48 8) s0 c0 ∧
    (Instr.mfraga (fR 48 0 12)).wf = true ∧ (Instr.mfragx (fR 48 0 13)).wf = true ∧
    LaneRuns { regs := groupOf 48 8 ++ (groupOf 0 12 ++ regOf 13), reads := groupOf 0 12 ++ regOf 13, cc := true, feat := some 1 } 7 (groupOf 48 8) sX c0 ∧
    (∀ l ∈ lanesOf c0.active, fragCause sX c0 (c0.reg 13 l) = none ∧ (sX.bank c0.core (fragBank (c0.reg 13 l))).load = none ∧
      fragBad sX c0 (c0.reg 13 l) = []) ∧
    ((at_ State.reset tSub gFrag tTeam).group? 1).map (·.frag) = some [pend0] ∧ gFrag.img = none ∧ pend0.d + 8 ≤ 60 ∧
    gFrag.frag.find? (fun q => !q.ue) = some pend0 ∧ pend0.elems.length = 256 ∧
    (∀ e ∈ [0, 255], reconstruct pend0.mods fragLegit (erasedChans s0 pend0.mods) (pend0.elems.getD e []) = .good 0) := by
  unfold LaneRuns Issues RowsFree; and_intros <;> decide +kernel

/-! #### Memory: way 0 of local memory; the first page, its lines at 0x1000 and 0x2000 held by the core, the latter dirty in L2 -/

def tLoc : Team := { tTeam with ways := [3] }
def cLoc : Ctx := tc tSub tGroup tLoc
def sLoc : State := at_ State.reset tSub tGroup tLoc
def pl (a : Nat) : LPlace := ⟨0, 0, 3, a⟩
theorem hyp_LocalLoadsAndStores :
    (∀ i ∈ [Instr.ldl (fR 3 1 0) 2, .ldl (fR 58 1 0) 3, .ldlv (fR 48 1 0) 2, .stl (fR 58 1 0) 3, .stlv (fR 48 1 0) 2], i.wf = true) ∧
    LaneRuns { regs := groupOf 48 8 ++ regOf 1, reads := regOf 1 } 7 (groupOf 48 8) sLoc cLoc ∧
    LaneRuns { regs := groupOf 48 8 ++ regOf 1, reads := groupOf 48 8 ++ regOf 1 } 7 [] sLoc cLoc ∧
    lateUsed sLoc cLoc.core cLoc.u.issue ≤ Config.lateEntries ∧
    (∀ l ∈ [0, 31], ∀ n ∈ ([1, 2, 4, 8, 16, 32] : List Nat), localPlace sLoc cLoc.t (cLoc.reg 1 l + BitVec.ofInt 32 ((0 : BitVec 6).toInt * (n : Nat))).toNat n n = .ok (pl 0)) ∧
    (∀ l ∈ [0, 31], ∀ n ∈ [1, 32], peerBehind sLoc cLoc (cLoc.reg 1 l + BitVec.ofInt 32 ((0 : BitVec 6).toInt * (n : Nat))).toNat n n = false) ∧
    stashAt sLoc (pl 0) = none ∧ localBad sLoc (pl 0) = false ∧ (pl 0).core = cLoc.core ∧ NMap.wf 0 sLoc.localMem = true ∧
    localPlace sLoc cLoc.t (0xC000 - 8) 8 8 = .ok (pl (0xC000 - 8)) := by
  unfold LaneRuns Issues RowsFree; and_intros <;> decide +kernel

/-- One lane, or all lanes at one place, in ascending order. -/
theorem hyp_LocalAtomics :
    (∀ i ∈ [Instr.atlAdd (fR 3 1 2), .casl (fR 3 1 2) 0, .casl (fR 58 1 2) 1], i.wf = true) ∧
    LaneRuns { regs := regOf 1 ++ groupOf 2 1 ++ groupOf 3 1, reads := regOf 1 ++ groupOf 2 1 } 7 (groupOf 3 1) sLoc cLoc ∧
    LaneRuns { regs := regOf 1 ++ groupOf 2 2 ++ groupOf 58 2, reads := regOf 1 ++ groupOf 2 2 ++ groupOf 58 2 } 7 (groupOf 58 2) sLoc cLoc ∧
    (∀ l ∈ lanesOf (cLoc.execMask 7), ∀ n ∈ [4, 8], localPlace sLoc cLoc.t (cLoc.reg 1 l).toNat n n = .ok (pl 0) ∧
      peerBehind sLoc cLoc (cLoc.reg 1 l).toNat n n = false) ∧
    stashAt sLoc (pl 0) = none ∧ localBad sLoc (pl 0) = false := by
  unfold LaneRuns Issues RowsFree; and_intros <;> decide +kernel

def page0 : Tlb := ⟨0xFFFF, 3, 0, 0x28001F, 0, 0x206000, 64⟩
/-- The page as the controller of the line at 0x3000 holds it. -/
def page3 : Tlb := { page0 with line := 96 }
def line (n : Nat) : L1Line := ⟨0xFFFF, n, zeros 128, 100, 0⟩
def dirty (n : Nat) : L2Line := ⟨0xFFFF, n, 0x280000 + 128 * n, none, zeros 128, true, 0, 0, 0, 0, 0, false⟩
def mem (s : State) : State :=
  { s with cores := [(0, { CoreSt.reset with plb := [page0], l1 := [line 32, line 64, line 65] })], l2 := [dirty 64], tlb := [page0] }
def sM : State := mem s0
def u1 : Sub := newSub 0x1000 1 0 0
def c1 : Ctx := tc u1 tGroup tTeam
def sM1 : State := mem (at_ State.reset u1 tGroup tTeam)
theorem hyp_GlobalLoadsAndStores :
    (∀ i ∈ [Instr.ld (fR 3 4 1) 2, .ld (fR 58 4 1) 3, .lda (fR 58 4 1) 3, .st (fR 58 4 1) 3, .str (fR 3 4 1) 0, .str (fR 58 4 1) 3], i.wf = true) ∧
    LaneRuns { regs := groupOf 58 2 ++ regOf 4, reads := regOf 4 } 7 (groupOf 58 2) sM c0 ∧
    LaneRuns { regs := groupOf 58 2 ++ regOf 4, reads := groupOf 58 2 ++ regOf 4 } 7 [] sM c0 ∧
    lateUsed sM c0.core c0.u.issue + (lanesOf (c0.execMask 7)).length ≤ Config.lateEntries ∧
    (∀ l ∈ lanesOf (c0.execMask 7), (c0.sReg 1 + (c0.reg 4 l).zeroExtend 64).toNat = 0x2000) ∧
    (0x2000 < Config.maxVa ∧ (sM.core c0.core).plb.find? (fun x => x.hits c0.t.asid.toNat 0x2000) = some page0) ∧
    (∀ a ∈ [Access.load, .store], sluiceStops sM c0.t 0x2000 8 a = false ∧ regionsAt sM c0.t 0x2000 8 = []) ∧
    ((sM.core c0.core).l1.find? (fun z => z.asid == c0.t.asid.toNat && z.line == 0x2000 / lineBytes && decide (sM.meridian < z.lease)) = some (line 64) ∧
      c0.t.cow.find? (fun x => x.va == 0x2000 / lineBytes * lineBytes) = none ∧
      sM.sluice.find? (fun q => q.team == some c0.t.tid && q.ranges.any fun r => r.mode == 2 && overlap r.base r.len 0x2000 8) = none) ∧
    page0.r = true ∧ page0.w = true ∧ page0.red = false ∧ page0.uc = false ∧ (line 64).data.length = 128 ∧ sM.stores = [] ∧
    sM.issuesLate = false ∧ (∀ l ∈ lanesOf (c0.execMask 7), lateClash sM c0 l 0x2000 8 = false ∧ acquireWaits sM c0.gid l 0xFFFF 0x2000 8 = false) ∧
    lateOf sM c0.gid (c0.execMask 7) = false := by
  unfold LaneRuns Issues RowsFree; and_intros <;> decide +kernel

/-- Lane 0 alone, its core without the line; L2 with it, without it, or with another device's line whose lease has ended; a UC page. -/
def pageUc : Tlb := { page0 with w0 := 0x28041F }
def sFar (e : Tlb) (l2 : List L2Line) : State := { sM1 with cores := [(0, { CoreSt.reset with plb := [e] })], tlb := [e], l2 := l2 }
theorem hyp_GlobalLoadsAndStores_far :
    LaneRuns { regs := groupOf 58 2 ++ regOf 4, reads := regOf 4 } 7 (groupOf 58 2) (sFar page0 []) c1 ∧
    LaneRuns { regs := groupOf 58 2 ++ regOf 4, reads := regOf 4 } 7 (groupOf 58 2) (sFar pageUc []) c1 ∧
    lanesOf (c1.execMask 7) = [0] ∧ (c1.sReg 1 + (c1.reg 4 0).zeroExtend 64).toNat = 0x2000 ∧
    (∀ e ∈ [page0, pageUc], ((sFar e []).core 0).plb.find? (fun x => x.hits 0xFFFF 0x2000) = some e ∧ sluiceStops (sFar e []) c1.t 0x2000 8 .load = false ∧
      regionsAt (sFar e []) c1.t 0x2000 8 = [] ∧ lateClash (sFar e []) c1 0 0x2000 8 = false ∧ acquireWaits (sFar e []) 1 0 0xFFFF 0x2000 8 = false ∧
      ((sFar e []).core 0).l1.find? (fun z => z.asid == 0xFFFF && z.line == 64 && decide ((sFar e []).meridian < z.lease)) = none ∧
      (sFar e []).regs.merLocked = true ∧ (sFar e []).issuesLate = false ∧
      (sFar e []).tlb.find? (fun z => z.serves 0xFFFF 0x2000) = some e ∧ (sFar e []).podFaults = [] ∧ (sFar e []).isBad (e.pa 0x2000) = false) ∧
    pageUc.uc = true ∧ pageUc.r = true ∧ pageUc.red = false ∧ c1.t.cow = [] ∧ (sFar page0 []).sluice = [] ∧
    (sFar page0 [dirty 64]).l2? 0xFFFF 64 = some (dirty 64) ∧ (dirty 64).owner = none ∧ lineBad (sFar page0 [dirty 64]) (dirty 64) = none ∧
    (sFar page0 []).l2? 0xFFFF 64 = none ∧
    (sFar page0 [{ dirty 64 with owner := some 3 }]).l2? 0xFFFF 64 = some { dirty 64 with owner := some 3 } ∧ (dirty 64).podEnd ≤ (sFar page0 []).meridian := by
  unfold LaneRuns Issues RowsFree; and_intros <;> decide +kernel

theorem hyp_GlobalAtomics :
    (∀ i ∈ [Instr.atomAdd (fR 3 4 1), .casW (fR 58 4 1), .casD (fR 56 4 1), .casQ (fR 48 4 1), .casQAr (fR 48 4 1)], i.wf = true) ∧
    LaneRuns { regs := groupOf 48 8 ++ regOf 4, reads := groupOf 48 8 ++ regOf 4 } 7 (groupOf 48 4) sM1 c1 ∧
    LaneRuns { regs := groupOf 3 1 ++ regOf 4, reads := groupOf 3 1 ++ regOf 4 } 7 (groupOf 3 1) sM1 c1 ∧
    lanesOf (c1.execMask 7) = [0] ∧ (c1.sReg 1 + (c1.reg 4 0).zeroExtend 64).toNat = 0x2000 ∧
    (sM1.core c1.core).plb.find? (fun x => x.hits c1.t.asid.toNat 0x2000) = some page0 ∧
    sluiceStops sM1 c1.t 0x2000 16 .atomic = false ∧ regionsAt sM1 c1.t 0x2000 16 = [] ∧ page0.remote = false ∧
    sM1.l2? c1.t.asid.toNat (0x2000 / 128) = some (dirty 64) ∧ lineBad sM1 (dirty 64) = none ∧ snapLive sM1 (dirty 64) = false ∧
    ownApplied sM1 c1.core c1.t.asid.toNat 0x2000 16 = true ∧ lateClash sM1 c1 0 0x2000 16 = false ∧ page0.replica = false ∧
    applyBound sM1 (dirty 64) 0 ≤ sM1.meridian ∧
    -- all lanes of the issuer at one location
    LaneRuns { regs := groupOf 3 1 ++ regOf 4, reads := groupOf 3 1 ++ regOf 4 } 7 (groupOf 3 1) sM c0 ∧ lanesOf (c0.execMask 7) = List.range 32 ∧
    (∀ l ∈ List.range 32, (c0.sReg 1 + (c0.reg 4 l).zeroExtend 64).toNat = 0x2000 ∧ lateClash sM c0 l 0x2000 4 = false) := by
  unfold LaneRuns Issues RowsFree; and_intros <;> decide +kernel

/-! #### The uniform set -/

/-- The issuer with each kind of check a uniform form may name: nothing, a wait point, the mode, compute cores, each feature. -/
theorem hyp_uniform_runs :
    ∀ G ∈ ([{}, { waitPt := true }, { priv := true }, { cc := true }, { cc := true, waitPt := true }, { cc := true, priv := true },
        { feat := some 0 }, { waitPt := true, feat := some 0 }, { cc := true, feat := some 1 }, { cc := true, feat := some 2 }, { feat := some 3 },
        { priv := true, feat := some 3 }, { waitPt := true, feat := some 3 }, { feat := some 4 }, { waitPt := true, feat := some 4 }] : List Gate),
      Runs G 7 s0 c0 := by
  unfold Runs Issues; decide
theorem hyp_no_records : NoRecords c0 := by unfold NoRecords; decide

theorem hyp_UniformIntegerResults : Issues {} s0 c0 ∧ Runs {} (fU 0 1 2).g s0 c0 ∧ Runs {} (⟨7, 0, 0x7FFF⟩ : UniI).g s0 c0 := by
  unfold Runs Issues; decide

theorem hyp_UniformPredicatesAndMoves :
    (∀ i ∈ [Instr.ucmpEq (fU 6 1 2), .kand (fU 6 7 0), .knot (fU 6 7 0), .kany (fU 0 31 0), .umov (fU 0 1 0), .uactive (fU 0 0 0), .ufirst (fU 0 59 0)],
      i.wf = true) ∧ Runs {} 7 s0 c0 ∧ Runs { regs := [59], reads := [59] } 7 s0 c0 ∧
    regErrors s0 c0.gid [59] (maskOf fun i => i == lowestLane c0.active) = [] := by
  unfold Runs Issues; decide

def tUser : Team := { tTeam with priv := false }
def sUser : State := at_ State.reset tSub tGroup tUser
def cUser : Ctx := tc tSub tGroup tUser
/-- Both modes; indices at the ends of their ranges are named, since each is a literal of the statement. -/
theorem hyp_SystemRegisterAccess :
    Issues {} s0 c0 ∧ (⟨7, 0, 0xFFF⟩ : UniI).i.toNat < 4096 ∧ c0.t.priv = true ∧ c0.uguard 7 = true ∧ Issues {} sUser cUser ∧ cUser.t.priv = false ∧
    isService c0.core = false ∧ s0.regs.launched = false := by
  unfold Issues; decide
/-- A team of a service core, which has no accumulators, banks or containment register. -/
def tServ : Team := { tTeam with core := 271 }
theorem hyp_SystemRegisterAccess_service :
    Runs {} 7 (at_ State.reset tSub tGroup tServ) (tc tSub tGroup tServ) ∧ 256 ≤ (tc tSub tGroup tServ).core := by
  unfold Runs Issues; decide

def uCalls (n : Nat) : Sub := { tSub with calls := List.replicate n 0x3000 }
def gLoop (n : DWord) : Group := { tGroup with s := [(1, n)] }
def uLoop : Sub := { tSub with loops := [⟨1, 0x1004, 0x1010⟩, ⟨0, 0xFF0, 0x1020⟩], lc := [2, 1, 0] }
theorem hyp_BranchesCallsAndLoops :
    Runs {} 7 s0 c0 ∧
    (∀ n ∈ [0, 31, 32], Runs {} 7 (at_ State.reset (uCalls n) tGroup tTeam) (tc (uCalls n) tGroup tTeam) ∧ (uCalls n).calls.length = n) ∧
    (uCalls 32).calls = 0x3000 :: (uCalls 31).calls ∧ (c0.sReg 1).toNat % 4 = 0 ∧ (c0.sReg 1).toNat < 2 ^ 55 ∧ (c0.sReg 2).toNat % 4 ≠ 0 ∧
    2 ^ 55 ≤ ((tc tSub (gLoop 0x80000000000000) tTeam).sReg 1).toNat ∧
    Runs {} 7 (at_ State.reset tSub (gLoop 0) tTeam) (tc tSub (gLoop 0) tTeam) ∧ Runs {} 7 (at_ State.reset tSub (gLoop 1) tTeam) (tc tSub (gLoop 1) tTeam) ∧
    Runs {} 7 (at_ State.reset uLoop tGroup tTeam) (tc uLoop tGroup tTeam) ∧
    (∀ x ∈ uLoop.loops, x.level ≠ 2 ∧ 0x1000 + 4 * (3 + 1) ≤ x.last) ∧ (∃ x ∈ uLoop.loops, x.level = 1 ∨ x.last < 0x1000 + 4 * (4 + 1)) ∧
    uLoop.loops = [] ++ ⟨1, 0x1004, 0x1010⟩ :: [⟨0, 0xFF0, 0x1020⟩] ∧ (∀ x ∈ uLoop.loops, x.level ≠ 2) ∧ uLoop.lc.getD 1 0 = 1 ∧
    (bodyWords (tc uLoop tGroup tTeam) 4 0x1004 { at_ State.reset uLoop tGroup tTeam with
      cores := [(0, { CoreSt.reset with plb := [page0], l1 := [line 32] })] }).2 = some [0, 0, 0, 0] := by
  unfold Runs Issues; and_intros <;> decide +kernel
/-- A register call at the last depth; words that no level ends at, that an inner and that an outer level ends at. -/
theorem hyp_BranchesCallsAndLoops_ends :
    ((tc (uCalls 32) tGroup tTeam).sReg 1).toNat % 4 = 0 ∧ ((tc (uCalls 32) tGroup tTeam).sReg 1).toNat < 2 ^ 55 ∧
    (∀ x ∈ uLoop.loops, x.last ≠ 0x2000) ∧ uLoop.lc.getD 0 0 ≠ 1 ∧ uLoop.loops = [⟨1, 0x1004, 0x1010⟩] ++ ⟨0, 0xFF0, 0x1020⟩ :: [] ∧
    (∀ x ∈ [(⟨1, 0x1004, 0x1010⟩ : LoopFrame)], x.last ≠ 0x1020) := by and_intros <;> decide +kernel

/-- Predicate 0 of lanes 0 and 5, for a BRD that splits; every group slot taken, for one that waits. -/
def gSplit : Group := { tGroup with pred := (List.range 32).map fun l => if l = 0 ∨ l = 5 then 1 else 0, j := [0x21, 3, 0, 0, 0, 0, 0, 0] }
def uSlot (n : Nat) : Sub := { tSub with wait := .brdSlot n }
def sSplit : State := at_ State.reset tSub gSplit tTeam
def cSplit : Ctx := tc tSub gSplit tTeam
def u5 : Sub := newSub 0x1000 0x20 0 0
def w0 : Sub := { newSub 0x1000 1 1 0 with wait := .rejoin 0 }
def gMeet : Group := { gSplit with live := 0x21, subs := [u5, w0] }
def sMeet : State := { at_ State.reset u5 gMeet tTeam with groups := [gMeet], cur := some (1, 5) }
def cMeet : Ctx := ⟨1, 5, gMeet, u5, tTeam⟩
/-- The other group slots are held for the restores of another launch. -/
def sHeld : State := { sSplit with held := [⟨5, 0, 1, 47, 0, [], [], [], 0, []⟩] }
theorem hyp_DivergenceAndRejoining :
    Issues {} sSplit cSplit ∧ cSplit.execMask 0 = 0x21 ∧ cSplit.execMask 0 ≠ cSplit.active ∧ cSplit.execMask 7 = cSplit.active ∧ cSplit.execMask 2 = 0 ∧
    sSplit.groupFreeFor cSplit.core cSplit.t.seq ≠ 0 ∧ sSplit.freeSlot cSplit.core = some 1 ∧ (uSlot 0).wait = .brdSlot 0 ∧
    Issues {} sHeld cSplit ∧ sHeld.groupFreeFor cSplit.core cSplit.t.seq = 0 ∧ cSplit.u.wait = .ready ∧
    Runs {} 7 sSplit cSplit ∧ (∀ u ∈ cSplit.g.subs, u.wait ≠ .rejoin 0) ∧
    Runs { waitPt := true } 7 sSplit cSplit ∧ NoRecords cSplit ∧ cSplit.g.j.getD 7 0 &&& cSplit.g.live = 0 ∧
    cSplit.g.j.getD 0 0 &&& cSplit.g.live ≠ 0 ∧ cSplit.active &&& ~~~(cSplit.g.j.getD 0 0) ≠ 0 ∧
    Runs { waitPt := true } 7 sMeet cMeet ∧ NoRecords cMeet ∧ cMeet.active &&& ~~~(cMeet.g.j.getD 0 0) = 0 ∧ cMeet.g.j.getD 0 0 &&& cMeet.g.live ≠ 0 ∧
    (cMeet.g.subs.filter fun u => !(u.mask == cMeet.u.mask)).filter (fun u => u.wait == .rejoin 0 && u.pc == cMeet.u.pc) = [w0] ∧
    cMeet.g.j.getD 0 0 &&& cMeet.g.live &&& ~~~(w0.mask ||| cMeet.active) = 0 ∧ w0.calls = cMeet.u.calls ∧ w0.loops = cMeet.u.loops ∧ w0.lc = cMeet.u.lc ∧
    (mergeSubs [w0, { cMeet.u.dropChain with wait := .rejoin 0 }] cMeet.u.pc).isSome = true := by
  unfold Runs Issues NoRecords; and_intros <;> decide +kernel
def sSlotOf (n : Nat) : State := { at_ State.reset (uSlot n) gSplit tTeam with held := sHeld.held, cycles := 64 }
def cSlotOf (n : Nat) : Ctx := tc (uSlot n) gSplit tTeam
def w1 : Sub := { w0 with calls := [0x3000] }
def gPart : Group := { gMeet with subs := [u5, w1] }
def sPart : State := { sMeet with groups := [gPart] }
def cPart : Ctx := { cMeet with g := gPart }
/-- A split that has waited long enough for a slot, and one that has not; a rejoin of other calls; a first and a last arrival. -/
theorem hyp_DivergenceAndRejoining_more :
    (∀ n ∈ [64, 65], Issues {} (sSlotOf n) (cSlotOf n) ∧ (cSlotOf n).execMask 0 ≠ (cSlotOf n).active ∧ (cSlotOf n).execMask 0 ≠ 0 ∧
      (sSlotOf n).groupFreeFor (cSlotOf n).core (cSlotOf n).t.seq = 0 ∧ (cSlotOf n).u.wait = .brdSlot n ∧ (cSlotOf n).u.mask ≠ 0) ∧
    64 ≤ (sSlotOf 64).cycles ∧ (sSlotOf 65).cycles < 65 ∧
    Runs { waitPt := true } 7 sPart cPart ∧ NoRecords cPart ∧ cPart.active &&& ~~~(cPart.g.j.getD 0 0) = 0 ∧ cPart.g.j.getD 0 0 &&& cPart.g.live ≠ 0 ∧
    (cPart.g.subs.filter fun u => !(u.mask == cPart.u.mask)).filter (fun u => u.wait == .rejoin 0 && u.pc == cPart.u.pc) = [w1] ∧
    cPart.g.j.getD 0 0 &&& cPart.g.live &&& ~~~(w1.mask ||| cPart.active) = 0 ∧ w1.calls ≠ cPart.u.calls ∧
    (let parked : Sub := { cPart.u.dropChain with wait := .rejoin 0 }
     ((sPart.modGroup cPart.gid fun g => { g with subs := (g.subs.filter fun u => !(u.mask == cPart.u.mask)) ++ [parked] }).ctxOf cPart.gid
       (lowestLane cPart.active)).map Ctx.u = some parked) ∧
    -- alone at a mask of two lanes that nobody else waits at, and of its own lane only
    (let g : Group := { gMeet with subs := [u5, newSub 0x1000 1 1 0] }
     let s : State := { sMeet with groups := [g] }
     let c : Ctx := { cMeet with g := g }
     Runs { waitPt := true } 7 s c ∧ NoRecords c ∧ c.g.j.getD 0 0 &&& c.g.live &&& ~~~c.active ≠ 0 ∧
     ∀ u ∈ c.g.subs.filter (fun u => !(u.mask == c.u.mask)), ¬(u.wait = .rejoin 0 ∧ u.pc = c.u.pc)) ∧
    (let g : Group := { gMeet with subs := [u5, newSub 0x1000 1 1 0], j := [0x20, 0, 0, 0, 0, 0, 0, 0] }
     let s : State := { sMeet with groups := [g] }
     let c : Ctx := { cMeet with g := g }
     Runs { waitPt := true } 7 s c ∧ NoRecords c ∧ c.g.j.getD 0 0 &&& c.g.live ≠ 0 ∧ c.active &&& ~~~(c.g.j.getD 0 0) = 0 ∧
     c.g.j.getD 0 0 &&& c.g.live &&& ~~~c.active = 0 ∧ ∀ u ∈ c.g.subs.filter (fun u => !(u.mask == c.u.mask)), ¬(u.wait = .rejoin 0 ∧ u.pc = c.u.pc)) := by
  unfold Runs Issues NoRecords; and_intros <;> decide +kernel

/-- A second group of the team that has not arrived yet, so that an arrival leaves the generation open. -/
def sTwo : State := { s0 with groups := [{ tGroup with subs := [tSub] }, { tGroup with gid := 2, gslot := 1, subs := [newSub 0x1000 1 1 0] }] }
def tBar (b : Barrier) : Team := { tTeam with bars := [(15, b)] }
theorem hyp_Barriers :
    (fU 0 15 1).a.toNat < 16 ∧ Runs { waitPt := true } 7 s0 c0 ∧ NoRecords c0 ∧ c0.g.subs = [c0.u] ∧ c0.g.live &&& ~~~c0.active = 0 ∧
    (∀ m ∈ [BitVec.ofNat 4 (2 ^ c0.t.roles.length - 1), 1], m.getLsbD c0.g.role = true ∧ expected s0 c0.t m &&& ~~~(0 ||| 1#32 <<< c0.g.gslot) = 0 ∧
      expected sTwo c0.t m &&& ~~~(0 ||| 1#32 <<< c0.g.gslot) ≠ 0) ∧ Issues { waitPt := true } sTwo c0 ∧ Runs {} 7 s0 c0 ∧
    (NMap.get Barrier.init 15 (tBar ⟨5, 1, 1⟩).bars).arr.getLsbD 0 = true ∧ (0 : Int) < ((NMap.get Barrier.init 15 (tBar ⟨5, 0, 0⟩).bars).gen - 4).toInt ∧
    ((NMap.get Barrier.init 15 (tBar ⟨5, 0, 0⟩).bars).gen - 5).toInt ≤ 0 := by
  unfold Runs Issues NoRecords; and_intros <;> decide +kernel
/-- The last arrival, beside a group of the team that waits in ARRWAIT of generation 5, and one of another team. -/
def uBar : Sub := { newSub 0x1000 1 1 0 with wait := .bar 15 5 true (some 3) }
def gBar : Group := { tGroup with gid := 2, gslot := 1, subs := [uBar] }
def tLast : Team := tBar ⟨5, 2, 1⟩
def sLast : State :=
  { at_ State.reset tSub tGroup tLast with
    groups := [{ tGroup with subs := [tSub] }, gBar, { gBar with gid := 3, tid := 9 }], teams := [tLast, { tTeam with tid := 9 }] }
def cLast : Ctx := tc tSub tGroup tLast
theorem hyp_Barriers_release :
    Runs { waitPt := true } 7 sLast cLast ∧ NMap.get Barrier.init 15 cLast.t.bars = ⟨5, 2, 1⟩ ∧ cLast.g.live &&& ~~~cLast.active = 0 ∧
    (1 : BitVec 4).getLsbD cLast.g.role = true ∧ (2 : Word).getLsbD cLast.g.gslot = false ∧
    expected sLast cLast.t 1 &&& ~~~((2 : Word) ||| 1#32 <<< cLast.g.gslot) = 0 ∧ sLast.group? 2 = some gBar ∧ gBar.tid = cLast.t.tid ∧
    uBar.wait = .bar 15 5 true (some 3) ∧ 0 < ((5 : BitVec 32) + 1 - BitVec.ofNat 32 5).toInt ∧ (gBar.subs.map Sub.mask).Nodup ∧
    (sLast.group? 3).map Group.tid = some 9 ∧ (9 : Nat) ≠ cLast.t.tid := by
  unfold Runs Issues; and_intros <;> decide +kernel

theorem hyp_SleepAndWake :
    Runs {} 7 { s0 with meridian := 5 } c0 ∧ (c0.sReg 2).toNat ≤ ({ s0 with meridian := 5 } : State).meridian ∧ s0.meridian < (c0.sReg 2).toNat ∧
    c0.sReg 9 = 0 ∧ c0.g.token = false ∧ c0.t.curfew = none ∧ (c0.sReg 2).toNat / 32 % 2 ^ 58 = 0 ∧ (c0.sReg 3).toNat / 32 % 2 ^ 58 ≠ 0 ∧
    (at_ State.reset (uSlot 0) tGroup tTeam).ctxOf 1 0 = some (tc (uSlot 0) tGroup tTeam) ∧
    (at_ State.reset { tSub with wait := .napUntil 0 } tGroup tTeam).ctxOf 1 0 = some (tc { tSub with wait := .napUntil 0 } tGroup tTeam) ∧
    (at_ State.reset { tSub with wait := .napCyc 0 } tGroup tTeam).ctxOf 1 0 = some (tc { tSub with wait := .napCyc 0 } tGroup tTeam) := by
  unfold Runs Issues; and_intros <;> decide +kernel

/-! #### Launches, teams and their ends -/

/-- A packet: entry 0x4000, 32 items in one team of one group with 60 registers. -/
def pkt (deadline res stats : Nat) : List Byte :=
  natLe 8 0x4000 ++ natLe 4 32 ++ natLe 2 1 ++ natLe 2 1 ++ natLe 8 deadline ++ natLe 8 0 ++ natLe 3 961 ++ natLe 9 0 ++ natLe 4 res ++ natLe 8 stats ++
    natLe 8 0
def L0 (p : List Byte) : Launch := { newLaunch 7 3 0xFFFF p 0x2000 with frozen := true }
def tSeq : Team := { tTeam with seq := 7, launch := 3, superstep := true }
def cSeq : Ctx := tc tSub tGroup tSeq
def sSeq (L : Launch) : State := { at_ State.reset tSub tGroup tSeq with launches := [L], nextSeq := 8 }
def uStep : Sub := { tSub with wait := .sstep 0 }
def sStep : State :=
  { at_ State.reset uStep { tGroup with arrive := [(16, 0xFFFFFFFF)] } tSeq with launches := [{ L0 (pkt 0 0 0) with ssForm := some 0 }] }
theorem hyp_Supersteps :
    (sSeq (L0 (pkt 0 0 0))).launch? cSeq.t.seq = some (L0 (pkt 0 0 0)) ∧ NoRecords cSeq ∧ Runs { waitPt := true } 7 (sSeq (L0 (pkt 0 0 0))) cSeq ∧
    cSeq.t.superstep = true ∧ (L0 (pkt 0 0 0)).ssForm = none ∧ c0.t.superstep = false ∧
    Runs { waitPt := true, feat := some 4 } 7 (sSeq { L0 (pkt 0 0 0) with ssForm := some 1, ssTag := 5, ssCount := 1 }) cSeq ∧
    (cSeq.sReg 2).toNat % 65536 = 5 ∧ (cSeq.sReg 2).toNat / 65536 % 1024 + 1 = 1 ∧
    sStep.launches.find? (fun x => x.entry == 3 && x.active) = sStep.launch? 7 ∧ (sStep.launch? 7).isSome = true ∧
    (∀ L ∈ sStep.launches, L.ssForm = some 0 ∧ deviceStep sStep L = true) ∧ ((launchGroups sStep 7).map Group.gid).Nodup ∧ waitsStep uStep = true := by
  unfold Runs Issues NoRecords; and_intros <;> decide +kernel

def gSpawn (n : DWord) : Group := { tGroup with s := [(1, 0x4000), (2, n), (3, 0x4002), (4, 0x80000000000000)] }
def tSpawn : Team := { tTeam with roles := [⟨2, 60, 0, 0⟩], slotRegs := 3 }
def sSpawn (n : DWord) : State := at_ State.reset tSub (gSpawn n) tSpawn
def cSpawn (n : DWord) : Ctx := tc tSub (gSpawn n) tSpawn
def bin1 (full : Bool) : Bin := ⟨1, 0, 0x4000, 1, [⟨5, 0, noIndex⟩], 64, full⟩
def sBin (full : Bool) (slots : Nat) : State :=
  { sSpawn 1 with cores := [(0, { CoreSt.reset with bins := [bin1 full] })], held := [⟨5, 0, 1, slots, 0, [], [], [], 0, []⟩] }
/-- The issuer parked for `n` rows, behind what an older sub-group waits for. -/
def uRows : Sub := { tSub with wait := .rows }
def sRows (n m : Nat) : State :=
  { at_ State.reset uRows tGroup tTeam with
    groups := [{ tGroup with gid := 0, subs := [uRows] }, { tGroup with subs := [uRows] }]
    cores := [(0, { CoreSt.reset with rowWait := [⟨0, 0xFFFFFFFF, m⟩, ⟨1, 0xFFFFFFFF, n⟩] })] }
theorem hyp_Spawning :
    Runs {} 7 (sSpawn 1) (cSpawn 1) ∧ 0 < ((cSpawn 1).sReg 2).toNat % 65536 ∧ (spawnSlots (sSpawn 1) (cSpawn 1).t 0).head? = some 1 ∧
    (∀ b ∈ ((sSpawn 1).core 0).bins, b.keyed 1 0 0x4000 = false) ∧
    Runs {} 7 (sSpawn 31) (cSpawn 31) ∧ ((cSpawn 31).sReg 2).toNat % 65536 < 32 ∧
    ((cSpawn 1).sReg 1).toNat % 4 = 0 ∧ ((cSpawn 1).sReg 3).toNat % 4 ≠ 0 ∧ 2 ^ 55 ≤ ((cSpawn 1).sReg 4).toNat ∧
    ((sSpawn 1).core 0).bins.length < Config.binsPerCore ∧ (cSpawn 1).t.image = none ∧ (cSpawn 1).t.closed = false ∧
    (sSpawn 1).groupFreeFor 0 0 ≠ 0 ∧ ((sSpawn 1).freeSlot 0).isSome ∧ (cSpawn 1).t.slotRegs = 3 ∧
    (∀ g ∈ (sSpawn 1).groups, g.gid < (sSpawn 1).nextGid) ∧ ((sBin false 47).core 0).bins[0]? = some (bin1 false) ∧
    formBin (replaceBin (sBin false 47) 0 { bin1 false with full := true }) 0 { bin1 false with full := true } = none ∧
    (sBin false 47).cycles < (bin1 false).expires ∧ (bin1 false).expires ≤ ({ sBin false 47 with cycles := 64 } : State).cycles ∧
    (formBin (sBin true 0) 0 (bin1 true)).isSome = true ∧
    (sRows 1 99999).ctxOf 1 0 = some (tc uRows { tGroup with subs := [uRows] } tTeam) ∧
    ((sRows 1 99999).core 0).rowWait.find? (fun q => q.gid == 1 && q.mask == 0xFFFFFFFF) = some ⟨1, 0xFFFFFFFF, 1⟩ ∧
    1 ≤ (sRows 1 99999).regFreeFor 0 0 / 32 ∧ (sRows 1 99999).regFreeFor 0 0 / 32 < 88888 ∧ RowWait.could (sRows 1 99999) ⟨0, 0xFFFFFFFF, 99999⟩ = false ∧
    RowWait.could (sRows 1 1) ⟨0, 0xFFFFFFFF, 1⟩ = true := by
  unfold Runs Issues; and_intros <;> decide +kernel

def uEnd : Sub := { tSub with endPending := true, wait := .stall }
def sEnd : State := at_ State.reset uEnd tGroup tTeam
def cEnd : Ctx := tc uEnd tGroup tTeam
theorem hyp_EndingFibres :
    Runs { waitPt := true } 7 s0 c0 ∧ NoRecords c0 ∧ mayEnd s0 c0.core c0.gid c0.active = true ∧ c0.g.live &&& ~~~c0.active = 0 ∧
    Runs { waitPt := true } 7 sM1 c1 ∧ mayEnd sM1 c1.core c1.gid c1.active = true ∧ c1.g.live &&& ~~~c1.active ≠ 0 ∧
    sEnd.ctxOf 1 0 = some cEnd ∧ cEnd.u.endPending = true ∧ parkedInTrap cEnd.u = false ∧ atSwitchPoint sEnd cEnd = true ∧
    mayEnd sEnd 0 1 cEnd.active = true ∧ NoRecords cEnd ∧ (∀ x ∈ cEnd.g.frag, x.sub &&& cEnd.active = 0) ∧
    (∀ d ∈ cEnd.t.restored, d.gslot = cEnd.g.gslot → cEnd.active.getLsbD d.lane = false) := by
  unfold Runs Issues NoRecords; and_intros <;> decide +kernel

def gHandle (h : DWord) : Group := { tGroup with s := [(1, h)] }
def cH (h : DWord) : Ctx := tc tSub (gHandle h) tTeam
def sH (h : DWord) (L : Launch) : State := { at_ State.reset tSub (gHandle h) tTeam with launches := [L], nextSeq := 8 }
/-- Memory whose line at 0x2000 holds `p` and zeros. -/
def memWith (p : List Byte) (s : State) : State :=
  { s with cores := [(0, { CoreSt.reset with plb := [page0], l1 := [line 32, ⟨0xFFFF, 64, p ++ zeros (128 - p.length), 100, 0⟩] })] }
def sL (p : List Byte) : State := memWith p s0
/-- An issuer that waits with a record it has read. -/
def uQueued (r : List Byte) : Sub := { tSub with wait := .queued r }
theorem c0_not_queued (bs : List Byte) : c0.u.wait ≠ .queued bs := by simp [c0, tc, tSub, newSub]
theorem hyp_LaunchQueue :
    Runs { waitPt := true } 7 (sH 0 (L0 (pkt 0 0 0))) (cH 0) ∧ Runs { waitPt := true } 7 (sH 0x100000000000000 (L0 (pkt 0 0 0))) (cH 0x100000000000000) ∧
    Runs { waitPt := true } 7 (sH 0x703 (L0 (pkt 0 0 0))) (cH 0x703) ∧ Runs { waitPt := true } 7 (sH 0x803 (L0 (pkt 0 0 0))) (cH 0x803) ∧ NoRecords (cH 0) ∧
    (∀ x ∈ (sH 0x803 (L0 (pkt 0 0 0))).launches, x.entry = 0x803 % 256 → x.seq ≠ 0x803 / 256) ∧
    ((sH 0x703 (L0 (pkt 0 0 0))).launches.find? (fun x => x.entry == 0x703 % 256 && x.seq == 0x703 / 256)).isSome = true ∧
    (L0 (pkt 0 0 0)).active = true ∧ Runs {} 7 (sL (pkt 100 0 0)) c0 ∧ (c0.sReg 1).toNat % 64 = 0 ∧ (c0.sReg 2).toNat % 64 ≠ 0 ∧
    pendingStores (sL (pkt 100 0 0)) 1 c0.active true = false ∧
    (readRecord 8 (sL (pkt 100 0 0)) c0 0 0x2000).2 = .ok (pkt 100 0 0) ∧
    Runs {} 7 (at_ State.reset (uQueued (pkt 100 0 0)) tGroup tTeam) (tc (uQueued (pkt 100 0 0)) tGroup tTeam) ∧
    (uQueued (pkt 100 0 0)).wait = .queued (pkt 100 0 0) ∧
    packetOk 31 (pkt 100 0 0) = true ∧ packetOk 31 (zeros 64) = false ∧ takeEntry s0 = some 0 ∧ s0.regs.bootStatus = 4 ∧
    (L0 (pkt 100 0 0)).overdue 0 = false ∧ (L0 (pkt 0 0 0)).overdue 0 = true ∧ pDropLate (pkt 0 0 0) = false ∧ pDropLate (pkt 0 0x8000000 0) = true ∧
    (L0 (pkt 0 0 0)).late = false ∧ (L0 (pkt 0 0 0)).placedAny = false ∧ pArea (pkt 0 0 0) = 0 ∧
    launchOver { s0 with launches := [{ L0 (pkt 0 0 0) with next := 1 }] } { L0 (pkt 0 0 0) with next := 1 } = true ∧
    statFails s0 (L0 (pkt 0 0 0)) = [] := by
  unfold Runs Issues NoRecords; and_intros <;> decide +kernel

def curfew0 : Curfew := ⟨100, 9, false, false, 2, 40, none, false⟩
def tCurf (w : Curfew) : Team := { tTeam with curfew := some w }
def sCurf (u : Sub) (w : Curfew) : State := at_ State.reset u tGroup (tCurf w)
/-- A closed window, over an instruction at 0x1000 that reads no latch, or over the worked IADD v10, b0, v9 of 02_encoding.md. -/
def readsLatch : List Byte := [0x24, 0xBC, 0xE2, 0x02]
def cClosed (w : Wait) : Ctx := tc { tSub with wait := w } tGroup (tCurf { curfew0 with closed := true })
def sClosed (w : Wait) (code : List Byte) : State :=
  { sCurf { tSub with wait := w } { curfew0 with closed := true } with
    cores := [(0, { CoreSt.reset with plb := [page0], l1 := [⟨0xFFFF, 32, code ++ zeros (128 - code.length), 100, 0⟩] })] }
theorem hyp_CurfewAndYield :
    Runs {} 7 s0 c0 ∧ Runs { waitPt := true } 7 s0 c0 ∧ pendingStores s0 1 c0.active true = false ∧ c0.t.curfew = none ∧
    Runs { waitPt := true } 7 (sCurf tSub curfew0) (tc tSub tGroup (tCurf curfew0)) ∧ NoRecords (tc tSub tGroup (tCurf curfew0)) ∧
    (sCurf tSub curfew0).team? 1 = some (tCurf curfew0) ∧ (sCurf tSub curfew0).cycles < curfew0.until_ ∧
    curfew0.until_ ≤ ({ sCurf tSub curfew0 with cycles := 100 } : State).cycles ∧ curfew0.closed = false ∧
    (∀ w ∈ [Wait.ready, .stall, .saving, .rejoin 0, .bar 15 5 true none, .napUntil 9, .napCyc 9, .napWake, .rows, .sstep 0, .brdSlot 0],
      (sCurf { tSub with wait := w } curfew0).ctxOf 1 0 = some (tc { tSub with wait := w } tGroup (tCurf curfew0))) ∧
    (∀ w ∈ [Wait.ready, .stall], (sClosed w []).ctxOf 1 0 = some (cClosed w) ∧ atSwitchPoint (sClosed w []) (cClosed w) = true ∧
      (sClosed w readsLatch).ctxOf 1 0 = some (cClosed w) ∧ atSwitchPoint (sClosed w readsLatch) (cClosed w) = false) ∧
    (sClosed .saving []).ctxOf 1 0 = some (cClosed .saving) ∧ atSwitchPoint (sClosed .saving []) (cClosed .saving) = false ∧
    (sCurf tSub curfew0).groups = [{ tGroup with subs := [tSub] }] ∧ tSub.mask ≠ 0 ∧ tSub.endPending = false := by
  unfold Runs Issues NoRecords; and_intros <;> decide +kernel

def tDawn : Team := { tTeam with kind := .dawn, seq := 7, launch := 3 }
def rgn (e : Nat) (w : Bool) : Region := ⟨e, 0xFFFF, 0x400000, 0x80000, false, 7, false, 1, 0, 0, w, false⟩
def LT : Launch := { L0 (pkt 0 0 0) with region := some 2, frozen := false }
def cDawn : Ctx := tc u1 tGroup tDawn
def sDawn (w : Bool) : State := { at_ State.reset u1 tGroup tDawn with launches := [LT], regions := [rgn 2 w] }
def gNest : Group := { tGroup with nest := [(0, 2)], s := [(1, 65536), (2, 0x80001), (3, 0x400000)] }
def sNest (w : Bool) : State := { at_ State.reset u1 gNest tTeam with regions := [rgn 2 w] }
def gOpen : Group := { gNest with nest := [] }
def sOpen (rs : List Region) : State := { at_ State.reset u1 gOpen tTeam with regions := rs }
def cOpen : Ctx := tc u1 gOpen tTeam
def rgnAt (e : Nat) : Region := { rgn e false with base := 0x800000 + 0x80000 * e }
theorem hyp_DawnTemplates :
    Runs { waitPt := true, feat := some 0 } 7 s0 c0 ∧ c0.t.kind ≠ .dawn ∧ (lanesOf c0.active).length ≠ 1 ∧
    (sDawn true).stores = [] ∧ (sDawn true).fails = [] ∧ (rgn 2 true).base % 128 = 0 ∧
    (((sDawn false).bank cDawn.core 0).owner == some cDawn.t.tid) = false ∧
    (∀ w ∈ [false, true], Runs { waitPt := true, feat := some 0 } 7 (sDawn w) cDawn ∧ (sDawn w).regions.find? (fun x => x.entry == 2) = some (rgn 2 w) ∧
      pendingStores (sDawn w) 1 cDawn.active true = false) ∧ NoRecords cDawn ∧ cDawn.t.kind = .dawn ∧ (lanesOf cDawn.active).length = 1 ∧ cDawn.u.calls = [] ∧
    cDawn.u.loops = [] ∧ cDawn.g.j = List.replicate 8 0 ∧ (sDawn true).launch? 7 = some LT ∧ LT.region = some 2 ∧
    (∀ w ∈ [false, true], Runs { waitPt := true, feat := some 0 } 7 (sNest w) (tc u1 gNest tTeam) ∧ gangLaunch (sNest w) 0 = false ∧
      mayEnd (sNest w) 0 1 1 = true ∧ (sNest w).regions.find? (fun x => x.entry == 2) = some (rgn 2 w)) ∧
    (tc u1 gNest tTeam).g.nestOf 0 = some 2 ∧ ((tc u1 gNest tTeam).sReg 1).toNat ≤ 65536 ∧ 65536 < ((tc u1 gNest tTeam).sReg 2).toNat ∧
    c0.g.nestOf 0 = none ∧
    Runs { feat := some 0 } 7 (sOpen []) cOpen ∧ cOpen.t.kind = .grid ∧ cOpen.g.nestOf 0 = none ∧ cOpen.t.level ≠ 3 ∧
    (cOpen.sReg 3).toNat % 2 ^ 19 = 0 ∧ (cOpen.sReg 2).toNat / 2 % 2 ^ 18 = 0 ∧ (cOpen.sReg 2).toNat / 2 ^ 19 * 2 ^ 19 ≠ 0 ∧
    (∀ e < 64, ∃ r ∈ (sOpen ((List.range 64).map rgnAt)).regions, r.entry = e) ∧
    (∀ r ∈ (sOpen ((List.range 64).map rgnAt)).regions, overlap r.base r.size 0x400000 0x80000 = false) ∧
    (∀ k < 63, ∃ r ∈ (sOpen ((List.range 63).map rgnAt)).regions, r.entry = k) ∧ (∀ r ∈ (sOpen ((List.range 63).map rgnAt)).regions, r.entry ≠ 63) := by
  unfold Runs Issues NoRecords; and_intros <;> decide +kernel

def sPlace : State := { State.reset with launches := [L0 (pkt 100 0 0)], regs := { Regs.reset with bootStatus := 4 } }
theorem hyp_Placement :
    edf s0 = [] ∧ (∀ t ∈ s0.teams, ∃ g ∈ s0.groups, g.tid = t.tid) ∧ edf sPlace = [L0 (pkt 100 0 0)] ∧ sPlace.launch? 7 = some (L0 (pkt 100 0 0)) ∧
    (L0 (pkt 100 0 0)).active = true ∧ (L0 (pkt 100 0 0)).frozen = true ∧ pT (pkt 100 0 0) = false ∧ pLinked (pkt 100 0 0) = false ∧
    pSuper (pkt 100 0 0) = false ∧ pTeams (pkt 100 0 0) = 1 ∧ pModuli (pkt 100 0 0) = 0 ∧ pCb (pkt 100 0 0) = 0 := by
  and_intros <;> decide +kernel
/-- The 64 lines from 0x2000 on, with an image record's RESUME_PC 0x4000, the mask of its banks and KPRED at their head. -/
def imageHead : List Byte := natLe 8 0x4000 ++ natLe 4 0x100 ++ natLe 4 1
def imgPage (k : Nat) : Tlb := { page0 with line := 64 + k }
def imgLine (k : Nat) : L2Line := { dirty (64 + k) with data := if k = 0 then imageHead ++ zeros 112 else zeros 128 }
def img : ImageRef := ⟨0x2000, 0xFFFF⟩
def inMem (s : State) : State :=
  { s with tlb := (List.range 64).map imgPage, l2 := (List.range 64).map imgLine, regs := { s.regs with bootStatus := 4, merLocked := true } }
theorem held_image (s : State) (h1 : s.podFaults = []) (h2 : s.badL2 = []) (h3 : s.badMem = []) (h4 : s.softErrs = []) :
    ∀ k, k < 64 → HeldLine (inMem s) 0xFFFF (0x2000 + 128 * k) (imgLine k) := by
  intro k hk
  have hb : ∀ pa, State.isBad (inMem s) pa = false := by intro pa; simp [State.isBad, inMem, h3]
  refine ⟨by simp [Config.maxVa]; omega, ⟨imgPage k, List.mem_map.2 ⟨k, List.mem_range.2 hk, rfl⟩, ?_⟩, ?_, h1, rfl, ?_, rfl, ?_, h4⟩
  · interval_cases k <;> decide +kernel
  · intro e he
    obtain ⟨i, -, rfl⟩ := List.mem_map.1 he
    exact (by decide : page0.r = true ∧ page0.red = false ∧ page0.uc = false)
  · show List.find? _ ((List.range 64).map imgLine) = _
    interval_cases k <;> decide +kernel
  · have h5 : (inMem s).badL2 = [] := h2
    simp [lineBad, h5, hb]
/-- A templated launch of one team, and a child grid of it, whose image that is. -/
def pktT : List Byte := natLe 8 0x4000 ++ natLe 4 32 ++ natLe 2 1 ++ natLe 2 1 ++ natLe 8 100 ++ natLe 8 0x400005 ++ natLe 3 0x1401 ++ zeros 29
def LG : Launch := { newLaunch 7 3 0xFFFF pktT 0x2000 with frozen := true, dawnPlaced := true, image := some img, moduli := some Moduli.default }
def kid0 : ChildGrid := ⟨1, 5, 1, 0, 0, 3, img⟩
def LK : Launch := { LG with children := [kid0], next := 1 }
def sImg (L : Launch) : State := inMem { State.reset with launches := [L] }
theorem hyp_Placement_stamped :
    (∀ L ∈ [LG, LK], (sImg L).teams = [] ∧ (sImg L).groups = [] ∧ (sImg L).saved = [] ∧ edf (sImg L) = [L] ∧ (sImg L).launch? 7 = some L ∧ L.active = true ∧
      pT L.pkt = true ∧ L.dawnPlaced = true ∧ L.frozen = true ∧ L.moduli = some Moduli.default ∧ pLinked L.pkt = false ∧ pSuper L.pkt = false ∧
      pCb L.pkt = 0 ∧ pTeams L.pkt = 1) ∧
    LG.children = [] ∧ LG.next = 0 ∧ LG.image = some img ∧ LK.children = [kid0] ∧ kid0.next = 0 ∧ childTeams LK kid0 = 1 ∧ kid0.image = img ∧
    LK.next = pTeams LK.pkt := by
  and_intros <;> decide +kernel
theorem hyp_Placement_image (L : Launch) : ∃ hdr, readImage (sImg L) img 0 1024 = (sImg L, some hdr) := by
  refine ⟨_, readImage_held fun p hp => ?_⟩
  have hp' : p ∈ (List.range 8).map fun k => (0x2000 + 128 * k, 128) := hp
  obtain ⟨k, hk, rfl⟩ := List.mem_map.1 hp'
  exact ⟨_, held_image _ rfl rfl rfl rfl k (Nat.lt_of_lt_of_le (List.mem_range.1 hk) (by decide))⟩
theorem hyp_Placement_cores :
    (chooseCore (sImg LG) 7 (planNeed LG .grid 0)).isSome = true ∧ (chooseCore (sImg LK) 7 (planNeed LK (.child kid0) 0)).isSome = true :=
  ⟨chooseCore_isSome (core := 0) (by decide) (by decide +kernel), chooseCore_isSome (core := 0) (by decide) (by decide +kernel)⟩
/-- Bank 0 of an image at 0x1000. -/
theorem hyp_Placement_banks : (∃ bs, readImage (sImg LG) ⟨0x1000, 0xFFFF⟩ (4096 + 4096 * 0) 4096 = (sImg LG, some bs)) ∧
    (fieldN (zeros 9 ++ [1]) 9 1).testBit 0 = true := by
  refine ⟨⟨_, readImage_held fun p hp => ?_⟩, by decide⟩
  have hp' : p ∈ (List.range 32).map fun k => (0x2000 + 128 * k, 128) := hp
  obtain ⟨k, hk, rfl⟩ := List.mem_map.1 hp'
  exact ⟨_, held_image _ rfl rfl rfl rfl k (Nat.lt_of_lt_of_le (List.mem_range.1 hk) (by decide))⟩
/-- The same launch with two banks, of which the image carries one; and a launch without a template that has banks. -/
def LB : Launch := { LG with pkt := pktT.take 0x2C ++ natLe 4 (3 * 2 ^ 19) ++ zeros 16 }
theorem hyp_Placement_named :
    (sImg LB).teams = [] ∧ (sImg LB).groups = [] ∧ edf (sImg LB) = [LB] ∧ (sImg LB).launch? 7 = some LB ∧ LB.active = true ∧ pT LB.pkt = true ∧
    pLinked LB.pkt = false ∧ pSuper LB.pkt = false ∧ pTeams LB.pkt = 1 ∧ LB.image = some img ∧ (∀ b ∈ [0, 1], (pCb LB.pkt).testBit b = true) ∧
    (pCb LB.pkt).testBit 2 = false ∧ (let p := pkt 100 (2 ^ 19) 0
      (pCb p).testBit 0 = true ∧ (pCb p).testBit 1 = false ∧ pModuli p = 0 ∧ pT p = false ∧ pTeams p = 1 ∧ edf { sPlace with launches := [L0 p] } = [L0 p]) := by
  and_intros <;> decide +kernel
theorem hyp_Placement_chosen : (chooseCore (sImg LB) 7 (planNeed LB .grid 0)).isSome = true ∧
    (chooseCore { sPlace with launches := [L0 (pkt 100 (2 ^ 19) 0)] } 7 (planNeed (L0 (pkt 100 (2 ^ 19) 0)) .grid 0)).isSome = true :=
  ⟨chooseCore_isSome (core := 0) (by decide) (by decide +kernel), chooseCore_isSome (core := 0) (by decide) (by decide +kernel)⟩
theorem hyp_Placement_carried : ∃ hdr, readImage (sImg LB) img 0 1024 = (sImg LB, some hdr) ∧ (fieldN hdr 9 1).testBit 0 = true ∧
    (fieldN hdr 9 1).testBit 1 = false ∧ ∀ cores, ∃ bs,
      readImage { sImg LB with cores := cores } img (4096 + 4096 * 0) 4096 = ({ sImg LB with cores := cores }, some bs) := by
  refine ⟨_, readImage_held fun p hp => ?_, by decide +kernel, by decide +kernel, fun cores => ⟨_, readImage_held fun p hp => ?_⟩⟩
  · have hp' : p ∈ (List.range 8).map fun k => (0x2000 + 128 * k, 128) := hp
    obtain ⟨k, hk, rfl⟩ := List.mem_map.1 hp'
    exact ⟨_, held_image _ rfl rfl rfl rfl k (Nat.lt_of_lt_of_le (List.mem_range.1 hk) (by decide))⟩
  · have hp' : p ∈ (List.range 32).map fun k => (0x3000 + 128 * k, 128) := by
      have e : pieces (img.addr + (4096 + 4096 * 0)) 4096 = (List.range 32).map fun k => (0x3000 + 128 * k, 128) := by decide +kernel
      rw [e] at hp; exact hp
    obtain ⟨k, hk, rfl⟩ := List.mem_map.1 hp'
    have h := List.mem_range.1 hk
    have e : 0x3000 + 128 * k = 0x2000 + 128 * (k + 32) := by omega
    rw [e]
    exact ⟨_, held_image { State.reset with launches := [LB], cores := cores } rfl rfl rfl rfl (k + 32) (by omega)⟩
theorem hyp_Placement_core : (chooseCore sPlace 7 (planNeed (L0 (pkt 100 0 0)) .grid 0)).isSome = true :=
  chooseCore_isSome (core := 0) (by decide) (by decide +kernel)

def uStop : Sub := { tSub with wait := .stopped 0 }
/-- A saved team with a way, a bank, an accumulator and a bin, of a launch whose teams are all placed. -/
def savedTeam (v : Option ImageRef) : SavedTeam :=
  ⟨7, 3, { tTeam with ways := [0], acc := 1 }, [], [bin1 true], [⟨0, 0, [(1, 2)], []⟩], [(7, bank0)], [(0, Acc.empty)], v, 4, 2⟩
def LS : Launch := { L0 (pkt 100 0 0) with next := 1 }
def sSaved (v : Option ImageRef) : State := inMem { State.reset with launches := [LS], saved := [savedTeam v] }
theorem hyp_TeamSaving_restore :
    (∀ v ∈ [none, some img], (sSaved v).teams = [] ∧ (sSaved v).groups = [] ∧ edf (sSaved v) = [LS] ∧ (sSaved v).launch? 7 = some LS ∧
      (savedTeam v).seq = LS.seq ∧ (((sSaved v).core 0).bins = [] ∧ ((sSaved v).core 0).images = [])) ∧ LS.active = true ∧ nextPlan LS = none ∧
    NMap.wf 0 ([(1, 2)] : NMap Byte) = true ∧ 1 < partSize 0 ∧ 0 < (({ tTeam with ways := [0] } : Team).parts 0).length ∧
    (savedTeam none).team.acc.getLsbD 0 = true := by
  and_intros <;> decide +kernel
theorem hyp_TeamSaving_core : ∀ v ∈ [none, some img], (chooseCore (sSaved v) 7 (savedNeed (savedTeam v))).isSome = true := by
  have h : ∀ v ∈ [none, some img], fits (sSaved v) 7 (savedNeed (savedTeam v)) 0 = true := by decide +kernel
  exact fun v hv => chooseCore_isSome (by decide) (h v hv)
theorem hyp_TeamSaving_image : ∃ hdr, readImage (sSaved (some img)) img 0 1024 = (sSaved (some img), some hdr) := by
  refine ⟨_, readImage_held fun p hp => ?_⟩
  have hp' : p ∈ (List.range 8).map fun k => (0x2000 + 128 * k, 128) := hp
  obtain ⟨k, hk, rfl⟩ := List.mem_map.1 hp'
  exact ⟨_, held_image _ rfl rfl rfl rfl k (Nat.lt_of_lt_of_le (List.mem_range.1 hk) (by decide))⟩
theorem hyp_TeamSaving :
    (∀ w ∈ [curfew0, { curfew0 with since := some 0 }, { curfew0 with since := some 0, stashed := true }],
      (sCurf uStop w).team? 1 = some (tCurf w) ∧ readyToSave (sCurf uStop w) (tCurf w) = true ∧ pendingUe (sCurf uStop w) 1 = none ∧
      saveWaits (sCurf uStop w) (tCurf w) = false) ∧ (tCurf curfew0).stash = [] ∧ readyToSave (sCurf tSub curfew0) (tCurf curfew0) = false := by
  and_intros <;> decide +kernel

/-! #### Tile work, moduli, codebooks, ways, fences and caches -/

/-- A record of `n` bytes from its non-zero fields: offset, width, value. -/
def fields (n : Nat) (fs : List (Nat × Nat × Nat)) : List Byte :=
  fs.foldl (fun bs f => bs.take f.1 ++ natLe f.2.1 f.2.2 ++ bs.drop (f.1 + f.2.1)) (zeros n)
/-- M = N = 1, K = 48 of which one column is used, both operands dense at 0x2000 with their scales at 0x2040. -/
def block : List Byte := fields 128 [(4, 2, 48), (6, 2, 1), (8, 1, 1), (9, 1, 1), (0x14, 2, 48), (0x16, 2, 48), (0x18, 8, 0x2000), (0x20, 8, 0x2040),
  (0x30, 8, 0x2000), (0x38, 8, 0x2040)]
def drainRec : List Byte := fields 32 [(0, 8, 0x2000)]
def tAcc : Team := { tTeam with acc := 1, handles := [⟨9, 13, false, 0⟩, ⟨10, 2, false, 0⟩, ⟨11, 1, true, 0⟩] }
def sAcc (p : List Byte) : State := memWith p (at_ State.reset u1 tGroup tAcc)
def cAcc : Ctx := tc u1 tGroup tAcc
def gTok (h : DWord) : Group := { tGroup with s := [(1, h)] }
def cTok (h : DWord) : Ctx := tc u1 (gTok h) tAcc
theorem hyp_TileInstructions :
    Runs { cc := true } 7 (sAcc block) cAcc ∧ Runs { cc := true } 7 s0 c0 ∧ (lanesOf c0.active).length ≠ 1 ∧ (lanesOf cAcc.active).length = 1 ∧
    (cAcc.sReg 1).toNat % 128 = 0 ∧ (cAcc.sReg 2).toNat % 128 ≠ 0 ∧ (cAcc.sReg 2).toNat % 32 ≠ 0 ∧ pendingStores (sAcc block) 1 1 true = false ∧
    (readBlock false 16 (sAcc block) cAcc 0 0x2000).2 = .ok block ∧ bSlot block = 0 ∧ cAcc.t.acc.getLsbD 0 = true ∧ cAcc.t.acc.getLsbD 3 = false ∧
    (freeHandle (sAcc block) cAcc.t).isSome = true ∧ ((sAcc block).core 0).tileQ.length < 16 ∧
    (readRecord 4 (sAcc drainRec) cAcc 0 0x2000).2 = .ok drainRec ∧
    Runs { cc := true, feat := some 2 } 7 (sAcc drainRec) cAcc ∧ Runs { cc := true, waitPt := true } 7 (sAcc []) cAcc ∧ NoRecords cAcc ∧
    ((cTok 0x900).sReg 1).toNat = 0x900 ∧ (cAcc.t.handle (0x900 % 32)).seq = 0x900 / 256 ∧ (cAcc.t.handle 0).busy = false ∧ (cAcc.t.handle 0).code = 13 ∧
    (cAcc.t.handle (0xA01 % 32)).seq = 0xA01 / 256 ∧ (cAcc.t.handle 1).code ≠ 13 ∧ (cAcc.t.handle (0xB02 % 32)).busy = true ∧
    (cAcc.t.handle (0xC02 % 32)).seq ≠ 0xC02 / 256 := by
  unfold Runs Issues NoRecords; and_intros <;> decide +kernel

/-- The issuer holds the block it has read, and waits: every handle is busy, or the queue is full. -/
def uHeld : Sub := { u1 with wait := .queued block }
def tBusy : Team := { tAcc with handles := List.replicate 32 ⟨9, 1, true, 0⟩ }
def sFull : State := { at_ State.reset uHeld tGroup tAcc with
  cores := [(0, { CoreSt.reset with tileQ := List.replicate 16 ⟨.zero, 0, 1, 1, 0, 0, 32, [], false, 0, none, 0, tAcc⟩ })] }
theorem hyp_TileInstructions_waits :
    Runs { cc := true } 7 (at_ State.reset uHeld tGroup tBusy) (tc uHeld tGroup tBusy) ∧ freeHandle (at_ State.reset uHeld tGroup tBusy) tBusy = none ∧
    NoRecords (tc uHeld tGroup tBusy) ∧ uHeld.wait = .queued block ∧ tBusy.acc.getLsbD (bSlot block) = true ∧
    Runs { cc := true } 7 sFull (tc uHeld tGroup tAcc) ∧ (freeHandle sFull tAcc).isSome = true ∧ ¬(sFull.core 0).tileQ.length < 16 ∧
    pendingStores sFull 1 1 true = false := by
  unfold Runs Issues NoRecords; and_intros <;> decide +kernel

def op (k : TileKind) (run : Bool) : TileOp := ⟨k, 0, 1, 1, 0, 0x1000, 0, [], run, 0, none, 128, tAcc⟩
def sQ (k : TileKind) (run : Bool) : State :=
  { mem (at_ State.reset u1 tGroup tAcc) with cores := [(0, { CoreSt.reset with tileQ := [op k run] })] }
def noRows : List TRow := []
theorem hyp_TileQueueSteps :
    (sQ (.tile block) false).team? 1 = some tAcc ∧ tAcc.core = 0 ∧ nextToStart (sQ (.tile block) false) 0 = some (op (.tile block) false) ∧
    banksLoading (sQ (.tile block) false) 0 block = false ∧ bBFmt block ≠ 5 ∧ bMcMask block = 0 ∧
    blockStatus 31 tAcc.moduli ((sQ (.tile block) false).acc 0 0) block [] = 0 ∧ blockStatus 31 tAcc.moduli Acc.empty (zeros 128) [] ≠ 0 ∧
    scalesDiffer block Acc.empty noRows noRows = false ∧ bRaw block = false ∧ 0 < tAcc.moduli.mods.getD 5 1 ∧
    nextToStart (sQ .zero false) 0 = some (op .zero false) ∧
    (accOwner (sQ (.inject 1 0 63 63) false) 0 0).isSome = true ∧
    nextToStart (sQ (.inject 1 0 63 63) false) 0 = some (op (.inject 1 0 63 63) false) ∧
    nextToStart (sQ (.drain 0 drainRec) false) 0 = some (op (.drain 0 drainRec) false) ∧ drainStatus Acc.empty 0 (fields 32 [(0, 8, 1)]) ≠ 0 ∧
    ((sQ (.tile block) true).core 0).tileQ.find? (fun q => q.running && q.isTile) = some (op (.tile block) true) ∧
    ((sQ (.drain 0 drainRec) true).core 0).tileQ.find? (fun q => q.running && q.isDrain) = some (op (.drain 0 drainRec) true) ∧
    agentBusy (sQ (.drain 0 drainRec) true) 3 (drainId (op (.drain 0 drainRec) true)) = false := by
  and_intros <;> decide +kernel
/-- Slots to drain: sound, with one residue to correct, with one that none can correct, raw; a record in way 0 of local memory. -/
def accV (raw : Bool) (res : NMap Nat) : Acc := { Acc.empty with valid := true, raw := raw, m := 1, n := 1, ktot := 48, res := res }
def foundIn (x : Acc) : Recon :=
  reconstruct tAcc.moduli (x.legit tAcc.moduli) (erasedChans (sQ (.drain 0 drainRec) false) tAcc.moduli) (x.elem tAcc.moduli 0 0)
def drainLoc : List Byte := fields 32 [(12, 4, 1)]
theorem hyp_TileQueueSteps_drains :
    (∀ form ∈ [0, 1, 2], drainStatus (accV false []) form drainRec = 0 ∧ drainStatus (accV false []) form drainLoc = 0) ∧
    (∀ form ∈ [3, 4], drainStatus (accV true []) form drainRec = 0) ∧ drainStatus (accV true []) 3 drainLoc = 0 ∧
    (foundIn (accV false []) = .good 0 ∧ foundIn (accV true []) = .good 0 ∧ foundIn (accV false [(0, 1)]) = .fixed 0 0 ∧
      foundIn (accV false [(0, 1), (4096, 2), (8192, 77)]) = .ue []) ∧
    rLocal drainRec = false ∧ rLocal drainLoc = true ∧ (sQ (.drain 0 drainRec) false).regions = [] ∧
    (∀ n ∈ [2, 4, 8], localPlace sLoc tLoc 0 n 1 = .ok (pl 0)) ∧ stashAt sLoc (pl 0) = none ∧ localBad sLoc (pl 0) = false ∧
    (op (.drain 0 drainRec) true).entry < 32 ∧
    (∃ z ∈ ({ sQ (.drain 0 drainRec) true with fails := [⟨3, drainId (op (.drain 0 drainRec) true), 1, 0x2000, 7, 4⟩] } : State).fails,
      z.agent = 3 ∧ z.id = drainId (op (.drain 0 drainRec) true)) ∧ fpIsNan 23 0x3F800000 = false ∧ fpIsInf 23 0x3F800000 = false := by
  and_intros <;> decide +kernel
/-- The operands of that block are fetched from the sound line that L2 holds. -/
theorem hyp_TileQueueSteps_rows :
    (fetchRows tAcc block [] (operandA block) (9 * 256) (List.range 64) (sQ (.tile block) false)).2.isOk = true ∧
    (fetchRows tAcc block [] (operandB block) (9 * 256) (List.range 64) (sQ (.tile block) false)).2.isOk = true := by
  and_intros <;> decide +kernel

/-- Its second operand on a page that is not mapped; its first. -/
theorem hyp_TileQueueSteps_fails :
    (let b := fields 128 [(4, 2, 48), (6, 2, 1), (8, 1, 1), (9, 1, 1), (0x14, 2, 48), (0x16, 2, 48), (0x18, 8, 0x100000), (0x20, 8, 0x2040),
       (0x30, 8, 0x2000), (0x38, 8, 0x2040)]
     let s := sQ (.tile b) false
     s.team? 1 = some tAcc ∧ nextToStart s 0 = some (op (.tile b) false) ∧ bBFmt b ≠ 5 ∧ blockStatus 31 tAcc.moduli (s.acc 0 0) b [] = 0 ∧
     (match (fetchRows tAcc b [] (operandA b) (9 * 256) (List.range 64) s) with
      | (s1, .error e) => e.2.all (fun f => f.2 != cAWAY) && (s1.team? 1).isSome
      | _ => false) = true) ∧
    blockOk 31 block = true ∧ blockOk 31 (zeros 128) = false ∧
    blockStatus 31 tAcc.moduli { Acc.empty with valid := false } (fields 128 [(0, 4, 2 ^ 23), (4, 2, 48), (6, 2, 1), (8, 1, 1), (9, 1, 1), (0x14, 2, 48),
       (0x16, 2, 48), (0x18, 8, 0x2000), (0x20, 8, 0x2040), (0x30, 8, 0x2000), (0x38, 8, 0x2040)]) [] = 10 := by
  and_intros <;> decide +kernel

theorem hyp_ResidueSystem :
    Runs { cc := true } 7 (sL (moduliBytes Moduli.default)) c0 ∧ (c0.sReg 1).toNat % 64 = 0 ∧ (c0.sReg 2).toNat % 64 ≠ 0 ∧
    (readRecord 8 (sL (moduliBytes Moduli.default)) c0 0 0x2000).2 = .ok (moduliBytes Moduli.default) ∧
    (uQueued (moduliBytes Moduli.default)).wait = .queued (moduliBytes Moduli.default) ∧
    Runs { cc := true } 7 (at_ State.reset (uQueued (moduliBytes Moduli.default)) tGroup tTeam) (tc (uQueued (moduliBytes Moduli.default)) tGroup tTeam) ∧
    (parseModuli (moduliBytes Moduli.default)).isSome = true ∧ parseModuli (zeros 64) = none ∧ teamTiles s0 c0.t = false ∧
    teamTiles (sQ (.tile block) false) tAcc = true ∧ tAcc.acc.getLsbD 0 = true ∧
    Runs { cc := true, priv := true } 7 s0 c0 ∧ (c0.sReg 2).toNat < 2 ^ 29 ∧ (c0.sReg 2).toNat % 2 ^ 12 ≠ 0 ∧ (c0.sReg 3).toNat / 2 ^ 12 % 8 = 0 ∧
    (s0.core 0).tileQ.length < 16 ∧ Issues { cc := true } sUser cUser ∧ cUser.t.priv = false := by
  unfold Runs Issues; and_intros <;> decide +kernel

def gCb : Group := { tGroup with s := [(1, 0x2000), (2, 0x100), (3, 0x10000), (4, 1), (5, 0x2008), (6, 257)] }
def sBank (b : Bank) : State :=
  { at_ State.reset tSub gCb tTeam with
    cores := [(0, { CoreSt.reset with banks := [(7, b)], plb := [page0], l1 := [line 64] })], tlb := [page0], l2 := [dirty 64] }
def cBank : Ctx := tc tSub gCb tTeam
theorem hyp_CodebookBanks :
    Runs { cc := true, feat := some 1 } 7 (sBank bank0) cBank ∧ (cBank.sReg 9).toNat / 256 % 512 = 0 ∧ 0 < (cBank.sReg 2).toNat / 256 % 512 ∧
    (cBank.sReg 3).toNat / 256 % 512 = 256 ∧ ((sBank bank0).bank 0 7).owner = some 1 ∧ ((sBank { bank0 with owner := some 2 }).bank 0 7).owner.isSome = true ∧
    ((sBank bank0).bank 0 6).owner = none ∧ (sBank bank0).held = [] ∧ bankBusy (sBank bank0) cBank = false ∧
    bankBusy (sBank { bank0 with load := some (0xFFFF, 0x2000, 1, 0) }) cBank = true ∧ (cBank.sReg 4).toNat % 512 = 1 ∧ 256 < (cBank.sReg 6).toNat % 512 ∧
    (cBank.sReg 1).toNat % 16 = 0 ∧ (cBank.sReg 5).toNat % 16 ≠ 0 ∧ (firstUnreadable cBank 0 1 0x2000 (sBank bank0)).2 = none ∧
    podRange (sBank bank0) 0xFFFF 0x2000 16 = false ∧
    (readEntries (some tTeam) 0 0xFFFF 1 0 1 0x2000 (sBank { bank0 with valid := 1, load := some (0xFFFF, 0x2000, 1, 0) })).2.isSome = true ∧
    (255 : BitVec 8).toNat < bank0.valid ∧ ({ bank0 with valid := 255 } : Bank).valid ≤ (255 : BitVec 8).toNat ∧ bank0.badEntry 255 = false := by
  unfold Runs Issues; and_intros <;> decide +kernel

/-- A bank that loads one entry; a fibre with a late load of it; another device's page before the lock. -/
def bankL (va : Nat) : Bank := { bank0 with valid := 1, load := some (0xFFFF, va, 1, 0) }
def cLate : Ctx := tc tSub { gCb with late := [⟨1, [(0, 0x2000)], 3, 4⟩] } tTeam
def page0Far : Tlb := { page0 with w0 := 0x28021F, w1 := 3 * 2 ^ 26 }
def sUnlocked (b : Bank) : State :=
  let s := sBank b
  { s with regs := { s.regs with merLocked := false }, tlb := [page0Far], cores := [(0, { CoreSt.reset with banks := [(7, b)], plb := [page0Far] })] }
theorem hyp_CodebookBanks_loads :
    (∀ q ∈ [(sBank (bankL 0x2000), cBank), (sUnlocked bank0, cBank)], Runs { cc := true, feat := some 1 } 7 q.1 q.2 ∧
      (firstUnreadable q.2 0 1 0x2000 q.1).2 = none) ∧
    ((sBank (bankL 0x2000)).bank 0 7).load.isSome = true ∧ podRange (sUnlocked bank0) 0xFFFF 0x2000 (16 * 1) = true ∧
    lateClash (sBank bank0) cLate 0 0x2000 (16 * 1) = true ∧ (firstUnreadable cLate 0 1 0x2000 (sBank bank0)).2 = none ∧
    podRange (sBank bank0) 0xFFFF 0x2000 (16 * 1) = false ∧ lateClash (sBank bank0) cBank 0 0x2000 (16 * 1) = false ∧
    podRange (sUnlocked (bankL 0x2000)) 0xFFFF 0x2000 (16 * (bankL 0x2000).valid) = true ∧
    (∀ q ∈ [(0x2000, true), (0x100000, false)], ((sBank (bankL q.1)).bank 0 7).load = some (0xFFFF, q.1, 1, 0) ∧
      podRange (sBank (bankL q.1)) 0xFFFF q.1 (16 * (bankL q.1).valid) = false ∧
      (readEntries ((bankL q.1).owner.bind (sBank (bankL q.1)).team?) 0 0xFFFF 1 0 (bankL q.1).valid q.1 (sBank (bankL q.1))).2.isSome = q.2) ∧
    (0 : BitVec 8).toNat < (bankL 0x2000).valid := by
  unfold Runs Issues; and_intros <;> decide +kernel
theorem hyp_CodebookBanks_late : Runs { cc := true, feat := some 1 } 7 { sBank bank0 with groups := [cLate.g] } cLate := by
  unfold Runs Issues; and_intros <;> decide +kernel

/-- A store of lane 0 of the issuer to 0x2000. -/
def store (id : Nat) (stage : Stage) : Store :=
  { id := id, agent := 0, agentId := 0, core := 0, issue := 0, tid := 1, gid := 1, lane := 0, gslot := 0, tslot := 0, pc := 0x1000, va := 0x2000
    asid := 0xFFFF, data := zeros 4, skip := [], kind := 0, floor := 0, seen := true, red := false, replica := false, remote := false, uc := false
    peer := none, stage := stage }
def sSt (st : Store) : State := { sM with stores := [st], meridian := 10 }
def gWay (a b : DWord) : Group := { tGroup with s := [(1, a), (2, b)] }
def tWay (w : List Nat) (m : List StashMap) : Team := { tTeam with ways := w, stash := m }
def sWay (w : List Nat) (m : List StashMap) : State :=
  { at_ State.reset tSub tGroup (tWay w m) with cores := [(0, { CoreSt.reset with plb := [page0] })] }
theorem hyp_WaysAndStash :
    Runs {} 7 (sWay [3, 4] [⟨1, 1, 0x4000⟩]) (tc tSub tGroup (tWay [3, 4] [⟨1, 1, 0x4000⟩])) ∧ (freeWaysFor (sWay [3, 4] []) 0 0).length = 12 ∧
    ((tc tSub (gWay 15 0) tTeam).sReg 1).toNat % 16 = 15 ∧ mappedWay (tWay [3, 4] [⟨1, 1, 0x4000⟩]) 1 = true ∧
    mappedWay (tWay [3, 4] [⟨1, 1, 0x4000⟩]) 0 = false ∧ waysTooFew (sWay [3, 4] []) 0 1 = false ∧
    (pagesReadable (sWay [3, 4] []) 0 0xFFFF (pagesOf 0x10000 0xC000)).2 = true ∧ (pagesReadable (sWay [3, 4] []) 0 0xFFFF (pagesOf 0x80000 0xC000)).2 = false ∧
    overlap 0x4000 0xC000 0x10000 0xC000 = false ∧ overlap 0x4000 0xC000 0x8000 0xC000 = true ∧ dirtyLines (tWay [3, 4] [⟨1, 1, 0x4000⟩]) 1 1 = [] ∧
    (writeBackAll c0 0 [] s0).2 = true ∧
    (∃ st ∈ (sSt { store 1 .retired with kind := 3 }).stores, st.gid = 1 ∧ st.lane = 0 ∧ st.kind = 3) ∧ Runs { cc := true } 7 s0 c0 := by
  unfold Runs Issues; and_intros <;> decide +kernel

/-- A way mapped at 0x2000 whose first line is dirty: sound, bad, and locked; a save of its team. -/
def tDirty : Team := { tWay [3, 4] [⟨1, 1, 0x2000⟩] with stashLines := [(384, ⟨true, 0, 1⟩)] }
def gDirty : Group := gWay 0x11 0
def cDirty : Ctx := tc tSub gDirty tDirty
def sDirty : State := { at_ State.reset tSub gDirty tDirty with cores := [(0, { CoreSt.reset with plb := [page0] })] }
def lineDirty : LPlace × Nat × Nat × StashLine := (⟨0, 0, 4, 0⟩, 384, 0x2000, ⟨true, 0, 1⟩)
def locked1 (m : Nat) : Sluice := ⟨0, 0, 9, 0xFFFF, [⟨0x2000, 0x80, m, true, false, false⟩], none, 0, 0⟩
theorem hyp_WaysAndStash_dirty :
    Runs {} 7 sDirty cDirty ∧ (cDirty.sReg 1).toNat % 16 = 1 ∧ (cDirty.sReg 1).toNat / 16 % 16 = 1 ∧ dirtyLines cDirty.t 1 1 = [lineDirty] ∧
    localBad sDirty lineDirty.1 = false ∧ (∀ r ∈ dirtyRuns lineDirty.2.2.2.dirty, sluiceStops sDirty cDirty.t (lineDirty.2.2.1 + r.1) r.2 .store = false) ∧
    (lateUsed sDirty cDirty.core cDirty.u.issue + 1 ≤ Config.lateEntries ∧ lineDirty.2.2.1 % 128 = 0 ∧
      (lineDirty.2.2.1 < Config.maxVa ∧ (sDirty.core 0).plb.find? (fun x => x.hits 0xFFFF lineDirty.2.2.1) = some page0) ∧ page0.w = true ∧
      regionsAt sDirty cDirty.t lineDirty.2.2.1 128 = []) ∧
    (writeBackAll cDirty 0 [lineDirty] sDirty).2 = true ∧
    (let s : State := { sDirty with badLocal := [(localKey 0 (0xC000 * 4) / 128, 1)] }
     Runs {} 7 s cDirty ∧ [lineDirty].find? (fun q => localBad s q.1) = some lineDirty) ∧
    (let s : State := { sDirty with sluice := [locked1 1] }
     Runs {} 7 s cDirty ∧ localBad s lineDirty.1 = false ∧
     ((dirtyRuns lineDirty.2.2.2.dirty).any fun r => sluiceStops s cDirty.t (lineDirty.2.2.1 + r.1) r.2 .store) = true) ∧
    (∀ n ∈ [0, 1, 2, 3, 6, 7, 8], ((tc tSub (gWay (BitVec.ofNat 64 n) 0) tTeam).sReg 1).toNat % 16 = n) ∧
    (let t := { tDirty with curfew := some { curfew0 with since := some 0 } }
     let s := { at_ State.reset uStop gDirty t with cores := sDirty.cores }
     let c := tc uStop gDirty t
     s.team? 1 = some t ∧ readyToSave s t = true ∧ pendingUe s 1 = none ∧ saveWaits s t = false ∧ (teamSubs s 1).head? = some (1, 0) ∧
     s.ctxOf 1 0 = some c ∧ (t.stashLines.map Prod.fst).Nodup ∧ dirtyLines t 0 t.ways.length = [lineDirty] ∧ localBad s lineDirty.1 = false ∧
     (s.core 0).plb.find? (fun x => x.hits 0xFFFF 0x2000) = some page0 ∧ regionsAt s c.t 0x2000 128 = [] ∧
     lateUsed s c.core c.u.issue + 1 ≤ Config.lateEntries ∧ saveWaits { s with stores := [store 1 .retired] } t = true) := by
  unfold Runs Issues; and_intros <;> decide +kernel

/-- A load of lane 0 that has not performed. -/
def gLate : Group := { tGroup with late := [⟨1, [(0, 0x2000)], 3, 4⟩] }
theorem hyp_Fences :
    Runs { waitPt := true } 7 s0 c0 ∧ Runs { waitPt := true } 7 (sSt (store 1 .retired)) c0 ∧ NoRecords c0 ∧ s0.stores = [] ∧
    (∃ st ∈ (sSt (store 1 .retired)).stores, st.agent = 0 ∧ st.gid = 1 ∧ c0.active.getLsbD st.lane = true ∧ !(st.remote || st.replica)) ∧
    (∀ st ∈ [{ store 1 .retired with uc := true }, { store 1 (.sequenced 3) with replica := true }, { store 1 (.held 5) with uc := true, remote := true }],
      (st.uc || st.red || st.replica || st.peer.isSome) = true ∧ (st.pending || st.placed.isSome) = true) ∧
    Runs { waitPt := true } 7 (at_ State.reset tSub gLate tTeam) (tc tSub gLate tTeam) ∧
    (∃ x ∈ gLate.late, ∃ q ∈ x.addrs, tSub.mask.getLsbD q.1 = true) ∧ c0.g.late = [] ∧
    (∀ l ∈ lanesOf c0.active, c0.g.passAt.getD l 0 ≤ s0.meridian) ∧
    s0.meridian < (tc tSub { tGroup with passAt := [1] } tTeam).g.passAt.getD 0 0 := by
  unfold Runs Issues NoRecords; and_intros <;> decide +kernel

/-- A pending record of lane 0, alone in its sub-group or with the others. -/
def defer0 : Defer := ⟨0x2000, 0x1000, 0xFFFF, 0, 0, 0, 11, 4, 0, 0, 5, 1, 0⟩
def gDefer : Group := { tGroup with defer := [defer0] }
def sDefer (u : Sub) : State := at_ State.reset u gDefer tTeam
def cDefer (u : Sub) : Ctx := tc u gDefer tTeam
theorem oneRecord (u : Sub) (h : u ∈ [u1, tSub]) (st : List Store) : OneRecord { sDefer u with stores := st } (cDefer u) 0 defer0 := by
  have h1 : ∀ u ∈ [u1, tSub], 0 ∈ lanesOf (cDefer u).active ∧ (cDefer u).g.defer.find? (fun x => x.lane == 0) = some defer0 ∧
      (∀ m ∈ lanesOf (cDefer u).active, m ≠ 0 → ∀ x ∈ (cDefer u).g.defer, x.lane ≠ m) ∧ (sDefer u).recs = [] ∧
      ((sDefer u).permitsUsed 0 < 4 ∧ (sDefer u).coalUsed 0 < 16 ∧ (sDefer u).ringUse.length < 1024) := by decide +kernel
  obtain ⟨a, b, c, d, e⟩ := h1 u h
  exact ⟨a, b, c, fun n hn => (by cases hn), (by show (sDefer u).recs.find? _ = none; rw [d]; rfl), e⟩
theorem hyp_Fences_record : (∀ u ∈ [u1, tSub], Runs { waitPt := true } 7 (sDefer u) (cDefer u) ∧ (sDefer u).stores = [] ∧ (cDefer u).g.late = []) ∧
    (cDefer u1).active &&& ~~~(1#32 <<< 0) = 0 ∧ (cDefer tSub).active &&& ~~~(1#32 <<< 0) ≠ 0 ∧ (cDefer u1).active = 1#32 <<< 0 ∧
    Runs { waitPt := true } 7 (sBank (bankL 0x2000)) cBank ∧ (bankL 0x2000).load = some (0xFFFF, 0x2000, cBank.gid, 0) ∧ cBank.active.getLsbD 0 = true := by
  unfold Runs Issues; and_intros <;> decide +kernel

theorem hyp_CacheAndTranslationControl_lines : sM.l2.filter (fun _ => true) = [dirty 64] ∧
    ({ sM with l2 := [] } : State).l2.filter (fun x => x.wtag && x.asid == 0xFFFF) = [] := by and_intros <;> decide +kernel
theorem hyp_CacheAndTranslationControl :
    Runs {} 7 sM c0 ∧ Issues {} sUser cUser ∧ cUser.t.priv = false ∧ Runs { priv := true } 7 sM c0 ∧
    sM.l2.filter (fun x => x.wtag && x.asid == c0.t.asid.toNat && decide (64 ≤ x.line) && decide (x.line < 65)) = [dirty 64] ∧ (dirty 64).owner = none ∧
    ((dirty 64).asid, (dirty 64).line) ∉ sM.badL2 ∧ (permission sM 0 0xFFFF 0x2000).2 = .ok page0 ∧ (permission sM 0 0xFFFF 0x100000).2.isOk = false ∧
    (c0.sReg 9).toNat / 65536 % 4 = 0 ∧ ((tc tSub (gWay 0 0x30000) tTeam).sReg 2).toNat / 65536 % 4 = 3 ∧
    heldOn sM (fun _ _ => true) = false ∧ heldOn (sSt (store 1 (.held 5))) (fun _ _ => true) = true := by
  unfold Runs Issues; and_intros <;> decide +kernel

theorem hyp_WalksAndFills :
    (0x7FFFFFFFFFFFFF : DWord).toNat < 2 ^ 55 ∧ 2 ^ 55 ≤ (0x80000000000000 : DWord).toNat ∧ (translate sM 0xFFFF 0x2000).2 = .ok page0 ∧
    (translate sM 0xFFFF 0x100000).2.isOk = false ∧ (sM.core 1).plb.find? (fun e => e.hits 0xFFFF 0x2000) = none ∧
    (sM.core 0).plb.find? (fun e => e.hits 0xFFFF 0x100000) = none ∧ page0.uc = false ∧ page0.red = false ∧ page0.r = true ∧
    sM.l2? 0xFFFF (0x2000 / 128) = some (dirty 64) ∧ lineBad sM (dirty 64) = none ∧ sM.meridian < leaseEnd sM (dirty 64) ∧
    (sM.core 1).l1.find? (fun z => z.asid == 0xFFFF && z.line == 0x2000 / 128 && decide (sM.meridian < z.lease)) = none := by
  and_intros <;> decide +kernel

def roPage : Tlb := { page0 with w0 := 0x280017 }
/-- Device 3's frame at 0x280000. -/
def farPage : Tlb := { page3 with w0 := 0x28021F, w1 := 3 * 2 ^ 26 }
def redStore : Store := { store 1 (.held 5) with red := true, va := 0x2000 }
def peerStore : Store := { store 1 .retired with peer := some (0, 0x24000, 0) }
def sSt3 (e : Tlb) : State := { sSt { store 1 .retired with va := 0x3000 } with tlb := [e] }
theorem hyp_StoreLife :
    (sSt (store 1 .retired)).store? 1 = some (store 1 .retired) ∧ (sSt { store 1 .retired with va := 0x3000 }).l2? 0xFFFF (0x3000 / 128) = none ∧
    (∀ e ∈ [page3, { page3 with w0 := 0x280017 }, { page3 with w0 := 0x28041F }, { page3 with w0 := 0x28003F }],
      (translate (sSt3 e) 0xFFFF 0x3000).2 = .ok e) ∧ page3.w = true ∧ page3.uc = false ∧ page3.red = false ∧ page3.remote = false ∧ page3.replica = false ∧
    ({ page3 with w0 := 0x28003F } : Tlb).red = true ∧ ({ page3 with w0 := 0x28041F } : Tlb).uc = true ∧ (translate (sSt (store 1 .retired)) 0xFFFF 0x100000).2.isOk = false ∧
    roPage.w = false ∧ (dirtyLine (sSt3 page3) 0xFFFF (0x3000 / 128)).2.isOk = true ∧
    (translate { sSt3 farPage with podFaults := [(3, 0x280000 / 2 ^ 19, 7)] } 0xFFFF 0x3000).2 = .ok farPage ∧
    [(3, 0x280000 / 2 ^ 19, 7)].find? (fun q => farPage.owner == some q.1 && farPage.pa 0x3000 / 2 ^ 19 == q.2.1) = some (3, 0x280000 / 2 ^ 19, 7) ∧
    (dirty 64).wtag = true ∧ ({ dirty 64 with wtag := false } : L2Line).wtag = false ∧
    (translate (sSt { store 1 (.held 5) with uc := true }) 0xFFFF 0x2000).2 = .ok page0 ∧
    (∀ e ∈ [pageUc, { pageUc with w0 := 0x280417 }], (translate { sSt { store 1 (.held 5) with uc := true } with tlb := [e] } 0xFFFF 0x2000).2 = .ok e ∧
      e.uc = true ∧ e.remote = false ∧ snapNeeds { sSt { store 1 (.held 5) with uc := true } with tlb := [e] } (frameLine s0 e 0x2000) = false ∧
      blockedBy { sSt { store 1 (.held 5) with uc := true } with tlb := [e] } { store 1 (.held 5) with uc := true } = false) ∧
    pageUc.w = true ∧ ({ pageUc with w0 := 0x280417 } : Tlb).w = false ∧ isHbm (pageUc.pa 0x2000) = true ∧
    (sSt (store 1 (.sequenced 3))).portsDown ≠ BitVec.allOnes 16 ∧ (∀ y ∈ (sSt (store 1 (.sequenced 3))).stores, y.id = 1 → y = store 1 (.sequenced 3)) ∧
    blockedBy (sSt (store 1 (.held 5))) (store 1 (.held 5)) = false ∧ (sSt (store 1 (.held 5))).l2? 0xFFFF (0x2000 / 128) = some (dirty 64) ∧
    snapLive (sSt (store 1 (.held 5))) (dirty 64) = false ∧ applyBound (sSt (store 1 (.held 5))) (dirty 64) 0 ≤ 10 ∧
    10 < applyBound (sSt (store 1 (.held 5))) (dirty 64) 1000 ∧ (sSt { store 1 (.held 5) with replica := true }).regs.merLocked = true ∧
    (sSt (store 1 (.applied 3))).group? 1 = some c0.g ∧ blockedBy (sSt peerStore) peerStore = false ∧ (splitOffset 0x24000).isSome = true ∧
    (sSt peerStore).tagOf 0 0 3 = 0 ∧ (sSt redStore).colls = [] ∧ blockedBy (sSt redStore) redStore = false := by
  and_intros <;> decide +kernel

/-- A store to device 3: before and after the lock, held at its line; one behind another of its page's sequence; a record to deliver. -/
def sFar3 (locked : Bool) : State := let s := sSt3 farPage; { s with regs := { s.regs with merLocked := locked } }
def heldFar : Store := { store 1 (.held 5) with va := 0x3000, remote := true }
def sHeldFar (locked : Bool) : State :=
  { sFar3 locked with stores := [heldFar], l2 := [{ dirty 96 with pa := 0x280000, owner := some 3 }] }
theorem hyp_StoreLife_far :
    (∀ b ∈ [true, false], (translate (sFar3 b) 0xFFFF 0x3000).2 = .ok farPage ∧ (translate (sFar3 b) 0xFFFF 0x3000).1.podFaults = [] ∧
      (translate (sFar3 b) 0xFFFF 0x3000).1.regs.merLocked = b) ∧ farPage.remote = true ∧ farPage.w = true ∧ farPage.uc = false ∧ farPage.red = false ∧
    (dirtyLine (sFar3 true) 0xFFFF (0x3000 / 128)).2.isOk = true ∧ farPage.pte + 16 ≤ 0x5F80000000 ∧
    (∀ b ∈ [true, false], (sHeldFar b).regs.merLocked = b ∧ (sHeldFar b).store? 1 = some heldFar) ∧ heldFar.remote = true ∧
    blockedBy (sHeldFar true) heldFar = false ∧ (sHeldFar true).l2? 0xFFFF (0x3000 / 128) = some { dirty 96 with pa := 0x280000, owner := some 3 } ∧
    snapLive (sHeldFar true) { dirty 96 with pa := 0x280000, owner := some 3 } = false ∧ 5 ≤ (sHeldFar true).meridian ∧
    applyBound (sHeldFar true) { dirty 96 with pa := 0x280000, owner := some 3 } 0 ≤ (sHeldFar true).meridian ∧
    (translate (sHeldFar true) 0xFFFF 0x3000).2 = .ok farPage := by
  and_intros <;> decide +kernel
theorem hyp_StoreLife_order :
    (let s : State := { sSt (store 1 (.sequenced 3)) with stores := [store 1 (.sequenced 3), store 2 (.sequenced 3)] }
     s.store? 2 = some (store 2 (.sequenced 3)) ∧ s.regs.merLocked = true ∧ (∀ y ∈ s.stores, y.id = 2 → y = store 2 (.sequenced 3)) ∧
     ∃ y ∈ s.stores, y.id ≠ 2 ∧ y.asid = 0xFFFF ∧ overlap y.va y.data.length 0x2000 4 = true ∧ y.stage = .sequenced 3 ∧ y.id < 2) ∧
    returnsAfter { sSt (store 1 (.applied 3)) with stores := [store 0 (.applied 4), store 1 (.applied 3)] } (store 1 (.applied 3)) = true ∧
    returnsAfter (sSt (store 1 (.applied 3))) (store 1 (.applied 3)) = false ∧
    (let s : State := { sSt { store 1 (.held 5) with replica := true } with l2 := [{ dirty 64 with wtag := false }] }
     s.l2? 0xFFFF (0x2000 / 128) = some { dirty 64 with wtag := false }) ∧ (store 1 (.applied 3)).skip = [] := by
  and_intros <;> decide +kernel
theorem hyp_StoreLife_delivers : Runs { waitPt := true } 7 { sDefer u1 with stores := [store 1 .retired] } (cDefer u1) ∧
    ({ sDefer u1 with stores := [store 1 .retired] } : State).store? 1 = some (store 1 .retired) ∧ (cDefer u1).active = 1#32 <<< (store 1 .retired).lane := by
  unfold Runs Issues; and_intros <;> decide +kernel

/-- A collective whose source is the RED range at 0x2000, and the store bound to it. -/
def redRec : List Byte := fields 128 [(0, 4, 0x51000000), (4, 2, 2), (0x0C, 4, 4), (0x18, 8, 0x2000), (0x20, 8, 0x2000)]
def coll0 (r : List Byte) : Coll := ⟨0, 4, 0xFFFF, r, [0, 1], 1, 0, 0, 0, false, [], [], [], [], false, none, false, 0⟩
theorem hyp_StoreLife_red :
    kSmode redRec = true ∧ boundTo (coll0 redRec) redStore = true ∧ contributed (coll0 redRec) redStore = some [0] ∧ redStore.skip = [] := by
  and_intros <;> decide +kernel

/-! #### Engines, the fabric and collectives -/

def gLen (n : DWord) : Group := { tGroup with s := [(1, 0x2000), (2, n), (3, 0x2001)] }
def sLen (n : DWord) (e : List Sluice) : State := { at_ State.reset tSub (gLen n) tTeam with sluice := e }
def cLen (n : DWord) : Ctx := tc tSub (gLen n) tTeam
def entry (k : Nat) (team : Option Nat) : Sluice := ⟨0, k, 5, 0xFFFF, [⟨0x2000, 0x100, 0, true, false, false⟩], team, 0, 0⟩
theorem hyp_Sluices :
    Runs {} 7 (sLen 1 []) (cLen 1) ∧ ((cLen 1).sReg 2).toNat % 2 ^ 32 = 1 ∧ ((cLen 0).sReg 2).toNat % 2 ^ 32 = 0 ∧
    2 ^ 55 < 0x7FFFFFFFFFFFFF + ((cLen 0xFFFFFFFF).sReg 2).toNat % 2 ^ 32 ∧ ((sLen 1 []).sluice.filter fun e => e.team == some 1).length < 8 ∧
    8 ≤ ((sLen 1 ((List.range 8).map fun k => entry k (some 1))).sluice.filter fun e => e.team == some 1).length ∧
    (∃ e ∈ (sLen 1 [entry 0 (some 2)]).sluice, e.team.isSome = true ∧ e.team ≠ some 1 ∧ ∃ r ∈ e.ranges, r.cryst = false ∧ 0x2000 < r.base + r.len ∧ r.base < 0x2001) ∧
    (∃ e ∈ (sLen 1 [entry 0 none]).sluice, e.team.isSome = false ∧ ∃ r ∈ e.ranges, r.cryst = false ∧ 0x2000 < r.base + r.len ∧ r.base < 0x2001) ∧
    freeSluice (sLen 1 []) (clusterOf 0) = some 0 := by
  unfold Runs Issues; and_intros <;> decide +kernel

/-- A plain COPY of 64 bytes from 0x2000 to 0x3000. -/
def copyRec : List Byte := fields 64 [(4, 4, 64), (8, 4, 1), (0x10, 8, 0x2000), (0x18, 8, 0x3000)]
def copyOp (run : Bool) : CopyOp := ⟨0, 2, 6, 9, 0, copyRec, 0xFFFF, 1, 0, 0, 0, 0, [], Moduli.default, run, false, 0, 0, 0, 0⟩
def sCopy (run done : Bool) (h : DWord) : State :=
  { at_ State.reset tSub (gTok h) tTeam with copies := if done then [] else [copyOp run], copyTickets := [(2, ⟨6, 0xFFFF, 1, done, 0⟩)] }
def cHand (h : DWord) : Ctx := tc tSub (gTok h) tTeam
theorem hyp_CopyEngines :
    Runs {} 7 (sL copyRec) c0 ∧ (c0.sReg 1).toNat % 64 = 0 ∧ (c0.sReg 2).toNat % 64 ≠ 0 ∧ (readRecord 8 (sL copyRec) c0 0 0x2000).2 = .ok copyRec ∧
    (takeTicket ((sL copyRec).copyTicket (chooseEngine (sL copyRec) 0)) 64).isSome = true ∧ copyOk 0 copyRec = true ∧ copyOk 0 (zeros 64) = false ∧
    lockedBy (sL copyRec) 1 0xFFFF (copyRanges 0 copyRec 6) = none ∧ intoTemplate (sL copyRec) tTeam 0x3000 64 = false ∧
    (sCopy false false 0).copies.find? (fun x => x.unit_ == 0) = some (copyOp false) ∧ heldBack (sCopy false false 0) 9 = false ∧
    awaitsPod (sCopy false false 0) 9 = false ∧ olderWork (sCopy false false 0) 1 0 = false ∧ agentBusy (sCopy true false 0) 1 9 = false ∧
    (sCopy true false 0).copies.find? (fun x => x.unit_ == 0) = some (copyOp true) ∧
    Runs { waitPt := true } 7 (sCopy false false 0x60002) (cHand 0x60002) ∧ NoRecords (cHand 0x60002) ∧ ((cHand 0x60002).sReg 1).toNat = 0x60002 ∧
    0x60002 / 2 ^ 12 % 16 = 0 ∧ 0x60002 / 2 ^ 7 % 2 = 0 ∧ ((sCopy false false 0).copyTicket (2 * (0x60002 / 2 ^ 8 % 16) + 0x60002 / 2 ^ 6 % 2) (0x60002 % 64)).seq = 6 ∧
    ((sCopy true true 0).copyTicket 0 2).done = true ∧ ((sCopy true false 0).copyTicket 0 2).done = false := by
  unfold Runs Issues NoRecords; and_intros <;> decide +kernel

/-- A wait for an entry, and a wait for older work. -/
def tickets (n : Nat) : NMap Ticket := (List.range n).map fun k => (k, ⟨6, 0xFFFF, 1, false, 0⟩)
theorem hyp_CopyEngines_waits :
    Runs {} 7 { at_ State.reset (uQueued copyRec) tGroup tTeam with copyTickets := tickets 128 } (tc (uQueued copyRec) tGroup tTeam) ∧
    (uQueued copyRec).wait = .queued copyRec ∧ takeTicket (({ s0 with copyTickets := tickets 128 } : State).copyTicket 0) 64 = none ∧
    copyOk 0 copyRec = true ∧ copyOk 0 (zeros 64) = false ∧ pendingStores (at_ State.reset (uQueued copyRec) tGroup tTeam) 1 0xFFFFFFFF true = false ∧
    (sCopy true false 0).copies.find? (fun x => x.unit_ == 0) = some (copyOp true) ∧ (copyOp true).running = true := by
  unfold Runs Issues; and_intros <;> decide +kernel
/-- Rows of each kind from the line at 0x2000 to the line at 0x80000 of the next page: COPY, QB of 24 FP32 values, RP16 of one FP32 value,
SB to BF16 of 24, a gather of one row whose index is there too. -/
def pageD : Tlb := { page0 with vpage := 1, w0 := 0x30001F, line := 4096 }
def toD (len l : Nat) (more : List (Nat × Nat × Nat)) : List Byte :=
  fields 64 ([(4, 4, len), (8, 4, 1), (0x0C, 2, l), (0x10, 8, 0x2000), (0x18, 8, 0x80000)] ++ more)
def rowOp (k : Nat) (r : List Byte) : CopyOp := { copyOp true with kind := k, record := r }
def sRow : State := { sM with tlb := [page0, pageD] }
theorem writable_D {s : State} {a n : Nat} (h : ∀ p ∈ pieces a n, p.1 < Config.maxVa ∧ s.tlb.find? (fun e => e.serves 0xFFFF p.1) = some pageD)
    (own : Bool) : Writable s 0xFFFF a n own :=
  fun p hp => ⟨(h p hp).1, pageD, (h p hp).2, by decide, by decide, fun hx => absurd hx (by decide)⟩
theorem hyp_CopyEngines_rows :
    (∀ q ∈ [(0, toD 64 0 [], 64, [(0x80000, 64)]), (1, toD 24 24 [(0x28, 8, 0x80040)], 96, [(0x80000, 36), (0x80040, 4)]),
        (2, toD 1 0 [(0, 4, 2 ^ 24), (0x34, 4, 2)], 4, (List.range 6).map fun k => (0x80000 + 2 * k, 2)),
        (3, toD 24 24 [(0x28, 8, 0x2040)], 36, [(0x80000, 48)]), (4, toD 4 0 [(0x28, 8, 0x2040), (0x34, 4, 4)], 4, [(0x80000, 4)])],
      copyOk q.1 q.2.1 = true ∧ (rowOp q.1 q.2.1).code = 0 ∧ (copyRead (rowOp q.1 q.2.1) false false sRow 0x2000 q.2.2.1).2.isOk = true ∧
      qDlocal q.2.1 = false ∧
      ∀ w ∈ q.2.2.2, ∀ p ∈ pieces w.1 w.2, p.1 < Config.maxVa ∧
        (copyRead (rowOp q.1 q.2.1) false false sRow 0x2000 q.2.2.1).1.tlb.find? (fun e => e.serves 0xFFFF p.1) = some pageD) ∧
    (copyRead (rowOp 3 copyRec) false false sRow 0x2040 4).2 = .ok (zeros 4) ∧ ¬2 ^ 22 ≤ fieldN (zeros 4) 0 4 ∧ 2 ^ 22 ≤ fieldN (natLe 4 0x400000) 0 4 ∧
    (copyRead (rowOp 0 copyRec) false false sRow 0x100000 64).2.isOk = false ∧ ¬4 < 0 * 4 + 4 ∧ 4 < 1 * 4 + 4 := by
  and_intros <;> decide +kernel
/-- A line of the crystallizer, of a region granted to the ASID or to none. -/
theorem hyp_CopyEngines_drain :
    granted { s0 with grants := [(0, 0x1FFFF)] } 0 0xFFFF = true ∧ granted s0 0 0xFFFF = false ∧ (crystLineWrite s0 0 (zeros 256)).2.1 = true ∧
    (pieces 0x2000 256).length = 2 ∧ copyOk 5 (fields 64 [(4, 4, 256), (8, 4, 1), (0x10, 8, 0x2000)]) = true := by
  and_intros <;> decide +kernel

theorem hyp_CopyEngines_drainRead : ∃ bs, copyRead (copyOp true) false true (inMem State.reset) 0x2000 256 = (inMem State.reset, .ok bs) := by
  unfold copyRead
  refine ⟨_, readPieces_held (f := fun p => slice (((inMem State.reset).l2? 0xFFFF (p.1 / 128)).map L2Line.data |>.getD []) (p.1 % 128) p.2) _ fun p hp => ?_⟩
  have hp' : p ∈ (List.range 2).map fun k => (0x2000 + 128 * k, 128) := hp
  obtain ⟨k, hk, rfl⟩ := List.mem_map.1 hp'
  have h := held_image State.reset rfl rfl rfl rfl k (Nat.lt_of_lt_of_le (List.mem_range.1 hk) (by decide))
  have e := h.engPiece (n := 128) (t := (inMem State.reset).team? (copyOp true).tid) rfl
  have f := h.found
  have hs : (inMem State.reset).snaps = [] := rfl
  simp only [Bool.false_eq_true, if_false, opGlobalPiece, hs, List.find?_nil, if_true]
  rw [show (copyOp true).asid.toNat = 0xFFFF from rfl, e]
  simp only [lineBytes] at f ⊢
  rw [f]; rfl

/-- A table of one state over one entry, and a job of one chunk. -/
def table : List Byte := fields 24 [(0, 2, 1), (4, 4, 1)]
def jobRec : List Byte := fields 64 [(4, 4, 1), (8, 8, 0x2000), (0x18, 8, 0x3000), (0x20, 8, 0x4000)]
def job (run : Bool) : BrineJob := ⟨3, 2, 6, 9, jobRec, 0xFFFF, 1, 0, 0, 0, run, 0, 0, 0, []⟩
def sJob (run done : Bool) (h : DWord) : State :=
  { at_ State.reset tSub (gTok h) tTeam with brine := if done then [] else [job run], brineTickets := [(50, ⟨6, 0xFFFF, 1, done, 0⟩)] }
theorem hyp_BrineLanes :
    Runs { priv := true, feat := some 3 } 7 (sL table) c0 ∧ (c0.sReg 1).toNat % 16 = 0 ∧ (c0.sReg 2).toNat % 16 ≠ 0 ∧
    (readRecord 2 (sL table) c0 0 0x2000).2 = .ok (table.take 16) ∧ tableHeadOk (table.take 16) = true ∧ tableHeadOk (zeros 16) = false ∧ min 65536 (16 + 4 * (tStates (table.take 16) + tEnts (table.take 16))) = 24 ∧
    (readRecord 3 (sL table) c0 0 0x2000).2 = .ok table ∧ tableOk table = true ∧ tableOk (fields 24 [(0, 2, 1), (4, 4, 1), (16, 4, 0xFFFFFFFF)]) = false ∧
    Runs { feat := some 3 } 7 (sL jobRec) c0 ∧ (readRecord 8 (sL jobRec) c0 0 0x2000).2 = .ok jobRec ∧ jobOk jobRec = true ∧ jobOk (zeros 64) = false ∧
    (takeTicket ((sL jobRec).brineTicket 5) 16).isSome = true ∧ matchLane (sL jobRec) 0 = none ∧ lockedBy (sL jobRec) 1 0xFFFF (jobRanges jobRec) = none ∧
    Runs { waitPt := true, feat := some 3 } 7 (sJob true false 0x60302) (cHand 0x60302) ∧ NoRecords (cHand 0x60302) ∧
    ((sJob true false 0).brineTicket (0x60302 / 2 ^ 8 % 32) (0x60302 % 16)).seq = 6 ∧ ((sJob true true 0).brineTicket 3 2).done = true ∧
    (sJob false false 0).brine.find? (fun x => x.lane == 3) = some (job false) ∧ heldBack (sJob false false 0) 9 = false ∧
    awaitsPod (sJob false false 0) 9 = false ∧ olderWork (sJob false false 0) 1 0 = false ∧ (sJob false false 0).brineTable 3 = none ∧
    (sJob true false 0).brine.find? (fun x => x.lane == 3) = some (job true) ∧ agentBusy (sJob true false 0) 2 9 = false := by
  unfold Runs Issues NoRecords; and_intros <;> decide +kernel

/-- BTBL waits for the jobs queued before it; BRINE waits with its record; the lane's job waits. -/
def uTable : Sub := { tSub with wait := .table 10 table }
theorem hyp_BrineLanes_waits :
    Runs { priv := true, feat := some 3 } 7 (at_ State.reset uTable tGroup tTeam) (tc uTable tGroup tTeam) ∧ uTable.wait = .table 10 table ∧
    (∃ j ∈ (sJob false false 0).brine, j.lane = 3 ∧ j.order < 10) ∧ (∀ j ∈ (sJob true true 0).brine, j.lane = 3 → 10 ≤ j.order) ∧
    (∀ order image, c0.u.wait ≠ .table order image) ∧ tableOk (table.take 24) = true ∧
    Runs { feat := some 3 } 7 (at_ State.reset (uQueued jobRec) tGroup tTeam) (tc (uQueued jobRec) tGroup tTeam) ∧
    (uQueued jobRec).wait = .queued jobRec ∧ (job true).running = true ∧
    takeTicket (({ s0 with brineTickets := tickets 512 } : State).brineTicket 5) 16 = none := by
  unfold Runs Issues
  and_intros
  all_goals first | decide +kernel | (intro o i; simp [c0, tc, tSub, newSub])
/-- Before the lock: an operation whose source, and a job whose chunk descriptor, is another device's; one that reads sound lines. -/
def sAway : State := { at_ State.reset tSub tGroup tTeam with tlb := [page0Far], regs := { s0.regs with merLocked := false } }
theorem hyp_CopyEngines_away :
    (let s : State := { sAway with copies := [copyOp false] }
     let z := runCopy s { copyOp false with running := true }
     s.copies.find? (fun x => x.unit_ == 0) = some (copyOp false) ∧ heldBack s 9 = false ∧ awaitsPod s 9 = false ∧ olderWork s 1 0 = false ∧
     z.2.code = 3 ∧ z.2.cause = cAWAY) ∧
    (let z := runCopy { sRow with copies := [copyOp false] } { copyOp false with running := true, record := toD 64 0 [] }
     ¬(z.2.code = 3 ∧ z.2.cause = cAWAY)) ∧
    ({ copyOp true with waitTo := 100 } : CopyOp).waitTo > s0.meridian ∧ copyOk 0 copyRec = true ∧ copyOk 0 (zeros 64) = false := by
  and_intros <;> decide +kernel
theorem hyp_BrineLanes_away :
    (let j : BrineJob := { job false with record := fields 64 [(4, 4, 1), (8, 8, 0x2010), (0x18, 8, 0x2000), (0x20, 8, 0x80000)] }
     let s : State := { sAway with brine := [j], brineTables := [(3, some ⟨0, table⟩)] }
     let z := runJob s { j with running := true }
     s.brine.find? (fun x => x.lane == 3) = some j ∧ heldBack s 9 = false ∧ awaitsPod s 9 = false ∧ olderWork s 1 0 = false ∧
     (s.brineTable 3).isSome = true ∧ z.2.code = 3 ∧ z.2.cause = 0) ∧
    jobOk jobRec = true ∧ jobOk (zeros 64) = false := by
  and_intros <;> decide +kernel

/-- Two states: emit 0x41, then END. A chunk of no input bytes, its descriptor at 0x2000, written to 0x80000. -/
def table2 : List Byte := fields 32 [(0, 2, 2), (4, 4, 2), (20, 4, 1), (24, 4, 0x10010041), (28, 4, 0x70000000)]
def chunkDesc (out crc : Nat) : List Byte := natLe 4 0 ++ natLe 4 0 ++ natLe 4 out ++ natLe 4 crc
def chunkJob : BrineJob := { job true with record := fields 64 [(4, 4, 1), (8, 8, 0x2010), (0x18, 8, 0x2000), (0x20, 8, 0x80000)] }
def sChunk (out crc : Nat) : State := { sRow with l2 := [{ dirty 64 with data := chunkDesc out crc ++ zeros 112 }] }
theorem hyp_BrineLanes_chunks :
    jobOk chunkJob.record = true ∧ tableOk table2 = true ∧ chunkJob.code = 0 ∧ chunkImage chunkJob.record [0x41] = [0x41] ∧
    (∀ q ∈ [(1, 0xE16DCDEE), (1, 5), (2, 5), (0, 0)], (jobRead chunkJob (sChunk q.1 q.2) 0x2000 16).2 = .ok (chunkDesc q.1 q.2) ∧
      (jobRead chunkJob (jobRead chunkJob (sChunk q.1 q.2) 0x2000 16).1 0x2010 0).2 = .ok []) ∧
    decodeChunk table2 [] 1 ((freeWord s0.fresh).toNat % 65536) = .ok [0x41] ∧ decodeChunk table2 [] 2 ((freeWord s0.fresh).toNat % 65536) = .error 7 ∧ crc32c [0x41] = 0xE16DCDEE ∧
    (∀ p ∈ pieces 0x80000 1, p.1 < Config.maxVa ∧ (sChunk 1 0xE16DCDEE).tlb.find? (fun e => e.serves 0xFFFF p.1) = some pageD) ∧
    (jobRead chunkJob (sChunk 1 5) 0x100000 16).2.isOk = false ∧ (s0.brineTable 3).isSome = false ∧
    (({ s0 with brineTables := [(3, some ⟨0, table2⟩)] } : State).brineTable 3).map BrineTable.id = some (jTable chunkJob.record) := by
  and_intros <;> decide +kernel

/-- An ASID table at 0x100000 whose first entry names four levels of tables, the last with one compressible leaf of age 4. -/
def sZone : State :=
  { s0 with
    mem := [(0x4000, 1), (0x4001, 0x60), (0x6000, 1), (0x6001, 0x80), (0x8000, 1), (0x8001, 0xA0), (0xA000, 3), (0xA001, 0x10), (0xA002, 0x28),
      (0xA00D, 4), (0x100000, 3), (0x100001, 0x40)]
    regs := { s0.regs with asidTable := 0x100001, zoneReq := 2, zoneBase := 0x400000, zoneSize := 0x100000, noticeBase := 0x20000 } }
def zLeaf : ZoneLeaf := ⟨0, 0, 0xA000⟩
theorem hyp_ZoneEngine :
    s0.regs.zoneReq = 0 ∧ sZone.regs.zoneReq ≠ 0 ∧ noticeFree sZone = true ∧ zoneCandidates sZone = [zLeaf] ∧
    noticeFree { sZone with mem := sZone.mem ++ [(0x20000000F, 0x80)], regs := { sZone.regs with noticeBase := 0x200000000 } } = false ∧
    leafAge sZone zLeaf = 4 ∧ zLeaf.pte + 16 ≤ Config.firmwareBase ∧ (∀ p ∈ [0x4000, 0xA010], p < zLeaf.pte ∨ zLeaf.pte + 16 ≤ p) ∧
    sZone.regs.noticeBase.toNat + 16 * sZone.noticeNext + 16 ≤ Config.firmwareBase ∧ zLeaf.pte + 16 ≤ sZone.regs.noticeBase.toNat ∧
    zLeaf.pte + 16 ≤ sZone.regs.zoneBase.toNat ∧ (∀ x ∈ sZone.l2, x.asid = 0 → x.line / 4096 ≠ 0) ∧ sZone.badMem = [] := by
  and_intros <;> decide +kernel

def putRec : List Byte := fields 64 [(8, 4, 8), (0x10, 8, 0x2000), (0x18, 8, 0x3000)]
def xfer (moved : Bool) : Transfer := ⟨5, 9, 0xFFFF, putRec, 1, 0, 0, 0, false, [], moved, 0, 0, 8⟩
def inReq (kind : Nat) : InboundReq := { kind := kind, asid := 0xFFFF, raddr := 0x2000, len := 8, data := zeros 8, rctr := 7, rinc := 1, aop := 0, opnd := 0, cmpv := 0 }
theorem takeTicket_none {get : Nat → Ticket} {n : Nat} (h : ∀ e, e < n → (get e).done = false) : takeTicket get n = none := by
  have e : (List.range n).filter (fun e => (get e).done) = [] := List.filter_eq_nil_iff.2 fun e he => by simp [h e (List.mem_range.1 he)]
  rw [takeTicket, e]; rfl
/-- Every entry that transfers or collectives may take is in use. -/
def sBusy : State := { s0 with fabTickets := NMap.tab Ticket.idle 4096 fun _ => ⟨6, 0xFFFF, 1, false, 0⟩ }
theorem hyp_Transfers_full : freeTransfer sBusy = none ∧ freeColl sBusy = none := by
  constructor <;> refine takeTicket_none fun e he => ?_ <;> simp only [Config.transferEntries, Config.collEntries] at he <;>
    simp [State.fabTicket, sBusy, collKey, NMap.get_tab, show e < 4096 by omega, show 2048 + e < 4096 by omega]

def okResp : FabricResp := ⟨0, 0, 0, []⟩
def getRec : List Byte := fields 64 [(0, 4, 2 ^ 30), (4, 2, 3), (8, 4, 8), (0x10, 8, 0x80000), (0x18, 8, 0x3000)]
def sXfer (moved : Bool) : State := { sRow with transfers := [xfer moved] }
theorem hyp_Transfers :
    Runs { feat := some 4 } 7 (sL putRec) c0 ∧ (readRecord 8 (sL putRec) c0 0 0x2000).2 = .ok putRec ∧ transferOk putRec = true ∧ xKind putRec = 0 ∧
    transferOk (zeros 64) = false ∧ freeTransfer (sL putRec) = some 0 ∧ (c0.sReg 1).toNat % 64 = 0 ∧ (c0.sReg 2).toNat % 64 ≠ 0 ∧
    Runs { feat := some 4 } 7 (at_ State.reset (uQueued putRec) tGroup tTeam) (tc (uQueued putRec) tGroup tTeam) ∧
    (uQueued putRec).wait = .queued putRec ∧ intoTemplate (sL putRec) tTeam 0x80000 8 = false ∧
    -- what this device sends and asks for
    (sXfer false).transfers.find? (fun y => y.entry == 5) = some (xfer false) ∧ (xfer false).moved = false ∧ State.reset.regs.merLocked = false ∧
    sM.regs.merLocked = true ∧ (xfer false).fired = false ∧ olderWork (sXfer false) 1 0 = false ∧
    (copyRead (xfer false).op false false (sXfer false) 0x2000 8).2 = .ok (zeros 8) ∧
    (copyRead (xfer false).op false false (sXfer false) 0x100000 8).2.isOk = false ∧ ownDevice sM 0 = true ∧ ownDevice sM (xDev getRec) = false ∧
    sM.portsDown ≠ BitVec.allOnes 16 ∧ answerOk putRec okResp = true ∧ answerOk putRec ⟨5, 0, 0, []⟩ = false ∧ answerOk putRec ⟨7, 0, 0, []⟩ = true ∧
    transferOk getRec = true ∧ xKind getRec = 1 ∧ xLlocal getRec = false ∧ xLaddr getRec = 0x80000 ∧ answerOk getRec ⟨0, 0, 0, zeros 8⟩ = true ∧
    ownTemplate (sXfer false) 0 0xFFFF 0x80000 8 = false ∧ (sXfer true).transfers.find? (fun y => y.entry == 5) = some (xfer true) ∧
    agentBusy (sXfer true) 1 9 = false ∧ sM.fails = [] ∧
    -- what another device sends and asks for
    (∀ k ∈ [0, 1, 2], requestOk (inReq k) = true) ∧ requestOk { inReq 3 with opnd := 1 } = true ∧ counterTagged sM 0xFFFF 7 = false ∧
    counterTagged { sM with counters := [(7, ⟨5, 0xFFFF, true⟩)] } 0xFFFF 7 = true ∧
    (inReq 0).len ≤ 128 - (inReq 0).raddr.toNat % 128 ∧ 0 < (inReq 0).len ∧ sM.tlb.find? (fun y => y.serves 0xFFFF 0x2000) = some page0 ∧
    page0.r = true ∧ page0.w = true ∧ page0.red = false ∧ page0.replica = false ∧ page0.remote = false ∧ page0.uc = false ∧
    sM.l2? 0xFFFF (0x2000 / 128) = some (dirty 64) ∧ (dirty 64).owner = none ∧ lineBad sM (dirty 64) = none ∧ (dirty 64).wtag = true ∧
    atomicReady sM (dirty 64) = true ∧ (∀ q ∈ [0, 3], (aopNew q 1 0 0).isSome = true) ∧
    ({ sM with inbound := [⟨8, inReq 2, 0, 0, 8⟩] } : State).inbound.find? (fun y => y.order == 8) = some ⟨8, inReq 2, 0, 0, 8⟩ ∧
    agentBusy { sM with inbound := [⟨8, inReq 2, 0, 0, 8⟩] } 4 8 = false ∧
    -- a line of this device's memory, which L2 does not hold
    lineReqOk s0 { inReq 4 with len := 128 } = true ∧ lineReqOk s0 (inReq 5) = true ∧ linesAt s0 0x2000 = [] ∧ s0.isBad 0x2000 = false ∧
    grantEnd s0 0x2000 = 0 ∧ grantEnd { s0 with podGrants := [(64, 5)] } 0x2000 + 80 ≤ ({ s0 with podGrants := [(64, 5)], meridian := 85 } : State).meridian := by
  unfold Runs Issues; and_intros <;> decide +kernel
/-- A transfer before the lock, with and without a port, and behind older work; a fired one; an inbound PUT before the lock; a line whose
home has promised to grant no later lease. -/
theorem hyp_Transfers_waits :
    (∀ p ∈ [0, 0xFFFF], (let s : State := { sAway with transfers := [xfer false], portsDown := BitVec.ofNat 16 p }
      s.transfers.find? (fun y => y.entry == 5) = some (xfer false) ∧ s.regs.merLocked = false ∧ olderWork s 1 0 = false ∧
      (s.portsDown ≠ BitVec.allOnes 16 ↔ p = 0))) ∧
    (let s : State := { sXfer false with stores := [store 1 .retired], copies := [copyOp false], transfers := [{ xfer false with gen := 1 }] }
     s.transfers.find? (fun y => y.entry == 5) = some { xfer false with gen := 1 } ∧ olderWork s 1 1 = true ∧
     ({ xfer false with gen := 1, fired := true } : Transfer).fired = true) ∧
    sAway.regs.merLocked = false ∧ transferOk putRec = true ∧ transferOk (zeros 64) = false ∧
    (∀ w ∈ s0.podCaps, w.1 ≠ 0x2000 / 128) ∧ (inReq 10).kind = 10 := by
  and_intros <;> decide +kernel
/-- Where an inbound PUT and what a GET brings are written. -/
theorem hyp_Transfers_writes : Writable (sXfer false) 0xFFFF 0x80000 8 ∧ Writable (sXfer false) 0xFFFF 0x80000 8 true :=
  ⟨writable_D (by decide +kernel) _, writable_D (by decide +kernel) _⟩

def sendRec : List Byte := fields 64 [(8, 4, 8), (0x10, 8, 0x2000), (0x18, 8, 0x3000), (0x32, 2, 4095), (0x38, 8, 1)]
def slot (armed : Bool) (h : Nat) : TSlot := ⟨2, 8, 0xFFFF, sendRec, 0, 1, 0, [], armed, !armed, h⟩
def sSend (z : List TSlot) : State := { sL sendRec with tsend := z, counters := [(0x100, ⟨5, 0xFFFF, true⟩)] }
theorem hyp_CountersAndTriggers :
    Runs { feat := some 4 } 7 (sSend []) c0 ∧ c0.t.priv = true ∧ Runs { feat := some 4 } 7 sUser cUser ∧
    ¬(cUser.t.priv = true ∨ ((NMap.get Counter.reset 0x100 sUser.counters).v = true ∧ (NMap.get Counter.reset 0x100 sUser.counters).tag = 0xFFFF)) ∧
    (c0.sReg 3).toNat % 4096 = 0x100 ∧ (NMap.get Counter.reset 0x100 (sSend []).counters).val.toNat = (c0.sReg 2).toNat ∧
    (NMap.get Counter.reset 0x100 (sSend []).counters).val.toNat < (c0.sReg 1).toNat ∧ (readRecord 8 (sSend []) c0 0 0x2000).2 = .ok sendRec ∧
    transferOk sendRec = true ∧ fieldN sendRec 0x32 2 = 4095 ∧ freeTslotEntry (sSend []) = some 0 ∧
    (slot true 0).token ≠ (slot true 0).handle ∧ (sSend [slot false 0]).tsend.find? (fun y => y.slot == 2 && y.fired && y.handle == 0) = some (slot false 0) ∧
    (sSend [slot true 0]).tsend.find? (fun z => z.token == (slot true 0).token && z.asid == 0xFFFF) = some (slot true 0) ∧
    freeTransfer (sSend [slot false 0]) = some 0 ∧ (c0.sReg 1).toNat % 64 = 0 ∧ (c0.sReg 2).toNat % 64 ≠ 0 ∧ transferOk (zeros 64) = false ∧
    (∃ y ∈ [{ slot false 0 with slot := 3, seq := 7 }, slot false 0], y.fired = true ∧ y.handle = 0 ∧ y.seq < (slot false 0).seq) ∧
    (∀ y ∈ [slot false 0], y.fired = true → y.handle = 0 → (slot false 0).seq ≤ y.seq) ∧
    (slot false 5).armed = false ∧ (slot false 5).fired = true ∧ (slot false 5).handle ≠ 0 := by
  unfold Runs Issues; and_intros <;> decide +kernel
/-- An armed send that waits for counter 7, and an update of it that reaches the threshold; a fired one without its handle yet. -/
theorem hyp_CountersAndTriggers_fires :
    (let rec7 := fields 64 [(8, 4, 8), (0x10, 8, 0x2000), (0x18, 8, 0x3000), (0x32, 2, 7), (0x38, 8, 5)]
     let z : TSlot := { slot true 0 with record := rec7 }
     let g : Group := { tGroup with s := [(1, 7), (2, 5)] }
     let s : State := { at_ State.reset tSub g tTeam with tsend := [z] }
     let c := tc tSub g tTeam
     Runs { feat := some 4 } 7 s c ∧ (c.sReg 1).toNat % 4096 = 7 ∧ c.t.priv = true ∧ pendingStores s 1 c.active true = false ∧
     z.armed = true ∧ fieldN z.record 0x32 2 % 4096 = 7 ∧ fieldN z.record 0x38 8 ≤ (c.sReg 2).toNat ∧
     (NMap.get Counter.reset 7 s.counters).val + c.sReg 2 = 5) ∧
    (let z := slot false 0
     let g : Group := { tGroup with s := [(1, BitVec.ofNat 64 z.token)] }
     let s : State := { at_ State.reset tSub g tTeam with tsend := [z] }
     let c := tc tSub g tTeam
     Runs { feat := some 4 } 7 s c ∧ s.tsend.find? (fun y => y.token == (c.sReg 1).toNat && y.asid == c.t.asid) = some z ∧ z.armed = false ∧
     z.fired = true ∧ z.handle = 0 ∧ s.tsend.find? (fun y => y.token == 0 && y.asid == c.t.asid) = none) ∧
    (readRecord 8 (sSend []) c0 0 0x2000).2 = .ok sendRec ∧ transferOk sendRec = true := by
  unfold Runs Issues; and_intros <;> decide +kernel
/-- Every slot is armed. -/
theorem hyp_CountersAndTriggers_full : freeTslotEntry (sSend ((List.range 1024).map fun k => { slot true 0 with slot := k })) = none := by
  simp only [freeTslotEntry, firstFrom_none, Config.tsendSlots]
  intro i _ hi
  simp [sSend, slot, TSlot.busy]
  omega
/-- A port, and a foreign pod with a route both ways. -/
def sPods (ports : DWord) : State :=
  { s0 with colls := [{ coll0 [] with ranks := [0, 3 * 65536] }], routes := [(0, 0x10000), (4, 0x10003 + 0x1000000 * ports)] }
theorem hyp_CountersAndTriggers_ports :
    (15 : Nat) < 16 ∧ (3 : Nat) ≠ ownPod (sPods 1) ∧ (∃ x ∈ (sPods 1).colls, ∃ r ∈ x.ranks, r / 2 ^ 16 % 2 ^ 16 = 3) ∧ routed (sPods 1) (ownPod (sPods 1)) = true ∧
    3 ∉ (sPods 1).qpairs ∧ reachable (sPods 1) 3 = true ∧ (∀ e, e < 1024 → routePod (sPods 0) e = 3 → routePorts (sPods 0) e = 0) := by
  and_intros <;> decide +kernel

/-- An all-reduce of 4 FP32 elements between devices 0 and 1 of this pod. -/
def collRec : List Byte := fields 128 [(0, 4, 0), (4, 2, 2), (0x0C, 4, 4), (0x10, 8, 0x2040), (0x18, 8, 0x2000), (0x20, 8, 0x2000), (0x30, 8, 0x3000)]
def ticket1 (done : Bool) : State := { at_ State.reset tSub (gTok 0x68001) tTeam with
  fabTickets := [(2049, ⟨6, 0xFFFF, 1, done, 0⟩)], colls := [{ coll0 collRec with entry := 1 }] }
def sRanks (e : Nat) : State := { sM with l2 := [{ dirty 64 with data := zeros 64 ++ natLe 4 e ++ zeros 60 }] }
theorem hyp_CollectiveCommands :
    Runs { feat := some 4 } 7 (sL collRec) c0 ∧ (c0.sReg 1).toNat % 128 = 0 ∧ (c0.sReg 3).toNat % 128 = 0 ∧ (c0.sReg 2).toNat % 128 ≠ 0 ∧
    (readRecord 16 (sL collRec) c0 0 0x2000).2 = .ok collRec ∧ freeColl (sL collRec) = some 0 ∧ collOk collRec = true ∧ collOk (zeros 128) = false ∧
    (engRead (newFab sM 2048 0xFFFF).1 (some c0.t) 0xFFFF 0x2040 8).2 = .ok (zeros 8) ∧ namesMe sM 0 = true ∧ namesMe sM 5 = false ∧
    Runs { feat := some 4 } 7 (ticket1 false) (cHand 0x68001) ∧ ((cHand 0x68001).sReg 1).toNat = 0x68001 ∧ 0x68001 / 2 ^ 11 % 16 = 0 ∧
    ((ticket1 false).fabTicket (2048 + 0x68001 % 2 ^ 11)).seq = 6 ∧ ((ticket1 true).fabTicket 2049).done = true ∧
    (ticket1 false).colls.find? (fun x => 2048 + x.entry == 2049) = some { coll0 collRec with entry := 1 } ∧
    -- a queued record (`hyp_Transfers_full` for no entry), RANKS with a reserved bit and with another device, other handles
    Runs { feat := some 4 } 7 (at_ State.reset (uQueued collRec) tGroup tTeam) (tc (uQueued collRec) tGroup tTeam) ∧
    (uQueued collRec).wait = .queued collRec ∧ kN collRec = 2 ∧ kRank collRec = 0 ∧
    (∀ e ∈ [0x400, 5], (engRead (newFab (sRanks e) 2048 0xFFFF).1 (some c0.t) 0xFFFF 0x2040 8).2 = .ok (natLe 4 e ++ zeros 4)) ∧
    fieldN (natLe 4 0x400 ++ zeros 4) 0 4 / 2 ^ 10 % 2 ^ 6 ≠ 0 ∧ namesMe sM 0x400 = true ∧ (∀ i, i < 2 → fieldN (zeros 8) (4 * i) 4 / 2 ^ 10 % 2 ^ 6 = 0) ∧
    (∀ h ∈ [0x68001, 0x78001, 0x60001], (h : Nat) ≠ 0 ∧ h < 2 ^ 48 ∧ h / 2 ^ 11 % 16 = 0) ∧ (0x60801 : Nat) / 2 ^ 11 % 16 ≠ 0 ∧ (0x78001 : Nat) / 2 ^ 16 ≠ 6 ∧
    (0x60001 : Nat) / 2 ^ 15 % 2 = 0 ∧ ((ticket1 false).fabTicket 2049).asid = (cHand 0x68001).t.asid ∧ (coll0 collRec).stop = none := by
  unfold Runs Issues; and_intros <;> decide +kernel

/-- RANKS that cannot be read, or lies on another device before the lock; an abort that has stopped it, before the lock, without a port. -/
theorem hyp_CollectiveCommands_ranks :
    (let r := fields 128 [(0, 4, 0), (4, 2, 2), (0x0C, 4, 4), (0x10, 8, 0x100000), (0x18, 8, 0x2000), (0x20, 8, 0x2000)]
     collOk r = true ∧ (∃ e, (engRead (sL r) (some c0.t) 0xFFFF 0x100000 8).2 = .error e ∧ e.2 ≠ 0)) ∧
    (let s : State := { at_ State.reset (uQueued collRec) tGroup tTeam with tlb := [page0Far], regs := { s0.regs with merLocked := false } }
     Runs { feat := some 4 } 7 s (tc (uQueued collRec) tGroup tTeam) ∧ (uQueued collRec).wait = .queued collRec ∧ (freeColl s).isSome = true ∧
     ∃ e, (engRead s (some tTeam) 0xFFFF 0x2040 8).2 = .error e ∧ e.2 = 0) ∧
    (∀ st ∈ [none, some (8, 0)], (let x : Coll := { coll0 collRec with entry := 1, stop := st }
      let s : State := { ticket1 false with colls := [x] }
      Runs { feat := some 4 } 7 s (cHand 0x68001) ∧ s.colls.find? (fun x => 2048 + x.entry == 2049) = some x)) ∧
    (let s : State := { ticket1 false with regs := { s0.regs with merLocked := false } }
     Runs { feat := some 4 } 7 s (cHand 0x68001) ∧ Runs { feat := some 4 } 7 { s with portsDown := 0xFFFF } (cHand 0x68001) ∧
     s.portsDown ≠ BitVec.allOnes 16 ∧ ({ s with portsDown := 0xFFFF } : State).portsDown = BitVec.allOnes 16) := by
  unfold Runs Issues
  and_intros
  all_goals first | decide +kernel | exact ⟨_, rfl, by decide +kernel⟩

def sColl (x : Coll) : State := { sM with colls := [x] }
def met : Coll := { coll0 collRec with met := true, src := zeros 16 }
/-- A reduction to the participant of a rank; a write of the collective that failed. -/
def redTo (root : Nat) : List Byte := fields 128 [(0, 4, 2 ^ 30), (4, 2, 2), (8, 2, root), (0x0C, 4, 4), (0x10, 8, 0x2040), (0x18, 8, 0x2000), (0x20, 8, 0x2000)]
def failure : AgentFail := ⟨5, 4, 9, 0x2000, 3, 16⟩
theorem hyp_CollectiveSteps :
    (sColl (coll0 collRec)).colls.find? (fun y => y.entry == 0) = some (coll0 collRec) ∧ (sColl met).regs.merLocked = true ∧
    olderWork (sColl (coll0 collRec)) 1 0 = false ∧ pathless (sColl (coll0 collRec)) (coll0 collRec) = false ∧
    pathless { sColl (coll0 collRec) with portsDown := 0xFFFF } (coll0 collRec) = true ∧ [0, 1].Nodup ∧ ¬[0, 0].Nodup ∧
    (∀ e ∈ (coll0 collRec).ranks, e / 2 ^ 16 % 2 ^ 16 = ownPod sM) ∧ kSmode collRec = false ∧
    (engRead (sColl (coll0 collRec)) ((sColl (coll0 collRec)).team? 1) 0xFFFF 0x2000 16).2 = .ok (zeros 16) ∧
    met.closed = true ∧ chunkCount collRec = 1 ∧ writesResult collRec = true ∧ kSkip collRec = 0 ∧ kMcMask collRec = 0 ∧ kDst collRec ≠ 0 ∧
    ownTemplate (sColl met) 0 0xFFFF 0x2000 16 = false ∧
    (reduceChunk collRec (chunkElems collRec 0) [zeros 16, zeros 16]).1.length = chunkElems collRec 0 * elemSize collRec ∧
    agentBusy (sColl met) 5 4 = false ∧ kDone collRec ≠ 0 ∧ met.mapped = false ∧ (coll0 collRec).met = false ∧ met.stop = none ∧
    freeBufs (sColl (coll0 collRec)) ≠ 0 ∧ freeBufs (sColl { met with bufs := 1536 }) = 0 ∧
    gather met 0 ⟨false, []⟩ = none ∧ gather met 0 ⟨false, [(1, zeros 16)]⟩ = some [zeros 16, zeros 16] ∧
    writesResult (redTo 0) = true ∧ writesResult (redTo 1) = false ∧ kDst collRec + 65536 * 0 = 0x2000 ∧
    firstFail { sColl met with fails := [failure] } 5 4 = some (9, 0x2000, 3) ∧ (∀ y ∈ (sColl met).fails, y.agent = 5 → y.id ≠ 4) ∧
    ¬(met.met = true ∧ met.chunks.length = 1) ∧ ({ met with chunks := [0] } : Coll).chunks.length = 1 ∧
    ({ met with stop := some (6, 0) } : Coll).stop = some (6, 0) := by
  and_intros <;> decide +kernel

/-- Before the lock, with a path and without; a collective that skips NaN elements; a multicast to positions 0 and 1 of cluster 0, of which a
team of launch 7 owns the segments of the first; trees of one to five elements. -/
def mcRec : List Byte := fields 128 [(4, 2, 2), (0x0C, 4, 4), (0x10, 8, 0x2040), (0x18, 8, 0x2000), (0x38, 4, 0x0C0000), (0x3C, 2, 3), (0x40, 2, 9)]
def mcColl : Coll := { met with record := mcRec, lseq := 7 }
def tSegs : Team := { tTeam with seq := 7, launch := 3, segs := List.range 16 }
theorem hyp_CollectiveSteps_more :
    (∀ p ∈ [0, 0xFFFF], (let s : State := { sAway with colls := [coll0 collRec], portsDown := BitVec.ofNat 16 p }
      s.colls.find? (fun y => y.entry == 0) = some (coll0 collRec) ∧ s.regs.merLocked = false ∧ olderWork s 1 0 = false ∧
      (pathless s (coll0 collRec) = true ↔ p = 0xFFFF))) ∧
    (let r := fields 128 [(0, 4, 2 ^ 25), (4, 2, 2), (0x0C, 4, 4), (0x10, 8, 0x2040), (0x18, 8, 0x2000), (0x20, 8, 0x2000), (0x28, 8, 0x2400)]
     let x : Coll := { met with record := r }
     kSkip r = 1 ∧ kMcMask r = 0 ∧ kDst r ≠ 0 ∧ writesResult r = true ∧ gather x 0 ⟨false, [(1, zeros 16)]⟩ = some [zeros 16, zeros 16] ∧
     (reduceChunk r (chunkElems r 0) [zeros 16, zeros 16]).1.length = chunkElems r 0 * elemSize r ∧
     ownTemplate (sColl x) 0 0xFFFF (kCount r) (reduceChunk r (chunkElems r 0) [zeros 16, zeros 16]).2.length = false) ∧
    (let s : State := { at_ State.reset tSub tGroup tSegs with colls := [mcColl] }
     s.colls.find? (fun y => y.entry == 0) = some mcColl ∧ kMcMask mcRec ≠ 0 ∧ kDst mcRec = 0 ∧ kSkip mcRec = 0 ∧ writesResult mcRec = true ∧
     chunkCount mcRec = 1 ∧ kMcDest mcRec + 65536 * 0 + 16 ≤ 0x140000 ∧ gather mcColl 0 ⟨false, [(1, zeros 16)]⟩ = some [zeros 16, zeros 16] ∧
     (reduceChunk mcRec (chunkElems mcRec 0) [zeros 16, zeros 16]).1.length = chunkElems mcRec 0 * elemSize mcRec ∧
     (∀ p ∈ [0, 1], (kMcMask mcRec).testBit p = true) ∧ (kMcMask mcRec).testBit 2 = false ∧
     (∀ i ∈ List.range 16, ((s.partOwner 0 1 i).map Team.seq == some 7) = true ∧ s.partOwner 1 1 i = none)) ∧
    (∀ q ∈ [(0, 1), (1, 2), (2, 3), (2, 4), (3, 5)], q.2 ≤ 2 ^ q.1 ∧ (q.1 = 0 ∨ 2 ^ (q.1 - 1) < q.2)) ∧
    (∀ k ∈ [0, 1, 2], (k : Nat) ≤ 1024) ∧ (let r := fields 128 [(0, 4, 2 ^ 22), (4, 2, 2), (0x0A, 2, 9)]; kCen r = true ∧ kLctr r = 9) := by
  and_intros <;> decide +kernel

/-! #### Traps, the host and the machine as a whole -/

def rec0 (ring : Option Nat) (closed : Bool) (kind : Nat) : TrapRec :=
  { seq := 5, core := 0, addr := 0x2000, pc := 0x1000, cause := 38, kind := kind, pos := 0, cluster := 0, asid := 0xFFFF, groups := 1, lanes := 1, time := 0
    drec := none, info := 0, info2 := 0, opened := 0, closed := closed, ring := ring, stuck := false }
def sRec (r : TrapRec) (u : Sub) : State := { at_ State.reset u tGroup tTeam with recs := [r], nextRec := 6 }
theorem hyp_TakingATrap :
    Runs {} 7 s0 c0 ∧ s0.ctxOf 1 0 = some c0 ∧ c0.active ≠ 0 ∧ c0.t.kind = .grid ∧ (∀ h ∈ s0.groups, h.gid = 1 → h = c0.g) ∧
    (∀ w ∈ c0.g.subs, w.mask = c0.u.mask → w.wait = .ready) ∧ s0.recs = [] ∧ s0.permitsUsed 0 < 4 ∧ s0.coalUsed 0 < 16 ∧ s0.ringUse.length < 1024 ∧
    (sRec (rec0 none false 0) tSub).recs.find? (fun r => r.core == c0.core && r.kind == 0 && r.asid == c0.t.asid.toNat && r.cause == 38 &&
      r.addr / 2 ^ 19 % 2 ^ 36 == 0x2004 / 2 ^ 19 % 2 ^ 36 && !r.closed && decide (0 < r.opened + 256)) = some (rec0 none false 0) ∧
    1024 ≤ (NMap.tab 0 1024 fun _ => 7).length ∧ ({ tTeam with kind := .service 3 } : Team).kind = .service 3 := by
  unfold Runs Issues; and_intros <;> decide +kernel

def uBack : Sub := { tSub with wait := .backoff 64 }
def sRing (r : TrapRec) : State := { mem (sRec r tSub) with regs := { s0.regs with tqBase := 0x2000, svcAsid := 0xFFFF } }
theorem hyp_TrapQueue :
    (at_ State.reset uBack tGroup tTeam).ctxOf 1 0 = some (tc uBack tGroup tTeam) ∧ uBack.wait = .backoff 64 ∧ (at_ State.reset uBack tGroup tTeam).cycles < 64 ∧
    64 ≤ ({ at_ State.reset uBack tGroup tTeam with cycles := 64 } : State).cycles ∧
    (sRec (rec0 none false 0) tSub).recs.find? (fun q => q.seq == 5) = some (rec0 none false 0) ∧ (rec0 none false 0).closed = false ∧
    (rec0 none true 0).closed = true ∧ (rec0 none true 2).kind = 2 ∧ ringSlot (sRing (rec0 none true 0)) = some 0 ∧
    agentBusy (sRing (rec0 none true 0)) 10 0 = false ∧ ((sRing (rec0 none true 0)).core 0).exhaustWait = [] ∧
    (sRing (rec0 none true 0)).regs.tqBase.toNat % 128 = 0 ∧ (sRing (rec0 none true 0)).tlb.find? (fun y => y.serves 0xFFFF 0x2000) = some page0 ∧
    page0.w = true ∧ page0.uc = false ∧ page0.remote = false ∧ (dirty 64).owner = none ∧ snapLive (sRing (rec0 none true 0)) (dirty 64) = false ∧ (rec0 none true 0).stuck = false ∧
    s0.regs.errCtl.getLsbD 0 = false ∧ (sRing (rec0 none true 0)).l2? 0xFFFF (0x2000 / 128) = some (dirty 64) ∧ (dirty 64).wtag = true ∧
    applyBound (sRing (rec0 none true 0)) (dirty 64) 0 ≤ 0 ∧ ({ s0 with sigWait := [(1, 2, 3, 4, 5)] } : State).sigWait = (1, 2, 3, 4, 5) :: [] ∧
    s0.sigWait = [] ∧ s0.regs.hsigHead - s0.regs.hsigTail ≠ 256 ∧ Runs {} 7 s0 c0 ∧ pendingStores s0 1 c0.active true = false ∧
    Runs {} 7 (sSt (store 1 .retired)) c0 ∧ pendingStores (sSt (store 1 .retired)) 1 c0.active true = true := by
  unfold Runs Issues; and_intros <;> decide +kernel
/-- The ring is full once every slot is in use. -/
theorem hyp_TrapQueue_full : ringSlot { s0 with ringUse := NMap.tab 0 1024 fun _ => 7 } = none := by
  simp [ringSlot, firstFrom_none, NMap.get_tab, Config.ringSlots, Nat.mod_lt]

/-- The handler's own group beside a group whose sub-group is parked in record 5, its ticket 0x50000 (ring slot 0, group slot 0). -/
def uPark : Sub := { newSub 0x1000 1 0 0 with wait := .trapped 5 }
def gHand (t b : DWord) : Group := { tGroup with s := [(1, t), (2, b)] }
def gPark : Group := { tGroup with gid := 2, gslot := 1, win := 4, subs := [uPark] }
def sHand (t b : DWord) (r : TrapRec) : State :=
  { mem (at_ State.reset tSub (gHand t b) tTeam) with groups := [{ gHand t b with subs := [tSub] }, gPark], recs := [r] }
def cHandle (t b : DWord) : Ctx := tc tSub (gHand t b) tTeam
theorem hyp_TrapService :
    Runs { priv := true } 7 (sHand 0x50000 0x2000 (rec0 (some 0) true 0)) (cHandle 0x50000 0x2000) ∧
    ((cHandle 0x1000000000000 0).sReg 1).toNat = 2 ^ 48 ∧
    ticketRec (sHand 0x50000 0x2000 (rec0 (some 0) true 0)) 0x50000 = some (rec0 (some 0) true 0) ∧
    ((cHandle 0x50000 0x80000000000002).sReg 2).toNat % 4 = 2 ∧ 2 ^ 55 ≤ ((cHandle 0x50000 0x80000000000002).sReg 2).toNat ∧
    parkedSubs (sHand 0x50000 0x2000 (rec0 (some 0) true 0)) 5 63 = [(2, 0)] ∧ parkedSubs (sHand 0x50000 0x2000 (rec0 (some 0) true 0)) 5 7 = [] ∧
    (sHand 0x50000 0x2000 (rec0 (some 0) true 0)).ctxOf 2 0 = some ⟨2, 0, gPark, uPark, tTeam⟩ ∧
    parkedSubs (sRec (rec0 (some 0) true 0) tSub) 5 63 = [] ∧ (sRec (rec0 (some 0) true 0) tSub).isParkedIn 5 = false ∧
    (sHand 0x50000 0x2000 (rec0 (some 0) true 0)).isParkedIn 5 = true ∧
    namedSub (sHand 0x50000 0x2000 (rec0 (some 0) true 0)) 0x50000 0x2000 = .ok (rec0 (some 0) true 0, ⟨2, 0, gPark, uPark, tTeam⟩) ∧
    namedSub (sHand 0x60000 0x2000 (rec0 (some 0) true 0)) 0x60000 0x2000 = .error 1 ∧ (cHandle 0x50000 0x2000).u.wait ≠ .saving ∧
    (checkPages (cHandle 0x50000 0x2000) (pagesOf 0x2000 (0x4C0 + 128 * 4)) (sHand 0x50000 0x2000 (rec0 (some 0) true 0))).2 = none ∧
    (checkPages (cHandle 0x50000 0x80000) (pagesOf 0x80000 (0x4C0 + 128 * 4)) (sHand 0x50000 0x80000 (rec0 (some 0) true 0))).2.isSome = true ∧
    (privatise 2 (sHand 0x50000 0x2000 (rec0 (some 0) true 0)) (List.range 4) 1).isSome = true ∧
    agentBusy (sHand 0x50000 0x2000 (rec0 (some 0) true 0)) 9 (saveId (cHandle 0x50000 0x2000)) = false ∧
    -- a block: of another window, of the group's own; rows that are short
    (readRecord 216 (sHand 0x50000 0x80000 (rec0 (some 0) true 0)) (cHandle 0x50000 0x80000) 0 0x80000).2.isOk = false ∧
    fieldN (zeros 1728) 0x0C 1 ≠ gPark.win ∧ fieldN (blockBytes (rec0 (some 0) true 0) ⟨2, 0, gPark, uPark, tTeam⟩) 0x0C 1 = gPark.win ∧
    (tc uPark gPark tTeam).active &&& 1 = 1 ∧ (at_ State.reset uPark gPark tTeam).group? 2 = some { gPark with subs := [uPark] } ∧
    uPark.pc % 4 = 0 ∧ uPark.pc < 2 ^ 55 := by
  unfold Runs Issues; and_intros <;> decide +kernel

def sSlot (st : BitVec 2) (ts : List Team) : State :=
  { State.reset with hps := [(15, { Hps.reset with st := st })], teams := ts, nextTid := 2, regs := { Regs.reset with bootStatus := 4 } }
def tCmd : Team := { tTeam with kind := .command 15, core := 271 }
def tSvc (h : Bool) : Team := { tTeam with kind := .service 15, core := 271, halted := h }
/-- The aborted program of slot 15, one of whose sub-groups still stands as `u`. -/
def sHeldCmd (u : Sub) : State := { sSlot 3 [{ tCmd with halted := true }] with groups := [{ tGroup with subs := [u] }] }
theorem hyp_HostPrograms :
    ((sSlot 1 []).slotOf 15).st = 1 ∧ ((sSlot 0 []).slotOf 15).st = 0 ∧ (sSlot 0 []).regs.bootStatus = 4 ∧ State.reset.regs.bootStatus ≠ 4 ∧
    (∀ x ∈ (sSlot 1 [tCmd]).teams, x.tid < (sSlot 1 [tCmd]).nextTid) ∧ commandTeam (sSlot 1 [tCmd]) 15 = some tCmd ∧
    ((sSlot 3 [{ tCmd with halted := true }]).slotOf 15).st = 3 ∧ ((4 : DWord).getLsbD 2) = true ∧
    (∃ x ∈ (sHeldCmd uPark).teams, x.kind = .command 15 ∧ x.halted = true ∧ ∃ g ∈ (sHeldCmd uPark).groups, g.tid = x.tid ∧ ∃ u ∈ g.subs, parkedInTrap u = true) ∧
    ¬(∃ g ∈ (sHeldCmd tSub).groups, ∃ u ∈ g.subs, parkedInTrap u = true) ∧
    (BitVec.ofNat 64 0x8000).extractLsb' 0 16 = 1#16 <<< 15 ∧ serviceRuns (sSlot 0 [tSvc false]) 15 = true ∧ serviceTeam (sSlot 0 []) 15 = none := by
  and_intros <;> decide +kernel

theorem hyp_DeviceRegisters :
    256 < (s0.regs.hsigHead - 1#32).toNat ∧ ¬256 < (s0.regs.hsigHead - 0#32).toNat ∧ (1 : DWord).getLsbD 0 = true ∧ s0.regs.bootStatus.toNat < 0x81 ∧
    s0.regs.launched = false ∧ s0.regs.attNonce.length = 4 ∧ (0x80000 : Nat) ≤ 0xFFFF8 ∧ 0xFFFF8 + 8 ≤ 0x100000 ∧
    s0.regs.aperBase.toNat + (0xFFFF8 - 0x80000) + 8 ≤ 0x5F80000000 ∧ s0.softErrs = [] ∧ (0x80A0 : Nat) ∈ [0x8090, 0x8098, 0x80A0] ∧ (1 : DWord) ≠ 0 := by
  and_intros <;> decide +kernel

/-- Before boot, with the status of a stage, the flash's state and its version. -/
def sBoot (st : BitVec 8) (good : Bool) (svn : BitVec 32) : State := { State.reset with regs := { Regs.reset with bootStatus := st, flashGood := good, flashSvn := svn, fwMin := 1 } }
def facts (ok : Bool) (m : List (Nat × Nat)) : BootFacts := { testOk := ok, memMap := m, faulty := [] }
theorem hyp_ReportsResetsAndTime :
    (1 : DWord).extractLsb' 0 2 = 1 ∧ s0.regs.attCtl ≠ 1 ∧ s0.regs.fwUpd ≠ 1 ∧ ({ s0.regs with attCtl := 1, fwUpd := 1 } : Regs).attCtl = 1 ∧
    s0.regs.attTaken.length = 4 ∧ s0.regs.bootStatus = 4 ∧ State.reset.regs.bootStatus = 1 ∧ ¬(3 : BitVec 32).toNat < State.reset.regs.fwMin.toNat ∧
    State.reset.l2 = [] ∧ NMap.wf CrystRegion.new State.reset.cryst = true ∧ s0.regs.merMaster = false ∧ s0.portsDown ≠ BitVec.allOnes 16 ∧
    (sBoot 2 false 0).regs.flashGood = false ∧ (sBoot 2 true 0).regs.flashSvn.toNat < (sBoot 2 true 0).regs.fwMin.toNat ∧
    ¬(sBoot 2 true 1).regs.flashSvn.toNat < (sBoot 2 true 1).regs.fwMin.toNat ∧ (facts false []).testOk = false ∧ (sBoot 3 true 1).retiredLines = [] ∧
    mapOk { sBoot 3 true 1 with retiredLines := [0] } [(0, 0x1000)] = false ∧
    CrystRegion.new.start < 2 ^ 32 ∧ CrystRegion.new.gap < 2 ^ 32 ∧ CrystRegion.new.wcount < 256 ∧ CrystRegion.new.remap.length ≤ 64 ∧
    headerSeq CrystRegion.new.hdrA < 2 ^ 32 - 1 ∧ headerSeq CrystRegion.new.hdrB < 2 ^ 32 - 1 ∧ s0.regs.idWritten = false ∧
    ({ s0.regs with idWritten := true } : Regs).idWritten = true ∧ 5 + 80 < ({ s0 with meridian := 86 } : State).meridian ∧ s0.meridian ≤ 5 + 80 ∧
    s0.slow = 0 ∧ ({ s0 with slow := 3 } : State).slow ≠ 0 := by
  and_intros <;> decide +kernel

/-- An IADDI of the issuer at 0x1000, in the line that its core holds. -/
def word0 : Word := 0x20E0C105
def sWord : State :=
  { sL [] with
    agenda := [⟨0, .issue 1 0⟩]
    cores := [(0, { CoreSt.reset with plb := [page0], l1 := [⟨0xFFFF, 32, bytesOfWord word0 ++ zeros 124, 100, 0⟩] })] }
/-- Beside the issuer, a second group whose next word is UNOP, or IADDI too. -/
def uBeside (pc : Nat) : Sub := newSub pc 1 1 0
def sBeside (pc : Nat) : State :=
  { sWord with
    groups := [{ tGroup with subs := [tSub] }, { tGroup with gid := 2, gslot := 1, subs := [uBeside pc] }]
    cores := [(0, { CoreSt.reset with plb := [page0], l1 := [⟨0xFFFF, 32, bytesOfWord word0 ++ bytesOfWord 0x80000000 ++ zeros 120, 100, 0⟩] })] }
theorem hyp_AStepRunsTheInstruction_pair :
    (slotChoice (sBeside 0x1004) 0 0).map Ctx.gid = [1, 2] ∧ (slotChoice (sBeside 0x1000) 0 0).map Ctx.gid = [1] ∧
    (cycleChoice (sBeside 0x1004)).map Ctx.gid = [1, 2] ∧ portConflict word0 0x80000000 = false := by
  and_intros <;> decide +kernel
/-- The second group, which issued last, stands before a reader of its latch b0. -/
def sBefore : State :=
  { sBeside 0x1004 with
    groups := [{ tGroup with subs := [tSub] }, { tGroup with gid := 2, gslot := 1, subs := [{ uBeside 0x1004 with chain := [⟨true, 0, []⟩] }] }]
    cores := [(0, { CoreSt.reset with
      plb := [page0], pipes := [(0, ⟨2, 0, 1⟩)]
      l1 := [⟨0xFFFF, 32, bytesOfWord word0 ++ bytesOfWord ((encode (.iadd (fR 3 60 2))).getD 0) ++ zeros 120, 100, 0⟩] })] }
theorem hyp_AStepRunsTheInstruction_held : pipeHeld sBefore ⟨1, 0, { tGroup with subs := [tSub] }, tSub, tTeam⟩ word0 = true := by decide +kernel
def tk : State := tick { sWord with agenda := [] } 0
theorem hyp_AStepRunsTheInstruction :
    sWord.agenda = [⟨0, .issue 1 0⟩] ∧ ({ sWord with agenda := [⟨3, .cycle⟩] } : State).agenda = [⟨3, .cycle⟩] ∧ dueInstead tk c0 = none ∧
    heldWord tk c0 = none ∧ (fetchWord tk c0).2 = .ok [0x05, 0xC1, 0xE0, 0x20] ∧ pipeHeld tk c0 word0 = false ∧
    (slotChoice tk 0 0).map Ctx.gid = [1] ∧ (cycleChoice tk).map Ctx.gid = [1] ∧
    (tick { sWord with agenda := [] } 0).ctxOf 1 0 = some c0 ∧ c0.u.wait = .ready ∧ c0.u.endPending = false ∧ c0.u.stopPending = false ∧
    c0.stoppedService = false ∧ restoredItems c0 = [] ∧ latchHeld (tick { sWord with agenda := [] } 0) c0 = false ∧
    podWaits (tick { sWord with agenda := [] } 0) c0 0 .fetch 0x1000 4 = false ∧
    (fetchWord (tick { sWord with agenda := [] } 0) c0).2 = .ok (bytesOfWord word0) ∧ (decode word0).isOk = true ∧ (decode 0).isOk = false ∧
    encode .powerLoss = none ∧ (fetchWord sM (tc { tSub with pc := 0x100000 } tGroup tTeam)).2.isOk = false := by
  and_intros <;> decide +kernel

theorem hyp_DecodeAndEncodeAgree :
    (Instr.iaddi (fI 7)).wf = true ∧ encode (.iaddi (fI 7)) = some 0x20E0C180 ∧ decode 0x20E0C180#32 = .ok (.iaddi (fI 7)) := by
  and_intros <;> decide +kernel

theorem hyp_UniformChecks :
    uniformGate (.btbl ⟨0, 0, 1, 0⟩) = some (0, { priv := true, feat := some 3 }) ∧ sUser.ctx? = some cUser ∧ cUser.t.priv = false ∧
    sUser.regs.featAccept.getLsbD 3 = true ∧ State.reset.regs.featAccept.getLsbD 3 = false ∧ c0.uguard 0 = false ∧
    uniformGate (.ufirst (fU 0 59 0)) = some (7, { regs := [59], reads := [59] }) ∧ (∀ r ∈ [59], r < c0.g.win) ∧
    isService ({ tTeam with core := 271 } : Team).core = true ∧ Issues {} s0 c0 ∧ c0.active ≠ 0 ∧ c0.execMask 0 = 0 ∧ c0.g.frag = [] ∧ c0.g.late = [] ∧
    ¬60 < c0.g.win ∧ uniformGate (.usread ⟨0, 1, 0x106⟩) = some (0, {}) := by
  unfold Issues; and_intros <;> decide +kernel

/-- R32, R35: lane forms of which each condition fails in its turn, and one that meets them all. -/
def cNarrow : Ctx := tc tSub { tGroup with win := 8 } tTeam
def sBare : State := { s0 with regs := { s0.regs with featAccept := 0 } }
def onService : Ctx := tc tSub tGroup { tTeam with core := 271 }
theorem hyp_UniformChecks_lane :
    laneGate (.iadd (fR 3 8 2)) = some (gateTwo (fR 3 8 2)) ∧ (at_ State.reset tSub { tGroup with win := 8 } tTeam).ctx? = some cNarrow ∧
    (¬∀ r ∈ (gateTwo (fR 3 8 2)).regs, r < cNarrow.g.win) ∧ (∀ r ∈ (gateTwo (fR 3 7 2)).regs, r < cNarrow.g.win) ∧
    laneGate (.cbxB8 ⟨7, false, 4, 1, 2⟩) = some { regs := [4, 1], cc := true, feat := some 1 } ∧
    sBare.ctx? = some c0 ∧ sBare.regs.featAccept.getLsbD 1 = false ∧ s0.regs.featAccept.getLsbD 1 = true ∧
    (at_ State.reset tSub tGroup { tTeam with core := 271 }).ctx? = some onService ∧ isService onService.core = true ∧ isService c0.core = false ∧
    s0.ctx? = some c0 ∧ (gateTwo (fR 3 60 2)).latches = [0] ∧ c0.u.chain[0]? = none ∧
    [Latch.mk true 2 []][0]? = some ⟨true, 2, []⟩ ∧ (tSub.latchRun < 3) := by
  unfold gateTwo; and_intros <;> decide +kernel

theorem hyp_CurfewWindow :
    (⟨7, 1, 0x106⟩ : UniI).i = 0x106 ∧ Issues {} s0 c0 ∧ c0.uguard 7 = true ∧ c0.t.priv = true ∧ s0.team? 1 = some tTeam ∧
    (sCurf tSub curfew0).team? 1 = some (tCurf curfew0) ∧ (sCurf tSub curfew0).cycles < curfew0.until_ := by
  unfold Issues; and_intros <;> decide +kernel

theorem hyp_EveryStepKeepsTheInvariant :
    Memory.wf State.reset.mem = true ∧ State.reset.regs.Legal ∧ State.reset.Canonical ∧ State.reset.SubsSound ∧ State.reset.QueuesBounded := by
  refine ⟨by decide, ⟨by decide, by decide, by decide, by decide, by decide⟩, ⟨by decide, by decide⟩, ?_, fun core => ?_⟩
  · simp [State.SubsSound, State.reset]
  · simp [State.core, State.reset, NMap.get, CoreSt.reset]
/-- The invariant holds too where a sub-group runs. -/
theorem hyp_EveryStepKeepsTheInvariant_runs : Memory.wf s0.mem = true ∧ s0.Canonical ∧ s0.SubsSound := by
  refine ⟨by decide, ⟨by decide, by decide⟩, fun g hg u hu => ?_⟩
  simp [s0, at_, State.reset] at hg
  subst hg
  simp at hu
  subst hu
  constructor <;> decide

theorem hyp_NothingStops :
    encode (Instr.schedulerPass) = none ∧ s0.ctx?.isSome = true ∧
    ({ s0 with agenda := [⟨7, .event .powerLoss⟩] } : State).agenda = ⟨7, .event .powerLoss⟩ :: [] ∧
    s0.meridian + ((s0.agenda.head?.map Move.dt).getD 0 + 1) = 1 := by
  and_intros <;> decide +kernel

/-! ### Single steps, on values worked out by hand from the rules cited -/

def rows (a b d : Word) : NMap (List Word) := [(1, List.replicate 32 a), (2, List.replicate 32 b), (3, List.replicate 32 d)]
def gV (a b d : Word) : Group := { tGroup with v := rows a b d, s := [(1, 0x2000), (2, 0xFFFFFFFFFFFFFFFF), (3, 3)] }
def sV (a b d : Word) : State := at_ State.reset tSub (gV a b d) tTeam
/-- Register `r` of lane `l` after an instruction. -/
def out (i : Instr) (a b d : Word) (r l : Nat) : Option Word :=
  match exec i (sV a b d) with
  | .next t => some (t.laneReg 1 r l)
  | _ => none
/-- Uniform register `r` after an instruction. -/
def outS (i : Instr) (s : State) (r : Nat) : Option DWord :=
  match exec i s with
  | .next t => (t.group? 1).map fun g => g.sReg r
  | _ => none
/-- PC of lane 0 after an instruction. -/
def outPc (i : Instr) (s : State) : Option Nat :=
  match exec i s with
  | .next t => (t.ctxOf 1 0).map fun c => c.u.pc
  | _ => none

/-- R161: wrapping, saturating and high-part arithmetic, dot product of signed bytes. -/
theorem test_integer :
    out (.iadd (fR 4 1 2)) 0x7FFFFFFF 1 0 4 31 = some 0x80000000 ∧ out (.iadds (fR 4 1 2)) 0x7FFFFFFF 1 0 4 0 = some 0x7FFFFFFF ∧
    out (.isubs (fR 4 1 2)) 0x80000000 1 0 4 0 = some 0x80000000 ∧ out (.imulh (fR 4 1 2)) 0xFFFFFFFF 2 0 4 0 = some 0xFFFFFFFF ∧
    out (.imulhu (fR 4 1 2)) 0xFFFFFFFF 2 0 4 0 = some 1 ∧ out (.imad (fR 3 1 2)) 3 5 7 3 0 = some 22 ∧
    out (.idot4 (fR 3 1 2)) 0xFF010203 0x01010101 10 3 0 = some 15 ∧ out (.imin (fR 4 1 2)) 0xFFFFFFFF 1 0 4 0 = some 0xFFFFFFFF ∧
    out (.iminu (fR 4 1 2)) 0xFFFFFFFF 1 0 4 0 = some 1 := by and_intros <;> decide +kernel

/-- R162: a shift amount is taken modulo 32; a field's width is clipped at bit 31. -/
theorem test_shifts_and_fields :
    out (.shl (fR 4 1 2)) 1 33 0 4 0 = some 2 ∧ out (.sar (fR 4 1 2)) 0x80000000 31 0 4 0 = some 0xFFFFFFFF ∧
    out (.rotl (fR 4 1 2)) 0x80000001 1 0 4 0 = some 3 ∧ out (.popc (fR 4 1 0)) 0xF0F 0 0 4 0 = some 8 ∧ out (.clz (fR 4 1 0)) 0 0 0 4 0 = some 32 ∧
    out (.brev (fR 4 1 0)) 1 0 0 4 0 = some 0x80000000 ∧ out (.iabs (fR 4 1 0)) 0x80000000 0 0 4 0 = some 0x80000000 ∧
    out (.bfx (fR 4 1 2)) 0xABCD1234 (8 * 32 + 4) 0 4 0 = some 0x23 ∧ out (.bfxs (fR 4 1 2)) 0xABCD1234 (8 * 32 + 28) 0 4 0 = some 0xFFFFFFFA ∧
    out (.bfi (fR 3 1 2)) 0x5 (4 * 32 + 8) 0xFFFFFFFF 3 0 = some 0xFFFFF5FF := by and_intros <;> decide +kernel

/-- R194 to R203: 1 + 1, round to nearest even at 2^24, ∞ - ∞, the sign of a minimum of zeros, BF16 rounding, a saturating conversion. -/
theorem test_float :
    out (.fadd (fR 4 1 2) 0) 0x3F800000 0x3F800000 0 4 0 = some 0x40000000 ∧ out (.fadd (fR 4 1 2) 0) 0x4B800000 0x3F800000 0 4 0 = some 0x4B800000 ∧
    out (.fsub (fR 4 1 2) 0) 0x7F800000 0x7F800000 0 4 0 = some 0x7FC00000 ∧ out (.fmul (fR 4 1 2) 0) 0x40400000 0xC0000000 0 4 0 = some 0xC0C00000 ∧
    out (.ffma (fR 3 1 2) 0) 0x40000000 0x40400000 0x3F800000 3 0 = some 0x40E00000 ∧ out (.fabs (fR 4 1 0)) 0xBF800000 0 0 4 0 = some 0x3F800000 ∧
    out (.f2i (fR 4 1 0)) 0x4F000000 0 0 4 0 = some 0x7FFFFFFF ∧ out (.i2f (fR 4 1 0)) 0xFFFFFFFF 0 0 4 0 = some 0xBF800000 := by
  and_intros <;> decide +kernel

/-- R165, R172, R173: identifiers, shuffles at the ends of the group, votes. -/
theorem test_cross_lane :
    out (.laneid (fR 4 0 0)) 0 0 0 4 31 = some 31 ∧ out (.shflUp (fR 4 1 2)) 7 31 0 4 0 = some 7 ∧ out (.lredIadd (fR 4 1 0)) 3 0 0 4 9 = some 96 ∧
    out (.lscanIaddEx (fR 4 1 0)) 3 0 0 4 31 = some 93 ∧ out (.ballot (fR 4 0 0)) 0 0 0 4 0 = some 0 := by and_intros <;> decide +kernel

/-- R168: uniform arithmetic; R143, R146: targets of branches; R144: a loop of no iterations is skipped. -/
theorem test_uniform :
    outS (.umulhu (fU 5 2 2)) (sV 0 0 0) 5 = some 0xFFFFFFFFFFFFFFFE ∧ outS (.umulh (fU 5 2 2)) (sV 0 0 0) 5 = some 0 ∧
    outS (.ulea (fU 5 1 3) 4) (sV 0 0 0) 5 = some 0x2030 ∧ outS (.uaddi ⟨7, 3, 0x7FFF⟩) (sV 0 0 0) 3 = some 2 ∧ outS (.uli ⟨7, 5, 0x4000⟩) (sV 0 0 0) 5 = some 0xFFFFFFFFFFFFC000 ∧
    outS (.ulih ⟨7, 3, 5⟩) (sV 0 0 0) 3 = some 0x18005 ∧ outPc (.bra ⟨7, 0x1FFFFF⟩) (sV 0 0 0) = some 0x1000 ∧ outPc (.brx (fU 0 1 0)) (sV 0 0 0) = some 0x2000 ∧
    outPc (.loopImm ⟨7, 0, 3, 0⟩) (sV 0 0 0) = some 0x1014 ∧ outPc (.loopImm ⟨7, 0, 3, 1⟩) (sV 0 0 0) = some 0x1004 := by and_intros <;> decide +kernel

/-- The next state, where there is one. -/
def nextOf (r : Host.Outcome State Fault Refusal) : Option State := match r with | .next t => some t | _ => none

/-- R412: TRAP parks the sub-group in a record of cause SOFT (38) whose INFO is the low word of sA and whose address is the PC. -/
theorem test_trap :
    (nextOf (exec (.trapI (fU 0 1 0)) s0)).map (fun t => (t.recs.map (fun r => (r.cause, r.info, r.addr, r.pc)), (t.ctxOf 1 0).map fun c => c.u.wait)) =
      some ([(38, 0x2000, 0x1000, 0x1000)], some (.trapped 1)) := by decide +kernel

/-- R21, R35: a step fetches the word at 0x1000 and runs it: IADDI v3 = v1 + 5, at nanosecond 1. -/
theorem test_step :
    (nextOf (step sWord)).map (fun t => (t.laneReg 1 3 31, (t.ctxOf 1 0).map (fun c => c.u.pc), t.meridian)) = some (5, some 0x1004, 1) := by
  decide +kernel

/-- The first instruction after reset, placed where a step fetches it: IADD v0, v1, v1 falls through. -/
theorem test_step_withFetchWord :
    (nextOf (step (State.reset.withFetchWord 32 0x02E00104))).map (fun t => (t.ctxOf 1 0).map fun c => c.u.pc) = some (some 4) := by decide +kernel

/-- R432, R434: after reset the boot ROM runs and firmware has not yet offered its features. -/
theorem test_reset : State.reset.regs.bootStatus = 1 ∧ State.reset.regs.featOffer = 0 ∧ State.reset.regs.curfewWin = 20000 := by decide

end Sys2Proof.Tests
end

section
/-! SUPPORT. The meridian under the model's functions on states: but for the clock's tick each keeps it. One lemma a function, in the
order of the model's files; a function that answers a value beside the state has its lemma about an equation of the call. What a read
of memory keeps is stated with the groups and the teams (`State.scene`): a fetch keeps the issuing context. -/

namespace Sys2Proof.Machine

/-- What a read of memory leaves alone: the meridian, and the groups and teams as they stand. -/
def State.scene (s : State) : Nat × List Group × List Team := (s.meridian, s.groups, s.teams)

section folds
variable {σ α β : Type}

theorem foldl_keeps (p : σ → β) {f : σ → α → σ} (h : ∀ x a, p (f x a) = p x) (l : List α) (x : σ) : p (l.foldl f x) = p x := by
  induction l generalizing x with
  | nil => rfl
  | cons a l ih => rw [List.foldl_cons, ih, h]

theorem foldl_meridian {f : State → α → State} (h : ∀ s a, (f s a).meridian = s.meridian) {l : List α} {s : State} :
    (l.foldl f s).meridian = s.meridian := foldl_keeps State.meridian h l s

theorem foldl_scene {f : State → α → State} (h : ∀ s a, (f s a).scene = s.scene) {l : List α} {s : State} :
    (l.foldl f s).scene = s.scene :=
  foldl_keeps State.scene h l s

theorem foldl_fst_meridian {f : State × σ → α → State × σ} (h : ∀ p a, (f p a).1.meridian = p.1.meridian) {l : List α} {p : State × σ} :
    (l.foldl f p).1.meridian = p.1.meridian := foldl_keeps (fun p => p.1.meridian) h l p

end folds

theorem meridian_of_scene {s t : State} (h : s.scene = t.scene) : s.meridian = t.meridian := congrArg Prod.fst h

@[simp] theorem State.modCore_scene {s core f} : (State.modCore s core f).scene = s.scene := rfl

/-! ### Functions of `Machine.Ops` -/

@[simp] theorem State.noteHealth_meridian {s old} : (State.noteHealth s old).meridian = s.meridian := by
  grind [State.noteHealth]

@[simp] theorem State.signalFault_meridian {s value asid cluster pos} :
    (State.signalFault s value asid cluster pos).meridian = s.meridian :=
  rfl

theorem enterTrap_meridian {s t u it s' y} (h : enterTrap s t u it = (s', y)) : s'.meridian = s.meridian := by
  grind [enterTrap]

@[simp] theorem trapGroups_meridian {n s gid u items} : (trapGroups n s gid u items).meridian = s.meridian := by
  fun_induction trapGroups n s gid u items <;> grind [→ enterTrap_meridian, State.modGroup_meridian]

@[simp] theorem trapWith_meridian {keep c s items rest} : (trapWith keep c s items rest).meridian = s.meridian := by
  cases items with
  | nil => rfl
  | cons it items => grind [trapWith, State.signalFault_meridian, State.modTeam_meridian, State.modGroup_meridian,
    trapGroups_meridian]

@[simp] theorem memError_scene {s cluster pos asid addr phys unit_} :
    (memError s cluster pos asid addr phys unit_).scene = s.scene :=
  rfl

@[simp] theorem memError_meridian {s cluster pos asid addr phys unit_} :
    (memError s cluster pos asid addr phys unit_).meridian = s.meridian :=
  meridian_of_scene memError_scene

@[simp] theorem exhaustedRecord_meridian {s core info} : (exhaustedRecord s core info).meridian = s.meridian := rfl

@[simp] theorem takeFragTrap_meridian {c s f} : (takeFragTrap c s f).meridian = s.meridian := by
  grind [takeFragTrap, trapWith_meridian, State.modGroup_meridian]

@[simp] theorem checkExhausted_meridian {s core} : (checkExhausted s core).meridian = s.meridian := by
  grind [checkExhausted, State.modCore_meridian, exhaustedRecord_meridian]

theorem privatise_meridian {gid s rows m s'} (h : privatise gid s rows m = some s') : s'.meridian = s.meridian := by
  grind [privatise, State.modTeam_meridian, State.modGroup_meridian]

@[simp] theorem dropRowWait_meridian {s} : (dropRowWait s).meridian = s.meridian := rfl

@[simp] theorem gotRows_meridian {c s} : (gotRows c s).meridian = s.meridian := by
  grind [gotRows, State.modCore_meridian]

@[simp] theorem parkForRows_meridian {c s need} : (parkForRows c s need).meridian = s.meridian := by
  grind [parkForRows, State.modCore_meridian, checkExhausted_meridian, Ctx.setSub_meridian]

/-! ### Functions of `Machine.Operands` -/

@[simp] theorem cellRecords_meridian {c bad s} : (cellRecords c bad s).meridian = s.meridian :=
  foldl_meridian fun _ _ => meridian_of_scene memError_scene

/-! ### Functions of `Machine.Flags` -/

@[simp] theorem State.countFor_meridian {s seq id kind n} : (State.countFor s seq id kind n).meridian = s.meridian := by
  grind [State.countFor]

@[simp] theorem Ctx.count_meridian {c s kind m} : (Ctx.count c s kind m).meridian = s.meridian := by
  grind [Ctx.count, State.countFor_meridian]

/-! ### Functions of `Machine.Memory` -/

@[simp] theorem State.poke_scene {s pa b} : (State.poke s pa b).scene = s.scene := by
  grind [State.poke, State.scene]

@[simp] theorem State.pokeN_scene {s pa bs} : (State.pokeN s pa bs).scene = s.scene := by
  induction bs generalizing s pa with
  | nil => rfl
  | cons b bs ih => rw [State.pokeN, ih, State.poke_scene]

@[simp] theorem State.pokeN_meridian {s pa bs} :
    (State.pokeN s pa bs).meridian = s.meridian :=
  meridian_of_scene State.pokeN_scene

@[simp] theorem State.framePokeN_meridian {s owner pa bs} : (State.framePokeN s owner pa bs).meridian = s.meridian := by
  cases owner with
  | none => exact congrArg Prod.fst State.pokeN_scene
  | some d => rfl

@[simp] theorem installTlb_scene {s e} : (installTlb s e).scene = s.scene := rfl

@[simp] theorem countSoft_scene {s unit_ line} : (countSoft s unit_ line).scene = s.scene := by
  grind [countSoft, State.scene]

@[simp] theorem countRead_scene {s pa} : (countRead s pa).scene = s.scene := by
  grind [countRead, countSoft_scene]

theorem readPte_scene {s asid va pte s' y} (h : readPte s asid va pte = (s', y)) : s'.scene = s.scene := by
  grind [readPte, memError_scene, countRead_scene]

theorem walkLevels_scene {n s asid va level table s' y} (h : walkLevels n s asid va level table = (s', y)) :
    s'.scene = s.scene := by
  fun_induction walkLevels n s asid va level table generalizing s' y <;> grind [→ readPte_scene]

@[simp] theorem writePte_scene {s pte w0 w1} : (writePte s pte w0 w1).scene = s.scene := by
  grind [writePte, State.pokeN_scene]

@[simp] theorem writePte_meridian {s pte w0 w1} : (writePte s pte w0 w1).meridian = s.meridian := meridian_of_scene writePte_scene

theorem expand_scene {s e s' y} (h : expand s e = (s', y)) : s'.scene = s.scene := by
  unfold expand at h
  dsimp only at h
  split at h <;> cases h
  · rfl
  · rw [writePte_scene]
    exact (foldl_scene fun _ _ => State.poke_scene).trans State.pokeN_scene

@[simp] theorem addPair_scene {s e} : (addPair s e).scene = s.scene := rfl

theorem walk_scene {s asid va s' y} (h : walk s asid va = (s', y)) : s'.scene = s.scene := by
  grind [walk, → readPte_scene, → walkLevels_scene, writePte_scene, → expand_scene, addPair_scene, installTlb_scene]

theorem translate_scene {s asid va s' y} (h : translate s asid va = (s', y)) : s'.scene = s.scene := by
  grind [translate, → walk_scene]

theorem reach_scene {s asid va s' y} (h : reach s asid va = (s', y)) : s'.scene = s.scene := by
  grind [reach, → translate_scene]

theorem permission_scene {s core asid va s' y} (h : permission s core asid va = (s', y)) : s'.scene = s.scene := by
  grind [permission, → translate_scene, State.modCore_scene]

theorem checkAccess_scene {s c lane a va n s' y} (h : checkAccess s c lane a va n = (s', y)) : s'.scene = s.scene := by
  grind [checkAccess, → permission_scene]

@[simp] theorem State.setL2_scene {s x} : (State.setL2 s x).scene = s.scene := rfl

@[simp] theorem remoteCount_scene {s e va} : (remoteCount s e va).scene = s.scene := by
  grind [remoteCount, writePte_scene, State.pokeN_scene, State.scene]

@[simp] theorem flushLine_scene {s x} : (flushLine s x).scene = s.scene := by
  grind [flushLine, memError_scene, countSoft_scene, State.pokeN_scene, State.scene]

@[simp] theorem flushLine_meridian {s x} : (flushLine s x).meridian = s.meridian := meridian_of_scene flushLine_scene

@[simp] theorem makeRoom_scene {s} : (makeRoom s).scene = s.scene := by
  grind [makeRoom, flushLine_scene, State.scene]

theorem fillL2_scene {s e asid line s' y} (h : fillL2 s e asid line = (s', y)) : s'.scene = s.scene := by
  grind [fillL2, makeRoom_scene, remoteCount_scene, countRead_scene, State.scene]

theorem homeLine_scene {s asid line s' y} (h : homeLine s asid line = (s', y)) : s'.scene = s.scene := by
  grind [homeLine, → reach_scene, → fillL2_scene, countSoft_scene]

@[simp] theorem installL1_scene {s core z} : (installL1 s core z).scene = s.scene := rfl

theorem fillL1_scene {s core asid line s' y} (h : fillL1 s core asid line = (s', y)) : s'.scene = s.scene := by
  grind [fillL1, → homeLine_scene, memError_scene, State.setL2_scene, installL1_scene]

theorem coreLine_scene {s core asid line s' y} (h : coreLine s core asid line = (s', y)) : s'.scene = s.scene := by
  grind [coreLine, → fillL1_scene]

theorem snapBytes_meridian {s q va n s' y} (h : snapBytes s q va n = (s', y)) : s'.meridian = s.meridian := by
  grind [snapBytes, memError_scene, State.scene]

@[simp] theorem markRead_meridian {s core gid lane asid va n} : (markRead s core gid lane asid va n).meridian = s.meridian := rfl

theorem ucBytes_scene {s e va n s' y} (h : ucBytes s e va n = (s', y)) : s'.scene = s.scene := by
  grind [ucBytes, memError_scene, countRead_scene]

theorem lineBytesAt_meridian {s asid va n s' y} (h : lineBytesAt s asid va n = (s', y)) : s'.meridian = s.meridian := by
  grind [lineBytesAt, → homeLine_scene, memError_scene, State.scene]

theorem homeRead_meridian {s asid va n s' y} (h : homeRead s asid va n = (s', y)) : s'.meridian = s.meridian := by
  grind [homeRead, → reach_scene, → ucBytes_scene, → lineBytesAt_meridian, State.scene]

theorem loadValue_meridian {s core asid gid lane t acq e va n s' y} (h : loadValue s core asid gid lane t acq e va n = (s', y)) :
    s'.meridian = s.meridian := by
  grind [loadValue, → snapBytes_meridian, → homeRead_meridian, → lineBytesAt_meridian, → reach_scene, → ucBytes_scene,
    markRead_meridian, → coreLine_scene, State.scene]

theorem fibreLoad_meridian {s c lane acq va n s' y} (h : fibreLoad s c lane acq va n = (s', y)) : s'.meridian = s.meridian := by
  grind [fibreLoad, → checkAccess_scene, → loadValue_meridian, State.scene]

theorem engHome_meridian {s asid va n s' y} (h : engHome s asid va n = (s', y)) : s'.meridian = s.meridian := by
  grind [engHome, → homeRead_meridian]

theorem readRecord_meridian {n s c lane va s' y} (h : readRecord n s c lane va = (s', y)) : s'.meridian = s.meridian := by
  fun_induction readRecord n s c lane va generalizing s' y <;> grind [→ fibreLoad_meridian]

theorem heldOr_meridian {c s} {rd : State → State × Except (Nat × Nat) (List Byte)}
    (hr : ∀ s' r, rd s = (s', r) → s'.meridian = s.meridian) {s' r} (h : heldOr c s rd = (s', r)) : s'.meridian = s.meridian := by
  grind [heldOr]

theorem fetchNow_scene {s c s' y} (h : fetchNow s c = (s', y)) : s'.scene = s.scene := by
  grind [fetchNow, → checkAccess_scene, → reach_scene, → ucBytes_scene, → coreLine_scene]

theorem fetchWord_scene {s c s' y} (h : fetchWord s c = (s', y)) : s'.scene = s.scene := by
  grind [fetchWord, → fetchNow_scene]

@[simp] theorem retire_meridian {s c lane va bs kind floor e skip} :
    (retire s c lane va bs kind floor e skip).meridian = s.meridian :=
  rfl

@[simp] theorem agentStore_meridian {s agent agentId core asid va bs} :
    (agentStore s agent agentId core asid va bs).meridian = s.meridian :=
  rfl

@[simp] theorem agentWrite_meridian {n s agent agentId core asid va bs} :
    (agentWrite n s agent agentId core asid va bs).meridian = s.meridian := by
  fun_induction agentWrite n s agent agentId core asid va bs <;> grind [agentStore_meridian]

theorem cowStore_meridian {s c va bs s' y} (h : cowStore s c va bs = (s', y)) : s'.meridian = s.meridian := by
  grind [cowStore, State.modTeam_meridian, → coreLine_scene, State.scene]

@[simp] theorem preserve_meridian {s x} : (preserve s x).meridian = s.meridian := by grind [preserve]
@[simp] theorem cleanSnaps_meridian {s} : (cleanSnaps s).meridian = s.meridian := rfl

@[simp] theorem setDirty_meridian {s e} : (setDirty s e).meridian = s.meridian := by
  grind [setDirty, writePte_scene, State.scene]

theorem dirtyLine_meridian {s asid line s' y} (h : dirtyLine s asid line = (s', y)) : s'.meridian = s.meridian := by
  grind [dirtyLine, → reach_scene, State.setL2_scene, setDirty_meridian, → fillL2_scene, State.scene]

@[simp] theorem pokeSkipping_meridian {s owner pa bs skip} : (pokeSkipping s owner pa bs skip).meridian = s.meridian :=
  foldl_meridian fun _ _ => by grind [State.framePokeN_meridian]

@[simp] theorem frameWrite_meridian {s e va bs skip} : (frameWrite s e va bs skip).meridian = s.meridian := by
  grind [frameWrite, pokeSkipping_meridian, preserve_meridian, setDirty_meridian]

@[simp] theorem applyLine_meridian {s x va bs skip} : (applyLine s x va bs skip).meridian = s.meridian := by
  grind [applyLine, preserve_meridian, State.setL2_scene, pokeSkipping_meridian, State.scene]

@[simp] theorem addTime_meridian {s gid lane t far} : (addTime s gid lane t far).meridian = s.meridian := rfl

@[simp] theorem capLine_meridian {s x} : (capLine s x).meridian = s.meridian := by
  grind [capLine, State.setL2_scene, State.scene]

/-! ### Functions of `Machine.LocalMem` -/

theorem laneLoop_meridian {f : State → Nat → State × Except TrapItem (List Word)}
    (hf : ∀ s l s' r, f s l = (s', r) → s.meridian ≤ s'.meridian) {ls s s' r} (h : laneLoop f ls s = (s', r)) :
    s.meridian ≤ s'.meridian := by
  fun_induction laneLoop f ls s generalizing s' r <;> grind

@[simp] theorem clearLocal_meridian {s lo n} : (clearLocal s lo n).meridian = s.meridian := rfl
@[simp] theorem allotPart_meridian {s core kind part} : (allotPart s core kind part).meridian = s.meridian := rfl
@[simp] theorem State.pokeLocal_meridian {s core off bs} : (State.pokeLocal s core off bs).meridian = s.meridian := rfl
@[simp] theorem ctnRecord_meridian {s core e} : (ctnRecord s core e).meridian = s.meridian := rfl

@[simp] theorem localError_meridian {s p asid handle} : (localError s p asid handle).meridian = s.meridian := by
  grind [localError, ctnRecord_meridian, memError_scene, State.scene]

@[simp] theorem setStash_meridian {s tid k x} : (setStash s tid k x).meridian = s.meridian := rfl

theorem newLease_meridian {s asid line s' y} (h : newLease s asid line = (s', y)) : s'.meridian = s.meridian := by
  grind [newLease, State.setL2_scene, State.scene]

@[simp] theorem refill_meridian {s core off bs dirty} : (refill s core off bs dirty).meridian = s.meridian := by
  grind [refill, State.pokeLocal_meridian]

theorem stashFillWith_meridian {read : State → Nat → State × Except Nat (List Byte)}
    (hr : ∀ s a s' r, read s a = (s', r) → s'.meridian = s.meridian) {s p s' r} (h : stashFillWith read s p = (s', r)) :
    s'.meridian = s.meridian := by
  grind [stashFillWith, → newLease_meridian, refill_meridian, setStash_meridian]

theorem stashFill_meridian {s c lane p s' y} (h : stashFill s c lane p = (s', y)) : s'.meridian = s.meridian :=
  stashFillWith_meridian (fun _ _ _ _ h => fibreLoad_meridian h) h

@[simp] theorem stashDirty_meridian {s p n} : (stashDirty s p n).meridian = s.meridian := by
  grind [stashDirty, setStash_meridian]

theorem localRead_meridian {s c lane a n al s' y} (h : localRead s c lane a n al = (s', y)) : s'.meridian = s.meridian := by
  grind [localRead, → stashFill_meridian, localError_meridian]

@[simp] theorem localWrite_meridian {s p bs} : (localWrite s p bs).meridian = s.meridian := by
  grind [localWrite, stashDirty_meridian, State.pokeLocal_meridian]

theorem localStore_meridian {s c lane a bs s' y} (h : localStore s c lane a bs = (s', y)) : s'.meridian = s.meridian := by
  grind [localStore, → stashFill_meridian, localWrite_meridian]

/-! ### Functions of `Machine.Recon` -/

@[simp] theorem markWorn_meridian {s} : (markWorn s).meridian = s.meridian := by
  grind [markWorn, State.noteHealth_meridian]

@[simp] theorem countCe_meridian {s die} : (countCe s die).meridian = s.meridian := by
  grind [countCe, markWorn_meridian]

@[simp] theorem recordRecon_meridian {s core m r src handle slot row col} :
    (recordRecon s core m r src handle slot row col).meridian = s.meridian :=
  by cases r <;> grind [recordRecon, countCe_meridian, ctnRecord_meridian]

/-! ### Functions of `Machine.Engine` -/

theorem engPage_meridian {s asid va s' y} (h : engPage s asid va = (s', y)) : s'.meridian = s.meridian := by
  grind [engPage, → reach_scene, State.scene]

theorem engPiece_meridian {s t asid va n s' y} (h : engPiece s t asid va n = (s', y)) : s'.meridian = s.meridian := by
  grind [engPiece, → engPage_meridian, → engHome_meridian]

theorem readPieces_meridian {rd : State → Nat → Nat → State × Except (Nat × Nat) (List Byte)}
    (hr : ∀ s a n s' r, rd s a n = (s', r) → s'.meridian = s.meridian) {ps s s' r} (h : readPieces rd ps s = (s', r)) :
    s'.meridian = s.meridian := by
  fun_induction readPieces rd ps s generalizing s' r <;> grind

theorem engRead_meridian {s t asid va n s' y} (h : engRead s t asid va n = (s', y)) : s'.meridian = s.meridian :=
  readPieces_meridian (fun _ _ _ _ _ h => engPiece_meridian h) h

theorem engLocalPiece_meridian {handle s t a n s' y} (h : engLocalPiece handle s t a n = (s', y)) : s'.meridian = s.meridian := by
  have fill {s p s' r} (h : stashFillWith (fun s base => engHome s t.asid.toNat base 128) s p = (s', r)) : s'.meridian = s.meridian :=
    stashFillWith_meridian (fun _ _ _ _ h => engHome_meridian h) h
  grind [engLocalPiece, localError_meridian]

theorem engLocalRead_meridian {handle s t a n s' y} (h : engLocalRead handle s t a n = (s', y)) : s'.meridian = s.meridian :=
  readPieces_meridian (fun _ _ _ _ _ h => engLocalPiece_meridian h) h

@[simp] theorem landLocal_meridian {s core off bs} : (landLocal s core off bs).meridian = s.meridian := rfl
@[simp] theorem opEnded_meridian {s seq} : (opEnded s seq).meridian = s.meridian := rfl
@[simp] theorem dropFails_meridian {s agent id} : (dropFails s agent id).meridian = s.meridian := rfl

/-! ### Functions of `Machine.Counters` -/

@[simp] theorem fireSlots_meridian {s n v} : (fireSlots s n v).meridian = s.meridian := rfl
@[simp] theorem wakeCounter_meridian {s n v} : (wakeCounter s n v).meridian = s.meridian := rfl
@[simp] theorem setCounter_meridian {s n v} : (setCounter s n v).meridian = s.meridian := rfl
@[simp] theorem addCounter_meridian {s n inc} : (addCounter s n inc).meridian = s.meridian := rfl

@[simp] theorem raiseCounter_meridian {s asid n} : (raiseCounter s asid n).meridian = s.meridian := by
  grind [raiseCounter, addCounter_meridian]

/-! ### Functions of `Machine.Fp` -/

@[simp] theorem countRes_meridian {r c ex s} : (countRes r c ex s).meridian = s.meridian := by
  grind [countRes, Ctx.count_meridian]

/-! ### Functions of `Machine.CrossLane` -/

@[simp] theorem setNb_meridian {s tid f g} : (setNb s tid f g).meridian = s.meridian := rfl

/-! ### Functions of `Machine.Local` -/

@[simp] theorem sweepWays_meridian {s core ws n} : (sweepWays s core ws n).meridian = s.meridian := rfl

theorem pagesReadable_meridian {s core asid ps s' y} (h : pagesReadable s core asid ps = (s', y)) : s'.meridian = s.meridian := by
  fun_induction pagesReadable s core asid ps generalizing s' y <;> grind [→ permission_scene, State.scene]

@[simp] theorem addDefer_meridian {s gid lane va pc asid tslot gslot cause size kind order issue} :
    (addDefer s gid lane va pc asid tslot gslot cause size kind order issue).meridian = s.meridian :=
  rfl

@[simp] theorem writeBackLine_meridian {c lane s place k va x} : (writeBackLine c lane s place k va x).meridian = s.meridian := by
  unfold writeBackLine
  dsimp only
  split
  · rw [localError_meridian, setStash_meridian]
  · split
    all_goals rename_i h; replace h := meridian_of_scene (checkAccess_scene h)
    · exact h
    · split
      · refine (foldl_meridian fun s r => ?_).trans h
        split <;> rename_i hs <;> exact (cowStore_meridian hs :)
      · exact retire_meridian.trans h

theorem writeBackAll_meridian {c lane ls s s' y} (h : writeBackAll c lane ls s = (s', y)) : s'.meridian = s.meridian := by
  fun_induction writeBackAll c lane ls s generalizing s' y <;> grind [writeBackLine_meridian]

/-! ### Functions of `Machine.Global` -/

theorem loadLane_meridian {c f size acq s l s' y} (h : loadLane c f size acq s l = (s', y)) : s'.meridian = s.meridian := by
  grind [loadLane, → fibreLoad_meridian]

@[simp] theorem addLate_meridian {c f size s lanes} : (addLate c f size s lanes).meridian = s.meridian := rfl

theorem storeLane_meridian {c kind floor s l va bs s' y} (h : storeLane c kind floor s l va bs = (s', y)) :
    s'.meridian = s.meridian := by
  grind [storeLane, → checkAccess_scene, → cowStore_meridian, retire_meridian, State.scene]

@[simp] theorem sendAtomic_meridian {c s l va bs e} : (sendAtomic c s l va bs e).meridian = s.meridian := rfl

theorem atomicWaits_meridian {c n s l va s' y} (h : atomicWaits c n s l va = (s', y)) : s'.meridian = s.meridian := by
  grind [atomicWaits, → checkAccess_scene, → reach_scene, → homeLine_scene, capLine_meridian, State.scene]

theorem anyWaits_meridian {c n addr ls s s' y} (h : anyWaits c n addr ls s = (s', y)) : s'.meridian = s.meridian := by
  fun_induction anyWaits c n addr ls s generalizing s' y <;> grind [→ atomicWaits_meridian]

theorem prefetchable_meridian {s c line s' y} (h : prefetchable s c line = (s', y)) : s'.meridian = s.meridian := by
  grind [prefetchable, → permission_scene, State.scene]

@[simp] theorem invalidate_meridian {s page line pair} : (invalidate s page line pair).meridian = s.meridian :=
  (foldl_meridian fun _ _ => State.modCore_meridian ..).trans
    (foldl_meridian fun _ _ => meridian_of_scene flushLine_scene)

/-! ### Functions of `Machine.Codebook` -/

@[simp] theorem State.setBank_meridian {s core b x} : (State.setBank s core b x).meridian = s.meridian := rfl

@[simp] theorem parityError_meridian {s core bank entry handle} :
    (parityError s core bank entry handle).meridian = s.meridian :=
  rfl

theorem firstUnreadable_meridian {c lane n va s s' y} (h : firstUnreadable c lane n va s = (s', y)) :
    s'.meridian = s.meridian := by
  fun_induction firstUnreadable c lane n va s generalizing s' y <;> grind [→ checkAccess_scene, State.scene]

theorem readEntries_meridian {t core asid gid lane n va s s' y} (h : readEntries t core asid gid lane n va s = (s', y)) :
    s'.meridian = s.meridian := by
  fun_induction readEntries t core asid gid lane n va s generalizing s' y <;> grind [→ translate_scene, → loadValue_meridian,
    → homeRead_meridian, State.scene]

/-! ### Functions of `Machine.Control` -/

@[simp] theorem split_meridian {c s m target slot issue} : (split c s m target slot issue).meridian = s.meridian := rfl
@[simp] theorem State.modSub_meridian {s gid lane h} : (State.modSub s gid lane h).meridian = s.meridian := rfl

@[simp] theorem testRendezvous_meridian {s gid n pc} : (testRendezvous s gid n pc).meridian = s.meridian := by
  grind [testRendezvous, State.modGroup_meridian, trapWith_meridian]

@[simp] theorem testMask_meridian {s gid n} : (testMask s gid n).meridian = s.meridian := by
  unfold testMask
  split
  · rfl
  · exact foldl_meridian fun _ _ => testRendezvous_meridian

@[simp] theorem testMasks_meridian {s gid} :
    (testMasks s gid).meridian = s.meridian :=
  foldl_meridian fun _ _ => testMask_meridian

@[simp] theorem parkLast_meridian {c s w} : (parkLast c s w).meridian = s.meridian := rfl

theorem bodyWords_meridian {c n pc s s' y} (h : bodyWords c n pc s = (s', y)) : s'.meridian = s.meridian := by
  fun_induction bodyWords c n pc s generalizing s' y <;> grind [→ fetchNow_scene, State.scene]

@[simp] theorem bufferBody_meridian {c s first last} : (bufferBody c s first last).meridian = s.meridian := by
  grind [bufferBody, → bodyWords_meridian, State.modCore_meridian]

@[simp] theorem endBarWaits_meridian {s tid n gen} : (endBarWaits s tid n gen).meridian = s.meridian := rfl

@[simp] theorem testBarrier_meridian {s tid n} : (testBarrier s tid n).meridian = s.meridian := by
  grind [testBarrier, State.modTeam_meridian, endBarWaits_meridian]

@[simp] theorem testBarriers_meridian {s tid} : (testBarriers s tid).meridian = s.meridian :=
  foldl_meridian fun _ _ => testBarrier_meridian

@[simp] theorem arriveAt_meridian {c s n m} : (arriveAt c s n m).meridian = s.meridian := rfl

/-! ### Functions of `Machine.Tile` -/

@[simp] theorem enqueue_meridian {s core o} : (enqueue s core o).meridian = s.meridian := rfl
@[simp] theorem State.setAcc_meridian {s core slot a} : (State.setAcc s core slot a).meridian = s.meridian := rfl

@[simp] theorem State.setOpAcc_meridian {s core o a} : (State.setOpAcc s core o a).meridian = s.meridian := by
  grind [State.setOpAcc, State.setAcc_meridian, State.modCore_meridian]

@[simp] theorem trimLost_meridian {s core} : (trimLost s core).meridian = s.meridian := rfl

theorem readBlock_meridian {local_ n s c lane a s' y} (h : readBlock local_ n s c lane a = (s', y)) :
    s'.meridian = s.meridian := by
  unfold readBlock at h
  split at h
  · obtain rfl : _ = s' := congrArg Prod.fst h
    exact foldl_fst_meridian fun acc i => by grind [→ localRead_meridian]
  · exact readRecord_meridian h

theorem opRead_meridian {handle s t loc addr n s' y} (h : opRead handle s t loc addr n = (s', y)) : s'.meridian = s.meridian := by
  grind [opRead, → engLocalRead_meridian, → engRead_meridian]

theorem expandIdx_meridian {s t bank raw handle idx s' y} (h : expandIdx s t bank raw handle idx = (s', y)) :
    s'.meridian = s.meridian := by
  grind [expandIdx, parityError_meridian]

theorem rowCodes_meridian {s t b o handle r s' y} (h : rowCodes s t b o handle r = (s', y)) : s'.meridian = s.meridian := by
  grind [rowCodes, → opRead_meridian, → expandIdx_meridian]

theorem readScale_meridian {handle s t loc addr s' y} (h : readScale handle s t loc addr = (s', y)) :
    s'.meridian = s.meridian := by
  grind [readScale, → opRead_meridian]

theorem rowChans_meridian {s t b o handle r s' y} (h : rowChans s t b o handle r = (s', y)) : s'.meridian = s.meridian := by
  unfold rowChans at h
  dsimp only at h
  split at h
  · obtain rfl : _ = s' := congrArg Prod.fst h
    exact foldl_fst_meridian fun acc ch => by grind [→ opRead_meridian]
  · grind [→ opRead_meridian, → expandIdx_meridian]

theorem convElem_meridian {handle s t b tsr j k s' y} (h : convElem handle s t b tsr j k = (s', y)) :
    s'.meridian = s.meridian := by
  grind [convElem, → opRead_meridian]

theorem convColumn_meridian {handle s t b tsr j s' y} (h : convColumn handle s t b tsr j = (s', y)) :
    s'.meridian = s.meridian := by
  obtain rfl : _ = s' := congrArg Prod.fst h
  exact foldl_fst_meridian fun acc k => by grind [→ convElem_meridian]

theorem fetchRow_meridian {s t b tsr o handle r s' y} (h : fetchRow s t b tsr o handle r = (s', y)) :
    s'.meridian = s.meridian := by
  grind [fetchRow, → rowChans_meridian, → readScale_meridian, → convColumn_meridian, → rowCodes_meridian]

theorem fetchRows_meridian {t b tsr o handle rs s s' y} (h : fetchRows t b tsr o handle rs s = (s', y)) :
    s'.meridian = s.meridian := by
  fun_induction fetchRows t b tsr o handle rs s generalizing s' y <;> grind [→ fetchRow_meridian]

theorem multicast_meridian {s t o b rows s' y} (h : multicast s t o b rows = (s', y)) : s'.meridian = s.meridian := by
  obtain rfl : _ = s' := congrArg Prod.fst h
  exact foldl_fst_meridian fun acc core => by grind [landLocal_meridian]

theorem runTile_meridian {s t o b s' y} (h : runTile s t o b = (s', y)) : s'.meridian = s.meridian := by
  grind [runTile, State.setOpAcc_meridian, → opRead_meridian, → fetchRows_meridian, → multicast_meridian]

@[simp] theorem finishOp_meridian {s core o code kind fault} : (finishOp s core o code kind fault).meridian = s.meridian := by
  unfold finishOp
  dsimp only
  split <;> simp

@[simp] theorem takeModuli_meridian {s t m} : (takeModuli s t m).meridian = s.meridian :=
  foldl_meridian fun _ _ => by grind [State.setAcc_meridian]

/-! ### Functions of `Machine.Ending` -/

@[simp] theorem State.modLaunch_meridian {s seq f} : (State.modLaunch s seq f).meridian = s.meridian := rfl

@[simp] theorem releaseAllot_meridian {s t} : (releaseAllot s t).meridian = s.meridian := by
  grind [releaseAllot, State.modCore_meridian, dropRowWait_meridian, cleanSnaps_meridian]

@[simp] theorem returnRegions_meridian {s seq} : (returnRegions s seq).meridian = s.meridian := by
  grind [returnRegions, State.modLaunch_meridian]

@[simp] theorem endStash_meridian {s t} : (endStash s t).meridian = s.meridian :=
  foldl_meridian fun s q => by
    dsimp only
    split
    · rfl
    · split
      · exact localError_meridian
      · exact foldl_meridian fun _ _ => agentStore_meridian

@[simp] theorem keepPublications_meridian {s t} : (keepPublications s t).meridian = s.meridian := by
  grind [keepPublications, State.modLaunch_meridian]

@[simp] theorem endTeam_meridian {s tid} : (endTeam s tid).meridian = s.meridian := by
  unfold endTeam
  split
  · rfl
  · rename_i t _
    extract_lets s1 s2 s3
    have h2 : s2.meridian = s.meridian := releaseAllot_meridian.trans (keepPublications_meridian.trans endStash_meridian)
    have h3 : s3.meridian = s.meridian := by grind
    clear_value s3
    split <;> grind [returnRegions_meridian, State.modLaunch_meridian]

@[simp] theorem endIfEmpty_meridian {s tid} : (endIfEmpty s tid).meridian = s.meridian := by
  grind [endIfEmpty, checkExhausted_meridian, endTeam_meridian]

@[simp] theorem endGroup_meridian {s g} : (endGroup s g).meridian = s.meridian := rfl

@[simp] theorem endFibres_meridian {s gid m} : (endFibres s gid m).meridian = s.meridian := by
  unfold endFibres
  split
  · rfl
  rename_i g _
  have ends {ls : List Nat} {s : State} : (ls.foldl (fun s l => setNb s g.tid (32 * g.gslot + l)
      fun x => { x with live := false, ended := true }) s).meridian = s.meridian := foldl_meridian fun _ _ => setNb_meridian
  extract_lets m pass s1 s2 ended s3 g1 s4 s5 core s6
  have h1 : s1.meridian = s.meridian := by grind [State.modLaunch_meridian]
  have h3 : s3.meridian = s1.meridian := ends
  have h6 : s6.meridian = s3.meridian := by grind [testBarriers_meridian, endGroup_meridian, testMasks_meridian,
    State.modTeam_meridian, State.setGroup_meridian]
  rw [endIfEmpty_meridian, checkExhausted_meridian, h6, h3, h1]

@[simp] theorem deliverRestored_meridian {c s} : (deliverRestored c s).meridian = s.meridian := by
  grind [deliverRestored, trapWith_meridian, State.modTeam_meridian]

/-! ### Functions of `Machine.Form` -/

@[simp] theorem formGroup_meridian {s t gslot role live idx st} : (formGroup s t gslot role live idx st).meridian = s.meridian :=
  foldl_meridian fun _ _ => setNb_meridian

theorem readImage_meridian {s r off n s' y} (h : readImage s r off n = (s', y)) : s'.meridian = s.meridian := by
  grind [readImage, → engRead_meridian]

theorem imageSlot_meridian {s core r b s' y} (h : imageSlot s core r b = (s', y)) : s'.meridian = s.meridian := by
  grind [imageSlot, State.modCore_meridian]

theorem loadBanks_meridian {owner img hdr core bs s s' y} (h : loadBanks owner img hdr core bs s = (s', y)) :
    s'.meridian = s.meridian := by
  fun_induction loadBanks owner img hdr core bs s generalizing s' y <;> grind [→ readImage_meridian, State.setBank_meridian]

theorem takeParts_meridian {s core seq ways segs cols s' y} (h : takeParts s core seq ways segs cols = (s', y)) :
    s'.meridian = s.meridian := by
  obtain rfl : _ = s' := congrArg Prod.fst h
  have parts (k : Nat) (l : List Nat) (s : State) : (l.foldl (fun s i => allotPart s core k i) s).meridian = s.meridian :=
    foldl_meridian fun _ _ => allotPart_meridian
  dsimp only [takeParts]
  rw [parts, parts]
  split
  · rfl
  · rw [parts, sweepWays_meridian]

@[simp] theorem formItems_meridian {t p child count st gs s} : (formItems t p child count st gs s).meridian = s.meridian := by
  fun_induction formItems t p child count st gs s <;> grind [formGroup_meridian]

theorem placeTeam_meridian {s L p no core s'} (h : placeTeam s L p no core = some s') : s'.meridian = s.meridian := by
  have slots {core : Nat} {t : Team} {l : List Nat} {s : State} :
      (l.foldl (fun s i => if ownsSlot t i then s.setAcc core i Acc.empty else s) s).meridian = s.meridian :=
    foldl_meridian fun _ _ => by split <;> simp
  unfold placeTeam at h
  dsimp only at h
  split at h
  · cases h
  next s1 hdr h1 =>
  replace h1 : s1.meridian = s.meridian := by
    split at h1
    · cases h1; rfl
    · exact readImage_meridian h1
  split at h
  · cases h
  next s2 bhdr h2 =>
  replace h2 : s2.meridian = s1.meridian := by
    split at h2
    · exact readImage_meridian h2
    · cases h2; rfl
  split at h
  · cases h
  next s3 h3 =>
  replace h3 := loadBanks_meridian h3
  have h4 : (takeParts s3 core L.seq (pWays L.pkt) (pTbuf L.pkt) (pColb L.pkt)).1.meridian = s3.meridian := takeParts_meridian rfl
  split at h <;> cases h
  · split
    · rw [formGroup_meridian, slots]; grind
    · rw [formItems_meridian, slots]; grind
  · refine formItems_meridian.trans ((imageSlot_meridian rfl).trans (slots.trans ?_))
    grind

@[simp] theorem placeService_meridian {s core tslot kind asid priv live idx st} :
    (placeService s core tslot kind asid priv live idx st).meridian = s.meridian := by
  grind [placeService, formGroup_meridian]

/-! ### Functions of `Machine.Spawn` -/

@[simp] theorem setBins_meridian {s core bs} : (setBins s core bs).meridian = s.meridian := rfl
@[simp] theorem replaceBin_meridian {s core b} : (replaceBin s core b).meridian = s.meridian := rfl

theorem binStart_meridian {s t entry s' y} (h : binStart s t entry = (s', y)) : s'.meridian = s.meridian := by
  grind [binStart, → readImage_meridian, → imageSlot_meridian]

theorem formBin_meridian {s core b s'} (h : formBin s core b = some s') : s'.meridian = s.meridian := by
  grind [formBin, → binStart_meridian, formGroup_meridian, State.modTeam_meridian, → privatise_meridian, State.modGroup_meridian,
    setBins_meridian]

@[simp] theorem closeBin_meridian {s core b} : (closeBin s core b).meridian = s.meridian := by
  dsimp only [closeBin]
  cases h : formBin _ core _ with
  | none => rfl
  | some s' => exact (formBin_meridian h).trans replaceBin_meridian

@[simp] theorem spawnOne_meridian {s t role entry arg ord src} : (spawnOne s t role entry arg ord src).meridian = s.meridian := by
  unfold spawnOne
  extract_lets bs best fresh put
  have put_meridian {b isNew} : (put b isNew).meridian = s.meridian := by
    grind [setBins_meridian, replaceBin_meridian, closeBin_meridian]
  clear_value put best fresh
  cases best
  · cases fresh
    · rfl
    · exact put_meridian
  · exact put_meridian

/-! ### Functions of `Machine.Template` -/

@[simp] theorem modRegion_meridian {s entry f} : (modRegion s entry f).meridian = s.meridian := rfl

@[simp] theorem reportCarried_meridian {s core carried} : (reportCarried s core carried).meridian = s.meridian :=
  foldl_meridian fun _ i => by
    cases carried i with
    | none => rfl
    | some b => exact foldl_meridian fun _ _ => parityError_meridian

@[simp] theorem stamp_meridian {c s r lane count} : (stamp c s r lane count).meridian = s.meridian := by
  grind [stamp, State.modLaunch_meridian, modRegion_meridian, State.modGroup_meridian, returnRegions_meridian, endFibres_meridian]

/-! ### Functions of `Machine.Sched` -/

@[simp] theorem completeLaunch_meridian {s seq code} : (completeLaunch s seq code).meridian = s.meridian := by
  grind [completeLaunch, State.modLaunch_meridian, raiseCounter_meridian]

@[simp] theorem markLate_meridian {s seq} : (markLate s seq).meridian = s.meridian := by
  grind [markLate, State.modLaunch_meridian, completeLaunch_meridian]

@[simp] theorem emptied_meridian {s} : (emptied s).meridian = s.meridian := rfl

@[simp] theorem occupy_meridian {s L p no core} : (occupy s L p no core).meridian = s.meridian := by
  unfold occupy
  split
  rename_i h
  have banks {l : List Nat} {f : Bank} {s : State} : (l.foldl (fun s b => s.setBank core b f) s).meridian = s.meridian :=
    foldl_meridian fun _ _ => State.setBank_meridian
  refine formItems_meridian.trans (Eq.trans ?_ (takeParts_meridian h))
  dsimp only
  split
  · split
    · exact banks
    · rw [State.modCore_meridian, banks]
  · exact banks

@[simp] theorem queueLaunch_meridian {s e asid pkt va} : (queueLaunch s e asid pkt va).meridian = s.meridian := by
  grind [queueLaunch, completeLaunch_meridian, markLate_meridian]

theorem readModuli_meridian {s L s' y} (h : readModuli s L = (s', y)) : s'.meridian = s.meridian := by
  grind [readModuli, → engRead_meridian]

@[simp] theorem notePlaced_meridian {s L p m} : (notePlaced s L p m).meridian = s.meridian := by cases p <;> rfl
@[simp] theorem takeRegion_meridian {s L e} : (takeRegion s L e).meridian = s.meridian := rfl

theorem launchModuli_meridian {s L s' y} (h : launchModuli s L = (s', y)) : s'.meridian = s.meridian := by
  grind [launchModuli, → readModuli_meridian]

theorem placeOne_meridian {s L p s'} (h : placeOne s L p = some s') : s'.meridian = s.meridian := by
  unfold placeOne at h
  dsimp only at h
  split at h
  · split at h
    · cases h; exact completeLaunch_meridian
    · split at h
      · cases h
      · cases h; exact completeLaunch_meridian.trans (launchModuli_meridian ‹_›)
      · obtain ⟨s1, h1, rfl⟩ := Option.map_eq_some_iff.mp h
        have h0 := launchModuli_meridian ‹_›
        grind [notePlaced_meridian, takeRegion_meridian, → placeTeam_meridian]
  · cases h

theorem placeAll_meridian {L m core n no s s'} (h : placeAll L m core n no s = some s') : s'.meridian = s.meridian := by
  fun_induction placeAll L m core n no s <;> grind [→ placeTeam_meridian, notePlaced_meridian]

theorem placeGang_meridian {s L s'} (h : placeGang s L = some s') : s'.meridian = s.meridian := by
  grind [placeGang, → launchModuli_meridian, completeLaunch_meridian, → placeAll_meridian]

theorem placeNext_meridian {s L s'} (h : placeNext s L = some s') : s'.meridian = s.meridian := by
  grind [placeNext, → placeGang_meridian, → placeOne_meridian]

@[simp] theorem statsFault_meridian {s L va} : (statsFault s L va).meridian = s.meridian := rfl

/-! ### Functions of `Machine.Curfew` -/

@[simp] theorem withdraw_meridian {s g u n} : (withdraw s g u n).meridian = s.meridian := rfl

@[simp] theorem stopOne_meridian {s gid lane} : (stopOne s gid lane).meridian = s.meridian := by
  grind [stopOne, Ctx.setSub_meridian, withdraw_meridian]

@[simp] theorem settleStop_meridian {s gid lane} : (settleStop s gid lane).meridian = s.meridian := by
  grind [settleStop, stopOne_meridian, Ctx.setSub_meridian]

@[simp] theorem without_meridian {s t} : (without s t).meridian = s.meridian := by
  grind [without, releaseAllot_meridian, setBins_meridian]

@[simp] theorem curfewOn_meridian {s L t base n} : (curfewOn s L t base n).meridian = s.meridian := rfl

@[simp] theorem raiseCurfew_meridian {s L} : (raiseCurfew s L).meridian = s.meridian := by
  grind [raiseCurfew, curfewOn_meridian]

/-! ### Functions of `Machine.Sluice` -/

@[simp] theorem dropEngineEntry_meridian {s order} : (dropEngineEntry s order).meridian = s.meridian := rfl

/-! ### Functions of `Machine.Cryst` -/

@[simp] theorem putCrystSlot_meridian {s r slot bs} :
    (putCrystSlot s r slot bs).meridian = s.meridian :=
  by unfold putCrystSlot; rfl

@[simp] theorem State.setRegion_meridian {s r x} : (State.setRegion s r x).meridian = s.meridian := rfl

theorem putLine_meridian {s r b bs s' y} (h : putLine s r b bs = (s', y)) : s'.meridian = s.meridian := by
  grind [putLine, putCrystSlot_meridian, State.noteHealth_meridian, State.setRegion_meridian]

theorem moveGap_meridian {s r s' y} (h : moveGap s r = (s', y)) : s'.meridian = s.meridian := by
  grind [moveGap, → putLine_meridian, State.setRegion_meridian]

theorem dropCrystLines_meridian {s c s' y} (h : dropCrystLines s c = (s', y)) : s'.meridian = s.meridian := by
  grind [dropCrystLines]

@[simp] theorem preserveCryst_meridian {s c} : (preserveCryst s c).meridian = s.meridian :=
  foldl_meridian fun _ _ => preserve_meridian

theorem crystLineWrite_meridian {s c bs s' y} (h : crystLineWrite s c bs = (s', y)) : s'.meridian = s.meridian := by
  grind [crystLineWrite, preserveCryst_meridian, → putLine_meridian, State.setRegion_meridian, → moveGap_meridian,
    → dropCrystLines_meridian]

/-! ### Functions of `Machine.Copy` -/

theorem stashHome_meridian {s p s' y} (h : stashHome s p = (s', y)) : s'.meridian = s.meridian := by
  grind [stashHome, → stashFillWith_meridian, → engHome_meridian]

theorem opLocalPiece_meridian {o s a n s' y} (h : opLocalPiece o s a n = (s', y)) : s'.meridian = s.meridian := by
  grind [opLocalPiece, → stashHome_meridian, localError_meridian]

theorem opGlobalPiece_meridian {o snap s a n s' y} (h : opGlobalPiece o snap s a n = (s', y)) : s'.meridian = s.meridian := by
  grind [opGlobalPiece, → engPage_meridian, memError_scene, → engPiece_meridian, State.scene]

theorem copyRead_meridian {o loc snap s a n s' y} (h : copyRead o loc snap s a n = (s', y)) : s'.meridian = s.meridian :=
  readPieces_meridian (fun _ _ _ _ _ h => by grind [→ opLocalPiece_meridian, → opGlobalPiece_meridian]) h

theorem writeCheck_meridian {s asid a s' y} (h : writeCheck s asid a = (s', y)) : s'.meridian = s.meridian := by
  grind [writeCheck, → translate_scene, State.scene]

theorem copyWritePiece_meridian {loc acc a bs} : (copyWritePiece loc acc a bs).1.meridian = acc.1.meridian := by
  grind [copyWritePiece, → stashHome_meridian, landLocal_meridian, stashDirty_meridian, → writeCheck_meridian,
    agentStore_meridian]

theorem copyWrite_meridian {loc acc a bs} : (copyWrite loc acc a bs).1.meridian = acc.1.meridian :=
  foldl_fst_meridian fun _ _ => copyWritePiece_meridian

theorem withRead_meridian {acc loc snap a n} {k : State × CopyOp → List Byte → State × CopyOp}
    (hk : ∀ acc bs, (k acc bs).1.meridian = acc.1.meridian) : (withRead acc loc snap a n k).1.meridian = acc.1.meridian := by
  grind [withRead, → copyRead_meridian]

theorem countOp_meridian {acc kind n} : (countOp acc kind n).1.meridian = acc.1.meridian := State.countFor_meridian

theorem rowSb12_meridian {r row acc src} : (rowSb12 r row acc src).1.meridian = acc.1.meridian :=
  foldl_fst_meridian fun acc b => by
    dsimp only
    split
    · rfl
    · rw [copyWrite_meridian, copyWrite_meridian, countOp_meridian, countOp_meridian]

theorem rowRp16_meridian {r row acc src sc} : (rowRp16 r row acc src sc).1.meridian = acc.1.meridian :=
  (foldl_fst_meridian fun _ _ => copyWrite_meridian).trans countOp_meridian

theorem rowBf16_meridian {r row acc src sc} : (rowBf16 r row acc src sc).1.meridian = acc.1.meridian := copyWrite_meridian

theorem rowDrain_meridian {r row acc} : (rowDrain r row acc).1.meridian = acc.1.meridian :=
  foldl_fst_meridian fun acc i => by
    dsimp only
    split
    · rfl
    · split
      · rfl
      · exact withRead_meridian fun acc bs => by grind [→ crystLineWrite_meridian, memError_scene, State.scene]

theorem copyRow_meridian {idx acc row} : (copyRow idx acc row).1.meridian = acc.1.meridian := by
  have scales {k : State × CopyOp → List Byte → State × CopyOp} (hk : ∀ acc sc, (k acc sc).1.meridian = acc.1.meridian) {loc snap a n}
      {acc : State × CopyOp} {b : Bool} : (if b then withRead acc loc snap a n fun acc sc =>
        if badScales sc then (acc.1, acc.2.fail (6, 0)) else k acc sc else k acc []).1.meridian = acc.1.meridian := by
    split
    · exact withRead_meridian fun acc sc => by grind
    · exact hk acc []
  unfold copyRow
  dsimp only
  split
  · exact rowDrain_meridian
  · split
    · exact withRead_meridian fun _ _ => copyWrite_meridian
    · refine withRead_meridian fun acc bs => ?_
      split
      · exact rowSb12_meridian
      · split
        · exact scales fun _ _ => rowRp16_meridian
        · split
          · exact scales fun _ _ => rowBf16_meridian
          · exact copyWrite_meridian

theorem runCopy_meridian {s o s' y} (h : runCopy s o = (s', y)) : s'.meridian = s.meridian := by
  obtain rfl : _ = s' := congrArg Prod.fst h
  unfold runCopy
  dsimp only
  split
  · refine withRead_meridian fun acc idx => ?_
    split
    · rfl
    · exact foldl_fst_meridian fun _ _ => copyRow_meridian
  · exact foldl_fst_meridian fun _ _ => copyRow_meridian

@[simp] theorem setCopyTicket_meridian {s unit_ e t} : (setCopyTicket s unit_ e t).meridian = s.meridian := rfl
@[simp] theorem doneCopy_meridian {s unit_ e status} : (doneCopy s unit_ e status).meridian = s.meridian := rfl

@[simp] theorem endCopy_meridian {s o bytes cause code} : (endCopy s o bytes cause code).meridian = s.meridian := by
  grind [endCopy, dropFails_meridian, dropEngineEntry_meridian, raiseCounter_meridian, doneCopy_meridian, opEnded_meridian]

@[simp] theorem readAll_meridian {s order} : (readAll s order).meridian = s.meridian := rfl

theorem newCopy_meridian {s unit_ e asid s' y} (h : newCopy s unit_ e asid = (s', y)) : s'.meridian = s.meridian := by
  grind [newCopy, setCopyTicket_meridian]

/-! ### Functions of `Machine.Brine` -/

theorem readTableImage_meridian {s c va s' y} (h : readTableImage s c va = (s', y)) : s'.meridian = s.meridian := by
  grind [readTableImage, → readRecord_meridian]

theorem jobRead_meridian {j s a n s' y} (h : jobRead j s a n = (s', y)) : s'.meridian = s.meridian := by
  grind [jobRead, → engRead_meridian]

theorem destFault_meridian {asid ps s s' y} (h : destFault asid ps s = (s', y)) : s'.meridian = s.meridian := by
  fun_induction destFault asid ps s generalizing s' y <;> grind [→ writeCheck_meridian]

theorem release_meridian {s j chunk bs s' y} (h : release s j chunk bs = (s', y)) : s'.meridian = s.meridian := by
  have stores {l : List (Nat × Nat)} {g : Nat × Nat → List Byte} {s : State} :
      (l.foldl (fun s p => agentStore s 2 j.order j.core j.asid.toNat p.1 (g p)) s).meridian = s.meridian :=
    foldl_meridian fun _ _ => agentStore_meridian
  unfold release at h
  dsimp only at h
  split at h <;> cases h
  · exact destFault_meridian ‹_›
  · exact stores.trans (destFault_meridian ‹_›)

theorem runChunk_meridian {t acc chunk} : (runChunk t acc chunk).1.meridian = acc.1.meridian := by
  grind [runChunk, → jobRead_meridian, → release_meridian]

theorem runJob_meridian {s j s' y} (h : runJob s j = (s', y)) : s'.meridian = s.meridian := by
  obtain rfl : _ = s' := congrArg Prod.fst h
  unfold runJob
  split
  · rfl
  · split
    · rfl
    · exact foldl_fst_meridian fun _ _ => runChunk_meridian

@[simp] theorem setBrineTicket_meridian {s lane e t} : (setBrineTicket s lane e t).meridian = s.meridian := rfl
@[simp] theorem doneBrine_meridian {s lane e status} : (doneBrine s lane e status).meridian = s.meridian := rfl

theorem newBrine_meridian {s lane e asid s' y} (h : newBrine s lane e asid = (s', y)) : s'.meridian = s.meridian := by
  grind [newBrine, setBrineTicket_meridian]

/-! ### Functions of `Machine.Fabric` -/

@[simp] theorem setFabTicket_meridian {s k t} : (setFabTicket s k t).meridian = s.meridian := rfl

theorem newFab_meridian {s k asid s' y} (h : newFab s k asid = (s', y)) : s'.meridian = s.meridian := by
  grind [newFab, setFabTicket_meridian]

@[simp] theorem doneFab_meridian {s k status} : (doneFab s k status).meridian = s.meridian := rfl
@[simp] theorem addTransfer_meridian {s x} : (addTransfer s x).meridian = s.meridian := rfl

theorem targetPage_meridian {s asid a reads writes s' y} (h : targetPage s asid a reads writes = (s', y)) :
    s'.meridian = s.meridian := by
  grind [targetPage, → translate_scene, State.scene]

theorem targetReady_meridian {asid acc a s' y} (h : targetReady asid acc a = (s', y)) : s'.meridian = acc.1.meridian := by
  grind [targetReady, → translate_scene, → homeLine_scene, capLine_meridian, State.scene]

theorem homeWrite_meridian {s asid a bs s' y} (h : homeWrite s asid a bs = (s', y)) : s'.meridian = s.meridian := by
  grind [homeWrite, → targetPage_meridian, frameWrite_meridian, → dirtyLine_meridian, applyLine_meridian]

theorem putWrites_meridian {agent id asid bs base ps s s' y} (h : putWrites agent id asid bs base ps s = (s', y)) :
    s'.meridian = s.meridian := by
  fun_induction putWrites agent id asid bs base ps s generalizing s' y <;> grind [→ targetPage_meridian, agentStore_meridian]

theorem targetReads_meridian {asid ps s s' y} (h : targetReads asid ps s = (s', y)) : s'.meridian = s.meridian := by
  fun_induction targetReads asid ps s generalizing s' y <;> grind [→ targetPage_meridian, → homeRead_meridian]

theorem targetAtom_meridian {s q s' y} (h : targetAtom s q = (s', y)) : s'.meridian = s.meridian := by
  unfold targetAtom at h
  dsimp only at h
  split at h
  · grind [→ targetPage_meridian]
  · split at h
    · grind [→ targetPage_meridian, → homeRead_meridian]
    · split at h
      · grind [→ targetPage_meridian, → homeRead_meridian]
      · split at h <;> grind [→ targetPage_meridian, → homeRead_meridian, → homeWrite_meridian]

theorem serve_meridian {s q s' y} (h : serve s q = (s', y)) : s'.meridian = s.meridian := by
  have ready {asid b} {l : List (Nat × Nat)} : (l.foldl (fun acc p => targetReady asid acc p.1) (s, b)).1.meridian = s.meridian :=
    foldl_fst_meridian fun _ _ => targetReady_meridian rfl
  unfold serve at h
  dsimp only at h
  split at h
  · grind [→ targetReads_meridian]
  · split at h
    all_goals rename_i hr; replace hr := congrArg (·.1.meridian) hr; rw [ready] at hr; cases h
    · exact hr.symm
    · exact (targetAtom_meridian rfl).trans hr.symm

theorem putHere_meridian {s agent id q s' y} (h : putHere s agent id q = (s', y)) : s'.meridian = s.meridian := by
  grind [putHere, → putWrites_meridian]

@[simp] theorem homeCount_meridian {s pa} : (homeCount s pa).meridian = s.meridian := by
  grind [homeCount, countSoft_scene, countRead_scene, State.scene]

@[simp] theorem capHome_meridian {s pa} : (capHome s pa).meridian = s.meridian := by grind [capHome]
@[simp] theorem lineReply_meridian {s bs time} : (lineReply s bs time).meridian = s.meridian := rfl

@[simp] theorem inboundPut_meridian {s q} : (inboundPut s q).meridian = s.meridian := by
  grind [inboundPut, → putHere_meridian]

@[simp] theorem inboundDone_meridian {s order} : (inboundDone s order).meridian = s.meridian := by
  grind [inboundDone, dropFails_meridian, addCounter_meridian]

@[simp] theorem replicasDone_meridian {s id} : (replicasDone s id).meridian = s.meridian := rfl

theorem answer_meridian {s x data r s' y} (h : answer s x data r = (s', y)) : s'.meridian = s.meridian := by
  grind [answer, → serve_meridian]

theorem bringHome_meridian {s x bs s' y} (h : bringHome s x bs = (s', y)) : s'.meridian = s.meridian := by
  have home {loc o a} : (copyWrite loc (s, o) a bs).1.meridian = s.meridian := copyWrite_meridian
  grind [bringHome]

theorem moveTransfer_meridian {s0 x r s' y} (h : moveTransfer s0 x r = (s', y)) : s'.meridian = s0.meridian := by
  grind [moveTransfer, → copyRead_meridian, → putHere_meridian, → answer_meridian, → bringHome_meridian]

/-! ### Functions of `Machine.MemEvents` -/

@[simp] theorem State.setStore_meridian {s st} : (State.setStore s st).meridian = s.meridian := rfl
@[simp] theorem State.dropStore_meridian {s id} : (State.dropStore s id).meridian = s.meridian := rfl

@[simp] theorem applyCached_meridian {done s st} : (applyCached done s st).meridian = s.meridian := by
  grind [applyCached, State.setStore_meridian, → translate_scene, remoteCount_scene, applyLine_meridian, State.scene]

@[simp] theorem applyUc_meridian {done s st} : (applyUc done s st).meridian = s.meridian := by
  grind [applyUc, → reach_scene, State.setStore_meridian, frameWrite_meridian, remoteCount_scene, State.scene]

@[simp] theorem launchTime_meridian {s seq t far} : (launchTime s seq t far).meridian = s.meridian := rfl

/-! ### Functions of `Machine.Coll` -/

@[simp] theorem State.modColl_meridian {s order g} : (State.modColl s order g).meridian = s.meridian := rfl
@[simp] theorem tell_meridian {s x} : (tell s x).meridian = s.meridian := rfl

theorem landChunk_meridian {s x i bs s' y} (h : landChunk s x i bs = (s', y)) : s'.meridian = s.meridian := by
  obtain rfl : _ = s' := congrArg Prod.fst h
  have lands {l : List Nat} : (l.foldl (fun (acc : State × Bool) p =>
      if mcOwned acc.1 x (16 * kMcCluster x.record + p) then (landLocal acc.1 (16 * kMcCluster x.record + p)
        (kMcDest x.record + chunkBytes * i) bs, acc.2) else (acc.1, true)) (s, false)).1.meridian = s.meridian :=
    foldl_fst_meridian fun acc p => by grind [landLocal_meridian]
  dsimp only [landChunk]
  split
  · rfl
  · rw [raiseCounter_meridian, lands]

theorem writeChunk_meridian {s x i res counts s' y} (h : writeChunk s x i res counts = (s', y)) : s'.meridian = s.meridian := by
  grind [writeChunk, agentWrite_meridian, → landChunk_meridian]

/-! ### Functions of `Machine.Superstep` -/

@[simp] theorem breakStep_meridian {s seq} : (breakStep s seq).meridian = s.meridian := by
  unfold breakStep
  refine (foldl_meridian fun s q => ?_).trans (foldl_meridian fun _ _ => State.modGroup_meridian ..)
  grind [trapWith_meridian]

@[simp] theorem endStep_meridian {s L} :
    (endStep s L).meridian = s.meridian :=
  foldl_meridian fun _ _ => State.modGroup_meridian ..

/-! ### Functions of `Machine.Traps` -/

@[simp] theorem postSignal_meridian {s value asid cluster pos kind} :
    (postSignal s value asid cluster pos kind).meridian = s.meridian := by
  grind [postSignal, State.pokeN_scene, State.scene]

@[simp] theorem State.modRec_meridian {s seq f} : (State.modRec s seq f).meridian = s.meridian := rfl
@[simp] theorem toSummary_meridian {s r} : (toSummary s r).meridian = s.meridian := rfl

theorem deviceWrite_meridian {s asid a bs s' y} (h : deviceWrite s asid a bs = (s', y)) : s'.meridian = s.meridian := by
  grind [deviceWrite, → translate_scene, frameWrite_meridian, → dirtyLine_meridian, applyLine_meridian, State.scene]

@[simp] theorem makeWaiting_meridian {s core} : (makeWaiting s core).meridian = s.meridian := by
  grind [makeWaiting, exhaustedRecord_meridian, State.modCore_meridian]

@[simp] theorem wakeService_meridian {s cluster} : (wakeService s cluster).meridian = s.meridian := rfl

@[simp] theorem ringFault_meridian {s r cause} : (ringFault s r cause).meridian = s.meridian := by
  grind [ringFault, State.signalFault_meridian, State.modRec_meridian, toSummary_meridian]

@[simp] theorem releaseSub_meridian {act target s q} : (releaseSub act target s q).meridian = s.meridian := by
  grind [releaseSub, State.modGroup_meridian, Ctx.setSub_meridian, stopOne_meridian]

@[simp] theorem freeRecord_meridian {s r} : (freeRecord s r).meridian = s.meridian := by
  grind [freeRecord, agentStore_meridian]

theorem checkPages_meridian {c ps s s' y} (h : checkPages c ps s = (s', y)) : s'.meridian = s.meridian := by
  fun_induction checkPages c ps s generalizing s' y <;> grind [→ checkAccess_scene, State.scene]

@[simp] theorem restoreInto_meridian {x s bs} : (restoreInto x s bs).meridian = s.meridian := rfl

/-! ### Functions of `Machine.SysRegs` -/

@[simp] theorem State.setSlot_meridian {s n h} : (State.setSlot s n h).meridian = s.meridian := rfl
@[simp] theorem startCommand_meridian {s n h} : (startCommand s n h).meridian = s.meridian := rfl

@[simp] theorem abortCommand_meridian {s n h} : (abortCommand s n h).meridian = s.meridian := by
  grind [abortCommand, State.setSlot_meridian, State.modTeam_meridian]

@[simp] theorem hpsControl_meridian {s n v} : (hpsControl s n v).meridian = s.meridian := by
  grind [hpsControl, State.setSlot_meridian, startCommand_meridian, abortCommand_meridian]

@[simp] theorem dropService_meridian {s n} : (dropService s n).meridian = s.meridian := by
  grind [dropService, releaseAllot_meridian]

@[simp] theorem startService_meridian {s n} : (startService s n).meridian = s.meridian := by
  grind [startService, placeService_meridian, dropService_meridian]

@[simp] theorem serviceControl_meridian {s v} : (serviceControl s v).meridian = s.meridian :=
  foldl_meridian fun _ _ => by grind [startService_meridian]

@[simp] theorem modRegs_meridian {s f} : (modRegs s f).meridian = s.meridian := rfl
@[simp] theorem writeCurfewWin_meridian {s v} : (writeCurfewWin s v).meridian = s.meridian := rfl
@[simp] theorem writeLeaseL1_meridian {s v} : (writeLeaseL1 s v).meridian = s.meridian := rfl

@[simp] theorem writeFeatAccept_meridian {s v} : (writeFeatAccept s v).meridian = s.meridian := by
  grind [writeFeatAccept, modRegs_meridian]

@[simp] theorem deviceStore_meridian {s i v} : (deviceStore s i v).meridian = s.meridian := by
  grind [deviceStore, markWorn_meridian, modRegs_meridian, writeCurfewWin_meridian, writeLeaseL1_meridian,
    writeFeatAccept_meridian, State.setSlot_meridian, hpsControl_meridian]

@[simp] theorem sysStore_meridian {s c i v} : (sysStore s c i v).meridian = s.meridian := by
  grind [sysStore, State.modCore_meridian, deviceStore_meridian]

/-! ### Functions of `Machine.Zone` -/

@[simp] theorem visitLeaf_meridian {s z} : (visitLeaf s z).meridian = s.meridian := by
  grind [visitLeaf, writePte_scene, State.scene]

@[simp] theorem clearPage_meridian {s z} : (clearPage s z).meridian = s.meridian :=
  (foldl_meridian fun _ _ => State.modCore_meridian ..).trans
    (foldl_meridian fun _ _ => meridian_of_scene flushLine_scene)

@[simp] theorem compress_meridian {s z} : (compress s z).meridian = s.meridian := by
  unfold compress
  dsimp only
  split
  · exact clearPage_meridian
  · exact State.pokeN_meridian.trans (State.pokeN_meridian.trans (writePte_meridian.trans (State.pokeN_meridian.trans
      ((foldl_meridian fun _ _ => memError_meridian).trans clearPage_meridian))))

/-! ### Functions of `Machine.Device` -/

@[simp] theorem loseLines_meridian {s} : (loseLines s).meridian = s.meridian :=
  foldl_meridian fun _ _ => by grind [State.pokeN_scene, State.scene]

@[simp] theorem warmReset_meridian {s} : (warmReset s).meridian = s.meridian := by
  grind [warmReset, loseLines_meridian]

@[simp] theorem bootReady_meridian {s b} : (bootReady s b).meridian = s.meridian := by
  grind [bootReady, State.noteHealth_meridian, modRegs_meridian]

@[simp] theorem writeRoute_meridian {s i v} : (writeRoute s i v).meridian = s.meridian := rfl

@[simp] theorem plainWrite_meridian {s off v} : (plainWrite s off v).meridian = s.meridian := by
  unfold plainWrite
  simp only [apply_ite State.meridian, modRegs_meridian, ite_self]

/-! ### Functions of `Machine.Drain` -/

theorem noteFault_meridian {s o va cause s' y} (h : noteFault s o va cause = (s', y)) : s'.meridian = s.meridian := by
  grind [noteFault]

theorem drainWrite_meridian {t loc s o a bs s' y} (h : drainWrite t loc s o a bs = (s', y)) : s'.meridian = s.meridian := by
  grind [drainWrite, → noteFault_meridian, → stashFillWith_meridian, → engHome_meridian, localWrite_meridian, agentStore_meridian]

theorem drainOld_meridian {handle t loc s a s' y} (h : drainOld handle t loc s a = (s', y)) : s'.meridian = s.meridian := by
  grind [drainOld, → engLocalRead_meridian, → engRead_meridian]

theorem drainElem_meridian {m t x form r i j v s o s' y} (h : drainElem m t x form r i j v s o = (s', y)) :
    s'.meridian = s.meridian := by
  have writes {loc a} {l : List (Nat × List Byte)} {acc : State × TileOp} :
      (l.foldl (fun acc p => drainWrite t loc acc.1 acc.2 (a + p.1) p.2) acc).1.meridian = acc.1.meridian :=
    foldl_fst_meridian fun _ _ => drainWrite_meridian rfl
  unfold drainElem at h
  dsimp only at h
  split at h
  · grind [→ drainOld_meridian, → noteFault_meridian, State.countFor_meridian]
  · obtain rfl : _ = s' := congrArg Prod.fst h
    rw [writes, State.countFor_meridian]
    grind [→ drainOld_meridian]

theorem runDrain_meridian {s t o form r s' y} (h : runDrain s t o form r = (s', y)) : s'.meridian = s.meridian := by
  obtain rfl : _ = s' := congrArg Prod.fst h
  unfold runDrain
  dsimp only
  split
  · rfl
  · split
    · exact State.setOpAcc_meridian.trans (foldl_meridian fun _ _ => recordRecon_meridian)
    · exact (foldl_fst_meridian fun _ _ => drainElem_meridian rfl).trans
        (State.setOpAcc_meridian.trans (foldl_meridian fun _ _ => recordRecon_meridian))

/-! ### Functions of `Machine.Save` -/

@[simp] theorem reportParts_meridian {s t ps} : (reportParts s t ps).meridian = s.meridian :=
  foldl_meridian fun _ _ => foldl_meridian fun _ _ => localError_meridian

@[simp] theorem writeSave_meridian {s t c} : (writeSave s t c).meridian = s.meridian := by
  unfold writeSave
  extract_lets gs all_ kind bins faults secs body size accs used base top blocks s1 s2 s3 s3' banks x slots regs s4 s5
  have h2 : s2.meridian = s.meridian := State.pokeN_meridian.trans State.pokeN_meridian
  have h3 : s3.meridian = s2.meridian := foldl_meridian fun _ _ => foldl_meridian fun _ _ => parityError_meridian
  have h3' : s3'.meridian = s3.meridian := reportParts_meridian
  have h4 : s4.meridian = s3'.meridian := releaseAllot_meridian.trans setBins_meridian
  clear_value s4
  have h5 : s5.meridian = s4.meridian := checkExhausted_meridian
  clear_value s5
  have h : s5.meridian = s.meridian := h5.trans (h4.trans (h3'.trans (h3.trans h2)))
  split <;> exact h

@[simp] theorem takeUe_meridian {s q} : (takeUe s q).meridian = s.meridian := by
  grind [takeUe, takeFragTrap_meridian, State.modTeam_meridian]

@[simp] theorem saveStash_meridian {s t} : (saveStash s t).meridian = s.meridian := by
  unfold saveStash
  split
  · rfl
  · exact foldl_meridian fun _ _ => by grind [writeBackLine_meridian]

@[simp] theorem modCurfew_meridian {s tid f} : (modCurfew s tid f).meridian = s.meridian := rfl
@[simp] theorem restoreGroup_meridian {core img s g} : (restoreGroup core img s g).meridian = s.meridian := rfl

theorem restoreImage_meridian {s core r s' y} (h : restoreImage s core r = some (s', y)) : s'.meridian = s.meridian := by
  cases r <;> grind [restoreImage, → readImage_meridian, → imageSlot_meridian]

theorem restoreTeam_meridian {s x core s'} (h : restoreTeam s x core = some s') : s'.meridian = s.meridian := by
  unfold restoreTeam at h
  dsimp only at h
  split at h <;> cases h
  rw [setBins_meridian]
  refine (foldl_meridian fun _ _ => by split <;> simp).trans ?_
  refine (foldl_meridian fun _ _ => State.setBank_meridian).trans ?_
  refine (foldl_meridian fun _ _ => by rfl).trans ?_
  refine (foldl_meridian fun _ _ => restoreGroup_meridian).trans ?_
  exact (takeParts_meridian rfl).trans (restoreImage_meridian ‹_›)

theorem placeStep_meridian {s L s'} (h : placeStep s L = some s') : s'.meridian = s.meridian := by
  unfold placeStep at h
  split at h
  · obtain ⟨core, -, h⟩ := Option.bind_eq_some_iff.mp h
    exact restoreTeam_meridian h
  · exact placeNext_meridian h

@[simp] theorem waitForRoom_meridian {s L} : (waitForRoom s L).meridian = s.meridian := by
  grind [waitForRoom, raiseCurfew_meridian]

@[simp] theorem placeLoop_meridian {n s seq} : (placeLoop n s seq).meridian = s.meridian := by
  fun_induction placeLoop n s seq <;> grind [→ placeStep_meridian, waitForRoom_meridian]

@[simp] theorem schedulerPass_meridian {s} : (schedulerPass s).meridian = s.meridian := by
  unfold schedulerPass
  exact (foldl_meridian fun _ _ => placeLoop_meridian).trans (foldl_meridian fun _ _ => endIfEmpty_meridian)

/-! ### Functions of `Machine.Issue` -/

@[simp] theorem dropShared_meridian {c s} : (dropShared c s).meridian = s.meridian := by
  grind [dropShared, State.modGroup_meridian]

@[simp] theorem dropAhead_meridian {i c s} : (dropAhead i c s).meridian = s.meridian := by
  grind [dropAhead, Ctx.setSub_meridian]

@[simp] theorem beforeIssue_meridian {c i w s} : (beforeIssue c i w s).meridian = s.meridian := by
  grind [beforeIssue, dropAhead_meridian, dropShared_meridian, State.switchPipe_meridian, State.modCore_meridian]

@[simp] theorem ageCycle_meridian {slots chosen s} : (ageCycle slots chosen s).meridian = s.meridian := by
  grind [ageCycle]

theorem wordsFrom_meridian {c n pc s s' y} (h : wordsFrom c n pc s = (s', y)) : s'.meridian = s.meridian := by
  fun_induction wordsFrom c n pc s generalizing s' y <;> grind [→ fetchNow_scene, State.scene]

@[simp] theorem fetchAheadAt_meridian {gid lane n s} : (fetchAheadAt gid lane n s).meridian = s.meridian := by
  grind [fetchAheadAt, → wordsFrom_meridian, Ctx.setSub_meridian]

@[simp] theorem performLate_meridian {gid order s} : (performLate gid order s).meridian = s.meridian := by
  unfold performLate
  split
  · rfl
  · split
    · rfl
    · exact (State.modGroup_meridian ..).trans (foldl_meridian fun _ _ => by grind [→ fibreLoad_meridian,
        State.modGroup_meridian])

end Sys2Proof.Machine
end

section
/-! SUPPORT. Accesses that take time of their own: the meridian does not fall (R320). -/

namespace Sys2Proof.Machine

/-! ### Steps of the clock

A step takes a nanosecond more than its move; an access that must come after an earlier one of its location takes time too. -/

theorem tick_meridian {s dt} : (tick s dt).meridian = s.meridian + (dt + 1) := rfl

theorem afterLast_le {s x} : s.meridian ≤ (afterLast s x).meridian := by
  unfold afterLast
  split
  · rw [tick_meridian]; omega
  · exact le_rfl

theorem podWrite_le {s pa bs} : s.meridian ≤ (podWrite s pa bs).meridian := by
  have kept {l : List L2Line} {s : State} : (l.foldl (fun s x => preserve s x) s).meridian = s.meridian :=
    foldl_meridian fun _ _ => preserve_meridian
  unfold podWrite
  rw [tick_meridian, State.pokeN_meridian]
  exact kept.symm.le.trans (Nat.le_add_right _ _)

theorem atomicLane_le {c n new s l va} : s.meridian ≤ (atomicLane c n new s l va).1.meridian := by
  unfold atomicLane
  dsimp only
  split
  · grind [→ checkAccess_scene, State.scene]
  next s1 e h1 =>
  replace h1 := meridian_of_scene (checkAccess_scene h1)
  split
  · split
    · grind [→ reach_scene, State.scene]
    · split
      · grind [→ reach_scene, remoteCount_scene, → ucBytes_scene, State.scene]
      · grind [tick_meridian, → reach_scene, remoteCount_scene, → ucBytes_scene, addTime_meridian, frameWrite_meridian,
          sendAtomic_meridian, State.scene]
  · split
    · grind [→ homeLine_scene, State.scene]
    · split
      · grind [→ homeLine_scene, memError_meridian, State.scene]
      · split
        · grind [afterLast_le, addTime_meridian, → homeLine_scene, State.setL2_scene, State.scene]
        · grind [afterLast_le, addTime_meridian, sendAtomic_meridian, → homeLine_scene, → dirtyLine_meridian, applyLine_meridian,
            State.scene]

theorem lineRead_le {s pa k} (hk : ∀ d, s.meridian ≤ (k d).meridian) : s.meridian ≤ (lineRead s pa k).meridian := by
  unfold lineRead
  split
  · simp
  · exact hk _

theorem lineAccess_le {s q} : s.meridian ≤ (lineAccess s q).meridian := by
  unfold lineAccess
  dsimp only
  split
  · exact lineRead_le fun d => by grind [lineReply_meridian, homeCount_meridian]
  · grind [lineReply_meridian, podWrite_le, capHome_meridian]
  · split
    · refine le_of_eq_of_le homeCount_meridian.symm (lineRead_le fun d => ?_)
      split
      · rw [lineReply_meridian]; exact podWrite_le
      · rw [lineReply_meridian]
    · exact capHome_meridian.symm.le
  · grind [→ reach_scene, frameWrite_meridian, → homeLine_scene, capLine_meridian, applyLine_meridian, setDirty_meridian,
      State.setL2_scene, State.scene]
  · grind [State.framePokeN_meridian]

end Sys2Proof.Machine
end

section
/-! SUPPORT. Outcomes that go on: what each way to end an instruction, and each mould of the instructions, does to the meridian. -/

namespace Sys2Proof.Machine

/-! ### Outcomes that go on

What each way to end an instruction, and each mould of the instructions, does to the meridian. -/

/-- `r` is a next state whose meridian is not below `m`. -/
def Onward (m : Nat) (r : Res) : Prop := ∃ t, r = .next t ∧ m ≤ t.meridian

/-- Whatever `k` goes on with from a meridian not below `m`, it goes onward. -/
def Carries (m : Nat) (k : Ctx → State → Res) : Prop := ∀ c s, m ≤ s.meridian → Onward m (k c s)

theorem ite_onward {m : Nat} {p : Prop} [Decidable p] {a b : Res} (ha : Onward m a) (hb : Onward m b) :
    Onward m (if p then a else b) := by
  split <;> assumption

section leaves
variable {m : Nat} {c : Ctx} {s : State}

@[simp] theorem next_onward {t : State} : Onward m (.next t) ↔ m ≤ t.meridian := by simp [Onward]

@[simp] theorem fin_onward : Onward m (fin c s) ↔ m ≤ s.meridian := next_onward
@[simp] theorem stall_onward : Onward m (stall c s) ↔ m ≤ s.meridian := next_onward
@[simp] theorem begun_onward : Onward m (begun c s) ↔ m ≤ s.meridian := next_onward
@[simp] theorem underWay_onward : Onward m (underWay c s) ↔ m ≤ s.meridian := next_onward
@[simp] theorem hold_onward {bs} : Onward m (hold bs c s) ↔ m ≤ s.meridian := next_onward
@[simp] theorem finS_onward {d x} : Onward m (finS c s d x) ↔ m ≤ s.meridian := next_onward
@[simp] theorem finSub_onward {u} : Onward m (finSub c s u) ↔ m ≤ s.meridian := next_onward
@[simp] theorem parkAs_onward {w} : Onward m (parkAs c s w) ↔ m ≤ s.meridian := next_onward

@[simp] theorem trapAllAt_onward {k a pc x} : Onward m (trapAllAt c s k a pc x) ↔ m ≤ s.meridian := by simp [trapAllAt]
@[simp] theorem trapAll_onward {k} : Onward m (trapAll c s k) ↔ m ≤ s.meridian := trapAllAt_onward
@[simp] theorem trapAllMem_onward {k a} : Onward m (trapAllMem c s k a) ↔ m ≤ s.meridian := trapAllAt_onward
@[simp] theorem finTraps_onward {items} : Onward m (finTraps c s items) ↔ m ≤ s.meridian := by simp [finTraps]

@[simp] theorem recordFault_onward {k a} : Onward m (recordFault c s k a) ↔ m ≤ s.meridian := by
  unfold recordFault
  split <;> simp

@[simp] theorem callTo_onward {a} : Onward m (callTo c s a) ↔ m ≤ s.meridian := by
  unfold callTo
  split <;> simp

@[simp] theorem finLanes_onward {d n r} : Onward m (finLanes c d n r) ↔ m ≤ r.1.meridian := finTraps_onward

theorem invalidateAll_onward {page line pair} (hm : m ≤ s.meridian) : Onward m (invalidateAll c s page line pair) := by
  unfold invalidateAll
  split <;> simpa using hm

theorem startLoop_onward {f n} (hm : m ≤ s.meridian) : Onward m (startLoop f n c s) := by
  grind [startLoop, trapAll_onward, finSub_onward, bufferBody_meridian]

end leaves

section moulds
variable {m : Nat} {c : Ctx} {s : State} {G : Gate} {g : BitVec 4} {k : Ctx → State → Res}

theorem gated_onward (hc : s.ctx?.isSome) (hm : m ≤ s.meridian) (hk : ∀ c, Onward m (k c s)) : Onward m (gated G s k) := by
  obtain ⟨c, hc⟩ := Option.isSome_iff_exists.mp hc
  unfold gated
  simp only [hc]
  split
  · simpa using hm
  · split
    · split
      · simpa using hm
      · exact hk c
    · split <;> simpa using hm

theorem uniform_onward (hc : s.ctx?.isSome) (hm : m ≤ s.meridian) (hk : ∀ c, Onward m (k c s)) : Onward m (uniform G g s k) := by
  refine gated_onward hc hm fun c => ?_
  split
  · split
    · exact gated_onward hc hm hk
    · exact hk c
  · simpa using hm

theorem withRows_onward {rows ex} (hm : m ≤ s.meridian) (hk : Carries m k) : Onward m (withRows c s rows ex k) := by
  unfold withRows
  split
  · refine hk _ _ ?_
    rw [gotRows_meridian, privatise_meridian ‹_›]
    exact hm
  · simpa using hm

theorem deliver_onward {n} (hm : m ≤ s.meridian) (hk : Carries m k) : Onward m (deliver n c s k) := by
  unfold deliver
  extract_lets items mark markD s0 s1 left stopped
  have hs : m ≤ s1.meridian := by simpa [s1, s0] using hm
  clear_value s1
  split
  · exact hk c s hm
  · split
    · simpa using hs
    · split
      · exact hk _ s1 hs
      · simpa using hs

theorem stallPoint_onward (hm : m ≤ s.meridian) (hk : Carries m k) : Onward m (stallPoint c s k) := by
  unfold stallPoint
  split
  · exact deliver_onward hm hk
  · split
    · simpa using hm
    · exact hk c s hm

theorem carries_stall : Carries m stall := fun _ _ => stall_onward.mpr

theorem carries_hold {bs} : Carries m (hold bs) := fun _ _ => hold_onward.mpr

theorem withRoom_onward {n} (hm : m ≤ s.meridian) (hk : Carries m k) : Onward m (withRoom c s n k) := by
  unfold withRoom
  split
  · exact hk c s hm
  · exact stallPoint_onward hm carries_stall

theorem afterStores_onward (hm : m ≤ s.meridian) (hk : Carries m k) : Onward m (afterStores c s k) := by
  unfold afterStores
  split
  · simpa using hm
  · exact deliver_onward hm hk

theorem classAx_onward {mask rows push upd val post} (hc : s.ctx?.isSome) (hm : m ≤ s.meridian)
    (hp : ∀ c ex s, (post c ex s).meridian = s.meridian) : Onward m (classAx G mask rows push s upd val post) :=
  
  gated_onward hc hm fun _ => withRows_onward (by simpa using hm) fun c s hs => by simpa [hp] using hs

theorem classA_onward {mask rows push upd val} (hc : s.ctx?.isSome) (hm : m ≤ s.meridian) :
    Onward m (classA G mask rows push s upd val) := classAx_onward hc hm fun _ _ _ => rfl

theorem laneOpOf_onward {errs} {k : Ctx → Word → State → Res} (hc : s.ctx?.isSome) (hm : m ≤ s.meridian)
    (hk : ∀ c ex s, m ≤ s.meridian → Onward m (k c ex s)) : Onward m (laneOpOf errs G g s k) := by
  refine gated_onward hc hm fun c => ?_
  dsimp only
  split
  · exact hk _ _ _ (by simpa using hm)
  · simpa using hm

theorem laneOp_onward {k : Ctx → Word → State → Res} (hc : s.ctx?.isSome) (hm : m ≤ s.meridian)
    (hk : ∀ c ex s, m ≤ s.meridian → Onward m (k c ex s)) : Onward m (laneOp G g s k) := laneOpOf_onward hc hm hk

end moulds

theorem laneLoop_le {f : State → Nat → State × Except TrapItem (List Word)}
    (hf : ∀ s l, s.meridian ≤ (f s l).1.meridian) {ls s} : s.meridian ≤ (laneLoop f ls s).1.meridian :=
  laneLoop_meridian (fun s l s' r h => by simpa [h] using hf s l) rfl

theorem foldl_setNb_meridian {tid} {pos : Nat → Nat} {g : Nat → Nb → Nb} {l : List Nat} {s : State} :
    (l.foldl (fun s i => setNb s tid (pos i) (g i)) s).meridian = s.meridian := foldl_meridian fun _ _ => setNb_meridian

section forms
variable {m : Nat} {s : State} (hc : s.ctx?.isSome) (hm : m ≤ s.meridian)
include hc hm

theorem aluR_onward {f b op} : Onward m (aluR f b s op) := classA_onward hc hm
theorem aluRD_onward {f op} : Onward m (aluRD f s op) := classA_onward hc hm
theorem aluPair_onward {f reads latches op} : Onward m (aluPair f reads latches s op) := classA_onward hc hm
theorem aluI_onward {grd w d a usesA op} : Onward m (aluI grd w d a usesA s op) := classA_onward hc hm
theorem compare_onward {f r} : Onward m (compare f s r) := classA_onward hc hm
theorem predOp_onward {f op} : Onward m (predOp f s op) := classA_onward hc hm

theorem fAlu_onward {f b d op} : Onward m (fAlu f b d s op) := by
  unfold fAlu
  exact classAx_onward hc hm fun _ _ _ => countRes_meridian

theorem fCompare_onward {f k} : Onward m (fCompare f k s) := by
  unfold fCompare
  exact classAx_onward hc hm fun _ _ _ => Ctx.count_meridian

theorem laneWrite_onward {G grd rows upd} : Onward m (laneWrite G grd rows s upd) :=
  laneOp_onward hc hm fun _ _ _ hs => withRows_onward hs fun _ _ hs => by simpa using hs

theorem fApprox_onward {f k} : Onward m (fApprox f k s) :=
  laneOp_onward hc hm fun _ _ _ hs => withRows_onward hs fun _ _ hs => by simpa using hs

theorem shuffle_onward {f src} : Onward m (shuffle f s src) := by
  unfold shuffle
  exact laneOpOf_onward hc hm fun _ _ _ hs => withRows_onward hs fun _ _ hs => by simpa using hs

theorem reduceI_onward {f keep r} : Onward m (reduceI f keep s r) :=
  laneOpOf_onward hc hm fun _ _ _ hs => withRows_onward hs fun _ _ hs => by simpa using hs

theorem reduceF_onward {f add keep} : Onward m (reduceF f add s keep) :=
  laneOpOf_onward hc hm fun _ _ _ hs => withRows_onward hs fun _ _ hs => by simpa using hs

theorem rmad_onward {f n} : Onward m (rmad f n s) := by
  refine laneOp_onward hc hm fun c ex s hs => ?_
  dsimp only
  split
  · simpa using hs
  · exact withRows_onward hs fun _ _ hs => by simpa using hs

theorem neighbour_onward {f right useB} : Onward m (neighbour f right useB s) := by
  unfold neighbour
  refine laneOpOf_onward hc hm fun c ex s hs => ?_
  dsimp only
  split
  · simpa using hs
  · refine withRows_onward hs fun c s hs => ?_
    split <;> simpa [foldl_setNb_meridian] using hs

theorem localLoad_onward {f size} : Onward m (localLoad f size s) := by
  unfold localLoad
  refine laneOp_onward hc hm fun c ex s hs => ?_
  split
  · simpa using hs
  · refine withRows_onward hs fun c s hs => finLanes_onward.mpr (hs.trans (laneLoop_le fun s l => ?_))
    grind [→ localRead_meridian]

theorem localStores_onward {f size} : Onward m (localStores f size s) := by
  unfold localStores
  refine laneOp_onward hc hm fun c ex s hs => ?_
  dsimp only
  split
  · simpa using hs
  · exact withRoom_onward hs fun c s hs =>
      finLanes_onward.mpr (hs.trans (laneLoop_le fun s l => (localStore_meridian rfl).symm.le))

theorem localAtomic_onward {f n compares new} : Onward m (localAtomic f n compares s new) := by
  unfold localAtomic
  refine laneOp_onward hc hm fun c ex s hs => ?_
  split
  · simpa using hs
  · refine withRows_onward hs fun c s hs => finLanes_onward.mpr (hs.trans (laneLoop_le fun s l => ?_))
    grind [→ localRead_meridian, localWrite_meridian]

theorem globalLoad_onward {f size acq may} : Onward m (globalLoad f size acq may s) := by
  have loads {c : Ctx} {ls} {s : State} : s.meridian ≤ (laneLoop (loadLane c f size acq) ls s).1.meridian :=
    laneLoop_le fun s l => (loadLane_meridian rfl).symm.le
  unfold globalLoad
  refine laneOp_onward hc hm fun c ex s hs => ?_
  split
  · simpa using hs
  · refine withRows_onward hs fun c s hs => finLanes_onward.mpr ?_
    have h := hs.trans (loads (c := c) (ls := lanesOf ex))
    dsimp only
    split
    · rw [addLate_meridian]; exact h
    · exact h

theorem globalStore_onward {f size kind ready floor} : Onward m (globalStore f size kind ready floor s) := by
  unfold globalStore
  refine laneOp_onward hc hm fun c ex s hs => ?_
  split
  · simpa using hs
  · split
    · exact withRoom_onward hs fun c s hs =>
        finLanes_onward.mpr (hs.trans (laneLoop_le fun s l => (storeLane_meridian rfl).symm.le))
    · simpa using hs

theorem globalAtomic_onward {f n extra ready new} : Onward m (globalAtomic f n extra ready s new) := by
  unfold globalAtomic
  refine laneOp_onward hc hm fun c ex s hs => ?_
  split
  · simpa using hs
  · split
    all_goals rename_i h; replace hs := hs.trans (anyWaits_meridian h).symm.le
    · simpa using hs
    · exact withRows_onward hs fun c s hs => finLanes_onward.mpr (hs.trans (laneLoop_le fun _ _ => atomicLane_le))

theorem atom_onward {f op} : Onward m (atom f s op) := globalAtomic_onward hc hm

theorem cas_onward {f n ready} : Onward m (cas f n ready s) := globalAtomic_onward hc hm

theorem expandLanes_onward {G f bank idx slot all res} : Onward m (expandLanes G f bank idx slot all s res) := by
  refine laneOp_onward hc hm fun c ex s hs => ?_
  dsimp only
  split
  · simpa using hs
  · split
    · simpa using hs
    · split
      · simpa using hs
      · split
        · simpa using hs
        · refine withRows_onward hs fun c s hs => ?_
          rw [finTraps_onward, countRes_meridian, State.modGroup_meridian, foldl_meridian fun _ _ => parityError_meridian]
          exact hs

theorem cbx_onward {f mask} : Onward m (cbx f mask s) := by
  unfold cbx
  exact expandLanes_onward hc hm

theorem xf_onward {f k d op} : Onward m (xf f k d s op) := by
  unfold xf
  exact expandLanes_onward hc hm

theorem uniS_onward {G grd d op} : Onward m (uniS G grd d s op) := uniform_onward hc hm fun _ => fin_onward.mpr hm
theorem uniK_onward {G grd d op} : Onward m (uniK G grd d s op) := uniform_onward hc hm fun _ => fin_onward.mpr hm
theorem uni2_onward {f op} : Onward m (uni2 f s op) := uniS_onward hc hm
theorem ucmp_onward {f r} : Onward m (ucmp f s r) := uniK_onward hc hm
theorem kBin_onward {f op} : Onward m (kBin f s op) := uniK_onward hc hm

theorem stashBack_onward {f done} : Onward m (stashBack f s done) := by
  refine uniform_onward hc hm fun c => ?_
  dsimp only
  split
  · simpa using hm
  · split
    · rw [next_onward, trapWith_meridian]
      cases List.find? _ _ with
      | none => exact hm
      | some q => exact localError_meridian.symm ▸ hm
    · split
      · simpa using hm
      · split
        all_goals rename_i h; replace hm := hm.trans (writeBackAll_meridian h).symm.le
        · exact stallPoint_onward hm carries_stall
        · split <;> simpa using hm

theorem fence_onward {f waits floor done} : Onward m (fence f s waits floor done) := by
  refine uniform_onward hc hm fun c => ?_
  split
  · simpa using hm
  · exact deliver_onward hm fun c s hs => by simpa using hs

theorem prefetch_onward {f fill} (hf : ∀ c l s, (fill c l s).meridian = s.meridian) : Onward m (prefetch f s fill) := by
  refine uniform_onward hc hm fun c => fin_onward.mpr (hm.trans_eq (Eq.symm (foldl_meridian fun s i => ?_)))
  grind [→ prefetchable_meridian]

theorem tlbi_onward {f page line pair} : Onward m (tlbi f s page line pair) :=
  uniform_onward hc hm fun _ => invalidateAll_onward hm

theorem barrierWait_onward {f d mask} : Onward m (barrierWait f d mask s) := by
  refine uniform_onward hc hm fun c => deliver_onward hm fun c s hs => ?_
  dsimp only
  split <;> simpa using hs

end forms

/-- A record read for an instruction, held or fetched, leaves the meridian. -/
theorem heldRecord_meridian {n lane va} {c : Ctx} {s s' r} (h : heldOr c s (fun s => readRecord n s c lane va) = (s', r)) :
    s'.meridian = s.meridian := heldOr_meridian (fun _ _ => readRecord_meridian) h

theorem heldBlock_meridian {loc n lane va} {c : Ctx} {s s' r} (h : heldOr c s (fun s => readBlock loc n s c lane va) = (s', r)) :
    s'.meridian = s.meridian := heldOr_meridian (fun _ _ => readBlock_meridian) h

section parts
variable {m : Nat} {c : Ctx} {s : State} (hm : m ≤ s.meridian)
include hm

theorem endActive_onward : Onward m (endActive c s) := by
  unfold endActive
  split
  · exact deliver_onward hm fun c s hs => by simpa using hs
  · simpa using hm

theorem queueOp_onward {d bs kind slot size tags} : Onward m (queueOp c s d bs kind slot size tags) := by
  unfold queueOp
  split
  · simpa using hm
  · exact stallPoint_onward hm carries_hold
  · simpa using hm

theorem withImage_onward {r level carried} {k : Ctx → State → State} (hk : ∀ c s, m ≤ s.meridian → m ≤ (k c s).meridian) :
    Onward m (withImage c s r level carried k) := by
  unfold withImage
  split
  · simpa using hm
  · split
    · simpa using hm
    · dsimp only
      split
      · simpa using hm
      · exact next_onward.mpr (hk _ _ (by simpa using hm))

theorem cwaitDone_onward {d status} : Onward m (cwaitDone c d s status) := deliver_onward hm fun _ _ hs => finS_onward.mpr hs

theorem frag_onward {f add cells ex items bads eb} : Onward m (frag f add cells c ex s items bads eb) := by
  unfold frag
  split
  · simpa using hm
  · refine withRows_onward hm fun c s hs => ?_
    rw [finTraps_onward, cellRecords_meridian, State.modGroup_meridian, foldl_meridian fun _ _ => parityError_meridian]
    exact hs

end parts

section forms
variable {m : Nat} {s : State} (hc : s.ctx?.isSome) (hm : m ≤ s.meridian)
include hc hm

theorem mfrag_onward {f add} : Onward m (mfrag f add s) := by
  unfold mfrag
  refine laneOpOf_onward hc hm fun c ex s hs => ?_
  split
  · exact frag_onward hs
  · simpa using hs

theorem twait_onward {f poll} : Onward m (twait f poll s) := by
  refine uniform_onward hc hm fun c => ?_
  dsimp only
  split
  · simpa using hm
  · split
    · simpa using hm
    · split
      · split <;> simpa using hm
      · exact deliver_onward hm fun c s hs => by split <;> simpa using hs

theorem tile_onward {f loc} : Onward m (tile f loc s) := by
  refine uniform_onward hc hm fun c => ?_
  extract_lets lane a
  refine ite_onward (by simpa using hm) (ite_onward (by simpa using hm) (ite_onward (by simpa using hm) ?_))
  split
  all_goals rename_i h; replace hm := hm.trans (heldBlock_meridian h).symm.le
  · simpa using hm
  · split
    · simpa using hm
    · exact queueOp_onward hm

theorem tdrain_onward {f form} : Onward m (tdrain f form s) := by
  refine uniform_onward hc hm fun c => ?_
  dsimp only
  refine ite_onward (by simpa using hm) (ite_onward (by simpa using hm) (ite_onward (by simpa using hm) ?_))
  split
  all_goals rename_i h; replace hm := hm.trans (heldRecord_meridian h).symm.le
  · simpa using hm
  · split
    · simpa using hm
    · exact queueOp_onward hm

theorem spawnWith_onward {force f} : Onward m (spawnWith force f s) := by
  refine uniform_onward hc hm fun c => ?_
  dsimp only
  split
  · simpa using hm
  · split
    · simpa using hm
    · have spawned {l : List Nat} {role pc arg src} :
          (l.foldl (fun s i => spawnOne s ((s.team? c.t.tid).getD c.t) role pc arg i src) s).meridian = s.meridian :=
        foldl_meridian fun _ _ => spawnOne_meridian
      have closed {l : List Bin} {s : State} : (l.foldl (fun s b => closeBin s c.core b) s).meridian = s.meridian :=
        foldl_meridian fun _ _ => closeBin_meridian
      split <;> simpa [spawned, closed] using hm

theorem launchWith_onward {try_ f} : Onward m (launchWith try_ f s) := by
  refine uniform_onward hc hm fun c => ?_
  dsimp only
  refine ite_onward (by simpa using hm) (ite_onward (by simpa using hm) ?_)
  split
  all_goals rename_i h; replace hm := hm.trans (heldRecord_meridian h).symm.le
  · simpa using hm
  · split
    · split <;> simpa using hm
    · simpa using hm

theorem lwaitWith_onward {poll f} : Onward m (lwaitWith poll f s) := by
  refine uniform_onward hc hm fun c => deliver_onward hm fun c s hs => ?_
  grind [finS_onward, stall_onward]

theorem sluiceLock_onward {mode f} : Onward m (sluiceLock mode f s) := by
  refine uniform_onward hc hm fun c => ?_
  grind [finS_onward, stall_onward]

theorem copyWith_onward {kind f} : Onward m (copyWith kind f s) := by
  refine uniform_onward hc hm fun c => ?_
  dsimp only
  refine ite_onward (by simpa using hm) (ite_onward (by simpa using hm) ?_)
  split
  all_goals rename_i h; replace hm := hm.trans (heldRecord_meridian h).symm.le
  · simpa using hm
  · grind [hold_onward, finS_onward, trapAllMem_onward, → newCopy_meridian, doneCopy_meridian]

theorem cwaitWith_onward {mode f} : Onward m (cwaitWith mode f s) := by
  refine uniform_onward hc hm fun c => ?_
  have told {s' : State} (h : s'.meridian = s.meridian) {d x} : Onward m (cwaitDone c d s' x) :=
    cwaitDone_onward (h ▸ hm)
  grind [finS_onward, stall_onward, begun_onward, endCopy_meridian]

theorem bwaitWith_onward {poll f} : Onward m (bwaitWith poll f s) := by
  refine uniform_onward hc hm fun c => ?_
  have told {d x} : Onward m (cwaitDone c d s x) := cwaitDone_onward hm
  grind [finS_onward, stall_onward]

theorem transferWith_onward {kind f} : Onward m (transferWith kind f s) := by
  refine uniform_onward hc hm fun c => ?_
  dsimp only
  refine ite_onward (by simpa using hm) (ite_onward (by simpa using hm) ?_)
  split
  all_goals rename_i h; replace hm := hm.trans (heldRecord_meridian h).symm.le
  · simpa using hm
  · grind [hold_onward, finS_onward, trapAllMem_onward, → newFab_meridian, doneFab_meridian, addTransfer_meridian]

theorem counterOp_onward {f k} (hk : ∀ c n, Onward m (k c s n)) : Onward m (counterOp f s k) := by
  refine uniform_onward hc hm fun c => ?_
  split
  · exact hk _ _
  · simpa using hm

theorem collWaitWith_onward {poll f} : Onward m (collWaitWith poll f s) := by
  refine uniform_onward hc hm fun c => ?_
  grind [finS_onward, stall_onward]

theorem sstepWith_onward {form f tag count} : Onward m (sstepWith form f s tag count) := by
  refine uniform_onward hc hm fun c => ?_
  split
  · simpa using hm
  · split
    · simpa using hm
    · refine deliver_onward hm fun c s hs => ?_
      grind [next_onward, trapAll_onward, breakStep_meridian, State.modLaunch_meridian, State.modGroup_meridian,
        Ctx.setSub_meridian]

theorem sysOp_onward {write f} {k : Ctx → State → Nat → Res} (hk : ∀ c i, Onward m (k c s i)) : Onward m (sysOp write f s k) := by
  refine uniform_onward hc hm fun c => ?_
  grind [trapAll_onward]

end forms

end Sys2Proof.Machine
end

section
/-! SUPPORT. The instructions with an effect of their own go onward, each by its mould. -/

namespace Sys2Proof.Machine

section arms
variable {m : Nat} {s : State} (hc : s.ctx?.isSome) (hm : m ≤ s.meridian)
include hc hm

theorem execUfirst_onward {f} : Onward m (execUfirst f s) := by
  refine uniform_onward hc hm fun c => ?_
  grind [finS_onward, trapAll_onward, memError_meridian]

theorem execBra_onward {f} : Onward m (execBra f s) := by
  refine uniform_onward hc hm fun c => ?_
  grind [finSub_onward]

theorem execCall_onward {f} : Onward m (execCall f s) := by
  refine uniform_onward hc hm fun c => ?_
  grind [callTo_onward]

theorem execRet_onward {f} : Onward m (execRet f s) := by
  refine uniform_onward hc hm fun c => ?_
  grind [trapAll_onward, finSub_onward]

theorem execBrx_onward {f} : Onward m (execBrx f s) := by
  refine uniform_onward hc hm fun c => ?_
  grind [finSub_onward, trapAll_onward]

theorem execCallx_onward {f} : Onward m (execCallx f s) := by
  refine uniform_onward hc hm fun c => ?_
  grind [callTo_onward, trapAll_onward]

theorem execEnrol_onward {f} : Onward m (execEnrol f s) := by
  refine uniform_onward hc hm fun c => ?_
  grind [fin_onward, State.modGroup_meridian]

theorem execEnrolMask_onward {f} : Onward m (execEnrolMask f s) := by
  refine uniform_onward hc hm fun c => ?_
  grind [fin_onward, State.modGroup_meridian]

theorem execRejoin_onward {f} : Onward m (execRejoin f s) := by
  refine uniform_onward hc hm fun c => deliver_onward hm fun c s hs => ?_
  grind [next_onward, fin_onward, trapAll_onward, testRendezvous_meridian, parkLast_meridian]

theorem execStrike_onward {f} : Onward m (execStrike f s) := uniform_onward hc hm fun _ => by simpa using hm

theorem execLoopImm_onward {f} : Onward m (execLoopImm f s) := by
  refine uniform_onward hc hm fun c => ?_
  grind [← startLoop_onward]

theorem execLoopReg_onward {f} : Onward m (execLoopReg f s) := by
  refine uniform_onward hc hm fun c => ?_
  grind [← startLoop_onward]

theorem execLbrk_onward {g level} : Onward m (execLbrk g level s) := by
  refine uniform_onward hc hm fun c => ?_
  grind [trapAll_onward, finSub_onward]

theorem execArrive_onward {f} : Onward m (execArrive f s) := by
  refine uniform_onward hc hm fun c => ?_
  grind [next_onward, trapAll_onward, arriveAt_meridian, State.modGroup_meridian, testBarrier_meridian, Ctx.setSub_meridian]

theorem execAwait_onward {f} : Onward m (execAwait f s) := by
  refine uniform_onward hc hm fun c => deliver_onward hm fun c s hs => ?_
  grind [fin_onward, parkAs_onward]

theorem execNapUntil_onward {f} : Onward m (execNapUntil f s) := by
  refine uniform_onward hc hm fun c => ?_
  grind [fin_onward, parkAs_onward]

theorem execNapWake_onward {f} : Onward m (execNapWake f s) := by
  refine uniform_onward hc hm fun c => ?_
  grind [fin_onward, parkAs_onward, State.modGroup_meridian]

theorem execNapCyc_onward {f} : Onward m (execNapCyc f s) := by
  refine uniform_onward hc hm fun c => ?_
  grind [fin_onward, parkAs_onward]

theorem execWake_onward {f} : Onward m (execWake f s) := by
  refine uniform_onward hc hm fun c => ?_
  grind [trapAll_onward, fin_onward]

theorem execFreeze_onward {f} : Onward m (execFreeze f s) := by
  refine uniform_onward hc hm fun c => ?_
  dsimp only
  split
  · split
    · simpa using hm
    · refine afterStores_onward hm fun c s hs => withImage_onward hs fun c s hs => ?_
      simpa using hs
  · simpa using hm

theorem execFreezen_onward {f} : Onward m (execFreezen f s) := by
  refine uniform_onward hc hm fun c => ?_
  dsimp only
  split
  · simpa using hm
  · split
    · simpa using hm
    · refine afterStores_onward hm fun c s hs => ?_
      split
      · simpa using hs
      · exact withImage_onward hs fun c s hs => by simpa using hs

theorem execNest_onward {f} : Onward m (execNest f s) := by
  refine uniform_onward hc hm fun c => ?_
  grind [trapAll_onward, stall_onward, fin_onward, State.modGroup_meridian]

theorem execEndU_onward {f} : Onward m (execEndU f s) := uniform_onward hc hm fun _ => endActive_onward hm

theorem execEndl_onward {f} : Onward m (execEndl f s) := uniform_onward hc hm fun _ => endActive_onward hm

theorem execYield_onward {f} : Onward m (execYield f s) := by
  refine uniform_onward hc hm fun c => ?_
  split
  · simpa using hm
  · refine deliver_onward hm fun c s hs => ?_
    split <;> simpa using hs

theorem execStatid_onward {f} : Onward m (execStatid f s) := by
  refine uniform_onward hc hm fun c => ?_
  grind [fin_onward, State.modGroup_meridian]

theorem execTzero_onward {f} : Onward m (execTzero f s) := by
  refine uniform_onward hc hm fun c => ?_
  grind [trapAll_onward, stall_onward, fin_onward, enqueue_meridian]

theorem execModset_onward {f} : Onward m (execModset f s) := by
  refine uniform_onward hc hm fun c => ?_
  grind [trapAllMem_onward, recordFault_onward, finS_onward, hold_onward, → heldOr_meridian, → readRecord_meridian,
    takeModuli_meridian]

theorem execModsetRead_onward {f} : Onward m (execModsetRead f s) := by
  refine uniform_onward hc hm fun c => ?_
  grind [finS_onward]

theorem execModsetDefault_onward {f} : Onward m (execModsetDefault f s) := by
  refine uniform_onward hc hm fun c => ?_
  grind [stall_onward, finS_onward, takeModuli_meridian]

theorem execCtnrd_onward {f} : Onward m (execCtnrd f s) := by
  refine uniform_onward hc hm fun c => ?_
  grind [finS_onward]

theorem execCtnrdInject_onward {f} : Onward m (execCtnrdInject f s) := by
  refine uniform_onward hc hm fun c => ?_
  grind [trapAll_onward, stall_onward, fin_onward, enqueue_meridian]

theorem execCtnrdClr_onward {f} : Onward m (execCtnrdClr f s) := by
  refine uniform_onward hc hm fun c => ?_
  grind [finS_onward, State.modCore_scene, State.scene]

theorem execCballoc_onward {f} : Onward m (execCballoc f s) := by
  refine uniform_onward hc hm fun c => ?_
  grind [finS_onward, State.setBank_meridian]

theorem execCballocFree_onward {f} : Onward m (execCballocFree f s) := by
  refine uniform_onward hc hm fun c => ?_
  grind [trapAll_onward, stall_onward, fin_onward, State.setBank_meridian]

theorem execCbfence_onward {f} : Onward m (execCbfence f s) := by
  refine uniform_onward hc hm fun c => ?_
  grind [stall_onward, fin_onward]

theorem execCbld_onward {f k} : Onward m (execCbld f k s) := by
  refine uniform_onward hc hm fun c => ?_
  grind [trapAll_onward, trapAllMem_onward, stall_onward, fin_onward, → firstUnreadable_meridian, State.setBank_meridian]

theorem execCbw_onward {g d bank e h} : Onward m (execCbw g d bank e h s) := by
  refine uniform_onward hc hm fun c => ?_
  grind [trapAll_onward, stall_onward, fin_onward, State.setBank_meridian]

theorem execCbr_onward {g d e h bank} : Onward m (execCbr g d e h bank s) := by
  refine uniform_onward hc hm fun c => ?_
  grind [trapAll_onward, stall_onward, finS_onward, parityError_meridian]

theorem execPin_onward {f} : Onward m (execPin f s) := by
  refine uniform_onward hc hm fun c => ?_
  have parts {l : List Nat} {s : State} : (l.foldl (fun s w => allotPart s c.core 0 w) s).meridian = s.meridian :=
    foldl_meridian fun _ _ => allotPart_meridian
  grind [finS_onward, sweepWays_meridian, State.modTeam_meridian]

theorem execUnpin_onward {f} : Onward m (execUnpin f s) := by
  refine uniform_onward hc hm fun c => ?_
  grind [trapAll_onward, fin_onward, State.modTeam_meridian]

theorem execStash_onward {f} : Onward m (execStash f s) := by
  refine uniform_onward hc hm fun c => ?_
  dsimp only
  split
  · simpa using hm
  · split
    · simpa using hm
    · split
      · simpa using hm
      · split
        all_goals rename_i h; replace hm := hm.trans (pagesReadable_meridian h).symm.le
        · simpa using hm
        · split
          · simpa using hm
          · rw [finS_onward, State.modTeam_meridian, foldl_meridian fun _ _ => clearLocal_meridian]
            exact hm

theorem execStashDiscard_onward {f} : Onward m (execStashDiscard f s) := by
  refine uniform_onward hc hm fun c => ?_
  grind [trapAll_onward, fin_onward, State.modTeam_meridian]

theorem execColinfo_onward {f} : Onward m (execColinfo f s) := by
  refine uniform_onward hc hm fun c => ?_
  grind [finS_onward]

theorem execEvict1_onward {f} : Onward m (execEvict1 f s) := by
  refine uniform_onward hc hm fun c => ?_
  grind [fin_onward, State.modCore_scene, State.scene]

theorem execWbl2_onward {f} : Onward m (execWbl2 f s) := by
  refine uniform_onward hc hm fun c => ?_
  have flushed {l : List L2Line} {s : State} :
      (l.foldl (fun s x => (flushLine s x).setL2 { x with wtag := false }) s).meridian = s.meridian :=
    meridian_of_scene (foldl_scene fun _ _ => by simp)
  have timed {l : List Nat} {s : State} : (l.foldl (fun s i => addTime s c.gid i s.meridian) s).meridian = s.meridian :=
    foldl_meridian fun _ _ => addTime_meridian
  dsimp only
  split <;> simpa [flushed, timed] using hm

theorem execPlq_onward {f} : Onward m (execPlq f s) := by
  refine uniform_onward hc hm fun c => ?_
  grind [finS_onward, → permission_scene, State.scene]

theorem execPlinv_onward {f} : Onward m (execPlinv f s) := by
  refine uniform_onward hc hm fun c => ?_
  grind [fin_onward, trapAll_onward, State.modCore_scene, State.scene]

theorem execTlbiVa_onward {f} : Onward m (execTlbiVa f s) := by
  refine uniform_onward hc hm fun c => ?_
  grind [← invalidateAll_onward]

theorem execSluiceUnlock_onward {f} : Onward m (execSluiceUnlock f s) := by
  refine uniform_onward hc hm fun c => ?_
  grind [fin_onward, cleanSnaps_meridian]

theorem execBrine_onward {f} : Onward m (execBrine f s) := by
  refine uniform_onward hc hm fun c => ?_
  grind [trapAllMem_onward, stall_onward, recordFault_onward, hold_onward, finS_onward, → heldOr_meridian, → readRecord_meridian,
    → newBrine_meridian, doneBrine_meridian]

theorem execBtbl_onward {f} : Onward m (execBtbl f s) := by
  refine uniform_onward hc hm fun c => ?_
  grind [next_onward, trapAllMem_onward, recordFault_onward, finS_onward, → readTableImage_meridian, Ctx.setSub_meridian]

theorem execTsend_onward {f} : Onward m (execTsend f s) := by
  refine uniform_onward hc hm fun c => ?_
  grind [trapAllMem_onward, stall_onward, recordFault_onward, finS_onward, trapAll_onward, → readRecord_meridian]

theorem execTsendCancel_onward {f} : Onward m (execTsendCancel f s) := by
  refine uniform_onward hc hm fun c => ?_
  grind [finS_onward, stall_onward]

theorem execColl_onward {f} : Onward m (execColl f s) := by
  refine uniform_onward hc hm fun c => ?_
  grind [trapAllMem_onward, stall_onward, recordFault_onward, hold_onward, finS_onward, → heldOr_meridian, → readRecord_meridian,
    → newFab_meridian, doneFab_meridian, → engRead_meridian]

theorem execCollAbort_onward {f} : Onward m (execCollAbort f s) := by
  refine uniform_onward hc hm fun c => ?_
  grind [finS_onward, stall_onward, underWay_onward, State.modColl_meridian]

theorem execTrapI_onward {f} : Onward m (execTrapI f s) := by
  refine uniform_onward hc hm fun c => ?_
  grind [trapAllAt_onward]

theorem execTresume_onward {f} : Onward m (execTresume f s) := by
  refine uniform_onward hc hm fun c => ?_
  have released {act wait p g} : ((parkedSubs s p g).foldl (releaseSub act wait) s).meridian = s.meridian :=
    foldl_meridian fun _ _ => releaseSub_meridian
  grind [finS_onward, freeRecord_meridian]

theorem execSaveBlk_onward {f} : Onward m (execSaveBlk f s) := by
  refine uniform_onward hc hm fun c => ?_
  dsimp only
  split
  · grind [next_onward, trapAllMem_onward, finS_onward, dropFails_meridian]
  · grind [finS_onward, recordFault_onward, parkAs_onward, → checkPages_meridian, agentWrite_meridian]

theorem execRestoreBlk_onward {f} : Onward m (execRestoreBlk f s) := by
  refine uniform_onward hc hm fun c => ?_
  grind [finS_onward, recordFault_onward, → readRecord_meridian, → privatise_meridian, restoreInto_meridian]

theorem execHostsig_onward {f} : Onward m (execHostsig f s) := by
  refine uniform_onward hc hm fun c => ?_
  grind [stall_onward, fin_onward, postSignal_meridian]

theorem execBsqe_onward {f} : Onward m (execBsqe f s) := by
  unfold execBsqe
  exact classAx_onward hc hm fun _ _ _ => countRes_meridian

theorem execMfragx_onward {f} : Onward m (execMfragx f s) := by
  unfold execMfragx
  refine laneOpOf_onward hc hm fun c ex s hs => ?_
  split
  · dsimp only
    split
    · simpa using hs
    · split
      · simpa using hs
      · exact frag_onward hs
  · simpa using hs

theorem execRmod_onward {f} : Onward m (execRmod f s) := by
  unfold execRmod
  refine laneOp_onward hc hm fun c ex s hs => ?_
  exact withRows_onward hs fun c s hs => by simpa using hs

theorem execRrec_onward {f} : Onward m (execRrec f s) := by
  have recorded {c : Ctx} {r : Nat → Recon} {l : List Nat} {s : State} {mods : Moduli} :
      (l.foldl (fun s i => recordRecon s c.core mods (r i) 2 0 0 i 0) s).meridian = s.meridian :=
    foldl_meridian fun _ _ => recordRecon_meridian
  unfold execRrec
  refine laneOp_onward hc hm fun c ex s hs => ?_
  exact withRows_onward hs fun c s hs => by simpa [recorded] using hs

theorem execRchk_onward {f} : Onward m (execRchk f s) := by
  unfold execRchk
  refine laneOp_onward hc hm fun c ex s hs => ?_
  exact withRows_onward hs fun c s hs => by simpa using hs

theorem execUnop_onward : Onward m (execUnop s) := gated_onward hc hm fun _ => fin_onward.mpr hm

theorem execBrd_onward {f} : Onward m (execBrd f s) := by
  refine gated_onward hc hm fun c => ?_
  grind [next_onward, finSub_onward, fin_onward, parkAs_onward, split_meridian]

theorem execUsread_onward {f} : Onward m (execUsread f s) := sysOp_onward hc hm fun _ _ => finS_onward.mpr hm

theorem execUswrite_onward {f} : Onward m (execUswrite f s) := sysOp_onward hc hm fun _ _ => by simpa using hm

theorem execCtrrd_onward {f} : Onward m (execCtrrd f s) := counterOp_onward hc hm fun c n => by grind [finS_onward]

theorem execCtrset_onward {f} :
    Onward m (execCtrset f s) :=
  counterOp_onward hc hm fun c n => by grind [stall_onward, fin_onward, setCounter_meridian]

theorem execCtrwait_onward {f} :
    Onward m (execCtrwait f s) :=
  counterOp_onward hc hm fun c n => by grind [finS_onward, parkAs_onward]

theorem execCtradd_onward {f} :
    Onward m (execCtradd f s) :=
  counterOp_onward hc hm fun c n => by grind [stall_onward, finS_onward, setCounter_meridian]

theorem execPref2_onward {f} :
    Onward m (execPref2 f s) :=
  prefetch_onward hc hm fun _ _ _ => meridian_of_scene (homeLine_scene rfl)

theorem execPref1_onward {f} :
    Onward m (execPref1 f s) :=
  prefetch_onward hc hm fun _ _ _ => meridian_of_scene (coreLine_scene rfl)

theorem execCasl_onward {f z} : Onward m (execCasl f z s) := by
  unfold execCasl
  split
  · exact localAtomic_onward hc hm
  · exact localAtomic_onward hc hm

end arms

end Sys2Proof.Machine
end

section
/-! SUPPORT. The device's own steps go onward, with or without an issuer: each branch of one answers a next state, made by functions
whose lemmas its proof names. -/

namespace Sys2Proof.Machine

section events
variable {m : Nat} {s : State} (hm : m ≤ s.meridian)
include hm

theorem execEndlRemoteStop_onward {gid lane} : Onward m (execEndlRemoteStop gid lane s) := by
  unfold execEndlRemoteStop
  split
  · simpa using hm
  next c _ =>
  have ended : Onward m (deliver 2 c s fun c s => .next (endFibres s c.gid c.active)) :=
    deliver_onward hm fun _ _ hs => by simpa using hs
  grind [next_onward, takeFragTrap_meridian, endFibres_meridian, deliverRestored_meridian]

theorem execTrapBackoffExpiry_onward {gid lane} : Onward m (execTrapBackoffExpiry gid lane s) := by
  grind [next_onward, execTrapBackoffExpiry, State.modSub_meridian]

theorem execCoalescerClose_onward {seq} : Onward m (execCoalescerClose seq s) := by
  grind [next_onward, execCoalescerClose, State.modRec_meridian]

theorem execTrapQueueWrite_onward {seq} : Onward m (execTrapQueueWrite seq s) := by
  unfold execTrapQueueWrite
  split
  · simpa using hm
  · split
    · simpa using hm
    · split
      · grind [next_onward, toSummary_meridian]
      · split
        · simpa using hm
        · split
          all_goals rename_i h; replace hm := hm.trans_eq (targetReady_meridian h).symm
          · simpa using hm
          · split
            all_goals rename_i h; replace hm := hm.trans_eq (deviceWrite_meridian h).symm
            · simpa using hm
            · simpa using hm

theorem execServiceFaultPost_onward : Onward m (execServiceFaultPost s) := by
  grind [next_onward, execServiceFaultPost, postSignal_meridian]

theorem execHostProgramStart_onward {slot v} : Onward m (execHostProgramStart slot v s) := by
  grind [next_onward, execHostProgramStart, hpsControl_meridian]

theorem execHostProgramAbort_onward {slot v} : Onward m (execHostProgramAbort slot v s) := by
  grind [next_onward, execHostProgramAbort, hpsControl_meridian]

theorem execServiceTeamStart_onward {v} : Onward m (execServiceTeamStart v s) := by
  grind [next_onward, execServiceTeamStart, serviceControl_meridian]

theorem execFeatAcceptWrite_onward {v} : Onward m (execFeatAcceptWrite v s) := by
  grind [next_onward, execFeatAcceptWrite, writeFeatAccept_meridian]

theorem execCurfewWinWrite_onward {v} : Onward m (execCurfewWinWrite v s) := by
  grind [next_onward, execCurfewWinWrite, writeCurfewWin_meridian]

theorem execLeaseL1Write_onward {v} : Onward m (execLeaseL1Write v s) := by
  grind [next_onward, execLeaseL1Write, writeLeaseL1_meridian]

theorem execPwrCapWrite_onward {v} : Onward m (execPwrCapWrite v s) := by
  grind [next_onward, execPwrCapWrite, modRegs_meridian]

theorem execZoneReqWrite_onward {v} : Onward m (execZoneReqWrite v s) := by
  grind [next_onward, execZoneReqWrite, modRegs_meridian]

theorem execTqBaseWrite_onward {v} : Onward m (execTqBaseWrite v s) := by
  grind [next_onward, execTqBaseWrite, modRegs_meridian]

theorem execHsigTailWrite_onward {v} : Onward m (execHsigTailWrite v s) := by
  grind [next_onward, execHsigTailWrite, modRegs_meridian]

theorem execErrSumCtlWrite_onward {v} : Onward m (execErrSumCtlWrite v s) := by
  grind [next_onward, execErrSumCtlWrite, modRegs_meridian]

theorem execMerCtlWrite_onward {v} : Onward m (execMerCtlWrite v s) := by
  grind [next_onward, execMerCtlWrite, modRegs_meridian]

theorem execAttCtlStart_onward {v} : Onward m (execAttCtlStart v s) := by
  grind [next_onward, execAttCtlStart, modRegs_meridian]

theorem execAttestationComplete_onward : Onward m (execAttestationComplete s) := by
  grind [next_onward, execAttestationComplete, modRegs_meridian]

theorem execFwUpdStart_onward {v} : Onward m (execFwUpdStart v s) := by
  grind [next_onward, execFwUpdStart, modRegs_meridian]

theorem execFwUpdateComplete_onward : Onward m (execFwUpdateComplete s) := by
  grind [next_onward, execFwUpdateComplete, modRegs_meridian]

theorem execWarmReset_onward : Onward m (execWarmReset s) := by
  grind [next_onward, execWarmReset, warmReset_meridian]

theorem execPowerUp_onward {b} : Onward m (execPowerUp b s) := by
  grind [next_onward, execPowerUp, modRegs_meridian, bootReady_meridian]

theorem execThermalTrip_onward : Onward m (execThermalTrip s) := by
  grind [next_onward, execThermalTrip, warmReset_meridian]

theorem execClockThrottle_onward {cycles} : Onward m (execClockThrottle cycles s) := by
  grind [next_onward, execClockThrottle]

theorem execMeridianLock_onward {ns} : Onward m (execMeridianLock ns s) := by
  grind [next_onward, execMeridianLock, modRegs_meridian]

theorem execMeridianLockLoss_onward : Onward m (execMeridianLockLoss s) := by
  grind [next_onward, execMeridianLockLoss, modRegs_meridian]

theorem execQueuePairSetup_onward {pod} : Onward m (execQueuePairSetup pod s) := by
  grind [next_onward, execQueuePairSetup]

theorem execInboundFabricRequest_onward {q} : Onward m (execInboundFabricRequest q s) := by
  grind [next_onward, execInboundFabricRequest, lineAccess_le, inboundDone_meridian, replicasDone_meridian, inboundPut_meridian,
    → serve_meridian]

theorem execRedContribution_onward {id} : Onward m (execRedContribution id s) := by
  grind [next_onward, execRedContribution, State.setStore_meridian, State.modColl_meridian, tell_meridian]

theorem execReplicaStore_onward {id} : Onward m (execReplicaStore id s) := by
  grind [next_onward, execReplicaStore, applyUc_meridian, applyCached_meridian]

theorem execSchedulerPass_onward : Onward m (execSchedulerPass s) := by
  grind [next_onward, execSchedulerPass, schedulerPass_meridian]

theorem execCurfewWindowClose_onward {tid} : Onward m (execCurfewWindowClose tid s) := by
  have stopped {l : List (Nat × Nat)} {s : State} : (l.foldl (fun s q => stopOne s q.1 q.2) s).meridian = s.meridian :=
    foldl_meridian fun _ _ => stopOne_meridian
  grind [next_onward, execCurfewWindowClose, State.modTeam_meridian]

theorem execTeamSave_onward {tid} : Onward m (execTeamSave tid s) := by
  grind [next_onward, execTeamSave, modCurfew_meridian, takeUe_meridian, saveStash_meridian, writeSave_meridian]

theorem execLaunchLate_onward {entry} : Onward m (execLaunchLate entry s) := by
  grind [next_onward, execLaunchLate, markLate_meridian]

theorem execLaunchCompletion_onward {entry} : Onward m (execLaunchCompletion entry s) := by
  have stats {L : Launch} {s : State} : ((List.range 64).foldl (fun s i =>
      agentStore s 6 L.seq 512 L.asid.toNat (pArea L.pkt + 16 * i) (statBytes L i)) s).meridian = s.meridian :=
    foldl_meridian fun _ _ => agentStore_meridian
  unfold execLaunchCompletion
  dsimp only
  split
  · simpa using hm
  · split
    · simpa using hm
    · split
      · rw [next_onward]
        split
        · simpa [stats] using hm
        · simpa using hm
      · rw [next_onward, completeLaunch_meridian]
        split <;> simpa using hm

theorem execBinTimerExpiry_onward {core bin} : Onward m (execBinTimerExpiry core bin s) := by
  grind [next_onward, execBinTimerExpiry, closeBin_meridian]

theorem execBinGroupFormation_onward {core bin} : Onward m (execBinGroupFormation core bin s) := by
  have formed {b} : ((formBin s core b).getD s).meridian = s.meridian := by
    cases h : formBin s core b with
    | none => rfl
    | some s' => exact formBin_meridian h
  grind [next_onward, execBinGroupFormation]

theorem execParkedRowRetry_onward {gid lane} : Onward m (execParkedRowRetry gid lane s) := by
  grind [next_onward, execParkedRowRetry, Ctx.setSub_meridian]

theorem execBrdSlotTimeout_onward {gid lane} : Onward m (execBrdSlotTimeout gid lane s) := by
  grind [next_onward, execBrdSlotTimeout, State.modSub_meridian]

theorem execNapUntilExpiry_onward {gid lane} : Onward m (execNapUntilExpiry gid lane s) := by
  grind [next_onward, execNapUntilExpiry, State.modSub_meridian]

theorem execNapCycleExpiry_onward {gid lane} : Onward m (execNapCycleExpiry gid lane s) := by
  grind [next_onward, execNapCycleExpiry, State.modSub_meridian]

theorem execStoreAtL2_onward {id} : Onward m (execStoreAtL2 id s) := by
  unfold execStoreAtL2
  dsimp only
  split
  · simpa using hm
  · split
    · simpa using hm
    · split
      · simpa using hm
      · split
        all_goals rename_i h; replace hm := hm.trans_eq (meridian_of_scene (reach_scene h)).symm
        · simpa using hm
        · grind [next_onward, State.setStore_meridian, → dirtyLine_meridian]

theorem execStoreApplication_onward {id} : Onward m (execStoreApplication id s) := by
  grind [next_onward, execStoreApplication, applyUc_meridian, applyCached_meridian]

theorem execStoreTimeReturn_onward {id} : Onward m (execStoreTimeReturn id s) := by
  grind [next_onward, execStoreTimeReturn, State.dropStore_meridian, addTime_meridian, launchTime_meridian]

theorem execStoreFailureReturn_onward {id} : Onward m (execStoreFailureReturn id s) := by
  grind [next_onward, execStoreFailureReturn, State.dropStore_meridian, addDefer_meridian]

theorem execPageTableWalk_onward {core asid va} : Onward m (execPageTableWalk core asid va s) := by
  grind [next_onward, execPageTableWalk, → permission_scene, → translate_scene, State.scene]

theorem execLineFill_onward {core asid va} : Onward m (execLineFill core asid va s) := by
  grind [next_onward, execLineFill, → translate_scene, → coreLine_scene, State.scene]

theorem execLeaseExpiry_onward {core asid va} : Onward m (execLeaseExpiry core asid va s) := by
  grind [next_onward, execLeaseExpiry, State.modCore_scene, State.scene]

theorem execZoneCompression_onward : Onward m (execZoneCompression s) := by
  have visited {l : List ZoneLeaf} {s : State} : (l.foldl visitLeaf s).meridian = s.meridian :=
    foldl_meridian fun _ _ => visitLeaf_meridian
  unfold execZoneCompression
  dsimp only
  split
  · simpa using hm
  · rw [next_onward]
    split <;> simpa [visited] using hm

theorem execCbldComplete_onward {core bank} : Onward m (execCbldComplete core bank s) := by
  grind [next_onward, execCbldComplete, → readEntries_meridian, State.setBank_meridian]

theorem execTileOperationStart_onward {core} : Onward m (execTileOperationStart core s) := by
  grind [next_onward, execTileOperationStart, → runTile_meridian, State.modCore_scene, State.scene]

theorem execTileOperationComplete_onward {core} : Onward m (execTileOperationComplete core s) := by
  grind [next_onward, execTileOperationComplete, finishOp_meridian]

theorem execTzeroRun_onward {core} : Onward m (execTzeroRun core s) := by
  grind [next_onward, execTzeroRun, State.modCore_scene, trimLost_meridian, State.setOpAcc_meridian, State.scene]

theorem execCtnInjectionRun_onward {core} : Onward m (execCtnInjectionRun core s) := by
  grind [next_onward, execCtnInjectionRun, State.modCore_scene, trimLost_meridian, State.setAcc_meridian, State.scene]

theorem execDrainRun_onward {core} : Onward m (execDrainRun core s) := by
  grind [next_onward, execDrainRun, → runDrain_meridian, State.modCore_scene, State.scene]

theorem execDrainComplete_onward {core} : Onward m (execDrainComplete core s) := by
  grind [next_onward, execDrainComplete, dropFails_meridian, State.setOpAcc_meridian, finishOp_meridian]

theorem execFragmentComplete_onward {gid} : Onward m (execFragmentComplete gid s) := by
  have recorded {core mods} {r : Nat → Recon} {l : List Nat} {s : State} :
      (l.foldl (fun s e => recordRecon s core mods (r e) 1 0 0 (e / 16) (e % 16)) s).meridian = s.meridian :=
    foldl_meridian fun _ _ => recordRecon_meridian
  unfold execFragmentComplete
  dsimp only
  split
  · simpa using hm
  · split
    · simpa using hm
    · split <;> simpa [recorded] using hm

theorem execCopyOperationStart_onward {engine} : Onward m (execCopyOperationStart engine s) := by
  grind [next_onward, execCopyOperationStart, → runCopy_meridian, readAll_meridian]

theorem execCopyOperationComplete_onward {engine} : Onward m (execCopyOperationComplete engine s) := by
  grind [next_onward, execCopyOperationComplete, endCopy_meridian]

theorem execBrineJobStart_onward {lane} : Onward m (execBrineJobStart lane s) := by
  grind [next_onward, execBrineJobStart, → runJob_meridian]

theorem execBrineJobComplete_onward {lane} : Onward m (execBrineJobComplete lane s) := by
  grind [next_onward, execBrineJobComplete, dropFails_meridian, dropEngineEntry_meridian, raiseCounter_meridian,
    doneBrine_meridian, opEnded_meridian]

theorem execTransferComplete_onward {entry r} : Onward m (execTransferComplete entry r s) := by
  grind [next_onward, execTransferComplete, next_onward, → moveTransfer_meridian, dropFails_meridian, addCounter_meridian,
    raiseCounter_meridian, doneFab_meridian, opEnded_meridian]

theorem execTriggeredTransferStart_onward {slot} : Onward m (execTriggeredTransferStart slot s) := by
  grind [next_onward, execTriggeredTransferStart, → newFab_meridian, addTransfer_meridian]

theorem execCollectiveMeet_onward {entry resp} : Onward m (execCollectiveMeet entry resp s) := by
  grind [next_onward, execCollectiveMeet, State.modColl_meridian, tell_meridian, → engRead_meridian]

theorem execCollectiveChunkReduce_onward {entry chunk resp} : Onward m (execCollectiveChunkReduce entry chunk resp s) := by
  grind [next_onward, execCollectiveChunkReduce, State.modColl_meridian, → writeChunk_meridian]

theorem execCollectiveComplete_onward {entry} : Onward m (execCollectiveComplete entry s) := by
  grind [next_onward, execCollectiveComplete, State.modColl_meridian, dropFails_meridian, agentWrite_meridian,
    raiseCounter_meridian, doneFab_meridian, opEnded_meridian]

theorem execParticipantUnreachable_onward {entry} : Onward m (execParticipantUnreachable entry s) := by
  grind [next_onward, execParticipantUnreachable, State.modColl_meridian]

theorem execSuperstepComplete_onward {entry others first} : Onward m (execSuperstepComplete entry others first s) := by
  grind [next_onward, execSuperstepComplete, endStep_meridian, breakStep_meridian, State.modLaunch_meridian]

theorem execFabricPortDown_onward {port} : Onward m (execFabricPortDown port s) := by
  grind [next_onward, execFabricPortDown]

theorem execFabricPortUp_onward {port} : Onward m (execFabricPortUp port s) := by
  grind [next_onward, execFabricPortUp]

theorem execPeerStorePerform_onward {id} : Onward m (execPeerStorePerform id s) := by
  grind [next_onward, execPeerStorePerform, State.setStore_meridian, localWrite_meridian]

theorem execRegisterWrite_onward {off v} : Onward m (execRegisterWrite off v s) := by
  unfold execRegisterWrite
  refine ite_onward (next_onward.mpr hm) (ite_onward ?_ (ite_onward ?_ ?_))
  · grind [next_onward, deviceStore_meridian]
  · grind [next_onward, warmReset_meridian]
  · refine ite_onward (execZoneReqWrite_onward hm) (ite_onward (execTqBaseWrite_onward hm) (ite_onward (by simpa using hm) ?_))
    refine ite_onward (execHsigTailWrite_onward hm) (ite_onward (execErrSumCtlWrite_onward hm) ?_)
    refine ite_onward (execPwrCapWrite_onward hm) (ite_onward (execAttCtlStart_onward hm) ?_)
    refine ite_onward (execMerCtlWrite_onward hm) (ite_onward (execFwUpdStart_onward hm) ?_)
    refine ite_onward (by simpa using hm) (ite_onward (next_onward.mpr hm) (ite_onward (next_onward.mpr hm) ?_))
    exact ite_onward (by simpa using hm) (next_onward.mpr hm)

theorem execApertureAccess_onward {a} : Onward m (execApertureAccess a s) := by
  have counted {l : List Nat} {s : State} : (l.foldl countRead s).meridian = s.meridian :=
    foldl_meridian fun _ _ => meridian_of_scene countRead_scene
  unfold execApertureAccess
  dsimp only
  split
  · split
    · split
      · exact execRegisterWrite_onward hm
      · simpa using hm
    · simpa using hm
  · split
    · refine next_onward.mpr (hm.trans_eq (Eq.symm (foldl_meridian fun _ _ => ?_)))
      split
      · exact meridian_of_scene State.poke_scene
      · rfl
    · simpa [counted] using hm

end events

end Sys2Proof.Machine
end

section
/-! SUPPORT. Every instruction with its issuer, and every step of the device but a loss of power, goes onward. -/

namespace Sys2Proof.Machine

/-! ### Every instruction -/

/-- An instruction with its issuer, and a step of the device's own, goes onward; a loss of power alone may not. -/
theorem exec_onward {m : Nat} {i : Instr} {s : State} (hi : i ≠ .powerLoss) (hc : isEvent i = false → s.ctx?.isSome)
    (hm : m ≤ s.meridian) : Onward m (exec i s) := by
  unfold exec
  cases i with
  | iadd f | iadds f | isub f | isubs f | imul f | imulh f | imulhu f | imin f | iminu f | imax f | imaxu f | andL f
  | orL f | xorL f | andn f | shl f | shr f | sar f | rotl f | popc f | clz f | brev f | iabs f | bfx f | bfxs f | mov f =>
    exact aluR_onward (hc rfl) hm
  | iaddd f | isubd f | imulw f | imadw f => exact aluPair_onward (hc rfl) hm
  | imad f | idot4 f | bfi f => exact aluRD_onward (hc rfl) hm
  | icmpEq f | icmpNe f | icmpLt f | icmpLe f | icmpuLt f | icmpuLe f | icmpuGt f | icmpuGe f =>
    exact compare_onward (hc rfl) hm
  | pmovr f | pmovw f | pbit f | movs f | selfIx f | laneid f | selp f => exact classA_onward (hc rfl) hm
  | pand f | por f | pxor f | pnand f => exact predOp_onward (hc rfl) hm
  | iaddi f | movi f | shli f | shri f | sari f | rotli f | andi f => exact aluI_onward (hc rfl) hm
  | nbl f | nbr f | nblb f | nbrb f => exact neighbour_onward (hc rfl) hm
  | shflIdx f | shflXor f | shflUp f | shflDn f => exact shuffle_onward (hc rfl) hm
  | ballot f | anyP f | allP f | elect f => exact laneWrite_onward (hc rfl) hm
  | lredIadd f | lredImax f | lscanIaddEx f | lscanIaddIn f => exact reduceI_onward (hc rfl) hm
  | lredFadd f | lredFmax f | lscanFaddEx f | lscanFaddIn f => exact reduceF_onward (hc rfl) hm
  | fadd f rm | fsub f rm | fmul f rm | ffma f rm | fmin f | fmax f | fminn f | fmaxn f | fabs f | fneg f | frint f
  | fclass f | hadd2 f | hmul2 f | hfma2 f | hmax2 f | f2bf f | bf2f f | f2i f | i2f f | f2iz f | u2f f | f2uz f
  | bscale f | bsq f | bsdq f =>
    exact fAlu_onward (hc rfl) hm
  | fcmpEq f | fcmpLt f | fcmpLe f | fcmpUn f => exact fCompare_onward (hc rfl) hm
  | frcp f | frsq f | fex2 f | flg2 f => exact fApprox_onward (hc rfl) hm
  | cbxB8 f | cbxN4 f => exact cbx_onward (hc rfl) hm
  | xffma f k | xfmul f k => exact xf_onward (hc rfl) hm
  | mfrag f | mfraga f => exact mfrag_onward (hc rfl) hm
  | rmadC03 f c | rmadC45 f c => exact rmad_onward (hc rfl) hm
  | ldl f sz | ldlv f sz => exact localLoad_onward (hc rfl) hm
  | stl f sz | stlv f sz => exact localStores_onward (hc rfl) hm
  | atlAdd f | atlMax f | atlMin f | atlExch f => exact localAtomic_onward (hc rfl) hm
  | ld f sz | lda f fo => exact globalLoad_onward (hc rfl) hm
  | st f sz | str f fo => exact globalStore_onward (hc rfl) hm
  | atomAdd f | atomMax f | atomMin f | atomExch f | atombAnd f | atombOr f | atombXor f | atombAddf f =>
    exact atom_onward (hc rfl) hm
  | casW f | casD f | casQ f | casQAr f => exact cas_onward (hc rfl) hm
  | uadd f | usub f | umul f | umulh f | umulhu f | umin f | umax f | uminu f | uand f | uor f | uxor f | uandn f
  | ushl f | ushr f | usar f | urotl f | ulea f n =>
    exact uni2_onward (hc rfl) hm
  | uaddi f | uli f | ulih f | umov f | uactive f | ucount f => exact uniS_onward (hc rfl) hm
  | knot f | kany f | kall f | knone f | curf f => exact uniK_onward (hc rfl) hm
  | ucmpEq f | ucmpNe f | ucmpLt f | ucmpLe f | ucmpLtu f | ucmpLeu f => exact ucmp_onward (hc rfl) hm
  | kand f | kor f | kxor f => exact kBin_onward (hc rfl) hm
  | bar f | arrwait f => exact barrierWait_onward (hc rfl) hm
  | sstep f | sstepPod f => exact sstepWith_onward (hc rfl) hm
  | spawn f | spawnf f => exact spawnWith_onward (hc rfl) hm
  | launch f | launchTry f => exact launchWith_onward (hc rfl) hm
  | lwait f | lwaitPoll f => exact lwaitWith_onward (hc rfl) hm
  | tile f | tileL f => exact tile_onward (hc rfl) hm
  | twait f | twaitPoll f => exact twait_onward (hc rfl) hm
  | tdrainFp32 f | tdrainBf16 f | tdrainAcc f | tdrainI64 f | tdrainPlanes f =>
    exact tdrain_onward (hc rfl) hm
  | stashWb f | stashUnmap f => exact stashBack_onward (hc rfl) hm
  | fenceT f | fenceD f | fenceP f | fenceSc f | fenceAcq f | fenceEng f => exact fence_onward (hc rfl) hm
  | tlbi f | tlbiAll f => exact tlbi_onward (hc rfl) hm
  | copyPlain f | copySb12 f | copyRp16 f | copyBf16 f | copyGather f | copyDrain f =>
    exact copyWith_onward (hc rfl) hm
  | cwait f | cwaitPoll f | cwaitCancel f => exact cwaitWith_onward (hc rfl) hm
  | sluiceExcl f | sluiceWrite f | sluiceSnap f => exact sluiceLock_onward (hc rfl) hm
  | bwait f | bwaitPoll f => exact bwaitWith_onward (hc rfl) hm
  | putX f | getX f | putc f | atomr f => exact transferWith_onward (hc rfl) hm
  | collWait f | collPoll f => exact collWaitWith_onward (hc rfl) hm
  | bsqe f => exact execBsqe_onward (hc rfl) hm
  | mfragx f => exact execMfragx_onward (hc rfl) hm
  | rmod f => exact execRmod_onward (hc rfl) hm
  | rrec f => exact execRrec_onward (hc rfl) hm
  | rchk f => exact execRchk_onward (hc rfl) hm
  | casl f z => exact execCasl_onward (hc rfl) hm
  | unop => exact execUnop_onward (hc rfl) hm
  | ufirst f => exact execUfirst_onward (hc rfl) hm
  | usread f => exact execUsread_onward (hc rfl) hm
  | uswrite f => exact execUswrite_onward (hc rfl) hm
  | bra f => exact execBra_onward (hc rfl) hm
  | brd f => exact execBrd_onward (hc rfl) hm
  | call f => exact execCall_onward (hc rfl) hm
  | ret f => exact execRet_onward (hc rfl) hm
  | brx f => exact execBrx_onward (hc rfl) hm
  | callx f => exact execCallx_onward (hc rfl) hm
  | enrol f => exact execEnrol_onward (hc rfl) hm
  | enrolMask f => exact execEnrolMask_onward (hc rfl) hm
  | rejoin f => exact execRejoin_onward (hc rfl) hm
  | strike f => exact execStrike_onward (hc rfl) hm
  | loopImm f => exact execLoopImm_onward (hc rfl) hm
  | loopReg f => exact execLoopReg_onward (hc rfl) hm
  | lbrk g level => exact execLbrk_onward (hc rfl) hm
  | arrive f => exact execArrive_onward (hc rfl) hm
  | await f => exact execAwait_onward (hc rfl) hm
  | napUntil f => exact execNapUntil_onward (hc rfl) hm
  | napWake f => exact execNapWake_onward (hc rfl) hm
  | napCyc f => exact execNapCyc_onward (hc rfl) hm
  | wake f => exact execWake_onward (hc rfl) hm
  | freeze f => exact execFreeze_onward (hc rfl) hm
  | freezen f => exact execFreezen_onward (hc rfl) hm
  | nest f => exact execNest_onward (hc rfl) hm
  | endU f => exact execEndU_onward (hc rfl) hm
  | endl f => exact execEndl_onward (hc rfl) hm
  | yield f => exact execYield_onward (hc rfl) hm
  | statid f => exact execStatid_onward (hc rfl) hm
  | tzero f => exact execTzero_onward (hc rfl) hm
  | modset f => exact execModset_onward (hc rfl) hm
  | modsetRead f => exact execModsetRead_onward (hc rfl) hm
  | modsetDefault f => exact execModsetDefault_onward (hc rfl) hm
  | ctnrd f => exact execCtnrd_onward (hc rfl) hm
  | ctnrdInject f => exact execCtnrdInject_onward (hc rfl) hm
  | ctnrdClr f => exact execCtnrdClr_onward (hc rfl) hm
  | cballoc f => exact execCballoc_onward (hc rfl) hm
  | cballocFree f => exact execCballocFree_onward (hc rfl) hm
  | cbfence f => exact execCbfence_onward (hc rfl) hm
  | cbld f k => exact execCbld_onward (hc rfl) hm
  | cbw g d bank e h => exact execCbw_onward (hc rfl) hm
  | cbr g d e h bank => exact execCbr_onward (hc rfl) hm
  | pin f => exact execPin_onward (hc rfl) hm
  | unpin f => exact execUnpin_onward (hc rfl) hm
  | stash f => exact execStash_onward (hc rfl) hm
  | stashDiscard f => exact execStashDiscard_onward (hc rfl) hm
  | colinfo f => exact execColinfo_onward (hc rfl) hm
  | pref2 f => exact execPref2_onward (hc rfl) hm
  | pref1 f => exact execPref1_onward (hc rfl) hm
  | evict1 f => exact execEvict1_onward (hc rfl) hm
  | wbl2 f => exact execWbl2_onward (hc rfl) hm
  | plq f => exact execPlq_onward (hc rfl) hm
  | plinv f => exact execPlinv_onward (hc rfl) hm
  | tlbiVa f => exact execTlbiVa_onward (hc rfl) hm
  | sluiceUnlock f => exact execSluiceUnlock_onward (hc rfl) hm
  | brine f => exact execBrine_onward (hc rfl) hm
  | btbl f => exact execBtbl_onward (hc rfl) hm
  | tsend f => exact execTsend_onward (hc rfl) hm
  | tsendCancel f => exact execTsendCancel_onward (hc rfl) hm
  | ctrrd f => exact execCtrrd_onward (hc rfl) hm
  | ctrset f => exact execCtrset_onward (hc rfl) hm
  | ctrwait f => exact execCtrwait_onward (hc rfl) hm
  | ctradd f => exact execCtradd_onward (hc rfl) hm
  | coll f => exact execColl_onward (hc rfl) hm
  | collAbort f => exact execCollAbort_onward (hc rfl) hm
  | trapI f => exact execTrapI_onward (hc rfl) hm
  | tresume f => exact execTresume_onward (hc rfl) hm
  | saveBlk f => exact execSaveBlk_onward (hc rfl) hm
  | restoreBlk f => exact execRestoreBlk_onward (hc rfl) hm
  | hostsig f => exact execHostsig_onward (hc rfl) hm
  | endlRemoteStop gid lane => exact execEndlRemoteStop_onward hm
  | trapBackoffExpiry gid lane => exact execTrapBackoffExpiry_onward hm
  | coalescerClose rec => exact execCoalescerClose_onward hm
  | trapQueueWrite rec => exact execTrapQueueWrite_onward hm
  | serviceFaultPost => exact execServiceFaultPost_onward hm
  | hostProgramStart slot v => exact execHostProgramStart_onward hm
  | hostProgramAbort slot v => exact execHostProgramAbort_onward hm
  | serviceTeamStart v => exact execServiceTeamStart_onward hm
  | registerWrite off v => exact execRegisterWrite_onward hm
  | apertureAccess a => exact execApertureAccess_onward hm
  | featAcceptWrite v => exact execFeatAcceptWrite_onward hm
  | curfewWinWrite v => exact execCurfewWinWrite_onward hm
  | leaseL1Write v => exact execLeaseL1Write_onward hm
  | pwrCapWrite v => exact execPwrCapWrite_onward hm
  | zoneReqWrite v => exact execZoneReqWrite_onward hm
  | tqBaseWrite v => exact execTqBaseWrite_onward hm
  | hsigTailWrite v => exact execHsigTailWrite_onward hm
  | errSumCtlWrite v => exact execErrSumCtlWrite_onward hm
  | merCtlWrite v => exact execMerCtlWrite_onward hm
  | attCtlStart v => exact execAttCtlStart_onward hm
  | attestationComplete => exact execAttestationComplete_onward hm
  | fwUpdStart v => exact execFwUpdStart_onward hm
  | fwUpdateComplete => exact execFwUpdateComplete_onward hm
  | warmReset => exact execWarmReset_onward hm
  | powerUp b => exact execPowerUp_onward hm
  | powerLoss => exact absurd rfl hi
  | thermalTrip => exact execThermalTrip_onward hm
  | clockThrottle cycles => exact execClockThrottle_onward hm
  | meridianLock ns => exact execMeridianLock_onward hm
  | meridianLockLoss => exact execMeridianLockLoss_onward hm
  | queuePairSetup pod => exact execQueuePairSetup_onward hm
  | inboundFabricRequest r => exact execInboundFabricRequest_onward hm
  | redContribution store => exact execRedContribution_onward hm
  | replicaStore store => exact execReplicaStore_onward hm
  | schedulerPass => exact execSchedulerPass_onward hm
  | curfewWindowClose team => exact execCurfewWindowClose_onward hm
  | teamSave team => exact execTeamSave_onward hm
  | launchLate entry => exact execLaunchLate_onward hm
  | launchCompletion entry => exact execLaunchCompletion_onward hm
  | binTimerExpiry core bin => exact execBinTimerExpiry_onward hm
  | binGroupFormation core bin => exact execBinGroupFormation_onward hm
  | parkedRowRetry gid lane => exact execParkedRowRetry_onward hm
  | brdSlotTimeout gid lane => exact execBrdSlotTimeout_onward hm
  | napUntilExpiry gid lane => exact execNapUntilExpiry_onward hm
  | napCycleExpiry gid lane => exact execNapCycleExpiry_onward hm
  | storeAtL2 store => exact execStoreAtL2_onward hm
  | storeApplication store => exact execStoreApplication_onward hm
  | storeTimeReturn store => exact execStoreTimeReturn_onward hm
  | storeFailureReturn store => exact execStoreFailureReturn_onward hm
  | pageTableWalk core asid va => exact execPageTableWalk_onward hm
  | lineFill core asid va => exact execLineFill_onward hm
  | leaseExpiry core asid va => exact execLeaseExpiry_onward hm
  | zoneCompression => exact execZoneCompression_onward hm
  | cbldComplete core bank => exact execCbldComplete_onward hm
  | tileOperationStart core => exact execTileOperationStart_onward hm
  | tileOperationComplete core => exact execTileOperationComplete_onward hm
  | tzeroRun core => exact execTzeroRun_onward hm
  | ctnInjectionRun core => exact execCtnInjectionRun_onward hm
  | drainRun core => exact execDrainRun_onward hm
  | drainComplete core => exact execDrainComplete_onward hm
  | fragmentComplete gid => exact execFragmentComplete_onward hm
  | copyOperationStart engine => exact execCopyOperationStart_onward hm
  | copyOperationComplete engine => exact execCopyOperationComplete_onward hm
  | brineJobStart brineLane => exact execBrineJobStart_onward hm
  | brineJobComplete brineLane => exact execBrineJobComplete_onward hm
  | transferComplete entry r => exact execTransferComplete_onward hm
  | triggeredTransferStart slot => exact execTriggeredTransferStart_onward hm
  | collectiveMeet entry r => exact execCollectiveMeet_onward hm
  | collectiveChunkReduce entry chunk r => exact execCollectiveChunkReduce_onward hm
  | collectiveComplete entry => exact execCollectiveComplete_onward hm
  | participantUnreachable entry => exact execParticipantUnreachable_onward hm
  | superstepComplete entry others first => exact execSuperstepComplete_onward hm
  | fabricPortDown port => exact execFabricPortDown_onward hm
  | fabricPortUp port => exact execFabricPortUp_onward hm
  | peerStorePerform store => exact execPeerStorePerform_onward hm

theorem exec_powerLoss {s : State} : ∃ t, exec .powerLoss s = .next t := ⟨_, rfl⟩

end Sys2Proof.Machine
end

section
/-! Moves and steps go onward: no instruction and no step stops the machine (O60). -/

namespace Sys2Proof.Machine

/-! ### The issuing sub-group is still there when its instruction runs

A context stands on its group's lanes and its team alone, and what issuing does before the word's own meaning leaves those. -/

/-- What of a group a context is found by: the group, its team and the lanes of its sub-groups. -/
def Group.seat (g : Group) : Nat × Nat × List Word := (g.gid, g.tid, g.subs.map Sub.mask)

def State.seats (s : State) : List (Nat × Nat × List Word) × List Team := (s.groups.map Group.seat, s.teams)

/-- Is there a sub-group of that lane, and a team, at the group's seat? -/
def seated (x : List (Nat × Nat × List Word) × List Team) (gid lane : Nat) : Bool :=
  (x.1.find? fun q => q.1 == gid).any fun q => q.2.2.any (·.getLsbD lane) && x.2.any fun t => t.tid == q.2.1

theorem ctxOf_isSome {s : State} {gid lane : Nat} : (s.ctxOf gid lane).isSome = seated s.seats gid lane := by
  unfold State.ctxOf seated State.seats
  have seat : (fun q : Nat × Nat × List Word => q.1 == gid) ∘ Group.seat = fun g => g.gid == gid := rfl
  rw [List.find?_map, seat]
  cases hg : s.groups.find? fun g => g.gid == gid with
  | none => simp [State.group?, hg]
  | some g =>
    have hs : (g.subAt? lane).isSome = g.seat.2.2.any (·.getLsbD lane) := by
      simp [Group.subAt?, Group.seat, List.any_map, Function.comp_def, List.isSome_find?]
    have ht : (s.team? g.tid).isSome = s.teams.any fun t => t.tid == g.seat.2.1 := by
      simp [State.team?, Group.seat, List.isSome_find?]
    simp only [State.group?, hg, Option.map_some, Option.any_some, ← hs, ← ht]
    cases g.subAt? lane <;> cases s.team? g.tid <;> rfl

theorem map_subs_seat {g : Group} {f : Sub → Sub} (h : ∀ u, (f u).mask = u.mask) :
    ({ g with subs := g.subs.map f } : Group).seat = g.seat := by
  simp [Group.seat, h]

theorem modGroup_seats {s : State} {gid : Nat} {f : Group → Group} (h : ∀ g, (f g).seat = g.seat) :
    (s.modGroup gid f).seats = s.seats := by
  refine congrArg (·, s.teams) ?_
  simp only [State.modGroup, List.map_map]
  refine List.map_congr_left fun g _ => ?_
  simp only [Function.comp]
  split
  · exact h g
  · rfl

theorem dropAhead_seats {i : Instr} {c : Ctx} {s : State} : (dropAhead i c s).seats = s.seats := by
  unfold dropAhead
  split
  · rfl
  · refine modGroup_seats fun g => map_subs_seat fun u => ?_
    split
    · rename_i h; exact (beq_iff_eq.mp h).symm
    · rfl

theorem dropShared_seats {c : Ctx} {s : State} : (dropShared c s).seats = s.seats :=
  modGroup_seats fun g => map_subs_seat fun u => by split <;> rfl

theorem switchPipe_seats {s : State} {core issue gid : Nat} {mask : Word} :
    (s.switchPipe core issue gid mask).seats = s.seats := by
  refine congrArg (·, s.teams) ?_
  rw [State.switchPipe_groups, List.map_map]
  exact List.map_congr_left fun g _ => switchOne_keep s core issue gid mask g Group.seat (map_subs_seat fun u => by split <;> rfl)

theorem beforeIssue_seats {c : Ctx} {i : Instr} {w : Word} {s : State} : (beforeIssue c i w s).seats = s.seats := by
  unfold beforeIssue
  dsimp only
  split
  · exact dropShared_seats.trans dropAhead_seats
  · exact switchPipe_seats.trans dropAhead_seats

theorem beforeIssue_issuer {c : Ctx} {i : Instr} {w : Word} {s : State} (h : (s.ctxOf c.gid c.lane).isSome) :
    (beforeIssue c i w s).ctx?.isSome := by
  have hcur : (beforeIssue c i w s).ctx? = (beforeIssue c i w s).ctxOf c.gid c.lane := rfl
  rw [hcur, ctxOf_isSome, beforeIssue_seats, ← ctxOf_isSome]
  exact h

/-! ### Moves and steps -/

section decoder
variable {i : Instr} {x0 x1 x2 x3 x4 x5 x6 x7 : Option Instr} {w : Word} {op : Nat}

theorem sel4_ne {f : BitVec 2} (h0 : x0 ≠ some i) (h1 : x1 ≠ some i) (h2 : x2 ≠ some i) (h3 : x3 ≠ some i) :
    sel4 f x0 x1 x2 x3 ≠ some i := by
  unfold sel4
  split <;> assumption

theorem sel8_ne {f : BitVec 3} (h0 : x0 ≠ some i) (h1 : x1 ≠ some i) (h2 : x2 ≠ some i) (h3 : x3 ≠ some i) (h4 : x4 ≠ some i)
    (h5 : x5 ≠ some i) (h6 : x6 ≠ some i) (h7 : x7 ≠ some i) : sel8 f x0 x1 x2 x3 x4 x5 x6 x7 ≠ some i := by
  unfold sel8
  split <;> assumption

theorem laneForm_ne_powerLoss : laneForm op w ≠ some .powerLoss := by
  unfold laneForm
  dsimp only
  split <;> simp [sel4_ne, sel8_ne]

theorem uniformForm_ne_powerLoss : uniformForm op w ≠ some .powerLoss := by
  unfold uniformForm
  dsimp only
  split <;> simp [sel8_ne, ite_eq_iff]

/-- No word is a loss of power. -/
theorem decodeRaw_ne_powerLoss : decodeRaw w ≠ some .powerLoss := by
  unfold decodeRaw
  split
  · exact uniformForm_ne_powerLoss
  · exact laneForm_ne_powerLoss

theorem decode_ne_powerLoss : decode w ≠ .ok .powerLoss := by
  unfold decode
  split
  · nofun
  · split
    · nofun
    · rename_i h
      split
      · rintro ⟨⟩
        exact decodeRaw_ne_powerLoss h
      · nofun

theorem decodeBytes_ne_powerLoss {bs rest} (h : decodeBytes bs = .ok (i, rest)) : i ≠ .powerLoss := by
  rintro rfl
  unfold decodeBytes at h
  split at h
  · split at h
    · cases h
      exact decode_ne_powerLoss ‹_›
    · cases h
  · cases h

end decoder

theorem issueBytes_onward {m : Nat} {c : Ctx} {s : State} {bs} (hc : (s.ctxOf c.gid c.lane).isSome) (hm : m ≤ s.meridian) :
    Onward m (issueBytes c s bs) := by
  unfold issueBytes
  split
  · simpa using hm
  · exact exec_onward (decodeBytes_ne_powerLoss ‹_›) (fun _ => beforeIssue_issuer hc) (by simpa using hm)

theorem ctxOf_of_scene {s t : State} (h : s.scene = t.scene) {gid lane : Nat} : s.ctxOf gid lane = t.ctxOf gid lane := by
  obtain ⟨-, h⟩ := Prod.mk.inj h
  obtain ⟨hg, ht⟩ := Prod.mk.inj h
  simp only [State.ctxOf, State.group?, State.team?, hg, ht]

theorem issueAt_onward {m gid lane : Nat} {s : State} (hm : m ≤ s.meridian) : Onward m (issueAt gid lane s) := by
  unfold issueAt
  split
  · simpa using hm
  next c hc =>
  obtain ⟨rfl, rfl, -⟩ := State.ctxOf_eq.1 hc
  refine ite_onward (next_onward.mpr hm) (ite_onward (execEndlRemoteStop_onward hm) (ite_onward (by simpa using hm) ?_))
  refine ite_onward (by simpa using hm) (ite_onward (next_onward.mpr hm) ?_)
  split
  all_goals rename_i h; have hs := fetchWord_scene h; replace hs : m ≤ _ := hm.trans_eq (meridian_of_scene hs).symm
  · simpa using hs
  · refine ite_onward (next_onward.mpr hm) (issueBytes_onward ?_ hs)
    rw [ctxOf_of_scene (fetchWord_scene h), hc]
    rfl

theorem issueMove_onward {m gid lane : Nat} {s : State} (hm : m ≤ s.meridian) : Onward m (issueMove gid lane s) := by
  unfold issueMove
  split
  · simpa using hm
  · exact issueAt_onward hm

theorem issueEach_onward {m : Nat} {cs : List Ctx} {s : State} (hm : m ≤ s.meridian) : Onward m (issueEach cs s) := by
  induction cs generalizing s with
  | nil => exact next_onward.mpr hm
  | cons c cs ih =>
    obtain ⟨t, h, ht⟩ := issueAt_onward (gid := c.gid) (lane := c.lane) hm
    rw [issueEach, h]
    exact ih ht

theorem cycleMove_onward {m : Nat} {s : State} (hm : m ≤ s.meridian) : Onward m (cycleMove s) := issueEach_onward hm

/-- Every move but a loss of power goes onward. -/
theorem act_onward {m : Nat} {a : Act} {s : State} (ha : a ≠ .event .powerLoss) (hm : m ≤ s.meridian) : Onward m (act a s) := by
  cases a with
  | issue gid lane => exact issueMove_onward hm
  | issueLate gid lane =>
    obtain ⟨t, h, ht⟩ : Onward m (issueMove gid lane { s with issuesLate := true }) := issueMove_onward hm
    exact ⟨{ t with issuesLate := false }, by simp only [act, h], ht⟩
  | loadPerforms gid order => exact next_onward.mpr (performLate_meridian.symm ▸ hm)
  | fetchAhead gid lane n => exact next_onward.mpr (fetchAheadAt_meridian.symm ▸ hm)
  | cycle => exact cycleMove_onward hm
  | event i =>
    have hi : i ≠ .powerLoss := fun h => ha (congrArg Act.event h)
    change Onward m (if isEvent i then exec i s else .next s)
    split
    · exact exec_onward hi (by simp [*]) hm
    · exact next_onward.mpr hm

theorem act_powerLoss {s : State} : ∃ t, act (.event .powerLoss) s = .next t := ⟨_, rfl⟩

/-- The machine never takes a loss of power by itself. -/
theorem powerLoss_notMem_ownSteps {s : State} : Instr.powerLoss ∉ ownSteps s := by
  have waits {gid l u} : Instr.powerLoss ∉ waitSteps gid l u := by
    unfold waitSteps
    split <;> simp
  have subs {gid u} : Instr.powerLoss ∉ subSteps gid u := by
    unfold subSteps
    split <;> simp [waits]
  have cores {q} : Instr.powerLoss ∉ coreSteps q := by
    unfold coreSteps
    split <;> simp [tileSteps, binSteps]
  simp [ownSteps, recSteps, storeSteps, groupSteps, subs, cores, copySteps, brineSteps, transferSteps, launchSteps, curfewSteps]

theorem nextMove_ne_powerLoss {s : State} {a : Act} (h : nextMove s = some a) : a ≠ .event .powerLoss := by
  unfold nextMove at h
  split at h
  · cases h
    rintro h
    cases h
    exact powerLoss_notMem_ownSteps (List.mem_of_find?_eq_some ‹_›)
  · split at h
    · cases h
      obtain ⟨g, -, hg⟩ := Option.bind_eq_some_iff.mp ‹_›
      obtain ⟨x, -, rfl⟩ := Option.map_eq_some_iff.mp hg
      nofun
    · split at h <;> cases h
      nofun

theorem step_onward {s : State} : (∃ m rest, s.agenda = m :: rest ∧ m.act = .event .powerLoss) ∨
    Onward (s.meridian + ((s.agenda.head?.map Move.dt).getD 0 + 1)) (step s) := by
  unfold step
  cases h : s.agenda with
  | nil =>
    right
    dsimp only
    split
    · exact act_onward (nextMove_ne_powerLoss ‹_›) le_rfl
    · exact next_onward.mpr le_rfl
  | cons a rest =>
    by_cases ha : a.act = .event .powerLoss
    · exact Or.inl ⟨a, rest, rfl, ha⟩
    · exact Or.inr (act_onward ha le_rfl)

theorem step_powerLoss {s : State} {a : Move} {rest : List Move} (h : s.agenda = a :: rest) (ha : a.act = .event .powerLoss) :
    ∃ t, step s = .next t := by
  simp only [step, h, ha]
  exact act_powerLoss

/-- Settles O60: a fault needs an instruction without its issuer, every other way to end one keeps the meridian or moves it on. -/
theorem nothingStops : Obligations.NothingStops := by
  unfold Obligations.NothingStops
  refine ⟨fun i s hc => ?_, fun s => ?_⟩
  · by_cases hi : i = .powerLoss
    · subst hi
      exact ⟨_, rfl, Or.inl rfl⟩
    · obtain ⟨t, h, ht⟩ := exec_onward hi (fun he => hc.resolve_left fun hn => by simp [isEvent, hn] at he) le_rfl
      exact ⟨t, h, Or.inr ht⟩
  · obtain ⟨a, rest, h, ha⟩ | ⟨t, h, ht⟩ := step_onward (s := s)
    · obtain ⟨t, ht⟩ := step_powerLoss h ha
      exact ⟨t, ht, Or.inl ⟨a, rest, h, ha⟩⟩
    · exact ⟨t, h, Or.inr ht⟩

end Sys2Proof.Machine
end

section
/-! SUPPORT. Moves and immediate forms of the lane set (R165 to R167). -/

namespace Sys2Proof.Machine

variable {i : Instr} {s : State} {c : Ctx}

theorem LaneR.dst_lt {f : LaneR} {w : WKind} {a b : FieldKind} (h : f.ok w .dst a b = true) : f.d.toNat < 60 := by
  simp only [LaneR.ok, Bool.and_eq_true] at h
  obtain ⟨⟨⟨-, hd⟩, -⟩, -⟩ := h
  simpa [FieldKind.ok] using hd

theorem LaneI.dst_lt {f : LaneI} {guard : BitVec 4 → Bool} {usesA : Bool} (h : f.ok guard usesA = true) : f.d.toNat < 60 := by
  simp only [LaneI.ok, Bool.and_eq_true] at h
  obtain ⟨⟨-, hd⟩, -⟩ := h
  simpa [FieldKind.ok] using hd

theorem LaneSh.dst_lt {f : LaneSh} (h : f.ok = true) : f.d.toNat < 60 := by
  simp only [LaneSh.ok, Bool.and_eq_true] at h
  simpa [FieldKind.ok] using h.2

/-- SELF's selector below 8 lists the components in the order of R59. -/
theorem Index.component_eq_getD (x : Index) {n : Nat} (h : n < 8) :
    x.component n = BitVec.ofNat 32 ([x.x, x.y, x.z, x.lin, x.team, x.fib, x.role, x.level].getD n 0) := by
  interval_cases n <;> rfl

/-- Formats LI and OP 12 that read A, whose result is a function of it. -/
theorem aluI_reads {g : BitVec 4} {w : Bool} {d a : BitVec 6}
    (h : LaneRuns { regs := regOf d ++ regOf a, reads := regOf a, latches := latchOf a } g (rowsOf w d) s c) (hd : d.toNat < 60)
    (op : Word → Word) (hi : exec i s = aluI g w d a true s fun c l => op (c.src a l)) :
    Pushes i s c { regs := regOf d ++ regOf a, reads := regOf a, latches := latchOf a } (c.execMask g) w d (fun l => op (c.src a l))
      s.launches :=
  classA_form (mask := fun c => c.execMask g) h.1 h.2.1 h.2.2 hd (op := fun c l => op (c.src a l)) hi
    fun _ _ R _ hl => congrArg op (R.src a hl)

/-- Those that read no register. -/
theorem aluI_bare {g : BitVec 4} {w : Bool} {d a : BitVec 6} (h : LaneRuns { regs := regOf d } g (rowsOf w d) s c) (hd : d.toNat < 60)
    {x : Word} (hi : exec i s = aluI g w d a false s fun _ _ => x) :
    Pushes i s c { regs := regOf d } (c.execMask g) w d (fun _ => x) s.launches := by
  refine classA_form (mask := fun c => c.execMask g) h.1 h.2.1 h.2.2 hd (op := fun _ _ => x) ?_ fun _ _ _ _ _ => rfl
  rw [hi]
  simp only [aluI, Bool.false_eq_true, if_false, List.append_nil]

/-- Settles O3: every form is a class A form with a row result, whose operands stay as they were while its rows become its own. -/
theorem laneMovesAndImmediates : Obligations.LaneMovesAndImmediates := by
  unfold Obligations.LaneMovesAndImmediates
  intro s c
  refine ⟨fun f ok h => ?mov, fun f h => ⟨fun ok => ?movs, fun ok => ?self, fun ok => ?laneid⟩, fun f ok h => ?imm, fun f ok h => ?movi,
    fun f ok hi hb hr => ?selp, fun f ok h => ?shifts⟩
  case mov => exact aluR_one h (LaneR.dst_lt ok) (op := fun c l => c.src f.a l) rfl fun s1 c1 R l hl => R.src f.a hl
  case movs =>
    exact classA_form (mask := fun c => c.execMask f.g) h.1 h.2.1 h.2.2 (LaneR.dst_lt ok)
      (op := fun c _ => (c.sReg f.a).extractLsb' (32 * f.b.toNat) 32) rfl fun s1 c1 R l _ => by rw [R.sReg]
  case self =>
    have ha : f.a.toNat < 8 := by
      simp only [LaneR.ok, Bool.and_eq_true] at ok
      obtain ⟨⟨-, ha⟩, -⟩ := ok
      simpa [FieldKind.ok] using ha
    simp only [← Index.component_eq_getD _ ha]
    exact classA_form (mask := fun c => c.execMask f.g) h.1 h.2.1 h.2.2 (LaneR.dst_lt ok)
      (op := fun c l => (c.g.index l).component f.a.toNat) rfl fun s1 c1 R l _ => by rw [R.index]
  case laneid =>
    exact classA_form (mask := fun c => c.execMask f.g) h.1 h.2.1 h.2.2 (LaneR.dst_lt ok)
      (op := fun _ l => BitVec.ofNat 32 l) rfl fun _ _ _ _ _ => rfl
  case imm =>
    have hd := LaneI.dst_lt ok
    exact ⟨aluI_reads h hd (· + imm8 f) rfl, aluI_reads h hd (· &&& imm8 f) rfl⟩
  case movi => exact aluI_bare h (LaneI.dst_lt ok) rfl
  case selp =>
    exact classA_form (mask := fun c => c.active) hi hb hr (LaneI.dst_lt ok)
      (op := fun c l => if (c.execMask f.g).getLsbD l then c.src f.a l else imm8 f) rfl
      fun s1 c1 R l hl => by rw [R.execMask, R.src f.a hl]
  case shifts =>
    have hd := LaneSh.dst_lt ok
    exact ⟨aluI_reads h hd (· <<< f.n.toNat) rfl, aluI_reads h hd (· >>> f.n.toNat) rfl,
      aluI_reads h hd (fun x => x.sshiftRight f.n.toNat) rfl, aluI_reads h hd (fun x => x.rotateLeft f.n.toNat) rfl⟩

end Sys2Proof.Machine
end

section
/-! SUPPORT. The end of fibres (R89 to R91): which groups stand, of which team and with which live fibres, under the functions that end
fibres, groups and teams. -/

namespace Sys2Proof.Machine

/-! ### Which groups stand -/

/-- Each group with its team and its live fibres. -/
def State.roll (s : State) : List (Nat × Nat × Word) := s.groups.map fun g => (g.gid, g.tid, g.live)

variable {s t : State} {gid : Nat}

theorem group?_of_roll (s : State) (gid : Nat) :
    (s.group? gid).map (fun g => (g.gid, g.tid, g.live)) = s.roll.find? fun r => r.1 == gid := by
  rw [State.roll, List.find?_map]
  rfl

theorem group?_congr_roll (h : t.roll = s.roll) (gid : Nat) :
    (t.group? gid).map (fun g => (g.gid, g.tid, g.live)) = (s.group? gid).map fun g => (g.gid, g.tid, g.live) := by
  rw [group?_of_roll, group?_of_roll, h]

theorem roll_of_groups (h : t.groups = s.groups) : t.roll = s.roll := by rw [State.roll, h]; rfl

theorem modGroup_roll {f : Group → Group} (h : ∀ g, ((f g).gid, (f g).tid, (f g).live) = (g.gid, g.tid, g.live)) :
    (s.modGroup gid f).roll = s.roll := map_modGroup s gid f _ h

theorem enterTrap_groups {tm : Team} {u v : Sub} {it : TrapItem} (h : enterTrap s tm u it = (t, v)) : t.groups = s.groups := by
  unfold enterTrap at h
  dsimp only at h
  split at h
  · cases h; rfl
  · split at h <;> cases h <;> rfl

theorem trapGroups_roll {n gid u items} : (trapGroups n s gid u items).roll = s.roll := by
  fun_induction trapGroups n s gid u items with
  | case1 | case2 | case3 | case4 => rfl
  | case5 =>
    rename_i ih
    exact ih.trans ((modGroup_roll fun _ => by rfl).trans (roll_of_groups (enterTrap_groups ‹_›)))

theorem trapWith_roll {keep c items rest} : (trapWith keep c s items rest).roll = s.roll := by
  cases items with
  | nil => exact modGroup_roll fun _ => rfl
  | cons it items =>
    unfold trapWith
    dsimp only
    split
    · rfl
    · exact trapGroups_roll.trans (modGroup_roll fun _ => rfl)

theorem checkExhausted_groups {core} : (checkExhausted s core).groups = s.groups := by
  unfold checkExhausted
  dsimp only
  split
  · split <;> rfl
  · rfl

/-! ### Rendezvous and barriers -/

theorem testRendezvous_roll {n pc} : (testRendezvous s gid n pc).roll = s.roll := by
  unfold testRendezvous
  split
  · rfl
  · dsimp only
    split
    · rfl
    · split
      · split
        · split
          · exact modGroup_roll fun _ => rfl
          · rfl
        · split
          · exact trapWith_roll
          · rfl
      · rfl

theorem testMasks_roll : (testMasks s gid).roll = s.roll := by
  refine foldl_keeps State.roll (fun s n => ?_) _ s
  unfold testMask
  split
  · rfl
  · exact foldl_keeps State.roll (fun _ _ => testRendezvous_roll) _ s

theorem endBarWaits_roll {tid n gen} : (endBarWaits s tid n gen).roll = s.roll := by
  unfold endBarWaits State.roll
  rw [List.map_map]
  refine List.map_congr_left fun g _ => ?_
  dsimp only [Function.comp]
  split
  · refine foldl_keeps (fun g : Group => (g.gid, g.tid, g.live)) (fun g u => ?_) _ g
    split
    · split
      · split <;> rfl
      · rfl
    · rfl
  · rfl

theorem testBarrier_roll {tid n} : (testBarrier s tid n).roll = s.roll := by
  unfold testBarrier
  split
  · rfl
  · dsimp only
    split
    · refine endBarWaits_roll.trans ?_
      unfold State.roll
      rw [List.map_map]
      exact List.map_congr_left fun g _ => by dsimp only [Function.comp]; split <;> rfl
    · rfl

theorem testBarriers_roll {tid} : (testBarriers s tid).roll = s.roll := foldl_keeps State.roll (fun _ _ => testBarrier_roll) _ s

/-! ### Groups and teams that end -/

theorem endGroup_groups {g : Group} : (endGroup s g).groups = s.groups.filter fun h => h.gid != g.gid := rfl

theorem group?_endGroup {g : Group} (h : g.gid = gid) : (endGroup s g).group? gid = none := by
  rw [State.group?, endGroup_groups, List.find?_eq_none]
  intro x hx
  simpa [h] using (List.mem_filter.1 hx).2

theorem returnRegions_groups {seq} : (returnRegions s seq).groups = s.groups := by
  unfold returnRegions
  split <;> rfl

theorem localError_groups {p asid handle} : (localError s p asid handle).groups = s.groups := by
  unfold localError
  split <;> rfl

theorem endStash_groups {tm : Team} : (endStash s tm).groups = s.groups := by
  refine foldl_keeps State.groups (fun s q => ?_) _ s
  dsimp only
  split
  · rfl
  · split
    · exact localError_groups
    · exact foldl_keeps State.groups (fun _ _ => by rfl) _ s

theorem keepPublications_groups {tm : Team} : (keepPublications s tm).groups = s.groups := by
  unfold keepPublications
  split <;> rfl

/-- The groups of a team go with it, and no other. -/
theorem endTeam_groups {tid : Nat} {tm : Team} (h : s.team? tid = some tm) : (endTeam s tid).groups = s.groups.filter fun g => g.tid != tm.tid := by
  have hr : ∀ u : State, (returnRegions u tm.seq).groups = u.groups := fun _ => returnRegions_groups
  have h0 : (keepPublications (endStash s tm) tm).groups = s.groups := keepPublications_groups.trans endStash_groups
  unfold endTeam
  simp only [h]
  generalize keepPublications (endStash s tm) tm = s0 at h0
  rw [← h0]
  split
  · split <;> split <;> rfl
  · split <;> rfl
  all_goals split <;> exact returnRegions_groups

theorem endIfEmpty_of_group {tid : Nat} (h : ∃ g ∈ s.groups, g.tid = tid) : endIfEmpty s tid = s := by
  unfold endIfEmpty
  split
  · rfl
  · rw [if_pos]
    simpa using Or.inl h

theorem mem_endIfEmpty {tid : Nat} {g : Group} (h : g ∈ (endIfEmpty s tid).groups) : g ∈ s.groups := by
  unfold endIfEmpty at h
  split at h
  · exact h
  · split at h
    · exact h
    · rw [checkExhausted_groups, endTeam_groups ‹_›] at h
      exact (List.mem_filter.1 h).1

/-! ### Fibres that end -/

theorem and_not_and (x m : Word) : x &&& ~~~(m &&& x) = x &&& ~~~m := by
  refine BitVec.eq_of_getLsbD_eq fun i hi => ?_
  simp only [BitVec.getLsbD_and, BitVec.getLsbD_not, hi, decide_true, Bool.true_and]
  cases x.getLsbD i <;> simp

theorem State.group?_setGroup {g h : Group} (hg : s.group? gid = some g) (hh : h.gid = gid) : (s.setGroup h).group? gid = some h := by
  have hp : ((fun x : Group => x.gid == gid) ∘ fun x => if x.gid == h.gid then h else x) = fun x => x.gid == gid := by
    funext x
    dsimp only [Function.comp]
    split <;> simp_all
  unfold State.group? at hg ⊢
  rw [State.setGroup, List.find?_map, hp, hg]
  have : g.gid = gid := State.group?_gid hg
  simp [this, hh]

/-- What `endFibres` does once the group has lost its fibres: the group ends or its rendezvous are tested, then the team may end. -/
theorem endFibres_eq {m : Word} {g : Group} (hg : s.group? gid = some g) :
    ∃ (s1 : State) (g1 : Group) (core : Nat), s1.group? gid = some g1 ∧ g1.gid = gid ∧ g1.tid = g.tid ∧ g1.live = g.live &&& ~~~m ∧
      endFibres s gid m =
        endIfEmpty (checkExhausted (if g1.live = 0 then testBarriers (endGroup s1 g1) g.tid else testMasks s1 gid) core) g.tid := by
  have hid : g.gid = gid := State.group?_gid hg
  unfold endFibres
  rw [hg]
  refine ⟨_, _, _, ?_, ?_, ?_, ?_, rfl⟩
  rotate_left
  · exact hid
  · rfl
  · exact and_not_and _ _
  · rw [State.group?_modTeam]
    refine State.group?_setGroup (g := g) ((congrArg (List.find? _) ?_).trans hg) hid
    refine (foldl_keeps State.groups (fun _ _ => by rfl) _ _).trans ?_
    split <;> rfl

/-- R89 to R91: the group keeps its other live fibres, or is gone. -/
theorem endFibres_live {m : Word} {g : Group} (hg : s.group? gid = some g) :
    (g.live &&& ~~~m ≠ 0 → ((endFibres s gid m).group? gid).map Group.live = some (g.live &&& ~~~m)) ∧
    (g.live &&& ~~~m = 0 → (endFibres s gid m).group? gid = none) := by
  obtain ⟨s1, g1, core, h1, hid, htid, hlive, he⟩ := endFibres_eq (m := m) hg
  rw [he, ← hlive]
  constructor
  · intro hl
    rw [if_neg hl]
    have hr := group?_congr_roll ((roll_of_groups (checkExhausted_groups (core := core))).trans (testMasks_roll (s := s1) (gid := gid))) gid
    rw [h1] at hr
    obtain ⟨g2, h2, e⟩ := Option.map_eq_some_iff.1 hr
    simp only [Prod.mk.injEq] at e
    obtain ⟨-, etid, elive⟩ := e
    rw [endIfEmpty_of_group ⟨g2, List.mem_of_find?_eq_some h2, etid.trans htid⟩, h2, Option.map_some, elive]
  · intro hl
    rw [if_pos hl]
    have hr := group?_congr_roll ((roll_of_groups (checkExhausted_groups (core := core))).trans
      (testBarriers_roll (s := endGroup s1 g1) (tid := g.tid))) gid
    rw [group?_endGroup hid] at hr
    have hn := Option.map_eq_none_iff.1 hr
    rw [State.group?, List.find?_eq_none] at hn ⊢
    exact fun x hx => hn x (mem_endIfEmpty hx)

/-! ### END and ENDL -/

/-- Orders to end change nothing that may keep fibres from ending. -/
theorem mayEnd_modGroup {core : Nat} {m : Word} {f : Group → Group} (h : ∀ g, ((f g).gid, (f g).tid, (f g).late) = (g.gid, g.tid, g.late)) :
    mayEnd (s.modGroup gid f) core gid m = mayEnd s core gid m := by
  simp only [Prod.mk.injEq, forall_and] at h
  obtain ⟨hgid, htid, hlate⟩ := h
  have hl : lateOf (s.modGroup gid f) gid m = lateOf s gid m := by
    unfold lateOf
    rw [State.group?_modGroup_same s gid f hgid]
    cases s.group? gid with
    | none => rfl
    | some g => simp only [Option.map_some, hlate, State.groupCore, htid, State.team?_modGroup]; rfl
  unfold mayEnd pendingStores
  rw [hl]
  rfl

theorem endActive_next {s : State} {c : Ctx} (hn : NoRecords c) (hm : mayEnd s c.core c.gid c.active = true) :
    endActive c s = .next (endFibres s c.gid c.active) := by
  unfold endActive
  rw [if_pos hm, deliver_none hn]

/-- Where no record of a restored team names an active fibre, none is delivered (R132). -/
theorem restoredItems_nil {c : Ctx} (h : ∀ d ∈ c.t.restored, d.gslot = c.g.gslot → c.active.getLsbD d.lane = false) : restoredItems c = [] := by
  unfold restoredItems
  rw [List.filterMap_eq_nil_iff]
  intro l hl
  rw [Option.map_eq_none_iff, List.find?_eq_none]
  intro d hd hx
  simp only [Bool.and_eq_true, beq_iff_eq] at hx
  obtain ⟨hslot, rfl⟩ := hx
  have := (List.mem_filter.1 hl).2
  rw [h d hd hslot] at this
  cases this

theorem execEndlRemoteStop_next {s : State} {c : Ctx} (hc : s.ctxOf c.gid c.lane = some c) (he : c.u.endPending = true)
    (hp : parkedInTrap c.u = false) (hs : atSwitchPoint s c = true) (hm : mayEnd s c.core c.gid c.active = true)
    (hf : ∀ x ∈ c.g.frag, x.sub &&& c.active = 0) (hn : NoRecords c) (hr : restoredItems c = []) :
    execEndlRemoteStop c.gid c.lane s = .next (endFibres s c.gid c.active) := by
  have hfrag : c.g.frag.find? (fun f => (f.sub &&& c.active) != 0) = none := by
    rw [List.find?_eq_none]
    exact fun x hx => by simp [hf x hx]
  unfold execEndlRemoteStop
  simp only [hc, he, hp, hs, hm, hfrag, hr, deliver_none hn]
  simp

/-- The orders that ENDL gives to the other sub-groups of its group. -/
def orderEnd (c : Ctx) (g : Group) : Group :=
  { g with subs := g.subs.map fun u => if u.mask = c.u.mask then u else { u with endPending := true } }

theorem execEndl_next {s : State} {c : Ctx} {f : UniR} (h : Runs { waitPt := true } f.g s c) (hn : NoRecords c)
    (hm : mayEnd s c.core c.gid c.active = true) :
    execEndl f s = .next (endFibres (s.modGroup c.gid (orderEnd c)) c.gid c.active) := by
  have hm' : mayEnd (s.modGroup c.gid (orderEnd c)) c.core c.gid c.active = true := (mayEnd_modGroup (f := orderEnd c) fun _ => rfl).trans hm
  unfold execEndl
  rw [uniform_runs h, ← endActive_next hn hm']
  simp only [beq_iff_eq]
  rfl

/-- Settles O24: each instruction that ends the fibres is `endFibres`, which leaves the group its other live fibres. -/
theorem endingFibres : Obligations.EndingFibres := by
  unfold Obligations.EndingFibres
  intro s c
  have gone {t : State} {g : Group} (hg : t.group? c.gid = some g) (hl : g.live = c.g.live) := hl ▸ endFibres_live (m := c.active) hg
  refine ⟨fun f h hn hm => ?instructions, fun hc he hp hs hm hf hn hr => ?remote⟩
  case instructions =>
    obtain ⟨-, -, hg, -, -⟩ := State.ctxOf_eq.1 (State.ctx?_ctxOf h.1.1)
    refine ⟨⟨(uniform_runs h _).trans (endActive_next hn hm), gone hg rfl⟩, _, execEndl_next h hn hm, gone (g := orderEnd c c.g) ?_ rfl, rfl⟩
    rw [State.group?_modGroup_same s c.gid (orderEnd c) fun _ => rfl, hg]
    rfl
  case remote =>
    obtain ⟨-, -, hg, -, -⟩ := State.ctxOf_eq.1 hc
    exact ⟨execEndlRemoteStop_next hc he hp hs hm hf hn (restoredItems_nil hr), gone hg rfl⟩

end Sys2Proof.Machine
end

section
/-! SUPPORT. The bytes of a record: the lengths of its fields, and the number that a field stands for (R5). -/

namespace Sys2Proof.Machine

@[simp] theorem natLe_length (n x : Nat) : (natLe n x).length = n := by
  induction n generalizing x with
  | zero => rfl
  | succ n ih => rw [natLe, List.length_cons, ih]

@[simp] theorem zeros_length (n : Nat) : (zeros n).length = n := List.length_replicate ..

theorem leNat_natLe (n x : Nat) : leNat (natLe n x) = x % 256 ^ n := by
  induction n generalizing x with
  | zero => rw [Nat.pow_zero, Nat.mod_one]; rfl
  | succ n ih =>
    have hb : (BitVec.ofNat 8 x).toNat = x % 256 := BitVec.toNat_ofNat ..
    rw [natLe, leNat, ih, hb, Nat.pow_succ', Nat.mod_mul]

/-- Fields of one length `k`, one after the other. -/
theorem length_flatMap_const {α : Type} {l : List α} {f : α → List Byte} {k : Nat} (h : ∀ a ∈ l, (f a).length = k) :
    (l.flatMap f).length = l.length * k := by
  induction l with
  | nil => simp
  | cons a l ih =>
    rw [List.flatMap_cons, List.length_append, h a (List.mem_cons_self ..), ih fun b hb => h b (List.mem_cons_of_mem _ hb), List.length_cons,
      Nat.succ_mul, Nat.add_comm]

@[simp] theorem length_flatMap_natLe {α : Type} (l : List α) (k : Nat) (f : α → Nat) : (l.flatMap fun a => natLe k (f a)).length = l.length * k :=
  length_flatMap_const fun _ _ => natLe_length k _

theorem bitN_eq_testBit (x i : Nat) : bitN x i = x.testBit i := (Nat.testBit_eq_decide_div_mod_eq ..).symm

end Sys2Proof.Machine
end

section
/-! SUPPORT. The issuing sub-group after it has changed. -/

namespace Sys2Proof.Machine

variable {s : State} {c : Ctx}

/-- A sub-group that keeps its lanes is found where it was. -/
theorem Ctx.ctxOf_setSub {u : Sub} (hc : s.ctxOf c.gid c.lane = some c) (hu : u.mask = c.u.mask) :
    (c.setSub s u).ctxOf c.gid c.lane = some { c with g := c.g.setSub c.u.mask u, u := u } := by
  obtain ⟨-, -, hg, hsub, ht⟩ := State.ctxOf_eq.1 hc
  refine State.ctxOf_eq.2 ⟨rfl, rfl, ?_, Group.subAt?_setSub c.g hsub hu, ht⟩
  exact (State.group?_modGroup_same s c.gid (fun g => g.setSub c.u.mask u) fun _ => rfl).trans (by rw [hg]; rfl)

end Sys2Proof.Machine
end

section
/-! SUPPORT. Dawn templates (R67 to R72, R82 to R87): the image record's length, the stores that write it, and what FREEZE, NEST and
FREEZEN do. -/

namespace Sys2Proof.Machine

variable {s : State} {c : Ctx}

/-! ### Stores of an operation -/

theorem slice_drop (bs : List Byte) (a off n : Nat) : slice (bs.drop a) off n = slice bs (a + off) n := by
  rw [slice, slice, List.drop_drop]

/-- Stores added to those in flight. -/
def State.addStores (s : State) (ws : List Store) (next : Nat) : State := { s with stores := s.stores ++ ws, nextStore := next }

theorem State.addStores_addStores (s : State) (ws vs : List Store) (m n : Nat) : (s.addStores ws m).addStores vs n = s.addStores (ws ++ vs) n := by
  simp only [State.addStores, List.append_assoc]

/-- What the stores of an operation's write say: the operation, where and what. -/
def Store.written (st : Store) : Nat × Nat × Nat × Nat × List Byte := (st.agent, st.agentId, st.asid, st.va, st.data)

theorem agentStore_eq (s : State) (agent id core asid va : Nat) (bs : List Byte) :
    ∃ st, agentStore s agent id core asid va bs = s.addStores [st] (s.nextStore + 1) ∧ st.written = (agent, id, asid, va, bs) := ⟨_, rfl, rfl⟩

/-- R334: an operation's write adds stores and changes nothing else; what starts on a line boundary goes out line by line. -/
theorem agentWrite_eq (agent id core asid : Nat) : ∀ (n : Nat) (s : State) (va : Nat) (bs : List Byte), ∃ ws next,
    agentWrite n s agent id core asid va bs = s.addStores ws next ∧
    ∀ j, j ≤ n → va % 128 = 0 → bs.length = 128 * j →
      ws.map Store.written = (List.range j).map fun k => (agent, id, asid, va + 128 * k, slice bs (128 * k) 128)
  | 0, s, va, bs => ⟨[], s.nextStore, by rw [agentWrite, State.addStores, List.append_nil], fun j hj _ _ => by rw [Nat.le_zero.1 hj]; rfl⟩
  | n + 1, s, va, [] => by
    refine ⟨[], s.nextStore, by rw [agentWrite, State.addStores, List.append_nil], fun j _ _ hb => ?_⟩
    obtain rfl : j = 0 := by simpa using hb
    rfl
  | n + 1, s, va, b :: bs => by
    generalize hbs : b :: bs = data
    have hne : data ≠ [] := by rw [← hbs]; nofun
    generalize hk : lineBytes - va % lineBytes = k
    obtain ⟨st, hst, hw⟩ := agentStore_eq s agent id core asid va (data.take k)
    obtain ⟨ws, next, he, hws⟩ := agentWrite_eq agent id core asid n (s.addStores [st] (s.nextStore + 1)) (va + k) (data.drop k)
    refine ⟨st :: ws, next, ?_, fun j hj hva hb => ?_⟩
    · rw [agentWrite, hk, hst, he, State.addStores_addStores]
      · rfl
      · exact hne
    · obtain ⟨i, rfl⟩ := Nat.exists_eq_succ_of_ne_zero (n := j) (by rintro rfl; exact hne (List.length_eq_zero_iff.1 hb))
      obtain rfl : 128 = k := by rw [← hk, show lineBytes = 128 from rfl, hva]
      rw [List.map_cons, hws i (by omega) (by omega) (by rw [List.length_drop]; omega), hw, List.range_succ_eq_map, List.map_cons, List.map_map]
      congr 1
      refine List.map_congr_left fun m _ => ?_
      rw [Function.comp, slice_drop, show va + 128 + 128 * m = va + 128 * m.succ by omega, show 128 + 128 * m = 128 * m.succ by omega]

/-! ### The image record (R69) -/

theorem bankBytes_length (b : Bank) : (bankBytes b).length = 4096 := by
  rw [bankBytes, length_flatMap_natLe, List.length_range]

theorem imageRecord_length (g : Group) (l resume level fresh : Nat) (carried : Nat → Option Bank) :
    (imageRecord g l resume level fresh carried).length = 65536 := by
  simp only [imageRecord, List.length_append, natLe_length, zeros_length, length_flatMap_natLe, List.length_range]
  rw [length_flatMap_const (k := 4096)]
  · rfl
  · intro i _
    split
    · exact bankBytes_length _
    · exact zeros_length _

/-- R222, R223: banks whose entries pass their parity are carried without a report. -/
theorem reportCarried_sound {core : Nat} {carried : Nat → Option Bank} (h : ∀ i b, carried i = some b → b.badEntries = []) :
    reportCarried s core carried = s := by
  refine foldl_keeps id (fun s i => ?_) _ s
  split
  · rw [h i _ ‹_›]; rfl
  · rfl

/-! ### The record's two steps -/

/-- What the instruction leaves that writes the record `bs` of the region `r` (R69): its lines go out as stores from the region's base on, and the
fibre waits for them. -/
structure WritesImage (s t : State) (c : Ctx) (r : Region) (bs : List Byte) : Prop where
  sub : (t.ctxOf c.gid c.lane).map Ctx.u = some { c.u.dropChain with wait := .saving }
  mem : t.mem = s.mem
  regions : ∀ x, (∃ y ∈ s.regions, x = if y.entry = r.entry then { y with written := true } else y) ↔ x ∈ t.regions
  before : t.stores.take s.stores.length = s.stores
  lines : r.base % 128 = 0 → (t.stores.drop s.stores.length).map (fun st => (st.agent, st.agentId, st.asid, st.va, st.data)) =
    (List.range 512).map fun k => (8, r.entry, r.asid, r.base + 128 * k, slice bs (128 * k) 128)

theorem withImage_first {r : Region} {level : Nat} {carried : Nat → Option Bank} (k : Ctx → State → State)
    (hc : s.ctxOf c.gid c.lane = some c) (hw : r.written = false) (hb : ∀ i b, carried i = some b → b.badEntries = []) :
    ∃ t, withImage c s r level carried k = .next t ∧
      WritesImage s t c r (imageRecord c.g (lowestLane c.active) ((c.u.pc + 4) % 2 ^ 55) level s.fresh carried) := by
  unfold withImage
  simp only [hw, Bool.not_false, if_true, reportCarried_sound hb]
  obtain ⟨ws, next, he, hws⟩ := agentWrite_eq 8 r.entry c.core r.asid 513
    (modRegion { s with fresh := s.fresh + 240 } r.entry fun r => { r with written := true }) r.base
    (imageRecord c.g (lowestLane c.active) ((c.u.pc + 4) % Config.maxVa) level s.fresh carried)
  rw [he]
  refine ⟨_, rfl, ?_, rfl, fun x => ?_, List.take_left, fun hbase => ?_⟩
  · refine (congrArg (Option.map Ctx.u) (Ctx.ctxOf_setSub (u := { c.u.dropChain with wait := .saving }) ?_ rfl)).trans rfl
    exact hc
  · show _ ↔ x ∈ s.regions.map _
    simp only [List.mem_map, beq_iff_eq, eq_comm (a := x)]
  · exact (congrArg (List.map Store.written) List.drop_left).trans (hws 512 (by decide) hbase (imageRecord_length ..))

theorem withImage_stored {r : Region} {level : Nat} {carried : Nat → Option Bank} (k : Ctx → State → State) (hw : r.written = true)
    (hs : ∀ st ∈ s.stores, st.agent = 8 → st.agentId ≠ r.entry) (hf : ∀ x ∈ s.fails, x.agent = 8 → x.id ≠ r.entry) :
    withImage c s r level carried k = .next (k c s) := by
  have hbusy : agentBusy s 8 r.entry = false := by
    unfold agentBusy
    rw [List.any_eq_false]
    intro st hst hx
    simp only [Bool.and_eq_true, beq_iff_eq] at hx
    exact hs st hst hx.1 hx.2
  have hno : ∀ x ∈ s.fails, (x.agent == 8 && x.id == r.entry) = false := fun x hx => by
    by_contra hn
    simp only [Bool.not_eq_false, Bool.and_eq_true, beq_iff_eq] at hn
    exact hf x hx hn.1 hn.2
  have hfirst : firstFail s 8 r.entry = none := by
    unfold firstFail
    rw [List.filter_eq_nil_iff.2 fun x hx => by rw [hno x hx]; decide]
    rfl
  have hdrop : dropFails s 8 r.entry = s := by
    unfold dropFails
    rw [List.filter_eq_self.2 fun x hx => by rw [hno x hx]; rfl]
  unfold withImage
  simp only [hw, hbusy, hfirst, hdrop]
  rfl

/-! ### FREEZE (R70 to R72) -/

/-- A lone fibre without calls or loops (R71, R85). -/
def Ctx.Plain (c : Ctx) : Prop := (lanesOf c.active).length = 1 ∧ c.u.calls = [] ∧ c.u.loops = []

theorem Ctx.plain_iff (c : Ctx) :
    c.Plain ↔ (decide ((lanesOf c.active).length ≠ 1) || !c.u.calls.isEmpty || !c.u.loops.isEmpty) = false := by
  simp [Ctx.Plain, and_assoc]

theorem any_ne_zero_eq_false {ws : List Word} : (ws.any fun w => w != 0) = false ↔ ∀ w ∈ ws, w = 0 := by
  simp

variable {f : UniR}

theorem execFreeze_other (h : Runs { waitPt := true, feat := some 0 } f.g s c) (hk : c.t.kind ≠ .dawn) :
    execFreeze f s = trapAll c s 14 := by
  unfold execFreeze
  rw [uniform_runs h]
  dsimp only
  split
  · exact absurd ‹_› hk
  · rfl

theorem execFreeze_unfit (h : Runs { waitPt := true, feat := some 0 } f.g s c) (hp : ¬(c.Plain ∧ ∀ w ∈ c.g.j, w = 0)) :
    execFreeze f s = trapAll c s 14 := by
  rw [Ctx.plain_iff, ← any_ne_zero_eq_false, ← Bool.or_eq_false_iff, Bool.not_eq_false] at hp
  unfold execFreeze
  rw [uniform_runs h]
  dsimp only
  split
  · rw [if_pos hp]; rfl
  · rfl

/-- FREEZE of the dawn fibre writes the record of its region, or freezes it once that is stored. -/
theorem execFreeze_dawn (h : Runs { waitPt := true, feat := some 0 } f.g s c) (hn : NoRecords c) (hp : c.Plain) (hj : ∀ w ∈ c.g.j, w = 0)
    (hk : c.t.kind = .dawn) {L : Launch} {e : Nat} {r : Region} (hL : s.launch? c.t.seq = some L) (he : L.region = some e)
    (hr : s.regions.find? (fun x => x.entry == e) = some r) (hs : pendingStores s c.gid c.active true = false) :
    execFreeze f s =
      withImage c s r 0 (fun i => if (pCb L.pkt).testBit i && (s.bank c.core i).owner == some c.t.tid then some (s.bank c.core i) else none)
        fun c s => endFibres
          (modRegion (s.modLaunch c.t.seq fun L => { L with frozen := true, image := some ⟨r.base, r.asid⟩ }) r.entry fun r => { r with frozen := true })
          c.gid c.active := by
  have hok := (Ctx.plain_iff c).1 hp
  unfold execFreeze
  rw [uniform_runs h]
  simp only [hk, hL, he, Option.bind_some, hr, hok, any_ne_zero_eq_false.2 hj, Bool.or_false, Bool.false_eq_true, if_false, afterStores, hs,
    deliver_none hn, Option.elim_some, bitN_eq_testBit, Bank.ownedBy]

/-! ### NEST (R82 to R84) -/

/-- NEST's operands and its fibre are as R82 and R83 ask. -/
def NestFits (s : State) (c : Ctx) (f : UniR) : Prop :=
  let base := (c.sReg f.a).toNat
  let size := (c.sReg f.b).toNat / 2 ^ 19 * 2 ^ 19
  (lanesOf c.active).length = 1 ∧ c.t.kind ≠ .dawn ∧ c.g.nestOf (lowestLane c.active) = none ∧ c.t.level ≠ 3 ∧ base % 2 ^ 19 = 0 ∧
    (c.sReg f.b).toNat / 2 % 2 ^ 18 = 0 ∧ size ≠ 0 ∧ ∀ r ∈ s.regions, r.asid = c.t.asid.toNat → overlap r.base r.size base size = false

/-- What a fitting NEST does. -/
def nestBody (c : Ctx) (s : State) (f : UniR) : Res :=
  match freeTmpl s with
  | none => stall c s
  | some e => .next (Falls c
      { s with regions := s.regions ++ [⟨e, c.t.asid.toNat, (c.sReg f.a).toNat, (c.sReg f.b).toNat / 2 ^ 19 * 2 ^ 19, (c.sReg f.b).getLsbD 0,
          c.t.seq, false, c.gid, lowestLane c.active, 0, false, true⟩] }
      fun g => { g with nest := g.nest ++ [(lowestLane c.active, e)] })

theorem execNest_cases (h : Runs { feat := some 0 } f.g s c) :
    (NestFits s c f → execNest f s = nestBody c s f) ∧ (¬NestFits s c f → execNest f s = trapAll c s 14) := by
  have hsize : bitsN (c.sReg f.b).toNat 63 19 = (c.sReg f.b).toNat / 2 ^ 19 := by
    have := (c.sReg f.b).isLt
    unfold bitsN
    omega
  have hcow : bitN (c.sReg f.b).toNat 0 = (c.sReg f.b).getLsbD 0 := bitN_eq_testBit ..
  have hlow : bitsN (c.sReg f.b).toNat 18 1 = (c.sReg f.b).toNat / 2 % 2 ^ 18 := rfl
  unfold execNest NestFits nestBody
  rw [uniform_runs h]
  dsimp only
  rw [hsize, hcow, hlow]
  constructor
  · rintro ⟨hone, hkind, hnest, hlevel, hbase, hbits, hpos, hfree⟩
    rw [if_neg (by simp [hone, hkind, hnest, hlevel]),
      if_neg (by simpa only [Bool.or_eq_true, decide_eq_true_eq, not_or, not_not] using ⟨⟨hbase, hbits⟩, hpos⟩), if_neg (by simpa using hfree)]
    cases freeTmpl s <;> rfl
  · intro hn
    split
    · rfl
    · split
      · rfl
      · split
        · rfl
        · rename_i hfibre hoperands hoverlap
          simp only [Bool.or_eq_true, decide_eq_true_eq, beq_iff_eq, not_or, not_not, Option.not_isSome_iff_eq_none] at hfibre hoperands
          obtain ⟨⟨⟨hone, hkind⟩, hnest⟩, hlevel⟩ := hfibre
          obtain ⟨⟨hbase, hbits⟩, hpos⟩ := hoperands
          exact absurd ⟨hone, hkind, hnest, hlevel, hbase, hbits, hpos, by simpa using hoverlap⟩ hn

theorem freeTmpl_eq_some {e : Nat} (he : e < 64) (hfree : ∀ r ∈ s.regions, r.entry ≠ e) (hlow : ∀ k < e, ∃ r ∈ s.regions, r.entry = k) :
    freeTmpl s = some e := by
  unfold freeTmpl
  cases hf : firstFrom (fun e => !s.regions.any fun r => r.entry == e) 0 Config.tmplEntries with
  | none =>
    have := firstFrom_none.1 hf e (Nat.zero_le _) (by simpa [Config.tmplEntries] using he)
    simp only [Bool.not_eq_false', List.any_eq_true, beq_iff_eq] at this
    obtain ⟨r, hr, hre⟩ := this
    exact absurd hre (hfree r hr)
  | some i =>
    obtain ⟨-, -, hi, hbefore⟩ := firstFrom_some hf
    simp only [Bool.not_eq_true', List.any_eq_false, beq_iff_eq] at hi
    rcases Nat.lt_trichotomy i e with hlt | rfl | hgt
    · obtain ⟨r, hr, hre⟩ := hlow i hlt
      exact absurd hre (hi r hr)
    · rfl
    · have := hbefore e (Nat.zero_le _) hgt
      simp only [Bool.not_eq_false', List.any_eq_true, beq_iff_eq] at this
      obtain ⟨r, hr, hre⟩ := this
      exact absurd hre (hfree r hr)

theorem freeTmpl_eq_none (h : ∀ e < 64, ∃ r ∈ s.regions, r.entry = e) : freeTmpl s = none := by
  refine firstFrom_none.2 fun e _ he => ?_
  obtain ⟨r, hr, hre⟩ := h e (by simpa [Config.tmplEntries] using he)
  simpa using ⟨r, hr, hre⟩

/-! ### FREEZEN (R85 to R87) -/

theorem execFreezen_closed (h : Runs { waitPt := true, feat := some 0 } f.g s c) (hn : c.g.nestOf (lowestLane c.active) = none) :
    execFreezen f s = trapAll c s 14 := by
  unfold execFreezen
  rw [uniform_runs h]
  simp only [hn, Option.bind_none]
  rfl

variable {e : Nat} {r : Region}

theorem execFreezen_unfit (h : Runs { waitPt := true, feat := some 0 } f.g s c) (hn : c.g.nestOf (lowestLane c.active) = some e)
    (hr : s.regions.find? (fun x => x.entry == e) = some r)
    (hp : ¬c.Plain ∨ 65536 < (c.sReg f.a).toNat ∨ gangLaunch s c.t.seq = true) : execFreezen f s = trapAll c s 14 := by
  rw [Ctx.plain_iff, Bool.not_eq_false] at hp
  unfold execFreezen
  rw [uniform_runs h]
  simp only [hn, Option.bind_some, hr]
  rw [if_pos]
  · rfl
  · simpa only [Bool.or_eq_true, decide_eq_true_eq, or_assoc] using hp

/-- FREEZEN of a fibre without stores or tile work in flight writes the record of its region, or stamps a child grid once that is stored. -/
theorem execFreezen_open (h : Runs { waitPt := true, feat := some 0 } f.g s c) (hn : NoRecords c)
    (hnest : c.g.nestOf (lowestLane c.active) = some e) (hr : s.regions.find? (fun x => x.entry == e) = some r) (hp : c.Plain)
    (hcount : (c.sReg f.a).toNat ≤ 65536) (hgang : gangLaunch s c.t.seq = false) (hm : mayEnd s c.core c.gid c.active = true) :
    execFreezen f s = withImage c s r (c.t.level + 1) (fun _ => none) fun c' s => stamp c' s r (lowestLane c.active) (c.sReg f.a).toNat := by
  have hok := (Ctx.plain_iff c).1 hp
  simp only [mayEnd, Bool.and_eq_true, Bool.not_eq_true'] at hm
  obtain ⟨hstores, htile⟩ := hm
  unfold execFreezen
  rw [uniform_runs h]
  simp only [hnest, Option.bind_some, hr, hok, hgang, decide_eq_false (Nat.not_lt.2 hcount), Bool.or_false, Bool.false_eq_true, if_false,
    afterStores, hstores, deliver_none hn, htile]

/-- What stamping changes before the fibre ends (R85, R86). -/
theorem stamp_eq {lane count : Nat} :
    let kid : ChildGrid := ⟨s.nextChild, count, c.t.level + 1, 0, 0, r.entry, ⟨r.base, r.asid⟩⟩
    let t1 : State := { s with
      nextChild := s.nextChild + 1
      launches := s.launches.map fun x => if x.seq = c.t.seq then { x with children := x.children ++ [kid] } else x
      regions := s.regions.map fun x => if x.entry = r.entry then { x with frozen := true, child := s.nextChild } else x
      groups := s.groups.map fun g => if g.gid = c.gid then { g with nest := g.nest.filter fun q => q.1 != lane } else g }
    let t2 : State := if s.launch? c.t.seq = none then { t1 with regions := t1.regions.filter fun x => x.entry != r.entry } else t1
    stamp c s r lane count = returnRegions (endFibres t2 c.gid c.active) c.t.seq := by
  intro kid t1 t2
  unfold stamp
  simp only [State.modLaunch, modRegion, State.modGroup, beq_iff_eq, t2, t1, kid]
  cases hL : s.launch? c.t.seq with
  | none => simp
  | some L => simp

/-- Settles O27: each instruction runs as its lemma says, in the cases that the state distinguishes. -/
theorem dawnTemplates : Obligations.DawnTemplates := by
  unfold Obligations.DawnTemplates
  intro s c f
  dsimp only
  refine ⟨fun h hn => ⟨execFreeze_other h, execFreeze_unfit h, ?freeze, execFreezen_closed h, ?freezen⟩, fun h => ?nest⟩
  case freeze =>
    intro L e r hp hj hk hL he hr hs
    obtain rfl : r.entry = e := by simpa using List.find?_some hr
    have hrun := execFreeze_dawn h hn hp hj hk hL he hr hs
    refine ⟨fun hw hb => ?_, fun hw ⟨hst, hfail⟩ => ?_⟩
    · obtain ⟨t, ht, w⟩ := withImage_first (fun c s => endFibres (modRegion (s.modLaunch c.t.seq fun L =>
        { L with frozen := true, image := some ⟨r.base, r.asid⟩ }) r.entry fun r => { r with frozen := true }) c.gid c.active)
        (State.ctx?_ctxOf h.1.1) hw hb
      exact ⟨t, hrun.trans ht, w.sub, w.mem, w.regions, w.before, w.lines⟩
    · refine hrun.trans ((withImage_stored _ hw hst hfail).trans ?_)
      simp only [State.modLaunch, modRegion, beq_iff_eq]
  case freezen =>
    intro e r hnest hr
    obtain rfl : r.entry = e := by simpa using List.find?_some hr
    refine ⟨execFreezen_unfit h hnest hr, fun hp hcount hgang hm => ?_⟩
    have hrun := execFreezen_open h hn hnest hr hp hcount hgang hm
    refine ⟨fun hw => ?_, fun hw ⟨hst, hfail⟩ => ?_⟩
    · obtain ⟨t, ht, w⟩ := withImage_first (fun c' s => stamp c' s r (lowestLane c.active) (c.sReg f.a).toNat)
        (level := c.t.level + 1) (carried := fun _ => none) (State.ctx?_ctxOf h.1.1) hw nofun
      exact ⟨t, hrun.trans ht, w.sub, w.mem, w.regions, w.before, w.lines⟩
    · exact hrun.trans ((withImage_stored _ hw hst hfail).trans (congrArg Host.Outcome.next stamp_eq))
  case nest =>
    obtain ⟨hfits, hunfit⟩ := execNest_cases h
    refine ⟨hunfit, fun hf e he hfree hlow => ?_, fun hf hall => ?_⟩
    · refine (hfits hf).trans ?_
      rw [nestBody, freeTmpl_eq_some he hfree hlow]
    · refine (hfits hf).trans ?_
      rw [nestBody, freeTmpl_eq_none hall]
      rfl

end Sys2Proof.Machine
end

section
/-! SUPPORT. Spawning (R62 to R66): the bins of a core, what SPAWN leaves in them and the group that a bin forms. -/

namespace Sys2Proof.Machine

/-! ### A core's state after a change of it -/

theorem NMap.erase_insert_same {β : Type} (k : Nat) (v : β) (m : NMap β) : NMap.erase k (NMap.insert k v m) = NMap.erase k m := by
  induction m with
  | nil => simp [NMap.insert, NMap.erase]
  | cons x m ih =>
    unfold NMap.insert
    split
    · simp [NMap.erase]
    · simp only [NMap.erase, ih]

theorem NMap.erase_erase {β : Type} (k : Nat) (m : NMap β) : NMap.erase k (NMap.erase k m) = NMap.erase k m := by
  induction m with
  | nil => rfl
  | cons x m ih => by_cases h : x.1 = k <;> simp [NMap.erase, h, ih]

theorem NMap.erase_set {β : Type} [DecidableEq β] (d : β) (k : Nat) (v : β) (m : NMap β) : NMap.erase k (NMap.set d k v m) = NMap.erase k m := by
  unfold NMap.set
  split
  · exact NMap.erase_erase k m
  · rw [NMap.erase_insert_same, NMap.erase_erase]

theorem NMap.set_set {β : Type} [DecidableEq β] (d : β) (k : Nat) (v w : β) (m : NMap β) :
    NMap.set d k w (NMap.set d k v m) = NMap.set d k w m := by
  rw [NMap.set, NMap.erase_set]
  rfl

@[simp] theorem State.core_modCore_same (s : State) (n : Nat) (f : CoreSt → CoreSt) : (s.modCore n f).core n = f (s.core n) :=
  NMap.get_set_same _ _ _ _

/-! ### The bins of a core -/

variable {s : State} {core : Nat}

@[simp] theorem bins_setBins (bs : List Bin) : ((setBins s core bs).core core).bins = bs :=
  congrArg CoreSt.bins (State.core_modCore_same _ _ _)

@[simp] theorem setBins_setBins (a b : List Bin) : setBins (setBins s core a) core b = setBins s core b := by
  simp only [setBins, State.modCore, State.setCore, State.core, NMap.get_set_same, NMap.set_set]

theorem replaceBin_setBins (bs : List Bin) (b : Bin) : replaceBin (setBins s core bs) core b =
    setBins s core (bs.map fun x => if x.tid == b.tid && x.gslot == b.gslot then b else x) := by
  simp [replaceBin]

/-- A bin's place, its team and group slot, is another's. -/
def Bin.apart (b x : Bin) : Prop := (x.tid == b.tid && x.gslot == b.gslot) = false

/-- The bin that stands last is the one of its place. -/
theorem replaceBin_last {bs : List Bin} {b b' : Bin} (h : ∀ x ∈ bs, b'.apart x) (ht : b.tid = b'.tid) (hg : b.gslot = b'.gslot) :
    replaceBin (setBins s core (bs ++ [b])) core b' = setBins s core (bs ++ [b']) := by
  rw [replaceBin_setBins, List.map_append]
  congr 2
  · refine (List.map_congr_left fun x hx => ?_).trans (List.map_id' bs)
    rw [h x hx]; rfl
  · simp [ht, hg]

/-! ### SPAWN into a new bin (R62, R65) -/

/-- The bin that `n` fibres spawned with one argument make, in an empty slot. -/
def spawnedBin (s : State) (t : Team) (role entry slot : Nat) (arg : Word) (src : Index) (n : Nat) : Bin :=
  ⟨t.tid, role, entry, slot, (List.range n).map fun k => ⟨arg, k, { src with role := role, fib := 32 * slot + k }⟩,
    s.cycles + binPeriod s t.core, false⟩

theorem spawnedBin_succ (s : State) (t : Team) (role entry slot : Nat) (arg : Word) (src : Index) (n : Nat) :
    spawnedBin s t role entry slot arg src (n + 1) = { spawnedBin s t role entry slot arg src n with
      fibs := (spawnedBin s t role entry slot arg src n).fibs ++ [⟨arg, n, { src with role := role, fib := 32 * slot + n }⟩] } := by
  simp [spawnedBin, List.range_succ]

variable {t : Team} {role entry slot : Nat} {arg : Word} {src : Index}

theorem spawnSlots_apart (hs : (spawnSlots s t role).head? = some slot) {x : Bin} (hx : x ∈ (s.core t.core).bins) :
    (x.tid == t.tid && x.gslot == slot) = false := by
  have := List.mem_of_head? hs
  simp only [spawnSlots, List.mem_filter, Bool.and_eq_true, Bool.not_eq_true', List.any_eq_false] at this
  simpa using this.2.2 x hx

theorem openKeyed_nil {bs : List Bin} (hk : ∀ b ∈ bs, b.keyed t.tid role entry = false) :
    (bs.filter fun b => b.keyed t.tid role entry && b.isOpen) = [] := by
  rw [List.filter_eq_nil_iff]
  intro b hb
  simp [hk b hb]

/-- The first fibre of a key takes the first empty slot. -/
theorem spawnOne_first (hk : ∀ b ∈ (s.core t.core).bins, b.keyed t.tid role entry = false)
    (hs : (spawnSlots s t role).head? = some slot) :
    spawnOne s t role entry arg 0 src = setBins s t.core ((s.core t.core).bins ++ [spawnedBin s t role entry slot arg src 1]) := by
  unfold spawnOne
  simp [openKeyed_nil hk, hs, spawnedBin]

/-- The next fibre of a key joins the open bin. -/
theorem spawnOne_next {n : Nat} (hn : n + 1 < 32) {bs : List Bin} (hk : ∀ b ∈ bs, b.keyed t.tid role entry = false)
    (ha : ∀ x ∈ bs, (x.tid == t.tid && x.gslot == slot) = false) :
    spawnOne (setBins s t.core (bs ++ [spawnedBin s t role entry slot arg src n])) t role entry arg n src =
      setBins s t.core (bs ++ [spawnedBin s t role entry slot arg src (n + 1)]) := by
  have hopen : (bs ++ [spawnedBin s t role entry slot arg src n]).filter (fun b => b.keyed t.tid role entry && b.isOpen) =
      [spawnedBin s t role entry slot arg src n] := by
    rw [List.filter_append, openKeyed_nil hk]
    simp [spawnedBin, Bin.keyed, Bin.isOpen]
    omega
  have hlen : (spawnedBin s t role entry slot arg src n).fibs.length = n := by simp [spawnedBin]
  unfold spawnOne
  simp only [bins_setBins, hopen, List.foldl_cons, List.foldl_nil, hlen, Bool.false_eq_true, if_false]
  rw [if_neg (by simp [hlen]; omega), spawnedBin_succ]
  exact replaceBin_last ha rfl rfl

/-- What `n` fibres of a new key leave. -/
theorem spawnOne_fold (ht : s.team? t.tid = some t) (hk : ∀ b ∈ (s.core t.core).bins, b.keyed t.tid role entry = false)
    (hs : (spawnSlots s t role).head? = some slot) {n : Nat} (h0 : 0 < n) (h32 : n < 32) :
    (List.range n).foldl (fun s i => spawnOne s ((s.team? t.tid).getD t) role entry arg i src) s =
      setBins s t.core ((s.core t.core).bins ++ [spawnedBin s t role entry slot arg src n]) := by
  induction n, h0 using Nat.le_induction with
  | base => simp [ht, spawnOne_first hk hs]
  | succ n h1 ih =>
    have hteam (bs : List Bin) : (setBins s t.core bs).team? t.tid = some t := ht
    rw [List.range_succ, List.foldl_append, ih (by omega)]
    simpa [hteam] using spawnOne_next h32 hk fun x hx => spawnSlots_apart hs hx

/-! ### The group of a bin (R61, R63) -/

theorem maskFold (p : Nat → Bool) (n : Nat) :
    (List.range n).foldl (fun a l => if p l then a + 2 ^ l else a) 0 < 2 ^ n ∧
      ∀ l, ((List.range n).foldl (fun a l => if p l then a + 2 ^ l else a) 0).testBit l = (decide (l < n) && p l) := by
  induction n with
  | zero => simp
  | succ n ih =>
    obtain ⟨hlt, hbit⟩ := ih
    rw [List.range_succ, List.foldl_append, List.foldl_cons, List.foldl_nil]
    generalize (List.range n).foldl (fun a l => if p l then a + 2 ^ l else a) 0 = x at hlt hbit
    have hstep (l : Nat) (h : l ≠ n) : decide (l < n + 1) = decide (l < n) := by simp; omega
    by_cases hp : p n = true
    · rw [if_pos hp]
      refine ⟨by omega, fun l => ?_⟩
      rw [Nat.add_comm x]
      rcases lt_trichotomy l n with h | rfl | h
      · rw [Nat.testBit_two_pow_add_gt h, hbit, hstep l h.ne]
      · simp [Nat.testBit_two_pow_add_eq, hbit, hp]
      · have : 2 ^ (n + 1) ≤ 2 ^ l := Nat.pow_le_pow_right (by decide) h
        rw [Nat.testBit_lt_two_pow (by omega), decide_eq_false (by omega), Bool.false_and]
    · rw [if_neg hp]
      refine ⟨by omega, fun l => ?_⟩
      rw [hbit]
      by_cases h : l = n
      · simp [h, hp]
      · rw [hstep l h]

theorem getLsbD_maskOf (p : Nat → Bool) {l : Nat} (hl : l < 32) : (maskOf p).getLsbD l = p l := by
  rw [maskOf, BitVec.getLsbD_ofNat, (maskFold p 32).2]
  simp [hl]

/-- The group that `formGroup` makes. -/
def formedGroup (s : State) (t : Team) (gslot role : Nat) (live : Word) (idx : List Index) (st : Start) : Group :=
  newGroup s.nextGid t.tid gslot role (((t.roles[role]?).map (·.win)).getD 60) live idx st (newSub st.pc live
    (if isService t.core then (match t.kind with | .service _ => 1 | _ => 0) else (s.freeSlot t.core).getD 0) (s.issueFor t.core))

section
variable {gslot : Nat} {live : Word} {idx : List Index} {st : Start}

theorem formGroup_groups : (formGroup s t gslot role live idx st).groups = s.groups ++ [formedGroup s t gslot role live idx st] :=
  foldl_keeps State.groups (fun _ _ => by rfl) _ _

theorem formGroup_cores : (formGroup s t gslot role live idx st).cores = s.cores := foldl_keeps State.cores (fun _ _ => by rfl) _ _

theorem formGroup_mem : (formGroup s t gslot role live idx st).mem = s.mem := foldl_keeps State.mem (fun _ _ => by rfl) _ _

end

/-- A group without an image has its own rows. -/
theorem privatise_plain {gid : Nat} {g : Group} (hg : s.group? gid = some g) (hi : g.img = none) (rows : List Nat) (m : Word) :
    privatise gid s rows m = some s := by
  unfold privatise
  simp only [hg, hi]

theorem group?_append {gs : List Group} {g : Group} (hs : s.groups = gs ++ [g]) (hgs : ∀ h ∈ gs, h.gid ≠ g.gid) : s.group? g.gid = some g := by
  rw [State.group?, hs, List.find?_append, List.find?_eq_none.2 (by simpa using hgs)]
  simp

theorem modGroup_append {gs : List Group} {g : Group} (hs : s.groups = gs ++ [g]) (hgs : ∀ h ∈ gs, h.gid ≠ g.gid) (f : Group → Group) :
    (s.modGroup g.gid f).groups = gs ++ [f g] := by
  simp only [State.modGroup, hs, List.map_append]
  congr 1
  · refine (List.map_congr_left fun x hx => ?_).trans (List.map_id' gs)
    simp [hgs x hx]
  · simp

/-- What the group of a bin starts with where the team has no image (R61). -/
def plainStart (s : State) (t : Team) (entry : Nat) : Start :=
  { pc := entry, pred := 0, s := NMap.set 0 0 (BitVec.ofNat 64 (match s.launch? t.seq with | some L => L.pktVa | none => 0)) [], k := 0, img := none }

theorem binStart_plain (hi : t.image = none) : binStart s t entry = (s, some (plainStart s t entry)) := by
  unfold binStart
  simp only [hi]
  rfl

/-- The live lanes of a bin's group. -/
def Bin.live (b : Bin) : Word := maskOf fun l => decide (l < b.fibs.length)

/-- The rows 0 and 1 of a bin's group: arguments and ordinals (R61). -/
def Bin.fill (b : Bin) (g : Group) : Group :=
  (g.setRow 0 b.live fun l => ((b.fibs[l]?).map (·.arg)).getD 0).setRow 1 b.live fun l => BitVec.ofNat 32 (((b.fibs[l]?).map (·.ord)).getD 0)

/-- The group of a bin before its rows are filled. -/
def Bin.group (b : Bin) (s : State) (t : Team) : Group :=
  formedGroup s t b.gslot b.role b.live ((List.range 32).map fun l => ((b.fibs[l]?).map (·.idx)).getD noIndex) (plainStart s t b.entry)

/-- The state in which that group stands. -/
def Bin.formed (b : Bin) (s : State) (t : Team) : State :=
  (formGroup s t b.gslot b.role b.live ((List.range 32).map fun l => ((b.fibs[l]?).map (·.idx)).getD noIndex) (plainStart s t b.entry)).modTeam
    t.tid fun t => { t with slotRegs := t.slotRegs ||| (1#32 <<< b.gslot) }

theorem Bin.formed_groups (b : Bin) : (b.formed s t).groups = s.groups ++ [b.group s t] := formGroup_groups

theorem Bin.lane_fill {b : Bin} {g : Group} (hi : g.img = none) {l : Nat} (h32 : l < 32) (hl : l < b.fibs.length) :
    (b.fill g).lane 0 l = ((b.fibs[l]?).map (·.arg)).getD 0 ∧ (b.fill g).lane 1 l = BitVec.ofNat 32 (((b.fibs[l]?).map (·.ord)).getD 0) := by
  have hlive : b.live.getLsbD l = true := by rw [Bin.live, getLsbD_maskOf _ h32]; simpa using hl
  have hrow {g : Group} (hi : g.img = none) (d r : Nat) (f : Nat → Word) :
      (g.setRow d b.live f).lane r l = if r = d then f l else g.lane r l := by
    rw [Group.lane_setRow _ _ _ h32 (Or.inl (Or.inl hi))]
    simp [hlive]
  unfold Bin.fill
  rw [hrow (g := g.setRow 0 _ _) hi, hrow (g := g.setRow 0 _ _) hi, hrow hi]
  exact ⟨rfl, rfl⟩

/-- The bin, closed. -/
def Bin.close (b : Bin) : Bin := { b with full := true }

theorem closeBin_eq (b : Bin) : closeBin s core b = (formBin (replaceBin s core b.close) core b.close).getD (replaceBin s core b.close) := rfl

/-- The state after a bin has formed its group: the bin is gone. -/
def Bin.done (b : Bin) (s : State) (core : Nat) (t : Team) : State :=
  setBins ((b.formed s t).modGroup s.nextGid b.fill) core ((s.core core).bins.filter fun x => !(x.tid == b.tid && x.gslot == b.gslot))

/-- A bin of a team without an image forms its group where a physical slot and its registers are to be had. -/
theorem formBin_plain {b : Bin} (ht : s.team? b.tid = some t) (hi : t.image = none) (hc : t.closed = false)
    (hf : s.groupFreeFor core t.seq ≠ 0) (hs : (s.freeSlot core).isSome) (hr : t.slotRegs.getLsbD b.gslot = true)
    (hg : ∀ g ∈ s.groups, g.gid < s.nextGid) : formBin s core b = some (b.done s core t) := by
  have hslot : (s.freeSlot core).isNone = false := by simpa using hs
  have hfound : (b.formed s t).group? s.nextGid = some (b.group s t) :=
    group?_append (b.formed_groups) fun h hh => (hg h hh).ne
  have hpriv := privatise_plain hfound rfl [0, 1] b.live
  have hcores : ((b.formed s t).modGroup s.nextGid b.fill).core core = s.core core := congrArg (NMap.get _ _) formGroup_cores
  unfold formBin
  simp only [ht, hi, hc, hf, hslot, hr, binStart_plain hi]
  simp only [Option.isSome_none, Bool.false_and, Bool.or_true, Bool.true_or, Bool.not_true, decide_false, Bool.or_false, Bool.false_eq_true, if_false]
  unfold Bin.formed Bin.live at hpriv
  rw [hpriv]
  simp only [Bin.done, ← hcores]
  rfl

theorem Bin.done_groups {b : Bin} (hg : ∀ g ∈ s.groups, g.gid < s.nextGid) :
    (b.done s core t).groups = s.groups ++ [b.fill (b.group s t)] :=
  modGroup_append b.formed_groups (fun h hh => (hg h hh).ne) b.fill

theorem Bin.done_mem (b : Bin) : (b.done s core t).mem = s.mem := formGroup_mem

theorem Bin.done_bins (b : Bin) :
    ((b.done s core t).core core).bins = (s.core core).bins.filter fun x => !(x.tid == b.tid && x.gslot == b.gslot) := bins_setBins _

theorem Bin.apart_filter {bs : List Bin} {b : Bin} (h : ∀ x ∈ bs, (x.tid == b.tid && x.gslot == b.gslot) = false) :
    (bs ++ [b]).filter (fun x => !(x.tid == b.tid && x.gslot == b.gslot)) = bs := by
  rw [List.filter_append, List.filter_eq_self.2 fun x hx => by rw [h x hx]; rfl]
  simp

/-! ### SPAWN and SPAWNF (R65) -/

theorem targetOk_iff (x : DWord) : targetOk x = true ↔ x.toNat % 4 = 0 ∧ x.toNat < 2 ^ 55 := by
  have := x.isLt
  simp only [targetOk, Bool.and_eq_true, beq_iff_eq, ← BitVec.toNat_inj, BitVec.extractLsb'_toNat, BitVec.ofNat_eq_ofNat, BitVec.toNat_ofNat,
    Nat.shiftRight_eq_div_pow]
  omega

section
variable {c : Ctx} {f : UniR} {i : Bool}

/-- The bin that SPAWN makes where its key has none. -/
def Ctx.spawned (c : Ctx) (s : State) (f : UniR) (slot : Nat) : Bin :=
  spawnedBin s c.t c.g.role (c.sReg f.a).toNat slot (BitVec.ofNat 32 (bitsN (c.sReg f.b).toNat 63 32)) (c.g.index (lowestLane c.active))
    (bitsN (c.sReg f.b).toNat 15 0)

theorem spawnWith_trap (h : Runs {} f.g s c) (ht : targetOk (c.sReg f.a) = false) : spawnWith i f s = trapAll c s cILLEGAL := by
  unfold spawnWith
  rw [uniform_runs h]
  simp [ht]

theorem Ctx.team?_tid {gid lane : Nat} (h : s.ctxOf gid lane = some c) : s.team? c.t.tid = some c.t := by
  obtain ⟨-, -, -, -, ht⟩ := State.ctxOf_eq.1 h
  rwa [State.team?_tid ht]

/-- SPAWN and SPAWNF of a key without a bin. -/
theorem spawnWith_new (h : Runs {} f.g s c) (ht : targetOk (c.sReg f.a) = true) (h0 : 0 < bitsN (c.sReg f.b).toNat 15 0)
    (h32 : bitsN (c.sReg f.b).toNat 15 0 < 32) (hs : (spawnSlots s c.t c.g.role).head? = some slot)
    (hroom : (s.core c.core).bins.length < Config.binsPerCore)
    (hk : ∀ b ∈ (s.core c.core).bins, b.keyed c.t.tid c.g.role (c.sReg f.a).toNat = false) :
    spawnWith i f s = .next (Falls c (if i then closeBin (setBins s c.core ((s.core c.core).bins ++ [c.spawned s f slot])) c.core (c.spawned s f slot)
      else setBins s c.core ((s.core c.core).bins ++ [c.spawned s f slot])) fun g => g.setS f.d.toNat (BitVec.ofNat 64 (bitsN (c.sReg f.b).toNat 15 0))) := by
  have hslots : 0 < (spawnSlots s c.t c.g.role).length := List.length_pos_of_mem (List.mem_of_head? hs)
  have hfold : (List.range (bitsN (c.sReg f.b).toNat 15 0)).foldl (fun s i => spawnOne s ((s.team? c.t.tid).getD c.t) c.g.role (c.sReg f.a).toNat
      (BitVec.ofNat 32 (bitsN (c.sReg f.b).toNat 63 32)) i (c.g.index (lowestLane c.active))) s =
      setBins s c.core ((s.core c.core).bins ++ [c.spawned s f slot]) :=
    spawnOne_fold (Ctx.team?_tid (State.ctx?_ctxOf h.1.1)) hk hs h0 h32
  have hfilter : (((s.core c.core).bins ++ [c.spawned s f slot]).filter fun b => b.keyed c.t.tid c.g.role (c.sReg f.a).toNat && !b.full) =
      [c.spawned s f slot] := by
    rw [List.filter_append, List.filter_eq_nil_iff.2 fun b hb => by simp [hk b hb]]
    simp [Ctx.spawned, spawnedBin, Bin.keyed]
  unfold spawnWith
  rw [uniform_runs h]
  dsimp only
  have hroom32 : 32 ≤ openRoom s c.t c.g.role (c.sReg f.a).toNat +
      32 * min (spawnSlots s c.t c.g.role).length (Config.binsPerCore - (s.core c.core).bins.length) := by omega
  generalize openRoom s c.t c.g.role (c.sReg f.a).toNat + 32 * min _ _ = room at hroom32
  have hm : min (bitsN (c.sReg f.b).toNat 15 0) room = bitsN (c.sReg f.b).toNat 15 0 := by omega
  have hst : (room = 0) = False := by simp; omega
  rw [hm, hfold]
  simp only [ht, hst, Bool.not_true, Bool.false_eq_true, if_false, decide_false, Bool.and_false, Bool.false_and]
  cases i with
  | false => rfl
  | true =>
    simp only [if_true]
    rw [bins_setBins, hfilter]
    rfl

/-- SPAWNF closes the bin, and the bin forms its group at once where it can (R63). -/
theorem closeBin_spawned (ht : s.team? c.t.tid = some c.t) (hs : (spawnSlots s c.t c.g.role).head? = some slot)
    (hi : c.t.image = none) (hc : c.t.closed = false) (hf : s.groupFreeFor c.core c.t.seq ≠ 0) (hfree : (s.freeSlot c.core).isSome)
    (hr : c.t.slotRegs.getLsbD slot = true) (hg : ∀ g ∈ s.groups, g.gid < s.nextGid) :
    closeBin (setBins s c.core ((s.core c.core).bins ++ [c.spawned s f slot])) c.core (c.spawned s f slot) =
      (c.spawned s f slot).close.done (setBins s c.core ((s.core c.core).bins ++ [(c.spawned s f slot).close])) c.core c.t := by
  have hlast : replaceBin (setBins s c.core ((s.core c.core).bins ++ [c.spawned s f slot])) c.core (c.spawned s f slot).close =
      setBins s c.core ((s.core c.core).bins ++ [(c.spawned s f slot).close]) :=
    replaceBin_last (fun x hx => spawnSlots_apart hs hx) rfl rfl
  rw [closeBin_eq, hlast,
    formBin_plain (b := (c.spawned s f slot).close) (s := setBins s c.core ((s.core c.core).bins ++ [(c.spawned s f slot).close]))
      ht hi hc hf hfree hr hg, Option.getD_some]

theorem done_spawned_bins (hs : (spawnSlots s c.t c.g.role).head? = some slot) :
    (((c.spawned s f slot).close.done (setBins s c.core ((s.core c.core).bins ++ [(c.spawned s f slot).close])) c.core c.t).core c.core).bins =
      (s.core c.core).bins := by
  rw [Bin.done_bins, bins_setBins]
  exact Bin.apart_filter fun x hx => spawnSlots_apart hs hx

theorem Falls_groups_length {h : Group → Group} : (Falls c s h).groups.length = s.groups.length := by
  simp [Falls, Ctx.setSub, State.modGroup]

theorem Falls_group?_same {g : Group} {h : Group → Group} (hg : s.group? c.gid = some g) (hh : ∀ g, (h g).gid = g.gid) :
    (Falls c s h).group? c.gid = some ((h g).setSub c.u.mask (c.u.dropChain.next c.u.pc)) := by
  rw [Falls, Ctx.setSub, State.group?_modGroup_same _ _ (fun g => g.setSub c.u.mask _) fun _ => rfl, State.group?_modGroup_same _ _ _ hh, hg]
  rfl

theorem Falls_group?_other {n : Nat} {h : Group → Group} (hn : n ≠ c.gid) (hh : ∀ g, (h g).gid = g.gid) :
    (Falls c s h).group? n = s.group? n := by
  rw [Falls, Ctx.setSub, State.group?_modGroup _ _ _ (fun g => g.setSub c.u.mask _) fun _ => rfl, if_neg hn, State.group?_modGroup _ _ _ _ hh, if_neg hn]

/-- What an s register reads where it was written. -/
theorem sReg_Falls {g : Group} {d : Nat} {x : DWord} (hg : s.group? c.gid = some g) :
    (((Falls c s fun g => g.setS d x).group? c.gid).map fun g => g.sReg d) = some x := by
  rw [Falls_group?_same (h := fun g => g.setS d x) hg fun _ => rfl]
  exact congrArg some ((Group.sReg_setS g d d x).trans (if_pos rfl))

/-- The group that SPAWNF leaves, with what it writes (R61, R63, R65). -/
theorem spawnf_forms (h : Runs {} f.g s c)
    (hrun : spawnWith true f s = .next (Falls c (closeBin (setBins s c.core ((s.core c.core).bins ++ [c.spawned s f slot])) c.core (c.spawned s f slot))
      fun g => g.setS f.d.toNat (BitVec.ofNat 64 (bitsN (c.sReg f.b).toNat 15 0))))
    (h32 : bitsN (c.sReg f.b).toNat 15 0 < 32) (hs : (spawnSlots s c.t c.g.role).head? = some slot)
    (hi : c.t.image = none) (hc : c.t.closed = false) (hf : s.groupFreeFor c.core c.t.seq ≠ 0) (hfree : (s.freeSlot c.core).isSome)
    (hr : c.t.slotRegs.getLsbD slot = true) (hgid : ∀ g ∈ s.groups, g.gid < s.nextGid) :
    ∃ t g, spawnWith true f s = .next t ∧ (t.core c.core).bins = (s.core c.core).bins ∧
      ((t.group? c.gid).map fun g => g.sReg f.d.toNat) = some (BitVec.ofNat 64 (bitsN (c.sReg f.b).toNat 15 0)) ∧ t.group? s.nextGid = some g ∧
      g.tid = c.t.tid ∧ g.gslot = slot ∧ g.live = maskOf (fun l => decide (l < bitsN (c.sReg f.b).toNat 15 0)) ∧
      g.subs.map (fun u => (u.pc, u.mask, u.wait)) = [((c.sReg f.a).toNat, g.live, .ready)] ∧
      (∀ l, l < bitsN (c.sReg f.b).toNat 15 0 → g.lane 0 l = (((c.spawned s f slot).fibs[l]?).map (·.arg)).getD 0 ∧
        g.lane 1 l = BitVec.ofNat 32 ((((c.spawned s f slot).fibs[l]?).map (·.ord)).getD 0)) ∧ t.mem = s.mem := by
  obtain ⟨-, -, hg, -, -⟩ := State.ctxOf_eq.1 (State.ctx?_ctxOf h.1.1)
  have hclose := closeBin_spawned (f := f) (Ctx.team?_tid (State.ctx?_ctxOf h.1.1)) hs hi hc hf hfree hr hgid
  have hbins := done_spawned_bins (f := f) hs
  have hlen : (c.spawned s f slot).close.fibs.length = bitsN (c.sReg f.b).toNat 15 0 := by simp [Bin.close, Ctx.spawned, spawnedBin]
  have hgroups := Bin.done_groups (s := setBins s c.core ((s.core c.core).bins ++ [(c.spawned s f slot).close])) (core := c.core) (t := c.t)
    (b := (c.spawned s f slot).close) hgid
  have hself : ((c.spawned s f slot).close.done (setBins s c.core ((s.core c.core).bins ++ [(c.spawned s f slot).close])) c.core c.t).group? c.gid =
      some c.g := by
    rw [State.group?, hgroups, List.find?_append]
    exact congrArg (fun o => Option.or o _) hg
  have hne : s.nextGid ≠ c.gid := by
    have := hgid c.g (List.mem_of_find?_eq_some hg)
    rw [State.group?_gid hg] at this
    exact this.ne'
  rw [hclose] at hrun
  refine ⟨_, (c.spawned s f slot).close.fill ((c.spawned s f slot).close.group
      (setBins s c.core ((s.core c.core).bins ++ [(c.spawned s f slot).close])) c.t), hrun, hbins, sReg_Falls hself, ?_, rfl, rfl, ?_, rfl,
    fun l hl => ?_, Bin.done_mem (core := c.core) _⟩
  · rw [Falls_group?_other (h := fun g => g.setS f.d.toNat _) hne fun _ => rfl]
    exact group?_append hgroups fun g hg => (hgid g hg).ne
  · exact congrArg (fun n => maskOf fun l => decide (l < n)) hlen
  · exact Bin.lane_fill (b := (c.spawned s f slot).close) rfl (hl.trans h32) (hl.trans_eq hlen.symm)

end

/-! ### Bins that close and form, and groups parked for rows (R63, R77) -/

theorem formBin_bins {b : Bin} {u : State} (h : formBin s core b = some u) : ∀ x ∈ (u.core core).bins, x.tid ≠ b.tid ∨ x.gslot ≠ b.gslot := by
  have key : ∃ v, ∃ l : List Bin, u = setBins v core (l.filter fun x => !(x.tid == b.tid && x.gslot == b.gslot)) := by
    unfold formBin at h
    dsimp only at h
    split at h
    · cases h
    · split at h
      · cases h
      · split at h
        · cases h
        · split at h
          · cases h
          · exact ⟨_, _, (Option.some.inj h).symm⟩
  obtain ⟨v, l, rfl⟩ := key
  intro x hx
  rw [bins_setBins] at hx
  have := (List.mem_filter.1 hx).2
  by_cases e : x.tid = b.tid
  · exact Or.inr fun e' => by simp [e, e'] at this
  · exact Or.inl e

theorem execBinTimerExpiry_at {k : Nat} {b : Bin} (hb : (s.core core).bins[k]? = some b) :
    execBinTimerExpiry core k s = .next (if !b.full && decide (b.expires ≤ s.cycles) then closeBin s core b else s) := by
  unfold execBinTimerExpiry
  rw [hb]

theorem execBinGroupFormation_at {k : Nat} {b : Bin} (hb : (s.core core).bins[k]? = some b) :
    execBinGroupFormation core k s = .next (if b.full then (formBin s core b).getD s else s) := by
  unfold execBinGroupFormation
  rw [hb]

theorem execParkedRowRetry_at {c : Ctx} {r : RowWait} (hc : s.ctxOf c.gid c.lane = some c) (hw : c.u.wait = .rows)
    (hr : (s.core c.core).rowWait.find? (RowWait.of c) = some r) :
    execParkedRowRetry c.gid c.lane s =
      if decide (r.need ≤ ((c.t.roles[c.g.role]?).map Role.left).getD 0 + s.regFreeFor c.core c.t.seq / 32) &&
        !((s.core c.core).rowWait.any fun q => decide (q.gid < c.gid) && q.could s) then .next (c.setSub s { c.u with wait := .ready })
      else .next s := by
  obtain ⟨-, -, -, -, ht⟩ := State.ctxOf_eq.1 hc
  unfold execParkedRowRetry rowsToHave
  simp only [hc, hw, hr, ht]
  rfl

/-- Settles O23: R62 to R66, by the bin that SPAWN's fibres fill one after another in the first empty slot. -/
theorem spawning : Obligations.Spawning := by
  refine ⟨?_, ?_, ?_⟩
  · intro s c f slot h entry n arg i bins new sD
    obtain ⟨-, -, hg, -, -⟩ := State.ctxOf_eq.1 (State.ctx?_ctxOf h.1.1)
    have htrap (i : Bool) (he : entry % 4 ≠ 0 ∨ 2 ^ 55 ≤ entry) : spawnWith i f s = trapAll c s 1 := by
      refine spawnWith_trap h (Bool.eq_false_iff.2 fun ht => ?_)
      obtain ⟨h4, h55⟩ := (targetOk_iff _).1 ht
      exact he.elim (absurd h4) (fun hl => absurd h55 (not_lt.2 hl))
    refine ⟨fun he => ⟨htrap false he, htrap true he⟩, ?_⟩
    intro h4 h55 h0 h32 hs hroom hk
    have hn : bitsN (c.sReg f.b).toNat 15 0 = n := by simp [bitsN, n]
    have hrun (i : Bool) := spawnWith_new (i := i) h ((targetOk_iff _).2 ⟨h4, h55⟩) (by omega) (by omega) hs hroom hk
    have hnew : c.spawned s f slot = new := by
      have harg : bitsN (c.sReg f.b).toNat 63 32 = (c.sReg f.b).toNat / 2 ^ 32 :=
        Nat.mod_eq_of_lt (Nat.div_lt_of_lt_mul (c.sReg f.b).isLt)
      simp only [Ctx.spawned, harg, hn]
      rfl
    rw [hnew, hn] at hrun
    refine ⟨⟨_, hrun false, bins_setBins _, sReg_Falls hg, ?_, rfl⟩, ?_⟩
    · exact Falls_groups_length
    · intro hi hc hf hfree hr hgid
      rw [← hnew, ← hn] at hrun
      obtain ⟨u, g, hu, hbins, hsd, hgrp, htid, hslot, hlive, hsubs, hlane, hmem⟩ := spawnf_forms h (hrun true) (by omega) hs hi hc hf hfree hr hgid
      have hfib (l : Nat) (hl : l < n) : (c.spawned s f slot).fibs[l]? = some ⟨arg, l, { i with role := c.g.role, fib := 32 * slot + l }⟩ := by
        rw [hnew]
        simp [new, hl]
      rw [hn] at hsd hlive hlane
      refine ⟨u, g, hu, hbins, hsd, hgrp, htid, hslot, hlive, hsubs, fun l hl => ?_, hmem⟩
      simpa [hfib l hl] using hlane l hl
  · intro s core k b hb
    refine ⟨fun hfull hexp hform => ?_, fun hfull hexp => ?_, fun u hfull hform => ⟨?_, formBin_bins hform⟩⟩
    · refine (execBinTimerExpiry_at hb).trans ?_
      replace hform : formBin (replaceBin s core b.close) core b.close = none := hform
      rw [closeBin_eq, hform, if_pos (by simp [hfull, hexp])]
      rfl
    · refine (execBinTimerExpiry_at hb).trans ?_
      simp [hfull, not_le.2 hexp]
    · refine (execBinGroupFormation_at hb).trans ?_
      rw [if_pos hfull, hform, Option.getD_some]
  · intro s c r hc hw hr left
    have hrun := execParkedRowRetry_at hc hw hr
    refine ⟨fun hneed hold => hrun.trans (if_pos ?_), fun hno => hrun.trans (if_neg ?_)⟩
    · simp only [Bool.and_eq_true, decide_eq_true_eq, Bool.not_eq_true', List.any_eq_false]
      exact ⟨hneed, fun q hq => by simpa using hold q hq⟩
    · simp only [Bool.and_eq_true, decide_eq_true_eq, Bool.not_eq_true', List.any_eq_false]
      rintro ⟨hneed, hall⟩
      rcases hno with hlt | ⟨q, hq, hlt, hcould⟩
      · exact absurd hneed (not_le.2 hlt)
      · exact hall q hq ⟨hlt, hcould⟩

end Sys2Proof.Machine
end

section
/-! SUPPORT. The save of a team, its steps up to the record (R126, R276): what a step waits for, and the stash lines written back. -/

namespace Sys2Proof.Machine

/-! ### The write-back of stash lines (R276) -/

/-- The store that a dirty line becomes as the `n`th of a save. -/
def backStore (s : State) (c : Ctx) (lane : Nat) (e : Nat → Tlb) (n : Nat) (q : LPlace × Nat × Nat × StashLine) : Store :=
  { id := s.nextStore + n, agent := 0, agentId := 0, core := c.core, issue := c.u.issue, tid := c.t.tid, gid := c.gid, lane := lane,
    gslot := c.g.gslot, tslot := c.t.tslot, pc := c.u.pc, va := q.2.2.1, asid := c.t.asid.toNat, data := s.localN q.1.core q.1.phys 128
    skip := (List.range 128).filter (fun i => !q.2.2.2.dirty.getLsbD i), kind := 3, floor := c.g.floor.getD lane 0
    seen := !((e q.2.2.1).uc || (e q.2.2.1).replica || (e q.2.2.1).red), red := (e q.2.2.1).red, replica := (e q.2.2.1).replica
    remote := (e q.2.2.1).remote, uc := (e q.2.2.1).uc, peer := none, stage := .retired }

/-- The stash lines with those of `ls` clean. -/
def cleanLines (ls : List (LPlace × Nat × Nat × StashLine)) (m : NMap StashLine) : NMap StashLine :=
  ls.foldl (fun m q => NMap.set StashLine.empty q.2.1 { q.2.2.2 with dirty := 0 } m) m

/-- The team with the lines of `ls` clean. -/
def cleaned (ls : List (LPlace × Nat × Nat × StashLine)) (t : Team) : Team := { t with stashLines := cleanLines ls t.stashLines }

/-- The state with the lines of `ls` written back. -/
def backed (s : State) (c : Ctx) (lane : Nat) (e : Nat → Tlb) (ls : List (LPlace × Nat × Nat × StashLine)) : State :=
  { s.modTeam c.t.tid (cleaned ls) with
    stores := s.stores ++ (List.range ls.length).zipWith (backStore s c lane e) ls, nextStore := s.nextStore + ls.length }

variable {s : State} {c : Ctx} {lane : Nat} {e : Nat → Tlb} {ls : List (LPlace × Nat × Nat × StashLine)}

theorem State.modTeam_modTeam (s : State) (tid : Nat) (f g : Team → Team) (h : ∀ t, (f t).tid = t.tid) :
    (s.modTeam tid f).modTeam tid g = s.modTeam tid (g ∘ f) := by
  simp only [State.modTeam, List.map_map]
  congr 1
  refine List.map_congr_left fun t _ => ?_
  by_cases e : t.tid == tid
  · simp only [Function.comp, e, if_true, h]
  · simp only [Function.comp, e, if_false, Bool.false_eq_true]

theorem backed_nil : backed s c lane e [] = s := by
  have hid : cleaned [] = id := rfl
  simp [backed, State.modTeam, hid]

theorem permission_hit {y : Tlb} {va : Nat} (hp : PageHit s c va y) : permission s c.core c.t.asid.toNat va = (s, .ok y) := by
  unfold permission
  rw [if_neg (not_le.2 hp.1)]
  simp only [hp.2]

theorem templateWrite_outside {va n : Nat} {a : Access} (hr : regionsAt s c.t va n = []) :
    templateWrite s c.t c.gid lane va n a = (none, false) := by
  rw [templateWrite, hr]
  rfl

/-- An aligned write of a writable page outside the template regions passes where no range is locked. -/
theorem checkAccess_store {y : Tlb} {va n : Nat} (hal : va % n = 0) (hp : PageHit s c va y) (hw : y.w = true)
    (hr : regionsAt s c.t va n = []) (hs : s.sluice = []) : checkAccess s c lane .store va n = (s, .ok y) := by
  unfold checkAccess
  simp [permission_hit hp, hal, hw, templateWrite_outside hr, sluiceStops, hs]

/-- A sound line on a writable page outside the template regions retires as a store. -/
theorem writeBackLine_eq {q : LPlace × Nat × Nat × StashLine} (hbad : localBad s q.1 = false) (hal : q.2.2.1 % 128 = 0)
    (hp : PageHit s c q.2.2.1 (e q.2.2.1)) (hw : (e q.2.2.1).w = true) (hr : regionsAt s c.t q.2.2.1 128 = []) :
    writeBackLine c lane s q.1 q.2.1 q.2.2.1 q.2.2.2 = backed s c lane e [q] := by
  have hbad' : localBad (setStash s c.t.tid q.2.1 { q.2.2.2 with dirty := 0 }) q.1 = false := hbad
  have hcheck : checkAccess { setStash s c.t.tid q.2.1 { q.2.2.2 with dirty := 0 } with sluice := [] } c lane .store q.2.2.1 128 =
      ({ setStash s c.t.tid q.2.1 { q.2.2.2 with dirty := 0 } with sluice := [] }, .ok (e q.2.2.1)) :=
    checkAccess_store hal hp hw hr rfl
  have hwrite : templateWrite (setStash s c.t.tid q.2.1 { q.2.2.2 with dirty := 0 }) c.t c.gid lane q.2.2.1 128 .store = (none, false) :=
    templateWrite_outside hr
  unfold writeBackLine
  simp only [hbad', hcheck, Bool.false_eq_true, if_false]
  rw [show templateWrite _ c.t c.gid lane q.2.2.1 128 .store = (none, false) from hwrite]
  rfl

theorem backed_append (q : LPlace × Nat × Nat × StashLine) :
    backed (backed s c lane e ls) c lane e [q] = backed s c lane e (ls ++ [q]) := by
  have hteams : ((backed s c lane e ls).modTeam c.t.tid (cleaned [q])).teams = (s.modTeam c.t.tid (cleaned (ls ++ [q]))).teams := by
    refine (congrArg State.teams (State.modTeam_modTeam s c.t.tid (cleaned ls) (cleaned [q]) fun _ => rfl)).trans ?_
    have : cleaned [q] ∘ cleaned ls = cleaned (ls ++ [q]) := by
      funext t
      simp only [cleaned, cleanLines, Function.comp, List.foldl_append]
    rw [this]
  have hstores : (backed s c lane e ls).stores ++ (List.range 1).zipWith (backStore (backed s c lane e ls) c lane e) [q] =
      s.stores ++ (List.range (ls ++ [q]).length).zipWith (backStore s c lane e) (ls ++ [q]) := by
    rw [List.length_append, List.length_singleton, List.range_succ (n := ls.length), List.zipWith_append (List.length_range ..), ← List.append_assoc]
    rfl
  unfold backed at hteams hstores ⊢
  simp only [List.length_append, List.length_singleton] at hteams hstores ⊢
  rw [hstores]
  simp only [State.modTeam] at hteams ⊢
  rw [hteams]
  rfl

/-! ### Room in the store buffer (R299) -/

theorem lateUsed_backed : lateUsed (backed s c lane e ls) c.core c.u.issue = lateUsed s c.core c.u.issue + ls.length := by
  have hcore (tid : Nat) : (((backed s c lane e ls).team? tid).map Team.core) = (s.team? tid).map Team.core := by
    refine (congrArg (Option.map Team.core) (State.team?_modTeam s c.t.tid tid (cleaned ls) fun _ => rfl)).trans ?_
    split
    · cases s.team? tid <;> rfl
    · rfl
  have hstores : ((List.range ls.length).zipWith (backStore s c lane e) ls).filter
      (fun st => st.agent == 0 && st.kind != notStore && st.core == c.core && st.issue == c.u.issue) =
      (List.range ls.length).zipWith (backStore s c lane e) ls := by
    refine List.filter_eq_self.2 fun st hst => ?_
    obtain ⟨i, hi, rfl⟩ := List.getElem_of_mem hst
    simp [backStore, notStore]
  unfold lateUsed
  rw [show (backed s c lane e ls).stores = s.stores ++ (List.range ls.length).zipWith (backStore s c lane e) ls from rfl,
    List.filter_append, hstores, List.length_append, List.length_zipWith, List.length_range, min_self,
    show (backed s c lane e ls).groups = s.groups from rfl]
  rw [Nat.add_right_comm]
  congr 3
  refine List.filter_congr fun g _ => ?_
  have := hcore g.tid
  cases h : s.team? g.tid <;> cases h' : (backed s c lane e ls).team? g.tid <;> simp_all

theorem BackReady.init {q : LPlace × Nat × Nat × StashLine} (h : BackReady s c e (ls ++ [q])) : BackReady s c e ls := by
  obtain ⟨hroom, hls⟩ := h
  rw [List.length_append] at hroom
  exact ⟨by omega, fun q hq => hls q (List.mem_append_left _ hq)⟩

theorem saveRoom_of_lt (h : lateUsed s c.core c.u.issue < Config.lateEntries) : saveRoom s c = true := by
  rw [saveRoom, decide_eq_true_eq]
  exact Nat.lt_add_right _ h

/-- Lines that may be written back now all are. -/
theorem saveStash_fold (h : BackReady s c e ls) :
    ls.foldl (fun s q => if saveRoom s c then writeBackLine c lane s q.1 q.2.1 q.2.2.1 q.2.2.2 else s) s = backed s c lane e ls := by
  induction ls using List.reverseRecOn with
  | nil => exact backed_nil.symm
  | append_singleton ls q ih =>
    obtain ⟨hbad, hal, hp, hw, hr⟩ := h.2 q (List.mem_append_right _ (List.mem_singleton_self q))
    have hroom := h.1
    rw [List.length_append, List.length_singleton] at hroom
    rw [List.foldl_append, ih h.init, List.foldl_cons, List.foldl_nil, if_pos, ← backed_append]
    · exact writeBackLine_eq hbad hal hp hw hr
    · refine saveRoom_of_lt ?_
      rw [lateUsed_backed]
      omega

/-! ### What is clean then -/

theorem get_cleanLines (m : NMap StashLine) :
    (∀ q ∈ ls, (NMap.get StashLine.empty q.2.1 (cleanLines ls m)).dirty = 0) ∧
      ∀ k, (∀ q ∈ ls, q.2.1 ≠ k) → NMap.get StashLine.empty k (cleanLines ls m) = NMap.get StashLine.empty k m := by
  induction ls using List.reverseRecOn with
  | nil => exact ⟨fun q hq => absurd hq (List.not_mem_nil), fun k _ => rfl⟩
  | append_singleton ls p ih =>
    have hlast : cleanLines (ls ++ [p]) m = NMap.set StashLine.empty p.2.1 { p.2.2.2 with dirty := 0 } (cleanLines ls m) := by
      simp [cleanLines]
    refine ⟨fun q hq => ?_, fun k hk => ?_⟩
    · rw [hlast, NMap.get_set]
      split
      · rfl
      · rename_i hne
        refine ih.1 q ((List.mem_append.1 hq).resolve_right fun hp => hne ?_)
        rw [List.mem_singleton.1 hp]
    · rw [hlast, NMap.get_set_other _ (hk p (List.mem_append_right _ (List.mem_singleton_self p))).symm]
      exact ih.2 k fun q hq => hk q (List.mem_append_left _ hq)

/-- A line that is still listed dirty was dirty before, and is none of those written back. -/
theorem mem_cleanLines {m : NMap StashLine} {p : Nat × StashLine} (hp : p ∈ cleanLines ls m) (hd : p.2.dirty ≠ 0) :
    p ∈ m ∧ ∀ q ∈ ls, q.2.1 ≠ p.1 := by
  induction ls using List.reverseRecOn with
  | nil => exact ⟨hp, fun q hq => absurd hq (List.not_mem_nil)⟩
  | append_singleton ls r ih =>
    have hmem : p ∈ cleanLines ls m ∧ p.1 ≠ r.2.1 := by
      rw [cleanLines, List.foldl_append, List.foldl_cons, List.foldl_nil, NMap.set] at hp
      split at hp
      · exact NMap.mem_erase.1 hp
      · refine NMap.mem_erase.1 ((NMap.mem_insert.1 hp).resolve_left ?_)
        rintro rfl
        exact hd rfl
    obtain ⟨hin, hall⟩ := ih hmem.1
    refine ⟨hin, fun q hq => ?_⟩
    rcases List.mem_append.1 hq with hq | hq
    · exact hall q hq
    · rw [List.mem_singleton.1 hq]
      exact hmem.2.symm

theorem mem_dirtyLines {t : Team} {ord n : Nat} {q : LPlace × Nat × Nat × StashLine} :
    q ∈ dirtyLines t ord n ↔ ∃ m ∈ t.stash, (ord ≤ m.ord ∧ m.ord < ord + n) ∧ ∃ p ∈ t.stashLines,
      ((m.ord * 384 ≤ p.1 ∧ p.1 < (m.ord + 1) * 384) ∧ p.2.dirty ≠ 0) ∧
      (⟨t.core, 0, t.ways.getD m.ord 0, (p.1 - m.ord * 384) * 128⟩, p.1, m.base + (p.1 - m.ord * 384) * 128, p.2) = q := by
  simp only [dirtyLines, ← List.flatMap_eq_foldl, List.mem_flatMap, List.mem_filter, List.mem_map, Bool.and_eq_true, decide_eq_true_eq,
    bne_iff_ne, and_assoc]

/-- With its dirty lines written back a team has none left. -/
theorem dirtyLines_cleaned (t : Team) (ord n : Nat) : dirtyLines (cleaned (dirtyLines t ord n) t) ord n = [] := by
  refine List.eq_nil_iff_forall_not_mem.2 fun q hq => ?_
  obtain ⟨m, hm, hord, p, hp, ⟨hrange, hd⟩, -⟩ := mem_dirtyLines.1 hq
  obtain ⟨hin, hnone⟩ := mem_cleanLines hp hd
  exact hnone _ (mem_dirtyLines.2 ⟨m, hm, hord, p, hin, ⟨hrange, hd⟩, rfl⟩) rfl

theorem backed_team (tid : Nat) : (backed s c lane e ls).team? tid = if tid = c.t.tid then (s.team? tid).map (cleaned ls) else s.team? tid :=
  State.team?_modTeam s c.t.tid tid (cleaned ls) fun _ => rfl

theorem backed_writtenBack : WrittenBack s (backed s c lane e ls) c lane e ls where
  stores := by
    have hst : (backed s c lane e ls).stores = s.stores ++ (List.range ls.length).zipWith (backStore s c lane e) ls := rfl
    rw [hst, List.take_left, List.drop_left]
    exact ⟨rfl, rfl⟩
  clean := by
    intro x y hx hy
    rw [backed_team, if_pos rfl, hx] at hy
    cases hy
    exact ⟨(get_cleanLines x.stashLines).1, (get_cleanLines x.stashLines).2, rfl⟩
  others n hn := by rw [backed_team, if_neg hn]
  rest := rfl

/-! ### The steps of a save (R126) -/

section
variable {t : Team} {w : Curfew}

theorem execTeamSave_waiting (ht : s.team? t.tid = some t) (hw : t.curfew = some w) (hr : readyToSave s t = false) :
    execTeamSave t.tid s = .next s := by
  unfold execTeamSave
  simp [ht, hw, hr]

theorem execTeamSave_begin (ht : s.team? t.tid = some t) (hw : t.curfew = some w) (hr : readyToSave s t = true) (hn : w.since = none) :
    execTeamSave t.tid s = .next (modCurfew s t.tid fun w => { w with since := some s.meridian }) := by
  unfold execTeamSave
  simp [ht, hw, hr, hn]

/-- A save that has begun, with no uncorrectable fragment left to take. -/
theorem execTeamSave_begun (ht : s.team? t.tid = some t) (hw : t.curfew = some w) (hr : readyToSave s t = true) (hs : w.since.isSome = true)
    (hu : pendingUe s t.tid = none) :
    execTeamSave t.tid s = if saveWaits s t then .next s
      else if !w.stashed then .next (modCurfew (saveStash s t) t.tid fun w => { w with stashed := stashClean (saveStash s t) t.tid })
      else .next (writeSave s t w) := by
  have : w.since ≠ none := by simpa using Option.isSome_iff_ne_none.1 hs
  unfold execTeamSave
  simp [ht, hw, hr, this, hu]

theorem dirtyLines_nil (h : t.stash = []) (ord n : Nat) : dirtyLines t ord n = [] := by rw [dirtyLines, h]; rfl

theorem saveStash_nil (h : t.stash = []) : saveStash s t = s := by
  unfold saveStash
  rw [dirtyLines_nil h]
  split <;> rfl

theorem stashClean_nil (ht : s.team? t.tid = some t) (h : t.stash = []) : stashClean s t.tid = true := by
  unfold stashClean
  simp [ht, dirtyLines_nil h]

theorem saveStash_backed {q : Nat × Nat} (hq : (teamSubs s t.tid).head? = some q) (hc : s.ctxOf q.1 q.2 = some c)
    (hb : BackReady s c e (dirtyLines t 0 t.ways.length)) :
    saveStash s t = backed s c (lowestLane c.active) e (dirtyLines t 0 t.ways.length) := by
  unfold saveStash
  simp only [hq, Option.bind_some, hc]
  exact saveStash_fold hb

theorem stashClean_backed (ht : s.team? t.tid = some t) (hc : c.t = t) :
    stashClean (backed s c lane e (dirtyLines t 0 t.ways.length)) t.tid = true := by
  unfold stashClean
  rw [backed_team, hc, if_pos rfl, ht]
  exact List.isEmpty_iff.2 (dirtyLines_cleaned t 0 t.ways.length)

end

end Sys2Proof.Machine
end

section
/-! SUPPORT. The record of a save (R124 to R131): what it keeps of groups, parts and accumulators, and its bytes. -/

namespace Sys2Proof.Machine

/-! ### Maps without some of their keys -/

theorem NMap.get_cons {β : Type} (d : β) (k : Nat) (x : Nat × β) (m : NMap β) :
    NMap.get d k (x :: m) = if x.1 = k then x.2 else NMap.get d k m := rfl

theorem NMap.get_filter_keys {β : Type} (d : β) (p : Nat → Bool) (k : Nat) (m : NMap β) :
    NMap.get d k (m.filter fun q => p q.1) = if p k then NMap.get d k m else d := by
  induction m with
  | nil => exact (ite_self d).symm
  | cons x m ih =>
    rw [List.filter_cons, NMap.get_cons]
    by_cases hk : x.1 = k
    · subst hk
      by_cases hp : p x.1 = true
      · rw [if_pos hp, if_pos hp, NMap.get_cons, if_pos rfl, if_pos rfl]
      · rw [if_neg hp, ih, if_neg hp, if_neg hp]
    · rw [if_neg hk, ← ih]
      split
      · rw [NMap.get_cons, if_neg hk]
      · rfl

/-- A map whose keys lie at `lo` or above, with its keys counted from there. -/
theorem NMap.get_shift {β : Type} (d : β) (lo k : Nat) (m : NMap β) (h : ∀ q ∈ m, lo ≤ q.1) :
    NMap.get d k (m.map fun q => (q.1 - lo, q.2)) = NMap.get d (lo + k) m := by
  induction m with
  | nil => rfl
  | cons x m ih =>
    have hx := h x (List.mem_cons_self ..)
    rw [List.map_cons, NMap.get_cons, NMap.get_cons, ih fun q hq => h q (List.mem_cons_of_mem _ hq)]
    by_cases hk : x.1 - lo = k
    · rw [if_pos hk, if_pos (by omega)]
    · rw [if_neg hk, if_neg (by omega)]

/-! ### A group as its record holds it (R129) -/

variable {g : Group}

theorem Group.yielded_iff : g.yielded = true ↔ hasYielded g := by simp [Group.yielded, hasYielded]

theorem rowBits_getLsbD (win : Nat) {r : Nat} (hr : r < 60) : (rowBits win).getLsbD r = decide (r < win) := by
  rw [rowBits, BitVec.getLsbD_ofNat, Nat.testBit_two_pow_sub_one]
  simp [hr]

theorem Group.liveRows_getLsbD {r : Nat} (hr : r < 60) :
    g.liveRows.getLsbD r = true ↔ (if g.img.isSome then g.priv.getLsbD r = true else r < g.win) ∧ (hasYielded g → g.yRows.getLsbD r = true) := by
  have hheld : (if g.img.isSome then g.priv else rowBits g.win).getLsbD r = true ↔
      if g.img.isSome then g.priv.getLsbD r = true else r < g.win := by
    split
    · exact Iff.rfl
    · rw [rowBits_getLsbD _ hr, decide_eq_true_eq]
  unfold Group.liveRows
  by_cases hy : g.yielded = true
  · have hy' := Group.yielded_iff.1 hy
    rw [if_pos hy, BitVec.getLsbD_and, Bool.and_eq_true, hheld]
    tauto
  · have hy' : ¬hasYielded g := fun h => hy (Group.yielded_iff.2 h)
    rw [if_neg hy, hheld]
    tauto

theorem Group.forRecord_get (r : Nat) :
    NMap.get zeroRow r g.forRecord.v = if g.liveRows.getLsbD r then NMap.get zeroRow r g.v else zeroRow :=
  NMap.get_filter_keys zeroRow (fun r => g.liveRows.getLsbD r) r g.v

theorem Group.forRecord_row_kept {r : Nat} (hr : r < 60) (h : g.liveRows.getLsbD r = true) : g.forRecord.row r = g.row r := by
  have hget : NMap.get zeroRow r g.forRecord.v = NMap.get zeroRow r g.v := by rw [g.forRecord_get, if_pos h]
  have himg : g.forRecord.img = g.img := rfl
  have hheld := ((Group.liveRows_getLsbD hr).1 h).1
  unfold Group.row
  rw [himg, hget]
  cases hi : g.img with
  | none => rfl
  | some v =>
    rw [hi, Option.isSome_some, if_pos rfl] at hheld
    have hp : g.forRecord.priv = g.liveRows := by simp [Group.forRecord, hi]
    simp only [hp, h, hheld, if_true]

theorem Group.forRecord_row_dropped {r : Nat} (h : ¬g.liveRows.getLsbD r = true) :
    g.forRecord.row r = List.replicate 32 ((g.img.map fun v => v.getD r 0).getD 0) := by
  have himg : g.forRecord.img = g.img := rfl
  unfold Group.row
  rw [himg]
  cases hi : g.img with
  | none => simp only [g.forRecord_get, if_neg h]; rfl
  | some v =>
    have hp : g.forRecord.priv = g.liveRows := by simp [Group.forRecord, hi]
    simp only [hp, if_neg h]
    rfl

theorem Group.liveS_getLsbD {i : Nat} (hi : i < 64) : g.liveS.getLsbD i = false ↔ hasYielded g ∧ g.yS.getLsbD i = false := by
  unfold Group.liveS
  rw [← Group.yielded_iff]
  split
  · simp [*]
  · rw [BitVec.getLsbD_allOnes]
    simp [*]

theorem Group.savedAs_forRecord : SavedAs g g.forRecord where
  rows r l hr hl := by
    refine ⟨fun hk => ?_, fun hk => ?_⟩
    · rw [Group.lane, Group.forRecord_row_kept hr ((Group.liveRows_getLsbD hr).2 hk), Group.lane]
    · rw [Group.lane, Group.forRecord_row_dropped fun h => hk ((Group.liveRows_getLsbD hr).1 h)]
      rw [List.getD_eq_getElem?_getD, List.getElem?_replicate, if_pos hl]
      rfl
  uniforms i hi := by
    have hget : g.forRecord.sReg i = if g.liveS.getLsbD i then g.sReg i else 0 := NMap.get_filter_keys 0 (fun i => g.liveS.getLsbD i) i g.s
    rw [hget]
    have hlive : g.liveS.getLsbD i = false ↔ (∀ u ∈ g.subs, u.wait = .yielded) ∧ g.yS.getLsbD i = false := Group.liveS_getLsbD hi
    by_cases h : g.liveS.getLsbD i = false
    · rw [if_neg (by simp [h]), if_pos (hlive.1 h)]
    · rw [if_pos (by simpa using h), if_neg fun h' => h (hlive.2 h')]
  subs := by
    simp only [Group.forRecord, List.map_map]
    rfl
  same := rfl

/-! ### What a save keeps of a team's parts, accumulators and banks (R124, R125) -/

variable {s : State} {t : Team}

theorem get_partBytes (core kind part : Nat) {i : Nat} (hi : i < partSize kind) :
    NMap.get 0 i (partBytes s core kind part) = s.localByte core (partBase kind + part * partSize kind + i) := by
  unfold partBytes State.localByte
  rw [show localKey core (partBase kind + part * partSize kind + i) = localKey core (partBase kind + part * partSize kind) + i by
    simp only [localKey, Nat.add_assoc]]
  generalize localKey core (partBase kind + part * partSize kind) = lo
  refine (NMap.get_shift 0 lo i _ fun q hq => ?_).trans
    ((NMap.get_filter_keys (0 : Byte) (fun k => decide (lo ≤ k) && decide (k < lo + partSize kind)) (lo + i) s.localMem).trans ?_)
  · have := (List.mem_filter.1 hq).2
    simp only [Bool.and_eq_true, decide_eq_true_eq] at this
    exact this.1
  · rw [if_pos (by simpa using hi)]

/-- All groups have yielded. -/
theorem all_yielded_iff (gs : List Group) : gs.all Group.yielded = true ↔ ∀ g ∈ gs, ∀ u ∈ g.subs, u.wait = .yielded := by
  simp [Group.yielded]

theorem savedParts_places (all_ : Bool) :
    (savedParts s t all_).map (fun p => (p.kind, p.ord)) = (List.range 3).flatMap fun k => (savedOrdinals t all_ k).map fun i => (k, i) := by
  simp only [savedParts, List.map_flatMap, List.map_map]
  rfl

theorem savedParts_bytes {all_ : Bool} {p : SavedPart} (hp : p ∈ savedParts s t all_) {i : Nat} (hi : i < partSize p.kind) :
    NMap.get 0 i p.bytes = s.localByte t.core (partBase p.kind + (t.parts p.kind).getD p.ord 0 * partSize p.kind + i) := by
  simp only [savedParts, List.mem_flatMap, List.mem_map] at hp
  obtain ⟨k, -, j, -, rfl⟩ := hp
  exact get_partBytes t.core k _ hi

theorem savedAccs_acc {all_ : Bool} {q : Nat × Acc} (hq : q ∈ savedAccs s t all_) :
    { q.2 with flags := [] } = { s.acc t.core q.1 with flags := [] } := by
  simp only [savedAccs, List.mem_map] at hq
  obtain ⟨i, -, rfl⟩ := hq
  rfl

theorem mem_savedAccs {all_ : Bool} {i : Nat} (hi : i < 4) : i ∈ (savedAccs s t all_).map Prod.fst ↔ keepsAcc t all_ i = true := by
  have : (savedAccs s t all_).map Prod.fst = (List.range 4).filter (keepsAcc t all_) := by
    simp only [savedAccs, List.map_map]
    exact List.map_id' _
  rw [this, List.mem_filter, List.mem_range]
  exact and_iff_right hi

/-! ### What lasts over a save -/

/-- Teams, groups, saved teams and memory of the state. -/
def State.lasting (s : State) : List Team × List Group × List SavedTeam × List Host.Cell × NMap CrystRegion × NMap Byte :=
  (s.teams, s.groups, s.saved, s.mem, s.cryst, s.crystMem)

theorem peek_of_lasting {u : State} (hm : u.mem = s.mem) (hc : u.cryst = s.cryst) (hb : u.crystMem = s.crystMem) (a : Nat) : u.peek a = s.peek a := by
  unfold State.peek State.crystByte State.region
  rw [hm, hc, hb]

theorem localError_lasting {p : LPlace} {asid handle : Nat} : (localError s p asid handle).lasting = s.lasting := by
  unfold localError
  split <;> rfl

theorem checkExhausted_lasting (core : Nat) : (checkExhausted s core).lasting = s.lasting := by
  unfold checkExhausted
  dsimp only
  split
  · split <;> rfl
  · rfl

theorem reportParts_lasting (ps : List SavedPart) : (reportParts s t ps).lasting = s.lasting := by
  refine foldl_keeps State.lasting (fun s p => ?_) ps s
  exact foldl_keeps State.lasting (fun _ _ => localError_lasting) p.bad s

theorem releaseAllot_lasting : (releaseAllot s t).lasting =
    (s.teams.filter fun x => x.tid != t.tid, s.groups.filter fun g => g.tid != t.tid, s.saved, s.mem, s.cryst, s.crystMem) := by
  unfold releaseAllot dropRowWait cleanSnaps State.lasting
  rfl

/-! ### The record's bytes (R128 to R131, R264) -/

theorem recordHeader_length (gs : List Group) (kind size bins faults : Nat) {offs : List Nat} (ho : offs.length = 7) :
    (recordHeader s t gs kind size bins faults offs).length = 128 := by
  simp [recordHeader, ho]

theorem sectionOffsets_length (n : Nat) (xs : List (List Byte)) : (sectionOffsets n xs).length = xs.length := by
  induction xs generalizing n with
  | nil => rfl
  | cons x xs ih => rw [sectionOffsets, List.length_cons, List.length_cons, ih]

theorem slotBlock_length (a : Acc) : (slotBlock a).length = 2112 := by simp [slotBlock]

theorem moduliBytes_length (m : Moduli) : (moduliBytes m).length = 64 := by
  simp [moduliBytes, ← List.flatMap_def]

theorem handle_length (i : Nat) : (((t.handles[i]?).map handleBytes).getD (zeros 8)).length = 8 := by
  cases t.handles[i]? <;> simp [handleBytes]

theorem channelBlock_length (accs : List (Nat × Acc)) : (channelBlock t accs).length = 320 + 2112 * accs.length := by
  have hh : ((List.range 32).flatMap fun i => ((t.handles[i]?).map handleBytes).getD (zeros 8)).length = 256 :=
    (length_flatMap_const fun i _ => handle_length i).trans (by rw [List.length_range])
  have ha : (accs.flatMap fun q => slotBlock q.2).length = accs.length * 2112 := length_flatMap_const fun q _ => slotBlock_length q.2
  rw [channelBlock, List.length_append, List.length_append, hh, ha, moduliBytes_length]
  omega

theorem nbBlock_length (g : Group) : (nbBlock t g).length = 160 := by
  simp [nbBlock]

theorem barrierBlock_length : (barrierBlock t).length = 256 := by
  rw [barrierBlock, length_flatMap_const (k := 16) fun n _ => by simp]
  rfl

/-- The blocks that end a record. -/
def recordBlocks (t : Team) (gs : List Group) (accs : List (Nat × Acc)) : List Byte :=
  channelBlock t accs ++ gs.flatMap (nbBlock t) ++ barrierBlock t

theorem recordBlocks_length (gs : List Group) (accs : List (Nat × Acc)) :
    (recordBlocks t gs accs).length = 256 + 160 * gs.length + 320 + 2112 * accs.length := by
  rw [recordBlocks, List.length_append, List.length_append, channelBlock_length, length_flatMap_const fun g _ => nbBlock_length g,
    barrierBlock_length]
  omega

/-- A record and its blocks lie in its granules. -/
theorem record_fits (size : Nat) (gs : List Group) (accs : List (Nat × Acc)) :
    size + (recordBlocks t gs accs).length ≤ 65536 * recordGranules size gs.length accs.length := by
  rw [recordBlocks_length, recordGranules, ceilDiv, Config.granule]
  omega

/-! ### A field read back from memory -/

theorem State.pokeN_append (xs ys : List Byte) (s : State) (pa : Nat) : s.pokeN pa (xs ++ ys) = (s.pokeN pa xs).pokeN (pa + xs.length) ys := by
  induction xs generalizing s pa with
  | nil => rfl
  | cons x xs ih =>
    rw [List.cons_append, State.pokeN, ih, State.pokeN, List.length_cons]
    congr 1
    omega

/-- A field of a run of bytes reads as the number it was written for. -/
theorem peekLe_pokeN_field {pa n x : Nat} (xs ys : List Byte) (h : ∀ i, i < n → isHbm (pa + xs.length + i) = true) :
    (s.pokeN pa (xs ++ natLe n x ++ ys)).peekLe (pa + xs.length) n = x % 256 ^ n := by
  rw [← leNat_natLe, State.peekLe, State.peekN]
  congr 1
  refine List.ext_getElem (by simp) fun i hi hi' => ?_
  rw [natLe_length] at hi'
  rw [List.getElem_map, List.getElem_range, State.pokeN_append, State.pokeN_append]
  rw [State.peek_pokeN_other ys (Or.inl (by simp; omega))]
  exact State.peek_pokeN_same (natLe n x) (fun j hj => h j (by simpa using hj)) i _

/-! ### The record is written (R126, R127) -/

section
variable (s t) (w : Curfew)

/-- The groups of a team. -/
def teamGroups : List Group := s.groups.filter fun g => g.tid == t.tid
/-- Has a group of the team not yielded? -/
def notAllYielded : Bool := !(teamGroups s t).all Group.yielded
/-- The bins of a team. -/
def teamBins : List Bin := (s.core t.core).bins.filter fun b => b.tid == t.tid
/-- The records of a team that its save keeps. -/
def keptDefers : List Defer := savedDefers (teamGroups s t) (w.since.getD s.meridian) ++ t.restored
def teamSections : List (List Byte) :=
  recordSections s t (teamGroups s t) (notAllYielded s t) (teamBins s t) (keptDefers s t w)
/-- SIZE of the record. -/
def teamRecordSize : Nat := 128 + (teamSections s t w).flatten.length
/-- The granules of the record. -/
def teamGranules : Nat := recordGranules (teamRecordSize s t w) (teamGroups s t).length (savedAccs s t (notAllYielded s t)).length
/-- KIND of the record. -/
def teamRecordKind : Nat :=
  if (teamGroups s t).all Group.yielded then 0 else if (teamGroups s t).any Group.yielded then 2 else 1

/-- The record up to its blocks. -/
def teamRecord : List Byte :=
  recordHeader s t (teamGroups s t) (teamRecordKind s t) (teamRecordSize s t w) (teamBins s t).length (keptDefers s t w).length
    (sectionOffsets 128 (teamSections s t w)) ++ (teamSections s t w).flatten

/-- The first byte of the granules. -/
def recordBase : Nat := s.regs.saveBase.toNat + Config.granule * w.granBase

/-- The memory with the record in it. -/
def withRecord : State :=
  (s.pokeN (recordBase s w) (teamRecord s t w)).pokeN
    (recordBase s w + Config.granule * teamGranules s t w - (recordBlocks t (teamGroups s t) (savedAccs s t (notAllYielded s t))).length)
    (recordBlocks t (teamGroups s t) (savedAccs s t (notAllYielded s t)))

/-- The team as it is kept for its restore. -/
def keptTeam : SavedTeam :=
  { seq := t.seq, entry := t.launch
    team := { t with stash := [], stashLines := [], curfew := none, yAcc := 0, yLocal := 0, restored := keptDefers s t w }
    groups := (teamGroups s t).map Group.forRecord, bins := teamBins s t, parts := savedParts s t (notAllYielded s t)
    banks := (ownedBanks s t).map fun b => (b, { s.bank t.core b with bad := [], load := none })
    accs := savedAccs s t (notAllYielded s t), fillV := t.image, base := w.granBase, granules := teamGranules s t w }

end

theorem withRecord_eq (w : Curfew) : ∃ m, withRecord s t w = { s with mem := m } := by
  obtain ⟨m, hm⟩ := State.pokeN_eq (teamRecord s t w) s (recordBase s w)
  unfold withRecord
  rw [hm]
  obtain ⟨m', hm'⟩ := State.pokeN_eq (recordBlocks t (teamGroups s t) (savedAccs s t (notAllYielded s t))) { s with mem := m }
    (recordBase s w + Config.granule * teamGranules s t w - (recordBlocks t (teamGroups s t) (savedAccs s t (notAllYielded s t))).length)
  exact ⟨m', hm'⟩

section
variable (s t) (w : Curfew)

/-- The state once the errors that the save has read are reported (R223, R416). -/
def saveReported : State :=
  reportParts ((ownedBanks s t).foldl (fun s b => (s.bank t.core b).badEntries.foldl (fun s e => parityError s t.core b e 0) s) (withRecord s t w))
    t (savedParts s t (notAllYielded s t))

/-- The state once the allotment has returned. -/
def saveReturned : State :=
  releaseAllot (setBins (saveReported s t w) t.core (((saveReported s t w).core t.core).bins.filter fun b => b.tid != t.tid)) t

/-- The state with the team kept, before what it frees is held. -/
def saveFreed : State :=
  checkExhausted { saveReturned s t w with
    saved := (saveReturned s t w).saved ++ [keptTeam s t w]
    granules := (saveReturned s t w).granules.map fun g => if g.1 == w.granBase then (w.granBase, teamGranules s t w) else g } t.core

end

/-- What a save frees is held for a launch (R115, R125). -/
def saveHolds (u : State) (t : Team) (w : Curfew) (slots regs : Nat) (banks : List Nat) : State :=
  match heldSeq u w t.core with
  | none => u
  | some seq =>
    { u with held := u.held ++
        [{ seq := seq, core := t.core, tslot := t.tslot, slots := slots, regs := u.regFree t.core - regs, ways := t.ways, segs := t.segs
           cols := t.cols, acc := t.acc, banks := banks }] }

theorem saveHolds_lasting {u : State} {w : Curfew} {slots regs : Nat} {banks : List Nat} : (saveHolds u t w slots regs banks).lasting = u.lasting := by
  unfold saveHolds
  split <;> rfl

theorem writeSave_eq (w : Curfew) : writeSave s t w = saveHolds (saveFreed s t w) t w
    (((teamGroups s t).flatMap fun g => g.subs.map Sub.slot).eraseDups).length ((saveReported s t w).regFree t.core)
    ((keptTeam s t w).banks.map (·.1)) := rfl

theorem parityError_lasting {core bank entry handle : Nat} : (parityError s core bank entry handle).lasting = s.lasting := rfl

theorem saveReported_lasting (w : Curfew) : (saveReported s t w).lasting = (withRecord s t w).lasting := by
  refine reportParts_lasting _ |>.trans (foldl_keeps State.lasting (fun s b => ?_) _ _)
  exact foldl_keeps State.lasting (fun _ _ => parityError_lasting) _ s

theorem saveReturned_lasting (w : Curfew) : (saveReturned s t w).lasting =
    (s.teams.filter fun x => x.tid != t.tid, s.groups.filter fun g => g.tid != t.tid, s.saved, (withRecord s t w).mem, s.cryst, s.crystMem) := by
  obtain ⟨m, hm⟩ := withRecord_eq (s := s) (t := t) w
  have h := saveReported_lasting (s := s) (t := t) w
  rw [hm] at h
  simp only [State.lasting, Prod.mk.injEq] at h
  obtain ⟨ht, hg, hs, hmem, hc, hb⟩ := h
  rw [saveReturned, releaseAllot_lasting]
  simp only [setBins, State.modCore_teams, State.modCore_groups, State.modCore_saved, State.modCore_mem, State.modCore_cryst, State.modCore_crystMem,
    ht, hg, hs, hmem, hc, hb, hm]

/-- What a save leaves of teams, groups, saved teams and memory. -/
theorem writeSave_lasting (w : Curfew) : (writeSave s t w).lasting =
    (s.teams.filter fun x => x.tid != t.tid, s.groups.filter fun g => g.tid != t.tid, s.saved ++ [keptTeam s t w], (withRecord s t w).mem,
      s.cryst, s.crystMem) := by
  have h := saveReturned_lasting (s := s) (t := t) w
  rw [writeSave_eq, saveHolds_lasting, saveFreed, checkExhausted_lasting]
  simp only [State.lasting, Prod.mk.injEq] at h ⊢
  obtain ⟨ht, hg, hs, hmem, hc, hb⟩ := h
  exact ⟨ht, hg, by rw [hs], hmem, hc, hb⟩

theorem writeSave_peek (w : Curfew) (a : Nat) : (writeSave s t w).peek a = (withRecord s t w).peek a := by
  have h := writeSave_lasting (s := s) (t := t) w
  obtain ⟨m, hm⟩ := withRecord_eq (s := s) (t := t) w
  simp only [State.lasting, Prod.mk.injEq] at h
  obtain ⟨-, -, -, hmem, hc, hb⟩ := h
  exact peek_of_lasting hmem (by rw [hc, hm]) (by rw [hb, hm]) a

/-! ### The record in memory -/

theorem teamRecord_length (w : Curfew) : (teamRecord s t w).length = teamRecordSize s t w := by
  rw [teamRecord, List.length_append, recordHeader_length _ _ _ _ _ (sectionOffsets_length _ _)]
  rfl

/-- A save writes inside its granules. -/
theorem withRecord_outside {w : Curfew} {a : Nat} (h : a < recordBase s w ∨ recordBase s w + 65536 * teamGranules s t w ≤ a) :
    (withRecord s t w).peek a = s.peek a := by
  have hfit : teamRecordSize s t w + _ ≤ 65536 * teamGranules s t w :=
    record_fits (t := t) (teamRecordSize s t w) (teamGroups s t) (savedAccs s t (notAllYielded s t))
  have hlen := teamRecord_length (s := s) (t := t) w
  unfold withRecord
  rw [Config.granule, State.peek_pokeN_other _ (by omega), State.peek_pokeN_other _ (by omega)]

/-- Below its blocks the granules hold the record. -/
theorem withRecord_peek {w : Curfew} {a : Nat} (h : a < recordBase s w + teamRecordSize s t w) :
    (withRecord s t w).peek a = (s.pokeN (recordBase s w) (teamRecord s t w)).peek a := by
  have hfit : teamRecordSize s t w + _ ≤ 65536 * teamGranules s t w :=
    record_fits (t := t) (teamRecordSize s t w) (teamGroups s t) (savedAccs s t (notAllYielded s t))
  unfold withRecord
  rw [Config.granule, State.peek_pokeN_other _ (by omega)]

theorem teamRecord_fields (w : Curfew) : ∃ kind ys, teamRecord s t w =
    natLe 2 1 ++ (natLe 1 kind ++ (natLe 1 t.level ++ (natLe 4 (teamRecordSize s t w) ++ (natLe 8 (t.seq * 256 + t.launch) ++ ys)))) := by
  simp only [teamRecord, recordHeader, List.append_assoc]
  exact ⟨_, _, rfl⟩

/-- A field of the header, read back. -/
theorem writeSave_field {w : Curfew} {n x : Nat} {xs ys : List Byte} (h : teamRecord s t w = xs ++ (natLe n x ++ ys)) (hn : xs.length + n ≤ 128)
    (hb : recordBase s w + 128 ≤ 0x5F80000000) : (writeSave s t w).peekLe (recordBase s w + xs.length) n = x % 256 ^ n := by
  have hpeek : (writeSave s t w).peekN (recordBase s w + xs.length) n =
      (s.pokeN (recordBase s w) (teamRecord s t w)).peekN (recordBase s w + xs.length) n := by
    refine List.map_congr_left fun i hi => ?_
    rw [List.mem_range] at hi
    rw [writeSave_peek, withRecord_peek]
    unfold teamRecordSize
    omega
  rw [State.peekLe, hpeek, h, ← List.append_assoc]
  refine peekLe_pokeN_field xs ys fun i hi => ?_
  rw [isHbm, decide_eq_true_eq, Config.firmwareBase]
  omega

/-- VERSION, LEVEL and LAUNCH of a record. -/
theorem writeSave_header {w : Curfew} (hb : recordBase s w + 128 ≤ 0x5F80000000) :
    (writeSave s t w).peekLe (recordBase s w) 2 = 1 ∧ (writeSave s t w).peekLe (recordBase s w + 3) 1 = t.level % 256 ∧
      (writeSave s t w).peekLe (recordBase s w + 8) 8 = (t.seq * 256 + t.launch) % 2 ^ 64 := by
  obtain ⟨kind, ys, h⟩ := teamRecord_fields (s := s) (t := t) w
  have h0 : teamRecord s t w = [] ++ (natLe 2 1 ++ _) := h
  have h3 : teamRecord s t w = (natLe 2 1 ++ natLe 1 kind) ++ (natLe 1 t.level ++ _) := h.trans (List.append_assoc ..).symm
  have h8 : teamRecord s t w = (natLe 2 1 ++ natLe 1 kind ++ natLe 1 t.level ++ natLe 4 (teamRecordSize s t w)) ++
      (natLe 8 (t.seq * 256 + t.launch) ++ ys) := by
    rw [h]
    simp only [List.append_assoc]
  have f0 := writeSave_field h0 (by simp) hb
  have f3 := writeSave_field h3 (by simp) hb
  have f8 := writeSave_field h8 (by simp) hb
  simp only [List.length_append, natLe_length, List.length_nil] at f0 f3 f8
  exact ⟨f0, f3, f8⟩

/-! ### What is kept (R124 to R126) -/

theorem notAllYielded_eq : notAllYielded s t = decide ¬(∀ g ∈ teamGroups s t, ∀ u ∈ g.subs, u.wait = .yielded) := by
  rw [notAllYielded, Bool.eq_iff_iff, Bool.not_eq_true', decide_eq_true_eq, ← all_yielded_iff, Bool.not_eq_true]

theorem keptTeam_groups {w : Curfew} {i : Nat} {g h : Group} (hg : (teamGroups s t)[i]? = some g) (hh : (keptTeam s t w).groups[i]? = some h) :
    SavedAs g h := by
  rw [keptTeam, List.getElem?_map, hg] at hh
  cases hh
  exact Group.savedAs_forRecord

theorem mem_keptTeam_accs {w : Curfew} {i : Nat} (hi : i < 4) : i ∈ (keptTeam s t w).accs.map Prod.fst ↔
    t.acc.getLsbD i = true ∧ ((∀ g ∈ teamGroups s t, hasYielded g) → t.yAcc.getLsbD i = true) := by
  have hy : (∀ g ∈ teamGroups s t, hasYielded g) ↔ (teamGroups s t).all Group.yielded = true := (all_yielded_iff _).symm
  refine (mem_savedAccs hi).trans ?_
  rw [keepsAcc, notAllYielded, hy, Bool.and_eq_true, Bool.or_eq_true, Bool.not_eq_true', ← Bool.not_eq_true]
  exact and_congr_right fun _ => imp_iff_not_or.symm

end Sys2Proof.Machine
end

section
/-! SUPPORT. The restore of a saved team (R66, R132): the core that was chosen has its allotment free, and the team, its groups and
its parts stand there as they were saved. -/

namespace Sys2Proof.Machine

variable {s : State} {core : Nat}

/-! ### The core that was chosen (R114) -/

theorem foldl_chosen {P : Nat → Prop} {better : Nat → Nat → Bool} (l : List Nat) (hl : ∀ c ∈ l, P c) (b : Option Nat) (hb : ∀ c, b = some c → P c)
    {c : Nat} (h : l.foldl (fun (b : Option Nat) c => match b with | none => some c | some a => if better c a then some c else some a) b = some c) :
    P c := by
  induction l generalizing b with
  | nil => exact hb c h
  | cons x l ih =>
    refine ih (fun c hc => hl c (List.mem_cons_of_mem _ hc)) _ (fun c hc => ?_) h
    have hx := hl x (List.mem_cons_self ..)
    cases b with
    | none => cases hc; exact hx
    | some a =>
      dsimp only at hc
      split at hc <;> cases hc
      · exact hx
      · exact hb _ rfl

theorem fits_of_chooseCore {seq : Nat} {n : Need} (h : chooseCore s seq n = some core) : fits s seq n core = true :=
  foldl_chosen _ (fun _ hc => (List.mem_filter.1 hc).2) none (fun _ hc => nomatch hc) h

theorem fits_parts {seq : Nat} {n : Need} (h : fits s seq n core = true) :
    n.ways ≤ (freeWaysFor s core seq).length ∧ n.segs ≤ (freeSegs s core seq).length ∧ n.cols ≤ (freeCols s core seq).length := by
  simp only [fits, Bool.and_eq_true, decide_eq_true_eq] at h
  tauto

/-! ### What lasts while a team is placed -/

/-- Teams, saved teams, launches, memory and time, and the bins of a core. -/
def State.placing (s : State) (core : Nat) : (List Team × List SavedTeam × List (Nat × Nat)) × (List Launch × List Host.Cell × Nat) × List Bin × Nat :=
  ((s.teams, s.saved, s.granules), (s.launches, s.mem, s.cycles), (s.core core).bins, (s.core core).binTimer.toNat)

theorem placing_modCore {f : CoreSt → CoreSt} (hb : ∀ x, (f x).bins = x.bins) (ht : ∀ x, (f x).binTimer = x.binTimer) :
    (s.modCore core f).placing core = s.placing core := by
  simp [State.placing, State.core_modCore_same, hb, ht]

theorem clearLocal_placing (lo n : Nat) : (clearLocal s lo n).placing core = s.placing core := rfl

theorem allotPart_placing (kind part : Nat) : (allotPart s core kind part).placing core = s.placing core :=
  (clearLocal_placing _ _).trans <| placing_modCore
    (f := fun x => { x with epochs := NMap.set 0 (partKey kind part) ((NMap.get 0 (partKey kind part) x.epochs + 1) % 65536) x.epochs })
    (fun _ => rfl) fun _ => rfl

/-- Parts are allotted one after the other. -/
def allotParts (s : State) (core kind : Nat) (l : List Nat) : State := l.foldl (fun s i => allotPart s core kind i) s

theorem allotParts_placing (kind : Nat) (l : List Nat) : (allotParts s core kind l).placing core = s.placing core :=
  foldl_keeps (fun s => s.placing core) (fun _ _ => allotPart_placing kind _) l s

theorem allotParts_groups (kind : Nat) (l : List Nat) : (allotParts s core kind l).groups = s.groups :=
  foldl_keeps State.groups (fun _ _ => by rfl) l s

/-- Ways that become pinned leave the cache first (R273). -/
def sweptWays (s : State) (core : Nat) (w : List Nat) : State := if w.isEmpty then s else sweepWays s core w w.length

theorem takeParts_eq (seq ways segs cols : Nat) : takeParts s core seq ways segs cols =
    (allotParts (allotParts (allotParts (sweptWays s core ((freeWaysFor s core seq).take ways)) core 0 ((freeWaysFor s core seq).take ways)) core 1
        ((freeSegs s core seq).take segs)) core 2 ((freeCols s core seq).take cols),
      (freeWaysFor s core seq).take ways, (freeSegs s core seq).take segs, (freeCols s core seq).take cols) := by
  unfold takeParts sweptWays
  dsimp only
  split
  · rename_i h
    rw [List.isEmpty_iff.1 h]
    rfl
  · rfl

theorem sweptWays_placing (w : List Nat) : (sweptWays s core w).placing core = s.placing core := by
  unfold sweptWays sweepWays
  split
  · rfl
  · exact placing_modCore (fun _ => rfl) fun _ => rfl

theorem sweptWays_groups (w : List Nat) : (sweptWays s core w).groups = s.groups := by
  unfold sweptWays
  split <;> rfl

/-! ### A part that is allotted reads zero (R269) -/

theorem localByte_allotPart (kind part off : Nat) : (allotPart s core kind part).localByte core off =
    if partBase kind + part * partSize kind ≤ off ∧ off < partBase kind + part * partSize kind + partSize kind then 0 else s.localByte core off := by
  have hget := NMap.get_clear (0 : Byte) (localKey core (partBase kind + part * partSize kind)) (partSize kind) (localKey core off) s.localMem
  refine hget.trans (if_congr ?_ rfl rfl)
  simp only [localKey]
  omega

theorem localByte_allotParts {kind : Nat} {l : List Nat} {off : Nat} (h : s.localByte core off = 0) :
    (allotParts s core kind l).localByte core off = 0 := by
  induction l generalizing s with
  | nil => exact h
  | cons a l ih =>
    refine ih ?_
    rw [localByte_allotPart]
    split
    · rfl
    · exact h

theorem localByte_allotted {kind part : Nat} {l : List Nat} (hp : part ∈ l) {i : Nat} (hi : i < partSize kind) :
    (allotParts s core kind l).localByte core (partBase kind + part * partSize kind + i) = 0 := by
  induction l generalizing s with
  | nil => exact absurd hp (List.not_mem_nil)
  | cons a l ih =>
    rcases List.mem_cons.1 hp with rfl | hp
    · refine localByte_allotParts (s := allotPart s core kind part) ?_
      rw [localByte_allotPart, if_pos (by omega)]
    · exact ih hp

/-! ### Placing steps that change one thing -/

section
variable {tm : Team} {img : Option (List Word)}

/-- The groups of a restored team. -/
def restoreGroups (s : State) (core : Nat) (img : Option (List Word)) (gs : List Group) : State := gs.foldl (restoreGroup core img) s

theorem restoreGroups_placing (gs : List Group) : (restoreGroups s core img gs).placing core = s.placing core :=
  foldl_keeps (fun s => s.placing core) (fun _ _ => by rfl) gs s

theorem restoreGroups_localMem (gs : List Group) : (restoreGroups s core img gs).localMem = s.localMem :=
  foldl_keeps State.localMem (fun _ _ => by rfl) gs s

theorem restoreGroups_groups (gs : List Group) :
    (restoreGroups s core img gs).groups.map Group.placeless = s.groups.map Group.placeless ++ gs.map Group.placeless ∧
      ((∀ g ∈ s.groups, g.img = img) → ∀ g ∈ (restoreGroups s core img gs).groups, g.img = img) := by
  induction gs generalizing s with
  | nil => exact ⟨(List.append_nil _).symm, id⟩
  | cons g gs ih =>
    obtain ⟨hmap, himg⟩ := ih (s := restoreGroup core img s g)
    constructor
    · refine hmap.trans ?_
      simp only [restoreGroup, List.map_append, List.append_assoc, List.map_cons, List.map_nil, List.singleton_append]
      congr 2
      simp [Group.placeless]
    · refine fun h => himg fun y hy => ?_
      rcases List.mem_append.1 hy with hy | hy
      · exact h y hy
      · rw [List.mem_singleton.1 hy]

/-- The bytes of one part, put where the part now stands. -/
def restorePart (core : Nat) (tm : Team) (s : State) (p : SavedPart) : State :=
  { s with localMem := p.bytes.foldl (fun m q => NMap.set 0 (localKey core (partBase p.kind + partAt tm p.kind p.ord * partSize p.kind) + q.1) q.2 m) s.localMem
           badLocal := s.badLocal ++ p.bad.map fun q => (localKey core (partBase p.kind + partAt tm p.kind p.ord * partSize p.kind) / 128 + q.1, q.2) }

theorem NMap.get_fold_set {β : Type} [DecidableEq β] (d : β) (lo i : Nat) (l : List (Nat × β)) (hl : (l.map Prod.fst).Nodup) (m : NMap β) :
    NMap.get d (lo + i) (l.foldl (fun m q => NMap.set d (lo + q.1) q.2 m) m) =
      if i ∈ l.map Prod.fst then NMap.get d i l else NMap.get d (lo + i) m := by
  induction l generalizing m with
  | nil => rfl
  | cons x l ih =>
    rw [List.map_cons, List.nodup_cons] at hl
    rw [List.foldl_cons, ih hl.2, NMap.get_cons, NMap.get_set]
    by_cases hx : x.1 = i
    · subst hx
      simp [hl.1]
    · have hne : ¬lo + i = lo + x.1 := by omega
      rw [if_neg hx, if_neg hne]
      refine if_congr ?_ rfl rfl
      rw [List.map_cons, List.mem_cons, or_iff_right (Ne.symm hx)]

theorem NMap.get_not_mem {β : Type} (d : β) (i : Nat) (l : NMap β) (h : i ∉ l.map Prod.fst) : NMap.get d i l = d := by
  induction l with
  | nil => rfl
  | cons x l ih =>
    rw [List.map_cons, List.mem_cons, not_or] at h
    rw [NMap.get_cons, if_neg (Ne.symm h.1), ih h.2]

theorem localByte_restorePart {p : SavedPart} (hw : NMap.wf 0 p.bytes = true) {i : Nat}
    (h0 : s.localByte core (partBase p.kind + partAt tm p.kind p.ord * partSize p.kind + i) = 0) :
    (restorePart core tm s p).localByte core (partBase p.kind + partAt tm p.kind p.ord * partSize p.kind + i) = NMap.get 0 i p.bytes := by
  have hnodup : (p.bytes.map Prod.fst).Nodup :=
    List.pairwise_map.2 (((NMap.wf_iff 0 p.bytes).1 hw).2.imp fun h => h.ne)
  unfold State.localByte at h0 ⊢
  rw [show localKey core (partBase p.kind + partAt tm p.kind p.ord * partSize p.kind + i) =
    localKey core (partBase p.kind + partAt tm p.kind p.ord * partSize p.kind) + i by simp only [localKey, Nat.add_assoc]] at h0 ⊢
  refine (NMap.get_fold_set (0 : Byte) _ i p.bytes hnodup s.localMem).trans ?_
  split
  · rfl
  · rename_i hm
    rw [h0, NMap.get_not_mem _ _ _ hm]

/-! ### Banks and accumulators -/

/-- The banks of a restored team. -/
def restoreBanks (s : State) (core tid : Nat) (bs : List (Nat × Bank)) : State :=
  bs.foldl (fun s q => s.setBank core q.1 { q.2 with owner := some tid }) s

theorem setBank_placing (b : Nat) (x : Bank) : (s.setBank core b x).placing core = s.placing core :=
  placing_modCore (f := fun y => { y with banks := NMap.set Bank.free b x y.banks }) (fun _ => rfl) fun _ => rfl

theorem setAcc_placing (i : Nat) (a : Acc) : (s.setAcc core i a).placing core = s.placing core :=
  placing_modCore (f := fun y => { y with accs := NMap.set Acc.empty i a y.accs }) (fun _ => rfl) fun _ => rfl

theorem bank_setBank (b i : Nat) (x : Bank) : (s.setBank core b x).bank core i = if i = b then x else s.bank core i := by
  rw [State.bank, State.setBank, State.core_modCore_same]
  exact NMap.get_set ..

theorem acc_setAcc (b i : Nat) (a : Acc) : (s.setAcc core b a).acc core i = if i = b then a else s.acc core i := by
  rw [State.acc, State.setAcc, State.core_modCore_same]
  exact NMap.get_set ..

theorem bank_setAcc (b i : Nat) (a : Acc) : (s.setAcc core b a).bank core i = s.bank core i := by
  rw [State.bank, State.setAcc, State.core_modCore_same]
  rfl

theorem bank_setBins (bs : List Bin) (b : Nat) : (setBins s core bs).bank core b = s.bank core b := by
  rw [State.bank, setBins, State.core_modCore_same]
  rfl

theorem acc_setBins (bs : List Bin) (i : Nat) : (setBins s core bs).acc core i = s.acc core i := by
  rw [State.acc, setBins, State.core_modCore_same]
  rfl

theorem restoreBanks_placing (tid : Nat) (bs : List (Nat × Bank)) : (restoreBanks s core tid bs).placing core = s.placing core :=
  foldl_keeps (fun s => s.placing core) (fun _ _ => setBank_placing _ _) bs s

theorem bank_restoreBanks (tid : Nat) {bs : List (Nat × Bank)} (hn : (bs.map (·.1)).Nodup) :
    (∀ q ∈ bs, (restoreBanks s core tid bs).bank core q.1 = { q.2 with owner := some tid }) ∧
      ∀ i, i ∉ bs.map (·.1) → (restoreBanks s core tid bs).bank core i = s.bank core i := by
  induction bs generalizing s with
  | nil => exact ⟨fun q hq => absurd hq (List.not_mem_nil), fun _ _ => rfl⟩
  | cons x bs ih =>
    rw [List.map_cons, List.nodup_cons] at hn
    obtain ⟨hin, hout⟩ := ih (s := s.setBank core x.1 { x.2 with owner := some tid }) hn.2
    refine ⟨fun q hq => ?_, fun i hi => ?_⟩
    · rcases List.mem_cons.1 hq with rfl | hq
      · exact (hout _ hn.1).trans (by rw [bank_setBank, if_pos rfl])
      · exact hin q hq
    · rw [List.map_cons, List.mem_cons, not_or] at hi
      exact (hout i hi.2).trans (by rw [bank_setBank, if_neg hi.1])

/-- The accumulators of a restored team. -/
def restoreAccs (s : State) (core : Nat) (tm : Team) (accs : List (Nat × Acc)) (l : List Nat) : State :=
  l.foldl (fun s i => if tm.acc.getLsbD i then s.setAcc core i (((accs.find? fun q => q.1 == i).map (·.2)).getD Acc.empty) else s) s

theorem restoreAccs_placing (accs : List (Nat × Acc)) (l : List Nat) : (restoreAccs s core tm accs l).placing core = s.placing core := by
  refine foldl_keeps (fun s => s.placing core) (fun s i => ?_) l s
  split
  · exact setAcc_placing _ _
  · rfl

theorem restoreAccs_bank (accs : List (Nat × Acc)) (l : List Nat) (b : Nat) : (restoreAccs s core tm accs l).bank core b = s.bank core b := by
  refine foldl_keeps (fun s => s.bank core b) (fun s i => ?_) l s
  split
  · exact bank_setAcc _ _ _
  · rfl

theorem acc_restoreAccs (accs : List (Nat × Acc)) {l : List Nat} {i : Nat} (hi : i ∈ l) (ha : tm.acc.getLsbD i = true) :
    (restoreAccs s core tm accs l).acc core i = ((accs.find? fun q => q.1 == i).map (·.2)).getD Acc.empty := by
  induction l using List.reverseRecOn with
  | nil => exact absurd hi (List.not_mem_nil)
  | append_singleton l j ih =>
    rw [restoreAccs, List.foldl_append, List.foldl_cons, List.foldl_nil, ← restoreAccs]
    by_cases hj : i = j
    · rw [← hj, if_pos ha, acc_setAcc, if_pos rfl]
    · have hil : i ∈ l := (List.mem_append.1 hi).resolve_right fun h => hj (List.mem_singleton.1 h)
      split
      · rw [acc_setAcc, if_neg hj, ih hil]
      · exact ih hil

end

/-! ### The roles' reserves (R76) -/

theorem takeReserve_groups (roles : List Role) (gs : List Group) : (takeReserve roles gs).2.map Group.placeless = gs.map Group.placeless := by
  induction gs generalizing roles with
  | nil => rfl
  | cons g gs ih =>
    rw [List.map_cons, ← ih]
    rfl

theorem takeReserve_roles (roles : List Role) (gs : List Group) :
    (takeReserve roles gs).1.map (fun r => { r with left := 0 }) = roles.map fun r => { r with left := 0 } := by
  induction gs generalizing roles with
  | nil => rfl
  | cons g gs ih =>
    refine (ih _).trans ?_
    rw [List.range_eq_range' (n := roles.length)]
    refine zipWith_range_map _ _ (fun i r => ?_) roles 0
    split <;> rfl

/-- Groups that hold no rows of their own leave every reserve whole. -/
theorem takeReserve_whole (roles : List Role) {gs : List Group} (h : ∀ g ∈ gs, g.priv = 0) : (takeReserve roles gs).1 = roles := by
  induction gs generalizing roles with
  | nil => rfl
  | cons g gs ih =>
    have hrows : (List.range 60).filter (fun r => g.priv.getLsbD r) = [] := by
      rw [h g (List.mem_cons_self ..)]
      simp
    refine (ih _ fun g hg => h g (List.mem_cons_of_mem _ hg)).trans ?_
    rw [hrows, List.take_nil, List.range_eq_range']
    refine (List.map_id' _).symm.trans ((zipWith_range_map _ _ (fun i r => ?_) roles 0).trans (List.map_id' _))
    split <;> rfl

/-! ### The restore of a team (R132) -/

section
variable (s : State) (x : SavedTeam) (core : Nat)

/-- The state with the parts of a team allotted. -/
def restoreAllot : State := (takeParts s core x.seq x.team.ways.length x.team.segs.length x.team.cols.length).1

def restoreReserve : List Role × List Group := takeReserve (x.team.roles.map fun r => { r with left := r.reserve }) x.groups

/-- The team that a restore makes. -/
def restoredTeam : Team :=
  { x.team with
    core := core, tslot := (freeTslot s core x.seq).getD 0
    ways := (freeWaysFor s core x.seq).take x.team.ways.length, segs := (freeSegs s core x.seq).take x.team.segs.length
    cols := (freeCols s core x.seq).take x.team.cols.length, roles := (restoreReserve x).1
    moduli := assignDies (restoreAllot s x core).erasedDie x.team.moduli }

/-- The state with the team back, before its groups. -/
def restoreSeat : State :=
  { restoreAllot s x core with
    teams := (restoreAllot s x core).teams ++ [restoredTeam s x core]
    saved := (restoreAllot s x core).saved.filter (fun y => y.team.tid != x.team.tid)
    granules := (restoreAllot s x core).granules.filter (fun g => g.1 != x.base)
    held := (restoreAllot s x core).held.filter fun h => h.seq != x.seq }

/-- The state with the team's parts as they were saved. -/
def restoreParts (img : Option (List Word)) : State :=
  x.parts.foldl (restorePart core (restoredTeam s x core)) (restoreGroups (restoreSeat s x core) core img (restoreReserve x).2)

/-- The state with banks and accumulators too. -/
def restoreStores (img : Option (List Word)) : State :=
  restoreAccs (restoreBanks (restoreParts s x core img) core x.team.tid x.banks) core (restoredTeam s x core) x.accs (List.range 4)

/-- A saved bin with its timer started anew. -/
def restartBin (s : State) (core : Nat) (b : Bin) : Bin :=
  { b with expires := s.cycles + max 64 (s.core core).binTimer.toNat, full := decide (32 ≤ b.fibs.length) }

/-- The state with all of it. -/
def restored (img : Option (List Word)) : State :=
  setBins (restoreStores s x core img) core (((restoreStores s x core img).core core).bins ++ x.bins.map (restartBin (restoreStores s x core img) core))

end

variable {x : SavedTeam} {img : Option (List Word)}

theorem restoreTeam_eq {u : State} (h : restoreImage s core x.fillV = some (u, img)) : restoreTeam s x core = some (restored u x core img) := by
  unfold restoreTeam
  rw [h]
  rfl

theorem restoreAllot_placing : (restoreAllot s x core).placing core = s.placing core := by
  rw [restoreAllot, takeParts_eq, allotParts_placing, allotParts_placing, allotParts_placing, sweptWays_placing]

theorem restoreAllot_groups : (restoreAllot s x core).groups = s.groups := by
  rw [restoreAllot, takeParts_eq, allotParts_groups, allotParts_groups, allotParts_groups, sweptWays_groups]

theorem restoreStores_placing : (restoreStores s x core img).placing core = (restoreSeat s x core).placing core := by
  rw [restoreStores, restoreAccs_placing, restoreBanks_placing]
  refine (foldl_keeps (fun u : State => u.placing core) (fun _ _ => by rfl) x.parts _).trans ?_
  exact restoreGroups_placing _

theorem restoreStores_groups : (restoreStores s x core img).groups =
    (restoreGroups (restoreSeat s x core) core img (restoreReserve x).2).groups := by
  refine (foldl_keeps State.groups (fun s i => ?_) (List.range 4) _).trans ?_
  · split <;> rfl
  · refine (foldl_keeps State.groups (fun _ _ => by rfl) x.banks _).trans ?_
    exact foldl_keeps State.groups (fun _ _ => by rfl) x.parts _

theorem restoreStores_localMem : (restoreStores s x core img).localMem = (restoreParts s x core img).localMem := by
  refine (foldl_keeps State.localMem (fun s i => ?_) (List.range 4) _).trans ?_
  · split <;> rfl
  · exact foldl_keeps State.localMem (fun _ _ => by rfl) x.banks _

theorem restoredTeam_placeless : (restoredTeam s x core).placeless = x.team.placeless := by
  have hroles : (restoreReserve x).1.map (fun r => { r with left := 0 }) = x.team.roles.map fun r => { r with left := 0 } := by
    refine (takeReserve_roles _ _).trans ?_
    rw [List.map_map]
    rfl
  unfold Team.placeless restoredTeam
  dsimp only
  rw [hroles]
  rfl

theorem restoredTeam_parts_length (hw : x.team.ways.length ≤ (freeWaysFor s core x.seq).length)
    (hg : x.team.segs.length ≤ (freeSegs s core x.seq).length) (hc : x.team.cols.length ≤ (freeCols s core x.seq).length) :
    (restoredTeam s x core).ways.length = x.team.ways.length ∧ (restoredTeam s x core).segs.length = x.team.segs.length ∧
      (restoredTeam s x core).cols.length = x.team.cols.length :=
  ⟨List.length_take_of_le hw, List.length_take_of_le hg, List.length_take_of_le hc⟩

theorem restoredTeam_roles (h : ∀ g ∈ x.groups, g.priv = 0) : (restoredTeam s x core).roles = x.team.roles.map fun r => { r with left := r.reserve } :=
  takeReserve_whole _ h

/-- Every part that a restore allots reads zero at first. -/
theorem localByte_restoreAllot {kind ord : Nat} (h : ord < ((restoredTeam s x core).parts kind).length) {i : Nat} (hi : i < partSize kind) :
    (restoreAllot s x core).localByte core (partBase kind + partAt (restoredTeam s x core) kind ord * partSize kind + i) = 0 := by
  have hmem : partAt (restoredTeam s x core) kind ord ∈ (restoredTeam s x core).parts kind := by
    rw [partAt, List.getD_eq_getElem _ _ h]
    exact List.getElem_mem h
  generalize partAt (restoredTeam s x core) kind ord = part at hmem
  rw [restoreAllot, takeParts_eq]
  match kind with
  | 0 => exact localByte_allotParts (localByte_allotParts (localByte_allotted hmem hi))
  | 1 => exact localByte_allotParts (localByte_allotted hmem hi)
  | _ + 2 => exact localByte_allotted (kind := 2) hmem hi

theorem localByte_restored {p : SavedPart} (hp : x.parts = [p]) (hw : NMap.wf 0 p.bytes = true)
    (ho : p.ord < ((restoredTeam s x core).parts p.kind).length) {i : Nat} (hi : i < partSize p.kind) :
    (restored s x core img).localByte core (partBase p.kind + partAt (restoredTeam s x core) p.kind p.ord * partSize p.kind + i) =
      NMap.get 0 i p.bytes := by
  have h0 : (restoreGroups (restoreSeat s x core) core img (restoreReserve x).2).localByte core
      (partBase p.kind + partAt (restoredTeam s x core) p.kind p.ord * partSize p.kind + i) = 0 := by
    rw [State.localByte, restoreGroups_localMem]
    exact localByte_restoreAllot ho hi
  have hmem : (restored s x core img).localMem = (restorePart core (restoredTeam s x core)
      (restoreGroups (restoreSeat s x core) core img (restoreReserve x).2) p).localMem := by
    refine restoreStores_localMem.trans ?_
    rw [restoreParts, hp]
    rfl
  rw [State.localByte, hmem]
  exact localByte_restorePart hw h0

theorem restored_bank (hn : (x.banks.map (·.1)).Nodup) {q : Nat × Bank} (hq : q ∈ x.banks) :
    (restored s x core img).bank core q.1 = { q.2 with owner := some x.team.tid } := by
  rw [restored, bank_setBins, restoreStores, restoreAccs_bank]
  exact (bank_restoreBanks _ hn).1 q hq

theorem restored_acc {i : Nat} (hi : i < 4) (ha : x.team.acc.getLsbD i = true) :
    (restored s x core img).acc core i = ((x.accs.find? fun q => q.1 == i).map (·.2)).getD Acc.empty := by
  rw [restored, acc_setBins, restoreStores]
  exact acc_restoreAccs _ (List.mem_range.2 hi) ha

theorem restored_groups (hs : s.groups = []) :
    (restored s x core img).groups.map Group.placeless = x.groups.map Group.placeless ∧ ∀ g ∈ (restored s x core img).groups, g.img = img := by
  have hseat : (restoreSeat s x core).groups = [] := (restoreAllot_groups (x := x)).trans hs
  obtain ⟨hmap, himg⟩ := restoreGroups_groups (s := restoreSeat s x core) (core := core) (img := img) (restoreReserve x).2
  have hg : (restored s x core img).groups = _ := restoreStores_groups
  rw [hg]
  refine ⟨hmap.trans ?_, himg fun g hg => ?_⟩
  · rw [hseat]
    exact takeReserve_groups _ _
  · rw [hseat] at hg
    exact absurd hg (List.not_mem_nil)

/-- What a restore on an empty device leaves of teams, saved teams, memory and bins. -/
theorem restored_placing (ht : s.teams = []) (hsv : s.saved = [x]) (hb : (s.core core).bins = []) :
    (restored s x core img).teams = [restoredTeam s x core] ∧ (restored s x core img).saved = [] ∧
      (restored s x core img).granules = s.granules.filter (fun g => g.1 != x.base) ∧ (restored s x core img).launches = s.launches ∧
      (restored s x core img).mem = s.mem ∧ ((restored s x core img).core core).bins = x.bins.map (restartBin s core) := by
  have hstores := restoreStores_placing (s := s) (core := core) (x := x) (img := img)
  have hallot := restoreAllot_placing (s := s) (core := core) (x := x)
  have hcore : (restoreSeat s x core).core core = (restoreAllot s x core).core core := rfl
  simp only [State.placing, Prod.mk.injEq, hcore] at hstores hallot
  obtain ⟨⟨hteams, hsaved, hgran⟩, ⟨hlaunch, hmem, hcyc⟩, hbins, htimer⟩ := hstores
  obtain ⟨⟨hteams', hsaved', hgran'⟩, ⟨hlaunch', hmem', hcyc'⟩, hbins', htimer'⟩ := hallot
  refine ⟨hteams.trans ?_, hsaved.trans ?_, hgran.trans ?_, hlaunch.trans hlaunch', hmem.trans hmem', (bins_setBins _).trans ?_⟩
  · simp only [restoreSeat, hteams', ht]
    rfl
  · simp only [restoreSeat, hsaved', hsv]
    simp
  · simp only [restoreSeat, hgran']
  · have hrestart : restartBin (restoreStores s x core img) core = restartBin s core := by
      funext b
      simp only [restartBin, htimer, htimer', hcyc.trans hcyc']
    rw [hbins, hbins', hb, List.nil_append, hrestart]

/-! ### The image of a restored team (R80, R132) -/

/-- The image that a saved team has, read in place: without one nothing is read. -/
theorem restoreImage_some (hi : (s.core core).images = [])
    (h : x.fillV = none ∧ img = none ∨ ∃ r hdr, x.fillV = some r ∧ readImage s r 0 1024 = (s, some hdr) ∧
      img = some ((List.range 60).map fun i => BitVec.ofNat 32 (fieldN hdr (256 + 4 * i) 4))) :
    ∃ u, restoreImage s core x.fillV = some (u, img) ∧ (u = s ∨ ∃ z, u = s.modCore core fun y => { y with images := y.images ++ [z] }) := by
  rcases h with ⟨hf, rfl⟩ | ⟨r, hdr, hf, hread, rfl⟩
  · exact ⟨s, by rw [hf]; rfl, Or.inl rfl⟩
  · have hslot : imageSlot s core r hdr = (s.modCore core fun y => { y with images := y.images ++ [⟨r, imageV hdr, BitVec.ofNat 7 (fieldN hdr 0x0A 1)⟩] },
        ⟨r, imageV hdr, BitVec.ofNat 7 (fieldN hdr 0x0A 1)⟩) := by
      unfold imageSlot
      simp only [hi, List.find?_nil]
    refine ⟨_, ?_, Or.inr ⟨⟨r, imageV hdr, BitVec.ofNat 7 (fieldN hdr 0x0A 1)⟩, rfl⟩⟩
    unfold restoreImage
    simp only [hf, hread, hslot]
    rfl

/-- With its image in a slot, the core's room and all that a restore keeps are as before. -/
theorem freeParts_imaged {u : State} (h : u = s ∨ ∃ z, u = s.modCore core fun y => { y with images := y.images ++ [z] }) (seq : Nat) :
    freeWaysFor u core seq = freeWaysFor s core seq ∧ freeSegs u core seq = freeSegs s core seq ∧ freeCols u core seq = freeCols s core seq := by
  rcases h with rfl | ⟨z, rfl⟩ <;> exact ⟨rfl, rfl, rfl⟩

theorem placing_imaged {u : State} (h : u = s ∨ ∃ z, u = s.modCore core fun y => { y with images := y.images ++ [z] }) :
    u.placing core = s.placing core ∧ u.groups = s.groups := by
  rcases h with rfl | ⟨z, rfl⟩
  · exact ⟨rfl, rfl⟩
  · exact ⟨placing_modCore (f := fun y => { y with images := y.images ++ [z] }) (fun _ => rfl) fun _ => rfl, rfl⟩

/-! ### The scheduler's pass (R115) -/

theorem nextSaved_one {L : Launch} (hsv : s.saved = [x]) (hx : x.seq = L.seq) : nextSaved s L.seq = some x := by
  simp [nextSaved, hsv, hx]

theorem nextSaved_none {seq : Nat} (hsv : s.saved = []) : nextSaved s seq = none := by
  simp [nextSaved, hsv]

/-- A launch whose one saved team comes back has nothing more to place. -/
theorem placeLoop_restored {L : Launch} {t : State} {n : Nat} (hL : s.launch? L.seq = some L) (ha : L.active = true) (hsv : s.saved = [x]) (hx : x.seq = L.seq)
    (hp : nextPlan L = none) (hc : chooseCore s L.seq (savedNeed x) = some core) (ht : restoreTeam s x core = some t)
    (htl : t.launches = s.launches) (hts : t.saved = []) : placeLoop (n + 2) s L.seq = t := by
  have hstep : placeStep s L = some t := by
    unfold placeStep
    simp only [nextSaved_one hsv hx, hc, Option.bind_some, ht]
  have hL' : t.launch? L.seq = some L := by rw [State.launch?, htl]; exact hL
  have hdone : placeStep t L = none := by
    unfold placeStep placeNext
    simp only [nextSaved_none hts, hp]
  have hwait : waitForRoom t L = t := by
    unfold waitForRoom waitNeed
    simp only [nextSaved_none hts, hp, Option.map_none]
  rw [placeLoop, hL]
  simp only [ha, hstep, Bool.not_true, Bool.false_eq_true, if_false]
  rw [placeLoop, hL']
  simp only [ha, hdone, hwait, Bool.not_true, Bool.false_eq_true, if_false]

theorem schedulerPass_one {L : Launch} (ht : s.teams = []) (hedf : edf s = [L]) : schedulerPass s = placeLoop (4094 + 2) s L.seq := by
  unfold schedulerPass
  rw [ht, List.map_nil, List.foldl_nil]
  dsimp only
  rw [hedf]
  rfl

/-- The pass that restores the one saved team of the one launch. -/
theorem schedulerPass_restores {L : Launch} {u : State} (ht : s.teams = []) (hsv : s.saved = [x]) (hedf : edf s = [L])
    (hL : s.launch? L.seq = some L) (ha : L.active = true) (hx : x.seq = L.seq) (hp : nextPlan L = none)
    (hc : chooseCore s L.seq (savedNeed x) = some core) (hb : (s.core core).bins = [])
    (hu : restoreImage s core x.fillV = some (u, img)) (hplace : u.placing core = s.placing core) :
    schedulerPass s = restored u x core img ∧ (restored u x core img).saved = [] ∧ (restored u x core img).teams = [restoredTeam u x core] ∧
      (restored u x core img).granules = s.granules.filter (fun g => g.1 != x.base) ∧
      ((restored u x core img).core core).bins = x.bins.map (restartBin s core) ∧ (restored u x core img).mem = s.mem := by
  simp only [State.placing, Prod.mk.injEq] at hplace
  obtain ⟨⟨hteams, hsaved, hgran⟩, ⟨hlaunch, hmem, hcyc⟩, hbins, htimer⟩ := hplace
  obtain ⟨rteams, rsaved, rgran, rlaunch, rmem, rbins⟩ :=
    restored_placing (x := x) (img := img) (hteams.trans ht) (hsaved.trans hsv) (hbins.trans hb)
  have hrestart : restartBin u core = restartBin s core := by
    funext b
    simp only [restartBin, htimer, hcyc]
  refine ⟨?_, rsaved, rteams, rgran.trans (by rw [hgran]), rbins.trans (by rw [hrestart]), rmem.trans hmem⟩
  rw [schedulerPass_one ht hedf]
  exact placeLoop_restored hL ha hsv hx hp hc (restoreTeam_eq hu) (rlaunch.trans hlaunch) rsaved

end Sys2Proof.Machine
end

section
/-! SUPPORT. The save and the restore of a team as a whole (R66, R124 to R132, R276). -/

namespace Sys2Proof.Machine

/-- Settles O29: the save step by step, its record read back from the granules, and the pass that restores the team on a free core. -/
theorem teamSaving : Obligations.TeamSaving := by
  refine ⟨fun s t w ht hw => ?_, ?_⟩
  · refine ⟨fun hr => execTeamSave_waiting ht hw hr, fun hr hn => execTeamSave_begin ht hw hr hn, fun hr hs hu => ?_⟩
    have hrun := execTeamSave_begun ht hw hr hs hu
    refine ⟨fun hwait => hrun.trans (if_pos hwait), fun hgo hst hnil => ?_, fun q c e hgo hst hq hc hct _ hb => ?_, fun hgo hst => ?_⟩
    · refine hrun.trans ?_
      rw [if_neg (by simp [hgo]), if_pos (by simp [hst]), saveStash_nil hnil, stashClean_nil ht hnil]
    · refine ⟨saveStash s t, hrun.trans ?_, ?_⟩
      · rw [if_neg (by simp [hgo]), if_pos (by simp [hst]), saveStash_backed hq hc hb, stashClean_backed ht hct]
      · rw [saveStash_backed hq hc hb]
        exact backed_writtenBack
    · have hsave : execTeamSave t.tid s = .next (writeSave s t w) := by
        rw [hrun, if_neg (by simp [hgo]), if_neg (by simp [hst])]
      have hl := writeSave_lasting (s := s) (t := t) w
      simp only [State.lasting, Prod.mk.injEq] at hl
      obtain ⟨hteams, hgroups, hsaved, -, -, -⟩ := hl
      refine ⟨writeSave s t w, hsave, hteams, hgroups, keptTeam s t w, hsaved, rfl, rfl, rfl, ?_, ?_⟩
      · intro gs yielded kept
        have hkept (k : Nat) : savedOrdinals t (notAllYielded s t) k = kept k := by
          rw [savedOrdinals, notAllYielded_eq]
          rfl
        refine ⟨List.length_map .., fun i g h hg hh => keptTeam_groups hg hh, rfl, fun n hn => ?_, ?_,
          fun p hp i hi => savedParts_bytes hp hi, rfl, fun q hq => savedAccs_acc hq, fun i hi => mem_keptTeam_accs hi, rfl, rfl⟩
        · simp only [keptTeam, keptDefers, savedDefers, hn, Option.getD_some]
          rfl
        · refine (savedParts_places _).trans ?_
          simp only [hkept]
      · exact ⟨fun a ha => (writeSave_peek w a).trans (withRecord_outside ha), fun hb => writeSave_header hb⟩
  · intro s L x core img ht hg hsv hedf hL ha hx hp hc hb hi hf
    obtain ⟨u, hu, himg⟩ := restoreImage_some hi hf
    obtain ⟨hplace, hgroups⟩ := placing_imaged himg
    obtain ⟨hrun, hsaved, hteams, hgran, hbins, hmem⟩ := schedulerPass_restores ht hsv hedf hL ha hx hp hc hb hu hplace
    obtain ⟨hfw, hfs, hfc⟩ := freeParts_imaged himg x.seq
    obtain ⟨hw, hs, hcol⟩ := fits_parts (fits_of_chooseCore hc)
    obtain ⟨hways, hsegs, hcols⟩ := restoredTeam_parts_length (s := u) (core := core) (x := x) (by rw [hfw, hx]; exact hw) (by rw [hfs, hx]; exact hs)
      (by rw [hfc, hx]; exact hcol)
    obtain ⟨hmap, hgimg⟩ := restored_groups (x := x) (core := core) (img := img) (hgroups.trans hg)
    exact ⟨restored u x core img, restoredTeam u x core, congrArg Host.Outcome.next hrun, hsaved, hgran, hteams,
      restoredTeam_placeless, rfl, hways, hsegs, hcols, restoredTeam_roles, hmap, hgimg, fun p hp hwf _ ho i hi => localByte_restored hp hwf ho hi, fun hn q hq => restored_bank hn hq,
      fun i hi ha => restored_acc hi ha, hbins, hmem⟩

end Sys2Proof.Machine
end

section
/-! SUPPORT. The state after reset (R429, R434). -/

namespace Sys2Proof.Machine

/-- Settles O58: the fields are the reset record's own, and the records of groups, saved teams and cores that it holds are empty. -/
theorem resetState : Obligations.ResetState := by
  unfold Obligations.ResetState
  refine ⟨rfl, rfl, rfl, rfl, rfl, rfl, rfl, rfl, rfl, rfl, rfl, rfl, rfl, rfl, rfl, rfl, rfl, rfl, rfl, rfl, rfl, rfl, ?legal, ?canonical, ?subs, ?queues⟩
  case legal => exact ⟨by decide, by decide, by decide, by decide, by decide⟩
  case canonical => exact ⟨rfl, rfl⟩
  case subs => simp [State.SubsSound, State.reset]
  case queues => exact fun core => by simp [State.core, State.reset, NMap.get, CoreSt.reset]

end Sys2Proof.Machine
end

section
/-! SUPPORT. What every step keeps, as one predicate of a state: canonical memories, registers in their limits, sound sub-groups and bounded
queues, each where it is asked for. The moves of a state that all functions are made of keep it. -/

namespace Sys2Proof.Machine

/-! ### The invariant -/

/-- Which of the invariants are asked for: canonical HBM with registers in their limits, canonical local memory and crystallizer, sound
sub-groups, bounded queues. -/
structure Wants where
  memory : Prop
  cells : Prop
  subs : Prop
  queues : Prop

/-- `Sub.Sound`, on the parts of a sub-group that it speaks of. -/
structure SoundFrames (calls : List Nat) (loops : List LoopFrame) (lc : List Word) : Prop where
  calls : calls.length ≤ 32
  levels : ∀ x ∈ loops, x.level < 3
  nested : loops.Pairwise fun x y => x.level ≠ y.level ∧ x.last ≤ y.last
  counts : lc.length = 3

/-- `Regs.Legal`, on the registers that it speaks of. -/
structure WithinLimits (win : BitVec 21) (lease : BitVec 13) (cap : BitVec 16) (accept offer : DWord) : Prop where
  win : 1000 ≤ win.toNat ∧ win.toNat ≤ 2000000
  lease : 64 ≤ lease.toNat ∧ lease.toNat ≤ 4096
  cap : 600 ≤ cap.toNat ∧ cap.toNat ≤ 1500
  accept : accept &&& ~~~offer = 0
  offer : offer &&& ~~~Config.featAll = 0

theorem Sub.sound_iff {u : Sub} : u.Sound ↔ SoundFrames u.calls u.loops u.lc :=
  ⟨fun h => ⟨h.calls, h.levels, h.nested, h.counts⟩, fun h => ⟨h.calls, h.levels, h.nested, h.counts⟩⟩

theorem Regs.legal_iff {r : Regs} : r.Legal ↔ WithinLimits r.curfewWin r.leaseL1 r.pwrCap r.featAccept r.featOffer :=
  ⟨fun h => ⟨h.curfew, h.lease, h.power, h.features, h.offer⟩, fun h => ⟨h.win, h.lease, h.cap, h.accept, h.offer⟩⟩

def Sub.Safe (w : Wants) (u : Sub) : Prop := w.subs → SoundFrames u.calls u.loops u.lc

def SubsSafe (w : Wants) (us : List Sub) : Prop := ∀ u ∈ us, u.Safe w

/-- A group whose sub-groups are all sound. -/
def Group.Safe (w : Wants) (g : Group) : Prop := SubsSafe w g.subs

/-- A context taken from a safe state. -/
def Ctx.Safe (w : Wants) (c : Ctx) : Prop := c.g.Safe w ∧ c.u.Safe w

/-- A core whose tile queue and lookaside are within their bounds. -/
def CoreSt.Safe (w : Wants) (x : CoreSt) : Prop := w.queues → x.tileQ.length ≤ 16 ∧ x.plb.length ≤ 1024

/-- The invariants that `w` asks for, on the parts of a state that they speak of. -/
structure Kept (w : Wants) (mem : List Host.Cell) (win : BitVec 21) (lease : BitVec 13) (cap : BitVec 16) (accept offer : DWord)
    (localMem crystMem : NMap Byte) (groups : List Group) (saved : List SavedTeam) (cores : NMap CoreSt) : Prop where
  mem : w.memory → Memory.wf mem = true
  limits : w.memory → WithinLimits win lease cap accept offer
  localMem : w.cells → NMap.wf 0 localMem = true
  crystMem : w.cells → NMap.wf 0 crystMem = true
  groups : ∀ g ∈ groups, g.Safe w
  saved : ∀ x ∈ saved, ∀ g ∈ x.groups, g.Safe w
  cores : ∀ n, (NMap.get CoreSt.reset n cores).Safe w

/-- A state that keeps the invariants that `w` asks for. -/
def State.Safe (w : Wants) (s : State) : Prop :=
  Kept w s.mem s.regs.curfewWin s.regs.leaseL1 s.regs.pwrCap s.regs.featAccept s.regs.featOffer s.localMem s.crystMem s.groups s.saved s.cores

variable {w : Wants} {s : State} {c : Ctx} {u : Sub} {g : Group}

theorem State.Safe.kept (hs : s.Safe w) : Kept w s.mem s.regs.curfewWin s.regs.leaseL1 s.regs.pwrCap s.regs.featAccept s.regs.featOffer
    s.localMem s.crystMem s.groups s.saved s.cores := hs

/-! ### Sub-groups (R143 to R145) -/

/-- Loop levels may end, and calls return. -/
theorem Sub.Safe.shrink {v : Sub} (hu : u.Safe w) (hc : v.calls.length ≤ u.calls.length) (hl : v.loops.Sublist u.loops)
    (hlc : v.lc.length = u.lc.length) : v.Safe w := fun hw =>
  { calls := hc.trans (hu hw).calls
    levels := fun x hx => (hu hw).levels x (hl.subset hx)
    nested := (hu hw).nested.sublist hl
    counts := hlc.trans (hu hw).counts }

theorem Sub.Safe.of_frames {v : Sub} (hu : u.Safe w) (hc : v.calls = u.calls) (hl : v.loops = u.loops) (hlc : v.lc = u.lc) : v.Safe w :=
  hu.shrink (hc ▸ le_rfl) (hl ▸ List.Sublist.refl _) (hlc ▸ rfl)

theorem Sub.Safe.dropChain (hu : u.Safe w) : u.dropChain.Safe w := hu

theorem loopStep_shrinks (addr : Nat) (fs : List LoopFrame) (lc : List Word) :
    (loopStep addr fs lc).1.Sublist fs ∧ (loopStep addr fs lc).2.1.length = lc.length := by
  induction fs generalizing lc with
  | nil => exact ⟨List.Sublist.refl _, rfl⟩
  | cons f fs ih =>
    rw [loopStep]
    dsimp only
    split
    · split
      · exact ⟨(ih _).1.cons _, by rw [(ih _).2, List.length_set]⟩
      · exact ⟨List.Sublist.refl _, by rw [List.length_set]⟩
    · exact ⟨(ih lc).1.cons_cons _, (ih lc).2⟩

theorem Sub.Safe.next {a : Nat} (hu : u.Safe w) : (u.next a).Safe w := by
  have hl := loopStep_shrinks a u.loops u.lc
  unfold Sub.next
  split <;> rename_i h <;> rw [h] at hl <;> exact hu.shrink le_rfl hl.1 hl.2

theorem dropOutside_sublist (target : Nat) (fs : List LoopFrame) : (dropOutside target fs).Sublist fs := by
  induction fs with
  | nil => exact List.Sublist.refl _
  | cons f fs ih =>
    rw [dropOutside]
    split
    · exact ih.cons _
    · split
      · exact List.sublist_cons_self ..
      · exact List.Sublist.refl _

theorem Sub.Safe.jump {a : Nat} (hu : u.Safe w) : (u.jump a).Safe w := hu.shrink le_rfl (dropOutside_sublist a u.loops) rfl

/-! ### Groups -/

theorem SubsSafe.map {us : List Sub} {f : Sub → Sub} (hus : SubsSafe w us) (hf : ∀ u, u.Safe w → (f u).Safe w) : SubsSafe w (us.map f) :=
  fun u hu => by
    obtain ⟨v, hv, rfl⟩ := List.mem_map.1 hu
    exact hf v (hus v hv)

theorem SubsSafe.filter {us : List Sub} {p : Sub → Bool} (hus : SubsSafe w us) : SubsSafe w (us.filter p) :=
  fun u hu => hus u (List.mem_filter.1 hu).1

theorem SubsSafe.append {us vs : List Sub} (hus : SubsSafe w us) (hvs : SubsSafe w vs) : SubsSafe w (us ++ vs) :=
  fun u hu => (List.mem_append.1 hu).elim (hus u) (hvs u)

theorem SubsSafe.one (hu : u.Safe w) : SubsSafe w [u] := fun v hv => by rwa [List.mem_singleton.1 hv]

theorem Group.Safe.setSub {m : Word} (hg : g.Safe w) (hu : u.Safe w) : (g.setSub m u).Safe w :=
  SubsSafe.map hg fun v hv => by split <;> assumption

/-- A fold over the group's own sub-groups. -/
theorem Group.Safe.foldSubs {f : Group → Sub → Group} (hg : g.Safe w) (hf : ∀ h u, h.Safe w → u.Safe w → (f h u).Safe w) :
    (g.subs.foldl f g).Safe w := List.foldlRecOn _ f hg fun h hh u hu => hf h u hh (hg u hu)

theorem Group.Safe.of_subs {h : Group} (hg : g.Safe w) (e : h.subs = g.subs) : h.Safe w := by rwa [Group.Safe, e]

/-! ### The state's updates -/

theorem State.Safe.ite {p : Prop} [Decidable p] {a b : State} (ha : a.Safe w) (hb : b.Safe w) : (if p then a else b).Safe w := by
  split <;> assumption

theorem State.Safe.setCore {n : Nat} {x : CoreSt} (hs : s.Safe w) (hx : x.Safe w) : (s.setCore n x).Safe w :=
  { hs.kept with
    cores := fun k => by
      rw [State.setCore, NMap.get_set]
      split
      · exact hx
      · exact hs.cores k }

theorem State.Safe.core (hs : s.Safe w) (n : Nat) : (s.core n).Safe w := hs.cores n

theorem State.Safe.modCore {n : Nat} {f : CoreSt → CoreSt} (hs : s.Safe w) (hq : (f (s.core n)).tileQ.length ≤ (s.core n).tileQ.length)
    (hp : (f (s.core n)).plb.length ≤ (s.core n).plb.length) : (s.modCore n f).Safe w :=
  hs.setCore fun hw => ⟨hq.trans (hs.core n hw).1, hp.trans (hs.core n hw).2⟩

theorem State.Safe.modTeam {tid : Nat} {f : Team → Team} (hs : s.Safe w) : (s.modTeam tid f).Safe w := hs

theorem State.Safe.mapGroups {f : Group → Group} (hs : s.Safe w) (hf : ∀ g, g.Safe w → (f g).Safe w) :
    State.Safe w { s with groups := s.groups.map f } :=
  { hs.kept with
    groups := fun g hg => by
      obtain ⟨h, hh, rfl⟩ := List.mem_map.1 hg
      exact hf h (hs.groups h hh) }

theorem State.Safe.modGroup_of {gid : Nat} {f : Group → Group} (hs : s.Safe w) (hf : ∀ g, g.Safe w → (f g).Safe w) : (s.modGroup gid f).Safe w :=
  hs.mapGroups fun g hg => by split <;> [exact hf g hg; exact hg]

/-- A change of a group that leaves its sub-groups alone. -/
theorem State.Safe.modGroup {gid : Nat} {f : Group → Group} (hs : s.Safe w) (hf : (fun g => (f g).subs) = fun g => g.subs) :
    (s.modGroup gid f).Safe w := hs.modGroup_of fun g hg => hg.of_subs (congrFun hf g)

theorem State.Safe.setSub (hs : s.Safe w) (hu : u.Safe w) : (c.setSub s u).Safe w := hs.modGroup_of fun _ hg => hg.setSub hu

theorem State.Safe.poke {pa : Nat} {b : Byte} (hs : s.Safe w) : (s.poke pa b).Safe w := by
  unfold State.poke
  split
  · exact { hs.kept with mem := fun hw => NMap.wf_set _ _ (hs.mem hw) }
  · exact hs

theorem State.Safe.pokeN {pa : Nat} {bs : List Byte} (hs : s.Safe w) : (s.pokeN pa bs).Safe w := by
  induction bs generalizing s pa with
  | nil => exact hs
  | cons b bs ih => exact ih hs.poke

theorem wf_foldl_set {α : Type} {d : α} [DecidableEq α] {β : Type} {k : β → Nat} {v : β → α} {l : List β} {m : NMap α} (hm : NMap.wf d m = true) :
    NMap.wf d (l.foldl (fun m i => NMap.set d (k i) (v i) m) m) = true :=
  List.foldlRecOn (motive := fun m => NMap.wf d m = true) l _ hm fun _ hm _ _ => NMap.wf_set _ _ hm

theorem State.Safe.pokeLocal {core off : Nat} {bs : List Byte} (hs : s.Safe w) : (s.pokeLocal core off bs).Safe w :=
  { hs.kept with localMem := fun hw => wf_foldl_set (hs.localMem hw) }

/-! ### Contexts -/

theorem State.Safe.group? {gid : Nat} (hs : s.Safe w) (h : s.group? gid = some g) : g.Safe w := hs.groups g (List.mem_of_find?_eq_some h)

theorem State.Safe.ctxOf {gid lane : Nat} (hs : s.Safe w) (h : s.ctxOf gid lane = some c) : c.Safe w := by
  obtain ⟨-, -, hg, hu, -⟩ := State.ctxOf_eq.1 h
  exact ⟨hs.group? hg, hs.group? hg _ (List.mem_of_find?_eq_some hu)⟩

theorem State.Safe.ctx? (hs : s.Safe w) (h : s.ctx? = some c) : c.Safe w := hs.ctxOf (State.ctx?_ctxOf h)

theorem Ctx.Safe.refresh (hc : c.Safe w) (hs : s.Safe w) : (c.refresh s).Safe w := by
  unfold Ctx.refresh
  cases h : s.ctxOf c.gid c.lane with
  | none => exact hc
  | some d => exact hs.ctxOf h

/-- The state of an answer. -/
theorem State.Safe.of_fst {α : Type} {p : State × α} {y : α} (hp : p.1.Safe w) (h : p = (s, y)) : s.Safe w := by rwa [h] at hp

/-! ### Folds -/

theorem foldl_safe {α : Type} {f : State → α → State} (h : ∀ s a, s.Safe w → (f s a).Safe w) {l : List α} (hs : s.Safe w) :
    (l.foldl f s).Safe w := List.foldlRecOn l f hs fun s hs a _ => h s a hs

theorem foldl_fst_safe {α σ : Type} {f : State × σ → α → State × σ} (h : ∀ p a, p.1.Safe w → (f p a).1.Safe w) {l : List α} {p : State × σ}
    (hp : p.1.Safe w) : (l.foldl f p).1.Safe w := List.foldlRecOn (motive := fun p => p.1.Safe w) l f hp fun p hp a _ => h p a hp

end Sys2Proof.Machine
end

section
/-! SUPPORT. The shared operations of the state keep the invariant, one lemma a function in the order of the model's files: traps and waits,
memory and its lines, local memory, and the accesses of the engines. -/

namespace Sys2Proof.Machine

variable {w : Wants}

/-! ### Functions of `Machine.Ops` -/

theorem State.noteHealth_safe {s old} (hs : s.Safe w) : (State.noteHealth s old).Safe w := by
  grind [State.noteHealth, State.Safe]

theorem State.signalFault_safe {s value asid cluster pos} (hs : s.Safe w) : (State.signalFault s value asid cluster pos).Safe w := hs

theorem enterTrap_safe {s t u it s' v} (h : enterTrap s t u it = (s', v)) (hs : s.Safe w) (hu : u.Safe w) : s'.Safe w ∧ v.Safe w := by
  unfold enterTrap at h
  dsimp only at h
  split at h
  · cases h; exact ⟨hs, hu⟩
  · split at h <;> cases h <;> exact ⟨hs, hu⟩

theorem trapGroups_safe {n s gid u items} (hs : s.Safe w) (hu : u.Safe w) : (trapGroups n s gid u items).Safe w := by
  fun_induction trapGroups n s gid u items with
  | case1 | case2 | case3 | case4 => exact hs
  | case5 _ _ _ _ _ _ _ _ _ _ _ _ _ _ _ _ he _ _ _ _ ih =>
    obtain ⟨h1, hv⟩ := enterTrap_safe he hs hu
    exact ih (h1.modGroup_of fun g hg => SubsSafe.append hg (SubsSafe.one hv)) hu

theorem trapWith_safe {keep c s items rest} (hc : c.Safe w) (hs : s.Safe w) (hr : ∀ u, u.Safe w → (rest u).Safe w) :
    (trapWith keep c s items rest).Safe w := by
  have left {m : Word} : SubsSafe w (if m = 0 then [] else [{ rest c.u with mask := m }]) := by
    split
    · exact fun _ hu => by cases hu
    · exact SubsSafe.one (hr _ hc.2)
  cases items with
  | nil => exact hs.setSub (hr _ hc.2)
  | cons it items =>
    unfold trapWith
    dsimp only
    split
    · exact hs
    · refine trapGroups_safe (hs.modGroup_of fun g hg => ?_) hc.2
      exact SubsSafe.append (SubsSafe.map left fun u hu => by split <;> exact hu) (SubsSafe.map (SubsSafe.filter hg) fun _ hu => hu)

theorem memError_safe {s cluster pos asid addr phys unit_} (hs : s.Safe w) : (memError s cluster pos asid addr phys unit_).Safe w := hs

theorem exhaustedRecord_safe {s core info} (hs : s.Safe w) : (exhaustedRecord s core info).Safe w := hs

theorem takeFragTrap_safe {c s f} (hc : c.Safe w) (hs : s.Safe w) : (takeFragTrap c s f).Safe w := by
  have h := trapWith_safe (keep := false) (items := (lanesOf c.active).map fun l => ⟨l, cMATRIX, f.pc, f.pc, none, 0⟩) hc hs fun _ hu => hu
  unfold takeFragTrap
  dsimp only
  split
  · exact h.modGroup rfl
  · exact h

theorem checkExhausted_safe {s core} (hs : s.Safe w) : (checkExhausted s core).Safe w := by
  grind [checkExhausted, ← State.Safe.modCore, ← exhaustedRecord_safe]

theorem privatise_safe {gid s rows m s'} (h : privatise gid s rows m = some s') (hs : s.Safe w) : s'.Safe w := by
  unfold privatise at h
  split at h
  · cases h; exact hs
  · split at h
    · extract_lets need left fromRsv others bits s1 at h
      split at h
      · cases h; exact hs
      · split at h <;> cases h
        exact hs.modTeam.modGroup_of fun g hg => hg.of_subs (foldl_keeps Group.subs (fun _ _ => by rfl) _ _)
    · cases h; exact hs

theorem get_map_snd {α : Type} (d : α) (f : α → α) (hd : f d = d) (k : Nat) (m : NMap α) :
    NMap.get d k (m.map fun q => (q.1, f q.2)) = f (NMap.get d k m) := by
  induction m with
  | nil => exact hd.symm
  | cons q m ih => rw [List.map_cons, NMap.get, NMap.get, ih]; split <;> rfl

theorem dropRowWait_safe {s} (hs : s.Safe w) : (dropRowWait s).Safe w :=
  { hs.kept with
    cores := fun n => by
      rw [dropRowWait, get_map_snd CoreSt.reset fun x => { x with rowWait := x.rowWait.filter fun r => s.groups.any fun g => g.gid == r.gid }]
      exacts [hs.cores n, rfl] }

theorem gotRows_safe {c s} (hs : s.Safe w) : (gotRows c s).Safe w := by
  grind [gotRows, ! => State.Safe.modCore]

theorem parkForRows_safe {c s need} (hc : c.Safe w) (hs : s.Safe w) : (parkForRows c s need).Safe w :=
  checkExhausted_safe ((hs.modCore le_rfl le_rfl).setSub hc.2)

/-! ### Functions of `Machine.Operands` -/

theorem cellRecords_safe {c bad s} (hs : s.Safe w) : (cellRecords c bad s).Safe w :=
  foldl_safe (fun _ _ hs => memError_safe hs) hs

/-! ### Functions of `Machine.Flags` -/

theorem State.countFor_safe {s seq id kind n} (hs : s.Safe w) : (State.countFor s seq id kind n).Safe w := by
  grind [State.countFor, State.Safe]

theorem Ctx.count_safe {c s kind m} (hs : s.Safe w) : (Ctx.count c s kind m).Safe w := by
  grind [Ctx.count, ! => State.countFor_safe]

/-! ### Functions of `Machine.Memory` -/

theorem State.framePokeN_safe {s owner pa bs} (hs : s.Safe w) : (State.framePokeN s owner pa bs).Safe w := by
  cases owner with
  | none => exact hs.pokeN
  | some d => exact hs

theorem installTlb_safe {s e} (hs : s.Safe w) : (installTlb s e).Safe w := hs

theorem countSoft_safe {s unit_ line} (hs : s.Safe w) : (countSoft s unit_ line).Safe w := by
  grind [countSoft, State.Safe]

theorem countRead_safe {s pa} (hs : s.Safe w) : (countRead s pa).Safe w := by
  grind [countRead, ! => countSoft_safe]

theorem readPte_safe {s asid va pte s' y} (h : readPte s asid va pte = (s', y)) (hs : s.Safe w) : s'.Safe w := by
  grind [readPte, ! => memError_safe, ! => countRead_safe]

theorem walkLevels_safe {n s asid va level table s' y} (h : walkLevels n s asid va level table = (s', y)) (hs : s.Safe w) : s'.Safe w := by
  fun_induction walkLevels n s asid va level table generalizing s' y <;> grind [→ readPte_safe]

theorem writePte_safe {s pte w0 w1} (hs : s.Safe w) : (writePte s pte w0 w1).Safe w := by
  grind [writePte, ! => State.Safe.pokeN]

theorem expand_safe {s e s' y} (h : expand s e = (s', y)) (hs : s.Safe w) : s'.Safe w := by
  unfold expand at h
  dsimp only at h
  split at h <;> cases h
  · exact hs
  · have h1 : State.Safe w { s with regs := { s.regs with poolNext := s.regs.poolNext + 1 } } := hs
    refine writePte_safe (foldl_safe (fun _ _ hs => hs.poke) ?_)
    exact { (h1.pokeN (pa := _) (bs := _)).kept with mem := fun hw => NMap.wf_clear _ _ (h1.pokeN.mem hw) }

theorem addPair_safe {s e} (hs : s.Safe w) : (addPair s e).Safe w := hs

theorem walk_safe {s asid va s' y} (h : walk s asid va = (s', y)) (hs : s.Safe w) : s'.Safe w := by
  have aged {s : State} {e : Tlb} {p : Bool} {w1 : Nat} (hs : s.Safe w) :
      (if p then (writePte s e.pte e.w0 w1, { e with w1 := w1 }) else (s, e) : State × Tlb).1.Safe w := by
    split <;> [exact writePte_safe hs; exact hs]
  have expanded {s : State} {e : Tlb} {p : Bool} (hs : s.Safe w) : (if p then expand s e else (s, .ok e)).1.Safe w := by
    split <;> [exact expand_safe rfl hs; exact hs]
  unfold walk at h
  split at h
  · cases h; exact hs
  dsimp only at h
  split at h <;> have h1 := readPte_safe ‹_› hs
  · cases h; exact h1
  split at h
  · cases h; exact h1
  split at h
  · cases h; exact h1
  split at h <;> have h2 := walkLevels_safe ‹_› h1
  · cases h; exact h2
  split at h <;> have h3 := (expanded (aged h2)).of_fst ‹_›
  · cases h; exact h3
  · split at h <;> cases h <;> exact h3

theorem translate_safe {s asid va s' y} (h : translate s asid va = (s', y)) (hs : s.Safe w) : s'.Safe w := by
  grind [translate, → walk_safe]

theorem reach_safe {s asid va s' y} (h : reach s asid va = (s', y)) (hs : s.Safe w) : s'.Safe w := by
  grind [reach, → translate_safe]

theorem permission_safe {s core asid va s' y} (h : permission s core asid va = (s', y)) (hs : s.Safe w) : s'.Safe w := by
  unfold permission at h
  split at h
  · cases h; exact hs
  · split at h
    · cases h; exact hs
    · split at h <;> cases h <;> have ht := translate_safe ‹_› hs
      · exact ht
      · exact ht.setCore fun hw => ⟨(ht.core core hw).1, List.length_take_le ..⟩

theorem checkAccess_safe {s c lane a va n s' y} (h : checkAccess s c lane a va n = (s', y)) (hs : s.Safe w) : s'.Safe w := by
  grind [checkAccess, → permission_safe]

theorem State.setL2_safe {s x} (hs : s.Safe w) : (State.setL2 s x).Safe w := hs

theorem remoteCount_safe {s e va} (hs : s.Safe w) : (remoteCount s e va).Safe w := by
  grind [remoteCount, ! => writePte_safe, ! => State.Safe.pokeN, State.Safe]

theorem flushLine_safe {s x} (hs : s.Safe w) : (flushLine s x).Safe w := by
  grind [flushLine, ! => memError_safe, ! => countSoft_safe, ! => State.Safe.pokeN, State.Safe]

theorem makeRoom_safe {s} (hs : s.Safe w) : (makeRoom s).Safe w := by
  grind [makeRoom, ! => flushLine_safe, State.Safe]

theorem fillL2_safe {s e asid line s' y} (h : fillL2 s e asid line = (s', y)) (hs : s.Safe w) : s'.Safe w := by
  grind [fillL2, ! => makeRoom_safe, ! => remoteCount_safe, ! => countRead_safe, State.Safe]

theorem homeLine_safe {s asid line s' y} (h : homeLine s asid line = (s', y)) (hs : s.Safe w) : s'.Safe w := by
  grind [homeLine, → reach_safe, → fillL2_safe, ! => countSoft_safe]

theorem installL1_safe {s core z} (hs : s.Safe w) : (installL1 s core z).Safe w := hs.modCore le_rfl le_rfl

theorem fillL1_safe {s core asid line s' y} (h : fillL1 s core asid line = (s', y)) (hs : s.Safe w) : s'.Safe w := by
  grind [fillL1, → homeLine_safe, ! => memError_safe, ! => State.setL2_safe, ! => installL1_safe]

theorem coreLine_safe {s core asid line s' y} (h : coreLine s core asid line = (s', y)) (hs : s.Safe w) : s'.Safe w := by
  grind [coreLine, → fillL1_safe]

theorem snapBytes_safe {s q va n s' y} (h : snapBytes s q va n = (s', y)) (hs : s.Safe w) : s'.Safe w := by
  grind [snapBytes, ! => memError_safe]

theorem markRead_safe {s core gid lane asid va n} (hs : s.Safe w) : (markRead s core gid lane asid va n).Safe w := hs

theorem ucBytes_safe {s e va n s' y} (h : ucBytes s e va n = (s', y)) (hs : s.Safe w) : s'.Safe w := by
  grind [ucBytes, ! => memError_safe, ! => countRead_safe]

theorem lineBytesAt_safe {s asid va n s' y} (h : lineBytesAt s asid va n = (s', y)) (hs : s.Safe w) : s'.Safe w := by
  grind [lineBytesAt, → homeLine_safe, ! => memError_safe]

theorem homeRead_safe {s asid va n s' y} (h : homeRead s asid va n = (s', y)) (hs : s.Safe w) : s'.Safe w := by
  grind [homeRead, → reach_safe, → ucBytes_safe, → lineBytesAt_safe]

theorem loadValue_safe {s core asid gid lane t acq e va n s' y} (h : loadValue s core asid gid lane t acq e va n = (s', y)) (hs : s.Safe w) : s'.Safe w := by
  grind [loadValue, → snapBytes_safe, → homeRead_safe, → lineBytesAt_safe, → reach_safe, → ucBytes_safe, ! => markRead_safe, → coreLine_safe]

theorem fibreLoad_safe {s c lane acq va n s' y} (h : fibreLoad s c lane acq va n = (s', y)) (hs : s.Safe w) : s'.Safe w := by
  grind [fibreLoad, → checkAccess_safe, → loadValue_safe]

theorem engHome_safe {s asid va n s' y} (h : engHome s asid va n = (s', y)) (hs : s.Safe w) : s'.Safe w := by
  grind [engHome, → homeRead_safe]

theorem readRecord_safe {n s c lane va s' y} (h : readRecord n s c lane va = (s', y)) (hs : s.Safe w) : s'.Safe w := by
  fun_induction readRecord n s c lane va generalizing s' y <;> grind [→ fibreLoad_safe]

theorem heldOr_safe {c s} {rd : State → State × Except (Nat × Nat) (List Byte)}
    (hr : ∀ s' r, rd s = (s', r) → s.Safe w → s'.Safe w) {s' r} (h : heldOr c s rd = (s', r)) (hs : s.Safe w) : s'.Safe w := by
  grind [heldOr]

theorem fetchNow_safe {s c s' y} (h : fetchNow s c = (s', y)) (hs : s.Safe w) : s'.Safe w := by
  grind [fetchNow, → checkAccess_safe, → reach_safe, → ucBytes_safe, → coreLine_safe]

theorem fetchWord_safe {s c s' y} (h : fetchWord s c = (s', y)) (hs : s.Safe w) : s'.Safe w := by
  grind [fetchWord, → fetchNow_safe]

theorem retire_safe {s c lane va bs kind floor e skip} (hs : s.Safe w) : (retire s c lane va bs kind floor e skip).Safe w := hs

theorem agentStore_safe {s agent agentId core asid va bs} (hs : s.Safe w) : (agentStore s agent agentId core asid va bs).Safe w := hs

theorem agentWrite_safe {n s agent agentId core asid va bs} (hs : s.Safe w) : (agentWrite n s agent agentId core asid va bs).Safe w := by
  fun_induction agentWrite n s agent agentId core asid va bs <;> grind [! => agentStore_safe]

theorem cowStore_safe {s c va bs s' y} (h : cowStore s c va bs = (s', y)) (hs : s.Safe w) : s'.Safe w := by
  grind [cowStore, ! => State.Safe.modTeam, → coreLine_safe]

theorem preserve_safe {s x} (hs : s.Safe w) : (preserve s x).Safe w := by grind [preserve, State.Safe]
theorem cleanSnaps_safe {s} (hs : s.Safe w) : (cleanSnaps s).Safe w := hs

theorem setDirty_safe {s e} (hs : s.Safe w) : (setDirty s e).Safe w := by
  grind [setDirty, ! => writePte_safe]

theorem dirtyLine_safe {s asid line s' y} (h : dirtyLine s asid line = (s', y)) (hs : s.Safe w) : s'.Safe w := by
  grind [dirtyLine, → reach_safe, ! => State.setL2_safe, ! => setDirty_safe, → fillL2_safe]

theorem pokeSkipping_safe {s owner pa bs skip} (hs : s.Safe w) : (pokeSkipping s owner pa bs skip).Safe w :=
  foldl_safe (fun _ _ hs => by split <;> [exact hs; exact State.framePokeN_safe hs]) hs

theorem frameWrite_safe {s e va bs skip} (hs : s.Safe w) : (frameWrite s e va bs skip).Safe w := by
  grind [frameWrite, ! => pokeSkipping_safe, ! => preserve_safe, ! => setDirty_safe]

theorem applyLine_safe {s x va bs skip} (hs : s.Safe w) : (applyLine s x va bs skip).Safe w := by
  have h : (preserve s x).Safe w := preserve_safe hs
  unfold applyLine
  dsimp only
  split
  · split <;> exact h
  · exact pokeSkipping_safe (by split <;> exact h)

theorem addTime_safe {s gid lane t far} (hs : s.Safe w) : (addTime s gid lane t far).Safe w := hs.modGroup rfl

theorem capLine_safe {s x} (hs : s.Safe w) : (capLine s x).Safe w := by
  grind [capLine, ! => State.setL2_safe]

/-! ### Functions of `Machine.LocalMem` -/

theorem laneLoop_safe {f : State → Nat → State × Except TrapItem (List Word)}
    (hf : ∀ s l s' r, f s l = (s', r) → s.Safe w → s'.Safe w) {ls s s' r} (h : laneLoop f ls s = (s', r)) (hs : s.Safe w) : s'.Safe w := by
  fun_induction laneLoop f ls s generalizing s' r <;> grind

theorem clearLocal_safe {s lo n} (hs : s.Safe w) : (clearLocal s lo n).Safe w :=
  { hs.kept with localMem := fun hw => NMap.wf_clear _ _ (hs.localMem hw) }
theorem allotPart_safe {s core kind part} (hs : s.Safe w) : (allotPart s core kind part).Safe w :=
  clearLocal_safe (hs.modCore le_rfl le_rfl)

theorem ctnRecord_safe {s core e} (hs : s.Safe w) : (ctnRecord s core e).Safe w := hs.modCore le_rfl le_rfl

theorem localError_safe {s p asid handle} (hs : s.Safe w) : (localError s p asid handle).Safe w := by
  grind [localError, ! => ctnRecord_safe, ! => memError_safe]

theorem setStash_safe {s tid k x} (hs : s.Safe w) : (setStash s tid k x).Safe w := hs

theorem newLease_safe {s asid line s' y} (h : newLease s asid line = (s', y)) (hs : s.Safe w) : s'.Safe w := by
  grind [newLease, ! => State.setL2_safe]

theorem refill_safe {s core off bs dirty} (hs : s.Safe w) : (refill s core off bs dirty).Safe w := by
  grind [refill, ! => State.Safe.pokeLocal, State.Safe]

theorem stashFillWith_safe {read : State → Nat → State × Except Nat (List Byte)}
    (hr : ∀ s a s' r, read s a = (s', r) → s.Safe w → s'.Safe w) {s p s' r} (h : stashFillWith read s p = (s', r)) (hs : s.Safe w) : s'.Safe w := by
  grind [stashFillWith, → newLease_safe, ! => refill_safe, ! => setStash_safe]

theorem stashFill_safe {s c lane p s' y} (h : stashFill s c lane p = (s', y)) (hs : s.Safe w) : s'.Safe w :=
  stashFillWith_safe (fun _ _ _ _ => fibreLoad_safe) h hs

theorem stashDirty_safe {s p n} (hs : s.Safe w) : (stashDirty s p n).Safe w := by
  grind [stashDirty, ! => setStash_safe]

theorem localRead_safe {s c lane a n al s' y} (h : localRead s c lane a n al = (s', y)) (hs : s.Safe w) : s'.Safe w := by
  grind [localRead, → stashFill_safe, ! => localError_safe]

theorem localWrite_safe {s p bs} (hs : s.Safe w) : (localWrite s p bs).Safe w := by
  grind [localWrite, ! => stashDirty_safe, ! => State.Safe.pokeLocal]

theorem localStore_safe {s c lane a bs s' y} (h : localStore s c lane a bs = (s', y)) (hs : s.Safe w) : s'.Safe w := by
  grind [localStore, → stashFill_safe, ! => localWrite_safe, State.Safe]

/-! ### Functions of `Machine.Recon` -/

theorem markWorn_safe {s} (hs : s.Safe w) : (markWorn s).Safe w := by
  grind [markWorn, ← State.noteHealth_safe, State.Safe]

theorem countCe_safe {s die} (hs : s.Safe w) : (countCe s die).Safe w := by
  grind [countCe, ← markWorn_safe, State.Safe]

theorem recordRecon_safe {s core m r src handle slot row col} (hs : s.Safe w) : (recordRecon s core m r src handle slot row col).Safe w :=
  by cases r <;> grind [recordRecon, ! => countCe_safe, ! => ctnRecord_safe]

/-! ### Functions of `Machine.Engine` -/

theorem engPage_safe {s asid va s' y} (h : engPage s asid va = (s', y)) (hs : s.Safe w) : s'.Safe w := by
  grind [engPage, → reach_safe]

theorem engPiece_safe {s t asid va n s' y} (h : engPiece s t asid va n = (s', y)) (hs : s.Safe w) : s'.Safe w := by
  grind [engPiece, → engPage_safe, → engHome_safe]

theorem readPieces_safe {rd : State → Nat → Nat → State × Except (Nat × Nat) (List Byte)}
    (hr : ∀ s a n s' r, rd s a n = (s', r) → s.Safe w → s'.Safe w) {ps s s' r} (h : readPieces rd ps s = (s', r)) (hs : s.Safe w) : s'.Safe w := by
  fun_induction readPieces rd ps s generalizing s' r <;> grind

theorem engRead_safe {s t asid va n s' y} (h : engRead s t asid va n = (s', y)) (hs : s.Safe w) : s'.Safe w :=
  readPieces_safe (fun _ _ _ _ _ => engPiece_safe) h hs

theorem engLocalPiece_safe {handle s t a n s' y} (h : engLocalPiece handle s t a n = (s', y)) (hs : s.Safe w) : s'.Safe w := by
  have fill {s p s' r} (h : stashFillWith (fun s base => engHome s t.asid.toNat base 128) s p = (s', r)) (hs : s.Safe w) : s'.Safe w :=
    stashFillWith_safe (fun _ _ _ _ => engHome_safe) h hs
  grind [engLocalPiece, ! => localError_safe]

theorem engLocalRead_safe {handle s t a n s' y} (h : engLocalRead handle s t a n = (s', y)) (hs : s.Safe w) : s'.Safe w :=
  readPieces_safe (fun _ _ _ _ _ => engLocalPiece_safe) h hs

theorem landLocal_safe {s core off bs} (hs : s.Safe w) : (landLocal s core off bs).Safe w := hs.pokeLocal
theorem opEnded_safe {s seq} (hs : s.Safe w) : (opEnded s seq).Safe w := hs
theorem dropFails_safe {s agent id} (hs : s.Safe w) : (dropFails s agent id).Safe w := hs

end Sys2Proof.Machine
end

section
/-! SUPPORT. The operations of counters, local and global accesses, codebook banks, control flow and tile work keep the invariant. -/

namespace Sys2Proof.Machine

variable {w : Wants}

/-! ### Functions of `Machine.Counters` -/

theorem fireSlots_safe {s n v} (hs : s.Safe w) : (fireSlots s n v).Safe w := hs
theorem wakeCounter_safe {s n v} (hs : s.Safe w) : (wakeCounter s n v).Safe w :=
  hs.mapGroups fun g hg => hg.foldSubs fun h u hh hu => by
    split
    · split
      · exact hh.setSub hu.dropChain.next
      · exact hh
    · exact hh
theorem setCounter_safe {s n v} (hs : s.Safe w) : (setCounter s n v).Safe w := wakeCounter_safe hs
theorem addCounter_safe {s n inc} (hs : s.Safe w) : (addCounter s n inc).Safe w := setCounter_safe hs

theorem raiseCounter_safe {s asid n} (hs : s.Safe w) : (raiseCounter s asid n).Safe w := by
  grind [raiseCounter, ! => addCounter_safe]

/-! ### Functions of `Machine.Fp` -/

theorem countRes_safe {r c ex s} (hs : s.Safe w) : (countRes r c ex s).Safe w := by
  grind [countRes, ! => Ctx.count_safe]

/-! ### Functions of `Machine.CrossLane` -/

theorem setNb_safe {s tid f g} (hs : s.Safe w) : (setNb s tid f g).Safe w := hs

/-! ### Functions of `Machine.Local` -/

theorem sweepWays_safe {s core ws n} (hs : s.Safe w) : (sweepWays s core ws n).Safe w := hs.modCore le_rfl le_rfl

theorem pagesReadable_safe {s core asid ps s' y} (h : pagesReadable s core asid ps = (s', y)) (hs : s.Safe w) : s'.Safe w := by
  fun_induction pagesReadable s core asid ps generalizing s' y <;> grind [→ permission_safe]

theorem addDefer_safe {s gid lane va pc asid tslot gslot cause size kind order issue} (hs : s.Safe w) :
    (addDefer s gid lane va pc asid tslot gslot cause size kind order issue).Safe w := hs.modGroup rfl

theorem writeBackLine_safe {c lane s place k va x} (hs : s.Safe w) : (writeBackLine c lane s place k va x).Safe w := by
  unfold writeBackLine
  dsimp only
  split
  · exact localError_safe hs
  · split <;> rename_i s1 _ h <;> have h : State.Safe w { s1 with sluice := s.sluice } := (checkAccess_safe h (by exact hs) :)
    · exact addDefer_safe h
    · split
      · refine foldl_safe (fun s r hs => ?_) h
        split <;> rename_i hc <;> have hc := cowStore_safe hc hs
        · exact addDefer_safe hc
        · exact hc
      · exact retire_safe h

theorem writeBackAll_safe {c lane ls s s' y} (h : writeBackAll c lane ls s = (s', y)) (hs : s.Safe w) : s'.Safe w := by
  fun_induction writeBackAll c lane ls s generalizing s' y <;> grind [! => writeBackLine_safe]

/-! ### Functions of `Machine.Global` -/

theorem loadLane_safe {c f size acq s l s' y} (h : loadLane c f size acq s l = (s', y)) (hs : s.Safe w) : s'.Safe w := by
  grind [loadLane, → fibreLoad_safe]

theorem addLate_safe {c f size s lanes} (hs : s.Safe w) : (addLate c f size s lanes).Safe w := hs.modGroup rfl

theorem storeLane_safe {c kind floor s l va bs s' y} (h : storeLane c kind floor s l va bs = (s', y)) (hs : s.Safe w) : s'.Safe w := by
  grind [storeLane, → checkAccess_safe, → cowStore_safe, ! => retire_safe]

theorem sendAtomic_safe {c s l va bs e} (hs : s.Safe w) : (sendAtomic c s l va bs e).Safe w := hs

theorem atomicWaits_safe {c n s l va s' y} (h : atomicWaits c n s l va = (s', y)) (hs : s.Safe w) : s'.Safe w := by
  grind [atomicWaits, → checkAccess_safe, → reach_safe, → homeLine_safe, ! => capLine_safe]

theorem anyWaits_safe {c n addr ls s s' y} (h : anyWaits c n addr ls s = (s', y)) (hs : s.Safe w) : s'.Safe w := by
  fun_induction anyWaits c n addr ls s generalizing s' y <;> grind [→ atomicWaits_safe]

theorem prefetchable_safe {s c line s' y} (h : prefetchable s c line = (s', y)) (hs : s.Safe w) : s'.Safe w := by
  grind [prefetchable, → permission_safe]

theorem invalidate_safe {s page line pair} (hs : s.Safe w) : (invalidate s page line pair).Safe w :=
  foldl_safe (fun _ _ hs => hs.modCore le_rfl (List.length_filter_le ..)) (foldl_safe (fun _ _ => flushLine_safe) hs : State.Safe w _)

/-! ### Functions of `Machine.Codebook` -/

theorem State.setBank_safe {s core b x} (hs : s.Safe w) : (State.setBank s core b x).Safe w := hs.modCore le_rfl le_rfl

theorem parityError_safe {s core bank entry handle} (hs : s.Safe w) : (parityError s core bank entry handle).Safe w := ctnRecord_safe hs

theorem firstUnreadable_safe {c lane n va s s' y} (h : firstUnreadable c lane n va s = (s', y)) (hs : s.Safe w) : s'.Safe w := by
  fun_induction firstUnreadable c lane n va s generalizing s' y <;> grind [→ checkAccess_safe]

theorem readEntries_safe {t core asid gid lane n va s s' y} (h : readEntries t core asid gid lane n va s = (s', y)) (hs : s.Safe w) : s'.Safe w := by
  fun_induction readEntries t core asid gid lane n va s generalizing s' y <;> grind [→ translate_safe, → loadValue_safe, → homeRead_safe]

/-! ### Functions of `Machine.Control` -/

theorem split_safe {c s m target slot issue} (hc : c.Safe w) (hs : s.Safe w) : (split c s m target slot issue).Safe w := by
  have hu : Sub.Safe w { c.u with wait := .ready } := hc.2
  exact hs.modGroup_of fun _ hg => SubsSafe.append (hg.setSub (by exact hu.dropChain.next)) (SubsSafe.one (by exact hu.jump))
theorem State.modSub_safe {s gid lane h} (hs : s.Safe w) (hh : ∀ u, u.Safe w → (h u).Safe w) : (State.modSub s gid lane h).Safe w :=
  hs.modGroup_of fun _ hg => SubsSafe.map hg fun u hu => by split <;> [exact hh u hu; exact hu]

theorem mergeSubs_safe {us pc v} (h : mergeSubs us pc = some v) (hus : ∀ u ∈ us, u.Safe w) : v.Safe w := by
  cases us with
  | nil => cases h
  | cons u rest =>
    cases h
    refine Sub.Safe.next (Sub.Safe.dropChain (Sub.Safe.of_frames ?_ rfl rfl rfl))
    refine List.foldlRecOn (motive := Sub.Safe w) rest _ (hus u (List.mem_cons_self ..)) fun a (ha : a.Safe w) b hb => ?_
    split
    · exact hus b (List.mem_cons_of_mem _ hb)
    · exact ha

theorem testRendezvous_safe {s gid n pc} (hs : s.Safe w) : (testRendezvous s gid n pc).Safe w := by
  unfold testRendezvous
  split
  · exact hs
  next g hg =>
  dsimp only
  split
  · exact hs
  split
  · split
    · split
      · have hv := mergeSubs_safe ‹_› fun u hu => hs.group? hg u (List.mem_filter.1 hu).1
        exact hs.modGroup_of fun _ hg => SubsSafe.append (SubsSafe.filter hg) (SubsSafe.one hv)
      · exact hs
    · split
      · exact trapWith_safe (hs.ctxOf ‹_›) hs fun _ hu => hu
      · exact hs
  · exact hs

theorem testMask_safe {s gid n} (hs : s.Safe w) : (testMask s gid n).Safe w := by
  unfold testMask
  split
  · exact hs
  · exact foldl_safe (fun _ _ => testRendezvous_safe) hs

theorem testMasks_safe {s gid} (hs : s.Safe w) : (testMasks s gid).Safe w :=
  foldl_safe (fun _ _ => testMask_safe) hs

theorem parkLast_safe {c s x} (hc : c.Safe w) (hs : s.Safe w) : (parkLast c s x).Safe w :=
  hs.modGroup_of fun _ hg => SubsSafe.append (SubsSafe.filter hg) (SubsSafe.one hc.2)

theorem bodyWords_safe {c n pc s s' y} (h : bodyWords c n pc s = (s', y)) (hs : s.Safe w) : s'.Safe w := by
  fun_induction bodyWords c n pc s generalizing s' y <;> grind [→ fetchNow_safe]

theorem bufferBody_safe {c s first last} (hs : s.Safe w) : (bufferBody c s first last).Safe w := by
  grind [bufferBody, → bodyWords_safe, ← State.Safe.modCore]

theorem endBarWaits_safe {s tid n gen} (hs : s.Safe w) : (endBarWaits s tid n gen).Safe w :=
  hs.mapGroups fun g hg => by
    split
    · refine hg.foldSubs fun h u hh hu => ?_
      split
      · split
        · split <;> exact hh.setSub hu.dropChain.next
        · exact hh
      · exact hh
    · exact hg

theorem testBarrier_safe {s tid n} (hs : s.Safe w) : (testBarrier s tid n).Safe w := by
  unfold testBarrier
  split
  · exact hs
  · dsimp only
    split
    · exact endBarWaits_safe (hs.modTeam.mapGroups fun g hg => by split <;> exact hg)
    · exact hs

theorem testBarriers_safe {s tid} (hs : s.Safe w) : (testBarriers s tid).Safe w :=
  foldl_safe (fun _ _ => testBarrier_safe) hs

theorem arriveAt_safe {c s n m} (hs : s.Safe w) : (arriveAt c s n m).Safe w :=
  State.Safe.modTeam (hs.modGroup (by rfl))

/-! ### Functions of `Machine.Tile` -/

theorem enqueue_safe {s core o} (hs : s.Safe w) (hq : (s.core core).tileQ.length < 16) : (enqueue s core o).Safe w :=
  hs.setCore fun hw => ⟨by rw [List.length_append]; exact hq, (hs.core core hw).2⟩
theorem State.setAcc_safe {s core slot a} (hs : s.Safe w) : (State.setAcc s core slot a).Safe w := hs.modCore le_rfl le_rfl

theorem State.setOpAcc_safe {s core o a} (hs : s.Safe w) : (State.setOpAcc s core o a).Safe w := by
  grind [State.setOpAcc, ! => State.setAcc_safe, ← State.Safe.modCore]

theorem trimLost_safe {s core} (hs : s.Safe w) : (trimLost s core).Safe w := hs.modCore le_rfl le_rfl

theorem readBlock_safe {local_ n s c lane a s' y} (h : readBlock local_ n s c lane a = (s', y)) (hs : s.Safe w) : s'.Safe w := by
  unfold readBlock at h
  split at h
  · obtain rfl : _ = s' := congrArg Prod.fst h
    exact foldl_fst_safe (fun acc i ha => by grind [→ localRead_safe]) hs
  · exact readRecord_safe h hs

theorem opRead_safe {handle s t loc addr n s' y} (h : opRead handle s t loc addr n = (s', y)) (hs : s.Safe w) : s'.Safe w := by
  grind [opRead, → engLocalRead_safe, → engRead_safe]

theorem expandIdx_safe {s t bank raw handle idx s' y} (h : expandIdx s t bank raw handle idx = (s', y)) (hs : s.Safe w) : s'.Safe w := by
  grind [expandIdx, ! => parityError_safe]

theorem rowCodes_safe {s t b o handle r s' y} (h : rowCodes s t b o handle r = (s', y)) (hs : s.Safe w) : s'.Safe w := by
  grind [rowCodes, → opRead_safe, → expandIdx_safe]

theorem readScale_safe {handle s t loc addr s' y} (h : readScale handle s t loc addr = (s', y)) (hs : s.Safe w) : s'.Safe w := by
  grind [readScale, → opRead_safe]

theorem rowChans_safe {s t b o handle r s' y} (h : rowChans s t b o handle r = (s', y)) (hs : s.Safe w) : s'.Safe w := by
  unfold rowChans at h
  dsimp only at h
  split at h
  · obtain rfl : _ = s' := congrArg Prod.fst h
    exact foldl_fst_safe (fun acc ch ha => by grind [→ opRead_safe]) hs
  · grind [→ opRead_safe, → expandIdx_safe]

theorem convElem_safe {handle s t b tsr j k s' y} (h : convElem handle s t b tsr j k = (s', y)) (hs : s.Safe w) : s'.Safe w := by
  grind [convElem, → opRead_safe]

theorem convColumn_safe {handle s t b tsr j s' y} (h : convColumn handle s t b tsr j = (s', y)) (hs : s.Safe w) : s'.Safe w := by
  obtain rfl : _ = s' := congrArg Prod.fst h
  exact foldl_fst_safe (fun acc k ha => by grind [→ convElem_safe]) hs

theorem fetchRow_safe {s t b tsr o handle r s' y} (h : fetchRow s t b tsr o handle r = (s', y)) (hs : s.Safe w) : s'.Safe w := by
  grind [fetchRow, → rowChans_safe, → readScale_safe, → convColumn_safe, → rowCodes_safe]

theorem fetchRows_safe {t b tsr o handle rs s s' y} (h : fetchRows t b tsr o handle rs s = (s', y)) (hs : s.Safe w) : s'.Safe w := by
  fun_induction fetchRows t b tsr o handle rs s generalizing s' y <;> grind [→ fetchRow_safe]

theorem multicast_safe {s t o b rows s' y} (h : multicast s t o b rows = (s', y)) (hs : s.Safe w) : s'.Safe w := by
  obtain rfl : _ = s' := congrArg Prod.fst h
  exact foldl_fst_safe (fun acc core ha => by grind [! => landLocal_safe]) hs

theorem runTile_safe {s t o b s' y} (h : runTile s t o b = (s', y)) (hs : s.Safe w) : s'.Safe w := by
  have opened {p : Prop} [Decidable p] {handle loc addr n} : (if p then opRead handle s t loc addr n else (s, .ok [])).1.Safe w := by
    split <;> [exact opRead_safe rfl hs; exact hs]
  unfold runTile at h
  dsimp only at h
  split at h <;> have h1 := opened.of_fst ‹_›
  · cases h; exact State.setOpAcc_safe h1
  split at h
  · cases h; exact State.setOpAcc_safe h1
  split at h <;> have h2 := fetchRows_safe ‹_› h1
  · cases h; exact State.setOpAcc_safe h2
  split at h <;> have h3 := fetchRows_safe ‹_› h2
  · cases h; exact State.setOpAcc_safe h3
  split at h
  · cases h; exact State.setOpAcc_safe h3
  · cases h; exact State.setOpAcc_safe (multicast_safe rfl h3)

theorem dropFirst_length (p : TileOp → Bool) (q : List TileOp) : (dropFirst p q).length ≤ q.length := by
  induction q with
  | nil => exact le_rfl
  | cons x q ih => rw [dropFirst]; split <;> simp [ih]

theorem startedQ_length (o : TileOp) (q : List TileOp) : (startedQ o q).length = q.length := by
  induction q with
  | nil => rfl
  | cons x q ih => rw [startedQ]; split <;> simp [ih]

theorem finishOp_safe {s core o code kind fault} (hs : s.Safe w) : (finishOp s core o code kind fault).Safe w := by
  have h : (trimLost (s.modCore core fun y => { y with tileQ := dropFirst (fun q => q == o) y.tileQ }) core).Safe w :=
    trimLost_safe (hs.modCore (dropFirst_length ..) le_rfl)
  unfold finishOp
  dsimp only
  generalize trimLost _ core = t at h
  split
  · exact addDefer_safe h
  · exact h

theorem takeModuli_safe {s t m} (hs : s.Safe w) : (takeModuli s t m).Safe w :=
  foldl_safe (fun s _ hs => by grind [! => State.setAcc_safe]) hs

end Sys2Proof.Machine
end

section
/-! SUPPORT. The operations of counters, local and global accesses, codebook banks, control flow and tile work keep the invariant. -/

namespace Sys2Proof.Machine

variable {w : Wants}

/-! ### Functions of `Machine.Ending` -/

theorem State.modLaunch_safe {s seq f} (hs : s.Safe w) : (State.modLaunch s seq f).Safe w := hs

theorem releaseAllot_safe {s t} (hs : s.Safe w) : (releaseAllot s t).Safe w := by
  have h : ((s.modCore t.core fun y => { y with lostAccs := y.lostAccs ++ (slotsQueued s t).map fun i => (t.tid, i, NMap.get Acc.empty i y.accs) }).modCore t.core
      fun y => { y with
        banks := (List.range 8).foldl (fun m b => if (NMap.get Bank.free b m).ownedBy t then NMap.set Bank.free b Bank.free m else m) y.banks
        images := y.images.filter fun x => t.image != some x.ref || s.teams.any fun u => u.tid != t.tid && u.core == t.core && u.image == some x.ref }).Safe w :=
    (hs.modCore le_rfl le_rfl).modCore le_rfl le_rfl
  exact dropRowWait_safe (cleanSnaps_safe { h.kept with groups := fun g hg => h.groups g (List.mem_filter.1 hg).1 })

theorem returnRegions_safe {s seq} (hs : s.Safe w) : (returnRegions s seq).Safe w := by
  grind [returnRegions, ! => State.modLaunch_safe, State.Safe]

theorem endStash_safe {s t} (hs : s.Safe w) : (endStash s t).Safe w :=
  foldl_safe (fun s q hs => by
    dsimp only
    split
    · exact hs
    · split
      · exact localError_safe hs
      · exact foldl_safe (fun _ _ => agentStore_safe) hs) hs

theorem keepPublications_safe {s t} (hs : s.Safe w) : (keepPublications s t).Safe w := by
  grind [keepPublications, ! => State.modLaunch_safe]

theorem endTeam_safe {s tid} (hs : s.Safe w) : (endTeam s tid).Safe w := by
  unfold endTeam
  split
  · exact hs
  · rename_i t _
    extract_lets s1 s2 s3
    have h2 : s2.Safe w := releaseAllot_safe (keepPublications_safe (endStash_safe hs))
    have h3 : s3.Safe w := by grind [State.Safe]
    clear_value s3
    split <;> grind [! => returnRegions_safe, ! => State.modLaunch_safe, State.Safe]

theorem endIfEmpty_safe {s tid} (hs : s.Safe w) : (endIfEmpty s tid).Safe w := by
  grind [endIfEmpty, ! => checkExhausted_safe, ! => endTeam_safe]

theorem endGroup_safe {s g} (hs : s.Safe w) : (endGroup s g).Safe w :=
  dropRowWait_safe { hs.kept with groups := fun _ hg => hs.groups _ (List.mem_filter.1 hg).1 }

theorem endFibres_safe {s gid m} (hs : s.Safe w) : (endFibres s gid m).Safe w := by
  unfold endFibres
  split
  · exact hs
  rename_i g hg
  have ends {ls : List Nat} {s : State} (hs : s.Safe w) : (ls.foldl (fun s l => setNb s g.tid (32 * g.gslot + l)
      fun x => { x with live := false, ended := true }) s).Safe w := foldl_safe (fun _ _ => setNb_safe) hs
  extract_lets m pass s1 s2 ended s3 g1 s4 s5 core s6
  have h1 : s1.Safe w := by grind [! => State.modLaunch_safe]
  have h3 : s3.Safe w := ends h1
  have hg1 : g1.Safe w := SubsSafe.filter (SubsSafe.map (hs.group? hg) fun _ hu => hu)
  have h5 : s5.Safe w := h3.modGroup_of fun _ _ => hg1
  have h6 : s6.Safe w := by grind [! => testBarriers_safe, ! => endGroup_safe, ! => testMasks_safe]
  exact endIfEmpty_safe (checkExhausted_safe h6)

theorem deliverRestored_safe {c s} (hc : c.Safe w) (hs : s.Safe w) : (deliverRestored c s).Safe w := (trapWith_safe hc hs fun _ hu => hu).modTeam

/-! ### Functions of `Machine.Form` -/

theorem newSub_safe {pc live slot is} : (newSub pc live slot is).Safe w := fun _ => ⟨by simp [newSub], by simp [newSub], by simp [newSub], rfl⟩

theorem formGroup_safe {s t gslot role live idx st} (hs : s.Safe w) : (formGroup s t gslot role live idx st).Safe w :=
  foldl_safe (fun _ _ => setNb_safe) { hs.kept with
    groups := fun g hg => (List.mem_append.1 hg).elim (hs.groups g) fun hg => by
      rw [List.mem_singleton.1 hg]
      exact SubsSafe.one newSub_safe }

theorem readImage_safe {s r off n s' y} (h : readImage s r off n = (s', y)) (hs : s.Safe w) : s'.Safe w := by
  grind [readImage, → engRead_safe]

theorem imageSlot_safe {s core r b s' y} (h : imageSlot s core r b = (s', y)) (hs : s.Safe w) : s'.Safe w := by
  grind [imageSlot, ← State.Safe.modCore]

theorem loadBanks_safe {owner img hdr core bs s s' y} (h : loadBanks owner img hdr core bs s = (s', y)) (hs : s.Safe w) : s'.Safe w := by
  fun_induction loadBanks owner img hdr core bs s generalizing s' y <;> grind [→ readImage_safe, ! => State.setBank_safe]

theorem takeParts_safe {s core seq ways segs cols s' y} (h : takeParts s core seq ways segs cols = (s', y)) (hs : s.Safe w) : s'.Safe w := by
  obtain rfl : _ = s' := congrArg Prod.fst h
  have parts (k : Nat) (l : List Nat) {s : State} (hs : s.Safe w) : (l.foldl (fun s i => allotPart s core k i) s).Safe w :=
    foldl_safe (fun _ _ => allotPart_safe) hs
  dsimp only [takeParts]
  refine parts _ _ (parts _ _ ?_)
  split
  · exact hs
  · exact parts _ _ (sweepWays_safe hs)

theorem formItems_safe {t p child count st gs s} (hs : s.Safe w) : (formItems t p child count st gs s).Safe w := by
  fun_induction formItems t p child count st gs s <;> grind [! => formGroup_safe]

theorem placeTeam_safe {s L p no core s'} (h : placeTeam s L p no core = some s') (hs : s.Safe w) : s'.Safe w := by
  have slots {core : Nat} {t : Team} {l : List Nat} {s : State} (hs : s.Safe w) :
      (l.foldl (fun s i => if ownsSlot t i then s.setAcc core i Acc.empty else s) s).Safe w :=
    foldl_safe (fun _ _ hs => by split <;> [exact State.setAcc_safe hs; exact hs]) hs
  unfold placeTeam at h
  dsimp only at h
  split at h
  · cases h
  next s1 hdr h1 =>
  replace h1 : s1.Safe w := by
    split at h1
    · cases h1; exact hs
    · exact readImage_safe h1 hs
  split at h
  · cases h
  next s2 bhdr h2 =>
  replace h2 : s2.Safe w := by
    split at h2
    · exact readImage_safe h2 h1
    · cases h2; exact h1
  split at h
  · cases h
  next s3 h3 =>
  replace h3 : s3.Safe w := loadBanks_safe h3 h2
  have h4 := takeParts_safe (core := core) (seq := L.seq) (ways := pWays L.pkt) (segs := pTbuf L.pkt) (cols := pColb L.pkt) rfl h3
  split at h <;> cases h
  · split
    · exact formGroup_safe (slots (hs := by exact h4))
    · exact formItems_safe (slots (hs := by exact h4))
  · exact formItems_safe (imageSlot_safe rfl (slots (hs := by exact h4)))

theorem placeService_safe {s core tslot kind asid priv live idx st} (hs : s.Safe w) : (placeService s core tslot kind asid priv live idx st).Safe w :=
  formGroup_safe hs

/-! ### Functions of `Machine.Spawn` -/

theorem setBins_safe {s core bs} (hs : s.Safe w) : (setBins s core bs).Safe w := hs.modCore le_rfl le_rfl
theorem replaceBin_safe {s core b} (hs : s.Safe w) : (replaceBin s core b).Safe w := setBins_safe hs

theorem binStart_safe {s t entry s' y} (h : binStart s t entry = (s', y)) (hs : s.Safe w) : s'.Safe w := by
  grind [binStart, → readImage_safe, → imageSlot_safe]

theorem formBin_safe {s core b s'} (h : formBin s core b = some s') (hs : s.Safe w) : s'.Safe w := by
  unfold formBin at h
  split at h
  · cases h
  rename_i t _
  dsimp only at h
  split at h
  · cases h
  split at h
  · cases h
  rename_i s0 st h0
  replace h0 := binStart_safe h0 hs
  split at h
  · cases h
  rename_i s2 h2
  cases h
  have h1 : s2.Safe w := by
    refine privatise_safe h2 ?_
    split <;> exact formGroup_safe h0
  refine setBins_safe (h1.modGroup_of fun g hg => ?_)
  split
  · exact SubsSafe.map (hg.of_subs (by rfl)) fun _ hu => hu
  · exact hg.of_subs (by rfl)

theorem closeBin_safe {s core b} (hs : s.Safe w) : (closeBin s core b).Safe w := by
  dsimp only [closeBin]
  cases h : formBin _ core _ with
  | none => exact replaceBin_safe hs
  | some s' => exact formBin_safe h (replaceBin_safe hs)

theorem spawnOne_safe {s t role entry arg ord src} (hs : s.Safe w) : (spawnOne s t role entry arg ord src).Safe w := by
  unfold spawnOne
  extract_lets bs best fresh put
  have put_safe {b isNew} : (put b isNew).Safe w := by
    grind [! => setBins_safe, ! => replaceBin_safe, ! => closeBin_safe]
  clear_value put best fresh
  cases best
  · cases fresh
    · exact hs
    · exact put_safe
  · exact put_safe

/-! ### Functions of `Machine.Template` -/

theorem modRegion_safe {s entry f} (hs : s.Safe w) : (modRegion s entry f).Safe w := hs

theorem reportCarried_safe {s core carried} (hs : s.Safe w) : (reportCarried s core carried).Safe w :=
  foldl_safe (fun _ i hs => by
    cases carried i with
    | none => exact hs
    | some b => exact foldl_safe (fun _ _ => parityError_safe) hs) hs

theorem stamp_safe {c s r lane count} (hs : s.Safe w) : (stamp c s r lane count).Safe w := by
  unfold stamp
  extract_lets k s1 s2 s3 s3' s4
  have h3 : s3'.Safe w := by
    unfold s3'
    split <;> exact hs
  exact returnRegions_safe (endFibres_safe (h3.modGroup rfl))

/-! ### Functions of `Machine.Sched` -/

theorem completeLaunch_safe {s seq code} (hs : s.Safe w) : (completeLaunch s seq code).Safe w := by
  unfold completeLaunch
  split
  · exact hs
  · dsimp only
    split <;> [exact raiseCounter_safe hs; exact hs]

theorem markLate_safe {s seq} (hs : s.Safe w) : (markLate s seq).Safe w := by
  unfold markLate
  split
  · exact hs
  · split
    · exact hs
    · dsimp only
      split <;> [exact completeLaunch_safe hs; exact hs]

theorem queueLaunch_safe {s e asid pkt va} (hs : s.Safe w) : (queueLaunch s e asid pkt va).Safe w := by
  unfold queueLaunch
  extract_lets L r s1
  have h1 : s1.Safe w := hs
  split
  · exact completeLaunch_safe h1
  · split
    · exact completeLaunch_safe h1
    · split <;> [exact markLate_safe h1; exact h1]

theorem readModuli_safe {s L s' y} (h : readModuli s L = (s', y)) (hs : s.Safe w) : s'.Safe w := by
  grind [readModuli, → engRead_safe]

theorem notePlaced_safe {s L p m} (hs : s.Safe w) : (notePlaced s L p m).Safe w := by cases p <;> exact hs
theorem takeRegion_safe {s L e} (hs : s.Safe w) : (takeRegion s L e).Safe w := hs

theorem launchModuli_safe {s L s' y} (h : launchModuli s L = (s', y)) (hs : s.Safe w) : s'.Safe w := by
  grind [launchModuli, → readModuli_safe]

theorem placeOne_safe {s L p s'} (h : placeOne s L p = some s') (hs : s.Safe w) : s'.Safe w := by
  unfold placeOne at h
  dsimp only at h
  split at h
  · split at h
    · cases h; exact completeLaunch_safe hs
    · split at h
      · cases h
      · cases h; exact completeLaunch_safe (launchModuli_safe ‹_› hs)
      · obtain ⟨s1, h1, rfl⟩ := Option.map_eq_some_iff.mp h
        have h0 := placeTeam_safe h1 (launchModuli_safe ‹_› hs)
        refine notePlaced_safe ?_
        split <;> [exact takeRegion_safe h0; exact h0]
  · cases h

theorem placeAll_safe {L m core n no s s'} (h : placeAll L m core n no s = some s') (hs : s.Safe w) : s'.Safe w := by
  fun_induction placeAll L m core n no s <;> grind [→ placeTeam_safe, ! => notePlaced_safe]

theorem placeGang_safe {s L s'} (h : placeGang s L = some s') (hs : s.Safe w) : s'.Safe w := by
  grind [placeGang, → launchModuli_safe, ! => completeLaunch_safe, → placeAll_safe]

theorem placeNext_safe {s L s'} (h : placeNext s L = some s') (hs : s.Safe w) : s'.Safe w := by
  grind [placeNext, → placeGang_safe, → placeOne_safe]

theorem statsFault_safe {s L va} (hs : s.Safe w) : (statsFault s L va).Safe w := hs

/-! ### Functions of `Machine.Curfew` -/

theorem withdraw_safe {s g u n} (hs : s.Safe w) : (withdraw s g u n).Safe w := hs.modGroup (by rfl)

theorem stopOne_safe {s gid lane} (hs : s.Safe w) : (stopOne s gid lane).Safe w := by
  unfold stopOne
  split
  · exact hs
  rename_i c hc
  replace hc := hs.ctxOf hc
  have halt {s : State} {k : Nat} (hs : s.Safe w) : (c.setSub s { c.u.dropChain with wait := .stopped k, stopPending := false }).Safe w := hs.setSub hc.2
  dsimp only
  split
  · exact hs
  split
  case h_1 | h_2 | h_3 => exact hs
  case h_4 | h_5 | h_6 => split <;> [exact halt hs; exact hs.setSub hc.2]
  case h_7 => exact halt (by split <;> [exact withdraw_safe hs; exact hs])
  all_goals exact halt hs

theorem settleStop_safe {s gid lane} (hs : s.Safe w) : (settleStop s gid lane).Safe w := by
  unfold settleStop
  split
  · exact hs
  · split <;> [exact stopOne_safe (hs.setSub (hs.ctxOf ‹_›).2); exact hs]

theorem curfewOn_safe {s L t base n} (hs : s.Safe w) : (curfewOn s L t base n).Safe w :=
  hs.mapGroups fun g hg => by
    split
    · exact SubsSafe.map hg fun u hu => by split <;> [exact hu.dropChain.next; exact hu]
    · exact hg

theorem raiseCurfew_safe {s L} (hs : s.Safe w) : (raiseCurfew s L).Safe w := by
  grind [raiseCurfew, ! => curfewOn_safe]

end Sys2Proof.Machine
end

section
/-! SUPPORT. The copy engines, the brine lanes, the fabric and the stores keep the invariant. -/

namespace Sys2Proof.Machine

variable {w : Wants}

/-! ### Functions of `Machine.Sluice` -/

theorem dropEngineEntry_safe {s order} (hs : s.Safe w) : (dropEngineEntry s order).Safe w := cleanSnaps_safe hs

/-! ### Functions of `Machine.Cryst` -/

theorem putCrystSlot_safe {s r slot bs} (hs : s.Safe w) : (putCrystSlot s r slot bs).Safe w := by
  unfold putCrystSlot
  generalize List.range 256 = l
  exact { hs.kept with crystMem := fun hw => wf_foldl_set (hs.crystMem hw) }

theorem State.setRegion_safe {s r x} (hs : s.Safe w) : (State.setRegion s r x).Safe w := hs

theorem putLine_safe {s r b bs s' y} (h : putLine s r b bs = (s', y)) (hs : s.Safe w) : s'.Safe w := by
  grind [putLine, ! => putCrystSlot_safe, ! => State.noteHealth_safe, ! => State.setRegion_safe]

theorem moveGap_safe {s r s' y} (h : moveGap s r = (s', y)) (hs : s.Safe w) : s'.Safe w := by
  grind [moveGap, → putLine_safe, ! => State.setRegion_safe]

theorem dropCrystLines_safe {s c s' y} (h : dropCrystLines s c = (s', y)) (hs : s.Safe w) : s'.Safe w := by
  grind [dropCrystLines, State.Safe]

theorem preserveCryst_safe {s c} (hs : s.Safe w) : (preserveCryst s c).Safe w :=
  foldl_safe (fun _ _ => preserve_safe) hs

theorem crystLineWrite_safe {s c bs s' y} (h : crystLineWrite s c bs = (s', y)) (hs : s.Safe w) : s'.Safe w := by
  unfold crystLineWrite at h
  dsimp only at h
  split at h <;> rename_i s1 h1 <;> replace h1 := putLine_safe h1 (preserveCryst_safe hs)
  · cases h; exact h1
  · split at h <;> cases h
    · exact dropCrystLines_safe rfl (moveGap_safe rfl h1)
    · exact dropCrystLines_safe rfl h1

/-! ### Functions of `Machine.Copy` -/

theorem stashHome_safe {s p s' y} (h : stashHome s p = (s', y)) (hs : s.Safe w) : s'.Safe w := by
  grind [stashHome, → stashFillWith_safe, → engHome_safe]

theorem opLocalPiece_safe {o s a n s' y} (h : opLocalPiece o s a n = (s', y)) (hs : s.Safe w) : s'.Safe w := by
  grind [opLocalPiece, → stashHome_safe, ! => localError_safe]

theorem opGlobalPiece_safe {o snap s a n s' y} (h : opGlobalPiece o snap s a n = (s', y)) (hs : s.Safe w) : s'.Safe w := by
  grind [opGlobalPiece, → engPage_safe, ! => memError_safe, → engPiece_safe]

theorem copyRead_safe {o loc snap s a n s' y} (h : copyRead o loc snap s a n = (s', y)) (hs : s.Safe w) : s'.Safe w :=
  readPieces_safe (fun _ _ _ _ _ h => by grind [→ opLocalPiece_safe, → opGlobalPiece_safe]) h hs

theorem writeCheck_safe {s asid a s' y} (h : writeCheck s asid a = (s', y)) (hs : s.Safe w) : s'.Safe w := by
  grind [writeCheck, → translate_safe]

theorem copyWritePiece_safe {loc acc a bs}  (ha : acc.1.Safe w) : (copyWritePiece loc acc a bs).1.Safe w := by
  grind [copyWritePiece, → stashHome_safe, ! => landLocal_safe, ! => stashDirty_safe, → writeCheck_safe, ! => agentStore_safe]

theorem copyWrite_safe {loc acc a bs} (ha : acc.1.Safe w) : (copyWrite loc acc a bs).1.Safe w :=
  foldl_fst_safe (fun _ _ => copyWritePiece_safe) ha

theorem withRead_safe {acc loc snap a n} {k : State × CopyOp → List Byte → State × CopyOp}
    (hk : ∀ acc bs, acc.1.Safe w → (k acc bs).1.Safe w) (ha : acc.1.Safe w) : (withRead acc loc snap a n k).1.Safe w := by
  grind [withRead, → copyRead_safe]

theorem countOp_safe {acc kind n} (ha : acc.1.Safe w) : (countOp acc kind n).1.Safe w := State.countFor_safe ha

theorem rowSb12_safe {r row acc src} (ha : acc.1.Safe w) : (rowSb12 r row acc src).1.Safe w :=
  foldl_fst_safe (fun acc b ha => by
    dsimp only
    split
    · exact ha
    · exact copyWrite_safe (copyWrite_safe (countOp_safe (countOp_safe ha)))) ha

theorem rowRp16_safe {r row acc src sc} (ha : acc.1.Safe w) : (rowRp16 r row acc src sc).1.Safe w :=
  foldl_fst_safe (fun _ _ => copyWrite_safe) (countOp_safe ha)

theorem rowBf16_safe {r row acc src sc} (ha : acc.1.Safe w) : (rowBf16 r row acc src sc).1.Safe w := copyWrite_safe ha

theorem rowDrain_safe {r row acc} (ha : acc.1.Safe w) : (rowDrain r row acc).1.Safe w :=
  foldl_fst_safe (fun acc i ha => by
    dsimp only
    split
    · exact ha
    · split
      · exact ha
      · exact withRead_safe (fun acc bs ha => by grind [→ crystLineWrite_safe, ! => memError_safe]) ha) ha

theorem copyRow_safe {idx acc row} (ha : acc.1.Safe w) : (copyRow idx acc row).1.Safe w := by
  have scales {k : State × CopyOp → List Byte → State × CopyOp} (hk : ∀ acc sc, acc.1.Safe w → (k acc sc).1.Safe w) {loc snap a n}
      {acc : State × CopyOp} {b : Bool} (ha : acc.1.Safe w) : (if b then withRead acc loc snap a n fun acc sc =>
        if badScales sc then (acc.1, acc.2.fail (6, 0)) else k acc sc else k acc []).1.Safe w := by
    split
    · exact withRead_safe (fun acc sc => by grind) ha
    · exact hk acc [] ha
  unfold copyRow
  dsimp only
  split
  · exact rowDrain_safe ha
  · split
    · exact withRead_safe (fun _ _ => copyWrite_safe) ha
    · refine withRead_safe (fun acc bs ha => ?_) ha
      split
      · exact rowSb12_safe ha
      · split
        · exact scales (fun _ _ => rowRp16_safe) ha
        · split
          · exact scales (fun _ _ => rowBf16_safe) ha
          · exact copyWrite_safe ha

theorem runCopy_safe {s o s' y} (h : runCopy s o = (s', y)) (hs : s.Safe w) : s'.Safe w := by
  obtain rfl : _ = s' := congrArg Prod.fst h
  unfold runCopy
  dsimp only
  split
  · refine withRead_safe (fun acc idx ha => ?_) (by exact hs)
    split
    · exact ha
    · exact foldl_fst_safe (fun _ _ => copyRow_safe) ha
  · exact foldl_fst_safe (fun _ _ => copyRow_safe) (by exact hs)

theorem setCopyTicket_safe {s unit_ e t} (hs : s.Safe w) : (setCopyTicket s unit_ e t).Safe w := hs
theorem doneCopy_safe {s unit_ e status} (hs : s.Safe w) : (doneCopy s unit_ e status).Safe w := hs

theorem endCopy_safe {s o bytes cause code} (hs : s.Safe w) : (endCopy s o bytes cause code).Safe w := by
  have h1 : (dropFails (dropEngineEntry s o.order) 1 o.order).Safe w := dropFails_safe (dropEngineEntry_safe hs)
  refine doneCopy_safe (opEnded_safe ?_)
  split <;> [exact raiseCounter_safe h1; exact h1]

theorem readAll_safe {s order} (hs : s.Safe w) : (readAll s order).Safe w := hs

theorem newCopy_safe {s unit_ e asid s' y} (h : newCopy s unit_ e asid = (s', y)) (hs : s.Safe w) : s'.Safe w := by
  cases h
  exact hs

/-! ### Functions of `Machine.Brine` -/

theorem readTableImage_safe {s c va s' y} (h : readTableImage s c va = (s', y)) (hs : s.Safe w) : s'.Safe w := by
  grind [readTableImage, → readRecord_safe]

theorem jobRead_safe {j s a n s' y} (h : jobRead j s a n = (s', y)) (hs : s.Safe w) : s'.Safe w := by
  grind [jobRead, → engRead_safe]

theorem destFault_safe {asid ps s s' y} (h : destFault asid ps s = (s', y)) (hs : s.Safe w) : s'.Safe w := by
  fun_induction destFault asid ps s generalizing s' y <;> grind [→ writeCheck_safe]

theorem release_safe {s j chunk bs s' y} (h : release s j chunk bs = (s', y)) (hs : s.Safe w) : s'.Safe w := by
  have stores {l : List (Nat × Nat)} {g : Nat × Nat → List Byte} {s : State} (hs : s.Safe w) :
      (l.foldl (fun s p => agentStore s 2 j.order j.core j.asid.toNat p.1 (g p)) s).Safe w :=
    foldl_safe (fun _ _ => agentStore_safe) hs
  unfold release at h
  dsimp only at h
  split at h <;> cases h
  · exact destFault_safe ‹_› hs
  · exact stores (destFault_safe ‹_› hs)

theorem runChunk_safe {t acc chunk} (ha : acc.1.Safe w) : (runChunk t acc chunk).1.Safe w := by
  unfold runChunk
  dsimp only
  split
  · exact ha
  split <;> rename_i h1 <;> replace h1 := jobRead_safe h1 ha
  · exact h1
  split
  · exact h1
  split <;> rename_i h2 <;> replace h2 := jobRead_safe h2 h1
  · exact h2
  split
  · exact h2
  split
  · exact h2
  · exact release_safe rfl h2

theorem runJob_safe {s j s' y} (h : runJob s j = (s', y)) (hs : s.Safe w) : s'.Safe w := by
  obtain rfl : _ = s' := congrArg Prod.fst h
  unfold runJob
  split
  · exact hs
  · split
    · exact hs
    · exact foldl_fst_safe (fun _ _ => runChunk_safe) hs

theorem setBrineTicket_safe {s lane e t} (hs : s.Safe w) : (setBrineTicket s lane e t).Safe w := hs
theorem doneBrine_safe {s lane e status} (hs : s.Safe w) : (doneBrine s lane e status).Safe w := hs

theorem newBrine_safe {s lane e asid s' y} (h : newBrine s lane e asid = (s', y)) (hs : s.Safe w) : s'.Safe w := by
  cases h
  exact hs

/-! ### Functions of `Machine.Fabric` -/

theorem setFabTicket_safe {s k t} (hs : s.Safe w) : (setFabTicket s k t).Safe w := hs

theorem newFab_safe {s k asid s' y} (h : newFab s k asid = (s', y)) (hs : s.Safe w) : s'.Safe w := by
  cases h
  exact hs

theorem doneFab_safe {s k status} (hs : s.Safe w) : (doneFab s k status).Safe w := hs
theorem addTransfer_safe {s x} (hs : s.Safe w) : (addTransfer s x).Safe w := hs

theorem targetPage_safe {s asid a reads writes s' y} (h : targetPage s asid a reads writes = (s', y)) (hs : s.Safe w) : s'.Safe w := by
  grind [targetPage, → translate_safe]

theorem targetReady_safe {asid acc a s' y} (h : targetReady asid acc a = (s', y)) (ha : acc.1.Safe w) : s'.Safe w := by
  grind [targetReady, → translate_safe, → homeLine_safe, ! => capLine_safe]

theorem homeWrite_safe {s asid a bs s' y} (h : homeWrite s asid a bs = (s', y)) (hs : s.Safe w) : s'.Safe w := by
  grind [homeWrite, → targetPage_safe, ! => frameWrite_safe, → dirtyLine_safe, ! => applyLine_safe]

theorem putWrites_safe {agent id asid bs base ps s s' y} (h : putWrites agent id asid bs base ps s = (s', y)) (hs : s.Safe w) : s'.Safe w := by
  fun_induction putWrites agent id asid bs base ps s generalizing s' y <;> grind [→ targetPage_safe, ! => agentStore_safe]

theorem targetReads_safe {asid ps s s' y} (h : targetReads asid ps s = (s', y)) (hs : s.Safe w) : s'.Safe w := by
  fun_induction targetReads asid ps s generalizing s' y <;> grind [→ targetPage_safe, → homeRead_safe]

theorem targetAtom_safe {s q s' y} (h : targetAtom s q = (s', y)) (hs : s.Safe w) : s'.Safe w := by
  unfold targetAtom at h
  dsimp only at h
  split at h
  · grind [→ targetPage_safe]
  · split at h
    · grind [→ targetPage_safe, → homeRead_safe]
    · split at h
      · grind [→ targetPage_safe, → homeRead_safe]
      · split at h <;> grind [→ targetPage_safe, → homeRead_safe, → homeWrite_safe]

theorem serve_safe {s q s' y} (h : serve s q = (s', y)) (hs : s.Safe w) : s'.Safe w := by
  have ready {asid b} {l : List (Nat × Nat)} : (l.foldl (fun acc p => targetReady asid acc p.1) (s, b)).1.Safe w :=
    foldl_fst_safe (fun _ _ => targetReady_safe rfl) (by exact hs)
  unfold serve at h
  dsimp only at h
  split at h
  · grind [→ targetReads_safe]
  · split at h
    all_goals rename_i hr; replace hr := ready.of_fst hr; cases h
    · exact hr
    · exact targetAtom_safe rfl hr

theorem putHere_safe {s agent id q s' y} (h : putHere s agent id q = (s', y)) (hs : s.Safe w) : s'.Safe w := by
  grind [putHere, → putWrites_safe]

theorem homeCount_safe {s pa} (hs : s.Safe w) : (homeCount s pa).Safe w := by
  grind [homeCount, ! => countSoft_safe, ! => countRead_safe]

theorem capHome_safe {s pa} (hs : s.Safe w) : (capHome s pa).Safe w := by grind [capHome, State.Safe]
theorem lineReply_safe {s bs time} (hs : s.Safe w) : (lineReply s bs time).Safe w := hs

theorem inboundPut_safe {s q} (hs : s.Safe w) : (inboundPut s q).Safe w := by
  grind [inboundPut, → putHere_safe, State.Safe]

theorem inboundDone_safe {s order} (hs : s.Safe w) : (inboundDone s order).Safe w := by
  unfold inboundDone
  split
  · exact hs
  · split
    · exact hs
    · split
      extract_lets s1 s2
      have h1 : s1.Safe w := dropFails_safe hs
      have h2 : s2.Safe w := by
        unfold s2
        split <;> [exact addCounter_safe h1; exact h1]
      clear_value s2
      exact h2

theorem replicasDone_safe {s id} (hs : s.Safe w) : (replicasDone s id).Safe w := hs

theorem answer_safe {s x data r s' y} (h : answer s x data r = (s', y)) (hs : s.Safe w) : s'.Safe w := by
  grind [answer, → serve_safe, State.Safe]

theorem bringHome_safe {s x bs s' y} (h : bringHome s x bs = (s', y)) (hs : s.Safe w) : s'.Safe w := by
  have home {loc o a} : (copyWrite loc (s, o) a bs).1.Safe w := copyWrite_safe hs
  grind [bringHome]

theorem moveTransfer_safe {s x r s' y} (h : moveTransfer s x r = (s', y)) (hs : s.Safe w) : s'.Safe w := by
  grind [moveTransfer, → copyRead_safe, → putHere_safe, → answer_safe, → bringHome_safe]

/-! ### Functions of `Machine.MemEvents` -/

theorem State.setStore_safe {s st} (hs : s.Safe w) : (State.setStore s st).Safe w := hs
theorem State.dropStore_safe {s id} (hs : s.Safe w) : (State.dropStore s id).Safe w := hs

theorem applyCached_safe {done s st} (hs : s.Safe w) : (applyCached done s st).Safe w := by
  grind [applyCached, ! => State.setStore_safe, → translate_safe, ! => remoteCount_safe, ! => applyLine_safe]

theorem applyUc_safe {done s st} (hs : s.Safe w) : (applyUc done s st).Safe w := by
  grind [applyUc, → reach_safe, ! => State.setStore_safe, ! => frameWrite_safe, ! => remoteCount_safe]

theorem launchTime_safe {s seq t far} (hs : s.Safe w) : (launchTime s seq t far).Safe w := hs

end Sys2Proof.Machine
end

section
/-! SUPPORT. Collectives, supersteps, traps, system registers, the zone and the device keep the invariant. -/

namespace Sys2Proof.Machine

variable {w : Wants}

/-! ### Functions of `Machine.Coll` -/

theorem State.modColl_safe {s order g} (hs : s.Safe w) : (State.modColl s order g).Safe w := hs
theorem tell_safe {s x} (hs : s.Safe w) : (tell s x).Safe w := hs

theorem landChunk_safe {s x i bs s' y} (h : landChunk s x i bs = (s', y)) (hs : s.Safe w) : s'.Safe w := by
  obtain rfl : _ = s' := congrArg Prod.fst h
  have lands {l : List Nat} : (l.foldl (fun (acc : State × Bool) p =>
      if mcOwned acc.1 x (16 * kMcCluster x.record + p) then (landLocal acc.1 (16 * kMcCluster x.record + p)
        (kMcDest x.record + chunkBytes * i) bs, acc.2) else (acc.1, true)) (s, false)).1.Safe w :=
    foldl_fst_safe (fun acc p ha => by split <;> [exact landLocal_safe ha; exact ha]) hs
  dsimp only [landChunk]
  split
  · exact hs
  · exact raiseCounter_safe lands

theorem writeChunk_safe {s x i res counts s' y} (h : writeChunk s x i res counts = (s', y)) (hs : s.Safe w) : s'.Safe w := by
  grind [writeChunk, ! => agentWrite_safe, → landChunk_safe]

/-! ### Functions of `Machine.Superstep` -/

theorem breakStep_safe {s seq} (hs : s.Safe w) : (breakStep s seq).Safe w := by
  unfold breakStep
  refine foldl_safe (fun s q hs => ?_) (foldl_safe (fun _ _ hs => hs.modGroup (by rfl)) (by exact hs))
  split
  · exact trapWith_safe (hs.ctxOf ‹_›) hs fun _ hu => hu
  · exact hs

theorem endStep_safe {s L} (hs : s.Safe w) : (endStep s L).Safe w :=
  foldl_safe (fun _ _ hs => hs.modGroup_of fun g hg => by
    have h0 : (raiseFloor g (g.live &&& g.ssLanes)).Safe w := hg.of_subs (by rfl)
    have h1 : ((g.subs.filter waitsStep).foldl (fun (h : Group) u => h.setSub u.mask u.resume) (raiseFloor g (g.live &&& g.ssLanes))).Safe w :=
      List.foldlRecOn (motive := Group.Safe w) _ _ h0 fun h hh u hu => hh.setSub (hg u (List.mem_filter.1 hu).1).dropChain.next
    exact h1.of_subs (by rfl)) hs

/-! ### Functions of `Machine.Traps` -/

theorem postSignal_safe {s value asid cluster pos kind} (hs : s.Safe w) : (postSignal s value asid cluster pos kind).Safe w := by
  grind [postSignal, ! => State.Safe.pokeN, State.Safe]

theorem State.modRec_safe {s seq f} (hs : s.Safe w) : (State.modRec s seq f).Safe w := hs
theorem toSummary_safe {s r} (hs : s.Safe w) : (toSummary s r).Safe w := by
  unfold toSummary
  dsimp only
  split <;> exact hs

theorem deviceWrite_safe {s asid a bs s' y} (h : deviceWrite s asid a bs = (s', y)) (hs : s.Safe w) : s'.Safe w := by
  grind [deviceWrite, → translate_safe, ! => frameWrite_safe, → dirtyLine_safe, ! => applyLine_safe]

theorem makeWaiting_safe {s core} (hs : s.Safe w) : (makeWaiting s core).Safe w := by
  unfold makeWaiting
  split
  · exact hs
  · split <;> [exact hs; exact exhaustedRecord_safe (hs.modCore le_rfl le_rfl)]

theorem wakeGroup_safe {g} (hg : g.Safe w) : (wakeGroup g).Safe w := by
  unfold wakeGroup
  split
  · exact SubsSafe.map hg fun u hu => by split <;> [exact hu.dropChain.next; exact hu]
  · exact hg

theorem wakeService_safe {s cluster} (hs : s.Safe w) : (wakeService s cluster).Safe w :=
  hs.mapGroups fun g hg => by
    have : ∀ b : Bool, (if b then wakeGroup g else g).Safe w := fun b => by cases b <;> [exact hg; exact wakeGroup_safe hg]
    exact this _

theorem ringFault_safe {s r cause} (hs : s.Safe w) : (ringFault s r cause).Safe w := by
  unfold ringFault
  extract_lets s0 s1
  have h1 : s1.Safe w := by
    unfold s1
    split <;> exact hs
  clear_value s1
  split <;> [exact State.modRec_safe h1; exact toSummary_safe h1]

theorem releaseSub_safe {act target s q} (hs : s.Safe w) : (releaseSub act target s q).Safe w := by
  unfold releaseSub
  split
  · exact hs
  rename_i c h
  have hu := (hs.ctxOf h).2
  extract_lets v u s1
  have h1 : s1.Safe w := by
    refine State.Safe.modGroup (hs.setSub ?_) (by rfl)
    unfold u
    split
    · exact hu
    · split <;> exact hu
  split <;> [exact stopOne_safe h1; exact h1]

theorem freeRecord_safe {s r} (hs : s.Safe w) : (freeRecord s r).Safe w := by
  unfold freeRecord
  split <;> [exact hs; exact agentStore_safe hs]

theorem checkPages_safe {c ps s s' y} (h : checkPages c ps s = (s', y)) (hs : s.Safe w) : s'.Safe w := by
  fun_induction checkPages c ps s generalizing s' y <;> grind [→ checkAccess_safe]

theorem restoreInto_safe {x s bs} (hs : s.Safe w) : (restoreInto x s bs).Safe w :=
  hs.modGroup_of fun g hg => by
    refine SubsSafe.map ?_ fun u hu => by split <;> exact hu
    have h {l : List Nat} {m} {f : Nat → Nat → Word} : (l.foldl (fun (g : Group) v => g.setRow v m (f v)) g).subs = g.subs := foldl_keeps Group.subs (fun _ _ => by rfl) _ _
    exact Group.Safe.of_subs hg h

/-! ### Functions of `Machine.SysRegs` -/

theorem State.setSlot_safe {s n h} (hs : s.Safe w) : (State.setSlot s n h).Safe w := hs
theorem startCommand_safe {s n h} (hs : s.Safe w) : (startCommand s n h).Safe w := placeService_safe hs

theorem abortCommand_safe {s n h} (hs : s.Safe w) : (abortCommand s n h).Safe w := by
  unfold abortCommand
  dsimp only
  split
  · exact hs
  · refine State.Safe.mapGroups (by exact hs) fun g hg => by split <;> [exact SubsSafe.map hg fun _ hu => hu; exact hg]

theorem hpsControl_safe {s n v} (hs : s.Safe w) : (hpsControl s n v).Safe w := by
  grind [hpsControl, ! => State.setSlot_safe, ! => startCommand_safe, ! => abortCommand_safe]

theorem dropService_safe {s n} (hs : s.Safe w) : (dropService s n).Safe w := by
  grind [dropService, ! => releaseAllot_safe]

theorem startService_safe {s n} (hs : s.Safe w) : (startService s n).Safe w := by
  unfold startService
  split <;> [exact hs; exact placeService_safe (dropService_safe hs)]

theorem serviceControl_safe {s v} (hs : s.Safe w) : (serviceControl s v).Safe w :=
  foldl_safe (fun s _ hs => by split <;> [exact startService_safe hs; exact hs]) (by exact hs)

/-- A change of registers that have no limits. -/
theorem modRegs_safe {s : State} {f} (hs : s.Safe w) (hf : (fun r => ((f r).curfewWin, (f r).leaseL1, (f r).pwrCap, (f r).featAccept, (f r).featOffer)) =
    fun r => (r.curfewWin, r.leaseL1, r.pwrCap, r.featAccept, r.featOffer)) : (modRegs s f).Safe w := by
  have h := congrFun hf s.regs
  simp only [Prod.mk.injEq] at h
  obtain ⟨h1, h2, h3, h4, h5⟩ := h
  exact { hs.kept with limits := fun hw => by rw [modRegs, h1, h2, h3, h4, h5]; exact hs.limits hw }

theorem clampN_bounds {lo hi x : Nat} (h : lo ≤ hi) : lo ≤ clampN lo hi x ∧ clampN lo hi x ≤ hi := by
  unfold clampN
  omega
theorem writeCurfewWin_safe {s v} (hs : s.Safe w) : (writeCurfewWin s v).Safe w :=
  { hs.kept with limits := fun hw => { hs.limits hw with
      win := by
        have := clampN_bounds (lo := 1000) (hi := 2000000) (x := bitsN v.toNat 20 0) (by decide)
        change _ ≤ (BitVec.ofNat 21 _).toNat ∧ (BitVec.ofNat 21 _).toNat ≤ _
        rw [BitVec.toNat_ofNat]
        omega } }
theorem writeLeaseL1_safe {s v} (hs : s.Safe w) : (writeLeaseL1 s v).Safe w :=
  { hs.kept with limits := fun hw => { hs.limits hw with
      lease := by
        have := clampN_bounds (lo := 64) (hi := 4096) (x := bitsN v.toNat 12 0) (by decide)
        change _ ≤ (BitVec.ofNat 13 _).toNat ∧ (BitVec.ofNat 13 _).toNat ≤ _
        rw [BitVec.toNat_ofNat]
        omega } }

theorem writeFeatAccept_safe {s v} (hs : s.Safe w) : (writeFeatAccept s v).Safe w := by
  unfold writeFeatAccept
  split
  · exact hs
  · exact { hs.kept with limits := fun hw => { hs.limits hw with
      accept := by simp [modRegs, BitVec.and_assoc] } }

theorem deviceStore_safe {s i v} (hs : s.Safe w) : (deviceStore s i v).Safe w := by
  unfold deviceStore
  split
  · exact markWorn_safe (modRegs_safe hs rfl)
  split
  · exact modRegs_safe hs rfl
  split
  · exact modRegs_safe hs rfl
  split
  · exact writeCurfewWin_safe hs
  split
  · exact modRegs_safe hs rfl
  split
  · exact modRegs_safe hs rfl
  split
  · exact writeLeaseL1_safe hs
  split
  · exact writeFeatAccept_safe hs
  split
  · dsimp only
    split
    · exact hs
    · exact hs
    · exact hpsControl_safe hs
    · exact hs
  · exact hs

theorem sysStore_safe {s c i v} (hs : s.Safe w) : (sysStore s c i v).Safe w := by
  grind [sysStore, ← State.Safe.modCore, ! => deviceStore_safe]

/-! ### Functions of `Machine.Zone` -/

theorem visitLeaf_safe {s z} (hs : s.Safe w) : (visitLeaf s z).Safe w := by
  grind [visitLeaf, ! => writePte_safe]

theorem clearPage_safe {s z} (hs : s.Safe w) : (clearPage s z).Safe w :=
  foldl_safe (fun _ _ hs => hs.modCore le_rfl le_rfl) (foldl_safe (fun _ _ => flushLine_safe) hs : State.Safe w _)

theorem compress_safe {s z} (hs : s.Safe w) : (compress s z).Safe w := by
  unfold compress
  extract_lets s1 n s2 regs w0 w1 frame bytes bad s3
  have h2 : s2.Safe w := clearPage_safe hs
  have h3 : s3.Safe w := foldl_safe (fun _ _ => memError_safe) h2
  clear_value s2 s3
  split
  · exact h2
  · extract_lets s4 s5 s6 s7 slot s8 s9
    have h5 : s5.Safe w := State.Safe.pokeN (by exact h3)
    have h7 : s7.Safe w := writePte_safe (by exact h5)
    have h9 : s9.Safe w := h7.pokeN.pokeN
    clear_value s9
    exact h9

/-! ### Functions of `Machine.Device` -/

theorem loseLines_safe {s} (hs : s.Safe w) : (loseLines s).Safe w :=
  foldl_safe (fun s _ hs => by split <;> [exact hs.pokeN (pa := _) (bs := _); exact hs]) hs

theorem afterReset_safe {s} (hs : s.Safe w) : (afterReset s).Safe w :=
  { mem := fun _ => rfl
    limits := fun _ => (⟨by decide, by decide, by decide, by decide, by decide⟩ :
      WithinLimits Regs.reset.curfewWin Regs.reset.leaseL1 Regs.reset.pwrCap Regs.reset.featAccept Regs.reset.featOffer)
    localMem := fun _ => rfl
    crystMem := hs.crystMem
    groups := fun _ h => nomatch h
    saved := fun _ h => nomatch h
    cores := fun _ _ => ⟨Nat.zero_le _, Nat.zero_le _⟩ }

theorem warmReset_safe {s} (hs : s.Safe w) : (warmReset s).Safe w :=
  { (afterReset_safe (loseLines_safe hs)).kept with mem := (loseLines_safe hs).mem }

theorem features_within {a o m : DWord} (ha : a &&& ~~~o = 0) (ho : o &&& ~~~m = 0) : a &&& ~~~m = 0 := by
  ext i hi
  have h1 := congrArg (·[i]) ha
  have h2 := congrArg (·[i]) ho
  simp only [BitVec.getElem_and, BitVec.getElem_not] at h1 h2 ⊢
  grind

theorem bootReady_safe {s b} (hs : s.Safe w) : (bootReady s b).Safe w :=
  State.noteHealth_safe { hs.kept with limits := fun hw => { hs.limits hw with
    accept := features_within (hs.limits hw).accept (hs.limits hw).offer
    offer := (by decide : Config.featAll &&& ~~~Config.featAll = 0) } }

theorem writeRoute_safe {s i v} (hs : s.Safe w) : (writeRoute s i v).Safe w := hs

theorem plainWrite_safe {s off v} (hs : s.Safe w) : (plainWrite s off v).Safe w := by
  unfold plainWrite
  dsimp only
  refine .ite (.ite hs (modRegs_safe hs rfl)) ?_
  iterate 15 refine .ite (modRegs_safe hs rfl) ?_
  exact hs

end Sys2Proof.Machine
end

section
/-! SUPPORT. Drains, saves, restores and the scheduler, and what an issue does first, keep the invariant. -/

namespace Sys2Proof.Machine

variable {w : Wants}

/-! ### Functions of `Machine.Drain` -/

theorem noteFault_safe {s o va cause s' y} (h : noteFault s o va cause = (s', y)) (hs : s.Safe w) : s'.Safe w := by
  grind [noteFault, State.Safe]

theorem drainWrite_safe {t loc s o a bs s' y} (h : drainWrite t loc s o a bs = (s', y)) (hs : s.Safe w) : s'.Safe w := by
  grind [drainWrite, → noteFault_safe, → stashFillWith_safe, → engHome_safe, ! => localWrite_safe, ! => agentStore_safe]

theorem drainOld_safe {handle t loc s a s' y} (h : drainOld handle t loc s a = (s', y)) (hs : s.Safe w) : s'.Safe w := by
  grind [drainOld, → engLocalRead_safe, → engRead_safe]

theorem drainElem_safe {m t x form r i j v s o s' y} (h : drainElem m t x form r i j v s o = (s', y)) (hs : s.Safe w) : s'.Safe w := by
  have writes {loc a} {l : List (Nat × List Byte)} {acc : State × TileOp} (ha : acc.1.Safe w) :
      (l.foldl (fun acc p => drainWrite t loc acc.1 acc.2 (a + p.1) p.2) acc).1.Safe w :=
    foldl_fst_safe (fun _ _ => drainWrite_safe rfl) ha
  unfold drainElem at h
  dsimp only at h
  split at h
  · grind [→ drainOld_safe, → noteFault_safe, ! => State.countFor_safe]
  · obtain rfl : _ = s' := congrArg Prod.fst h
    refine writes (State.countFor_safe ?_)
    grind [→ drainOld_safe]

theorem runDrain_safe {s t o form r s' y} (h : runDrain s t o form r = (s', y)) (hs : s.Safe w) : s'.Safe w := by
  obtain rfl : _ = s' := congrArg Prod.fst h
  have told {core m handle slot} {l : List ((Nat × Nat) × Recon)} :
      (l.foldl (fun s q => recordRecon s core m q.2 0 handle slot q.1.1 q.1.2) s).Safe w := foldl_safe (fun _ _ => recordRecon_safe) hs
  unfold runDrain
  dsimp only
  split
  · exact hs
  · split
    · exact State.setOpAcc_safe told
    · exact foldl_fst_safe (fun _ _ => drainElem_safe rfl) (State.setOpAcc_safe told)

/-! ### Functions of `Machine.Save` -/

theorem reportParts_safe {s t ps} (hs : s.Safe w) : (reportParts s t ps).Safe w :=
  foldl_safe (fun _ _ => foldl_safe fun _ _ => localError_safe) hs

theorem Group.Safe.forRecord {g : Group} (hg : g.Safe w) : g.forRecord.Safe w := SubsSafe.map hg fun _ hu => hu

theorem writeSave_safe {s t c} (hs : s.Safe w) : (writeSave s t c).Safe w := by
  unfold writeSave
  extract_lets gs all_ kind bins faults secs body size accs used base top blocks s1 s2 s3 s3' banks x slots regs s4 s5
  have h2 : s2.Safe w := hs.pokeN.pokeN
  have h3 : s3.Safe w := foldl_safe (fun _ _ => foldl_safe fun _ _ => parityError_safe) h2
  have h3' : s3'.Safe w := reportParts_safe h3
  have h4 : s4.Safe w := releaseAllot_safe (setBins_safe h3')
  have hx : ∀ g ∈ x.groups, g.Safe w := fun g hg => by
    obtain ⟨h, hh, rfl⟩ := List.mem_map.1 hg
    exact (hs.groups h (List.mem_filter.1 hh).1).forRecord
  clear_value s4 x
  have h5 : s5.Safe w := checkExhausted_safe { h4.kept with
    saved := fun y hy => (List.mem_append.1 hy).elim (h4.saved y) fun hy => by rwa [List.mem_singleton.1 hy] }
  clear_value s5
  split <;> exact h5

theorem takeUe_safe {s q} (hs : s.Safe w) : (takeUe s q).Safe w := by
  unfold takeUe
  split
  · exact hs
  · dsimp only
    split
    · exact (takeFragTrap_safe (hs.ctxOf ‹_›) hs).modTeam
    · exact hs

theorem saveStash_safe {s t} (hs : s.Safe w) : (saveStash s t).Safe w := by
  unfold saveStash
  split
  · exact hs
  · exact foldl_safe (fun s _ hs => by split <;> [exact writeBackLine_safe hs; exact hs]) hs

theorem modCurfew_safe {s tid f} (hs : s.Safe w) : (modCurfew s tid f).Safe w := hs
theorem restoreGroup_safe {core img s g} (hg : g.Safe w) (hs : s.Safe w) : (restoreGroup core img s g).Safe w :=
  { hs.kept with
    groups := fun h hh => (List.mem_append.1 hh).elim (hs.groups h) fun hh => by
      rw [List.mem_singleton.1 hh]
      exact SubsSafe.map hg fun _ hu => hu }

theorem takeReserve_safe {roles gs} (hg : ∀ g ∈ gs, g.Safe w) : ∀ g ∈ (takeReserve roles gs).2, g.Safe w := by
  induction gs generalizing roles with
  | nil => exact hg
  | cons g gs ih =>
    obtain ⟨hg, hgs⟩ := List.forall_mem_cons.1 hg
    exact List.forall_mem_cons.2 ⟨hg, ih hgs⟩

theorem restoreImage_safe {s core r s' y} (h : restoreImage s core r = some (s', y)) (hs : s.Safe w) : s'.Safe w := by
  cases r <;> grind [restoreImage, → readImage_safe, → imageSlot_safe]

/-- The bytes of a saved part come back (R126). -/
theorem restorePart_safe {s : State} {lo : Nat} {l : List (Nat × Byte)} {bad} (hs : s.Safe w) :
    State.Safe w { s with localMem := l.foldl (fun m q => NMap.set 0 (lo + q.1) q.2 m) s.localMem, badLocal := bad } :=
  { hs.kept with localMem := fun hw => wf_foldl_set (hs.localMem hw) }

theorem restoreTeam_safe {s x core s'} (h : restoreTeam s x core = some s') (hx : ∀ g ∈ x.groups, g.Safe w) (hs : s.Safe w) : s'.Safe w := by
  unfold restoreTeam at h
  dsimp only at h
  split at h
  · cases h
  rename_i s1 img h1
  replace h1 := takeParts_safe (core := core) (seq := x.seq) (ways := x.team.ways.length) (segs := x.team.segs.length) (cols := x.team.cols.length)
    rfl (restoreImage_safe h1 hs)
  have hr := takeReserve_safe (roles := x.team.roles.map fun r => { r with left := r.reserve }) hx
  cases h
  refine setBins_safe (foldl_safe (fun s i hs => ?_) (foldl_safe (fun _ _ => State.setBank_safe) (foldl_safe (fun _ _ => restorePart_safe) ?_)))
  · split <;> [exact State.setAcc_safe hs; exact hs]
  · refine List.foldlRecOn (motive := State.Safe w) _ _ ?_ fun s hs g hg => restoreGroup_safe (hr g hg) hs
    exact { h1.kept with saved := fun y hy => h1.saved y (List.mem_filter.1 hy).1 }

theorem nextSaved_mem {s : State} {seq : Nat} {x} (h : nextSaved s seq = some x) : x ∈ s.saved := by
  have fold {l : List SavedTeam} {b : Option SavedTeam} (hb : ∀ x, b = some x → x ∈ s.saved) (hl : ∀ x ∈ l, x ∈ s.saved) {x}
      (h : l.foldl (fun (b : Option SavedTeam) x => match b with
        | none => some x
        | some y => if x.team.teamNo < y.team.teamNo then some x else some y) b = some x) : x ∈ s.saved := by
    induction l generalizing b with
    | nil => exact hb x h
    | cons y l ih =>
      obtain ⟨hy, hl⟩ := List.forall_mem_cons.1 hl
      refine ih (fun z hz => ?_) hl h
      cases b with
      | none => cases hz; exact hy
      | some v => dsimp only at hz; split at hz <;> cases hz <;> [exact hy; exact hb _ rfl]
  exact fold (b := none) (by simp) (fun x hx => (List.mem_filter.1 hx).1) h

theorem placeStep_safe {s L s'} (h : placeStep s L = some s') (hs : s.Safe w) : s'.Safe w := by
  unfold placeStep at h
  split at h
  · obtain ⟨core, -, h⟩ := Option.bind_eq_some_iff.mp h
    exact restoreTeam_safe h (hs.saved _ (nextSaved_mem ‹_›)) hs
  · exact placeNext_safe h hs

theorem waitForRoom_safe {s L} (hs : s.Safe w) : (waitForRoom s L).Safe w := by
  grind [waitForRoom, ! => raiseCurfew_safe]

theorem placeLoop_safe {n s seq} (hs : s.Safe w) : (placeLoop n s seq).Safe w := by
  fun_induction placeLoop n s seq <;> grind [→ placeStep_safe, ! => waitForRoom_safe]

theorem schedulerPass_safe {s} (hs : s.Safe w) : (schedulerPass s).Safe w :=
  foldl_safe (fun _ _ => placeLoop_safe) (foldl_safe (fun _ _ => endIfEmpty_safe) hs)

/-! ### Functions of `Machine.Issue` -/

theorem dropShared_safe {c s} (hs : s.Safe w) : (dropShared c s).Safe w :=
  hs.modGroup_of fun g hg => SubsSafe.map hg fun u hu => by split <;> exact hu

theorem dropAhead_safe {i c s} (hc : c.Safe w) (hs : s.Safe w) : (dropAhead i c s).Safe w := by
  unfold dropAhead
  split <;> [exact hs; exact hs.setSub hc.2]

theorem switchPipe_safe {core issue gid mask} {s : State} (hs : s.Safe w) : (s.switchPipe core issue gid mask).Safe w :=
  hs.mapGroups fun g hg => by
    have hd : Group.Safe w { g with subs := g.subs.map fun u => if u.issue == issue && !(g.gid == gid && u.mask == mask) then u.dropChain else u } :=
      SubsSafe.map hg fun u hu => by split <;> exact hu
    have : ∀ b : Bool, Group.Safe w (if b then
        { g with subs := g.subs.map fun u => if u.issue == issue && !(g.gid == gid && u.mask == mask) then u.dropChain else u } else g) := fun b => by
      cases b <;> [exact hg; exact hd]
    exact this _

theorem beforeIssue_safe {c i x s} (hc : c.Safe w) (hs : s.Safe w) : (beforeIssue c i x s).Safe w := by
  unfold beforeIssue
  extract_lets key s0 s1 s2
  have h0 : s0.Safe w := dropAhead_safe hc hs
  have h1 : s1.Safe w := by
    unfold s1
    split <;> [exact dropShared_safe h0; exact switchPipe_safe h0]
  exact State.Safe.modCore (s := s2) h1 le_rfl le_rfl

theorem get_map_all {α : Type} {d : α} {p : α → Prop} {f : Nat → α → α} (hf : ∀ k x, p x → p (f k x)) {n : Nat} {m : NMap α} (hm : p (NMap.get d n m)) :
    p (NMap.get d n (m.map fun q => (q.1, f q.1 q.2))) := by
  induction m with
  | nil => exact hm
  | cons q m ih =>
    rw [NMap.get] at hm
    rw [List.map_cons, NMap.get]
    split
    · rw [if_pos ‹_›] at hm
      exact hf _ _ hm
    · rw [if_neg ‹_›] at hm
      exact ih hm

/-- The runs of the pipes end that had a slot and did not issue, as `ageCycle` has it. -/
def endRuns (slots used : List (Nat × Nat)) (core : Nat) (x : CoreSt) : CoreSt :=
  { x with pipes := x.pipes.map fun r => if slots.contains (core, r.1 / 2) && !used.contains (core, r.1) then (r.1, { r.2 with run := 0 }) else r }

theorem ageCycle_safe {slots chosen s} (hs : s.Safe w) : (ageCycle slots chosen s).Safe w :=
  { hs.kept with
    groups := fun g hg => by
      obtain ⟨h, hh, rfl⟩ := List.mem_map.1 hg
      refine SubsSafe.map (hs.groups h hh) fun u hu => ?_
      dsimp only
      split
      · exact hu
      · split
        · split <;> exact hu
        · exact hu
    cores := fun n => get_map_all (p := CoreSt.Safe w) (f := endRuns slots (chosen.map fun c => (c.core, 2 * c.u.issue + nextPipe s c))) (fun _ _ hx => hx)
      (hs.cores n) }

theorem wordsFrom_safe {c n pc s s' y} (h : wordsFrom c n pc s = (s', y)) (hs : s.Safe w) : s'.Safe w := by
  fun_induction wordsFrom c n pc s generalizing s' y <;> grind [→ fetchNow_safe]

theorem fetchAheadAt_safe {gid lane n s} (hs : s.Safe w) : (fetchAheadAt gid lane n s).Safe w := by
  unfold fetchAheadAt
  split
  · exact hs
  · split
    exact (wordsFrom_safe ‹_› hs).setSub (hs.ctxOf ‹_›).2

theorem performLate_safe {gid order s} (hs : s.Safe w) : (performLate gid order s).Safe w := by
  unfold performLate
  split
  · exact hs
  split
  · exact hs
  refine State.Safe.modGroup (foldl_safe (fun s q hs => ?_) hs) (by rfl)
  split
  · exact hs
  split
  · exact hs
  · exact (fibreLoad_safe ‹_› hs).modGroup_of fun g hg => hg.of_subs (foldl_keeps Group.subs (fun _ _ => by rfl) _ _)

end Sys2Proof.Machine
end

section
/-! SUPPORT. Accesses that take time of their own keep the invariant, and so does each way to end an instruction and each mould of the
instructions. -/

namespace Sys2Proof.Machine

variable {w : Wants}

/-! ### Accesses that take time -/

theorem tick_safe {s dt} (hs : s.Safe w) : (tick s dt).Safe w := by
  unfold tick
  dsimp only
  split <;> exact hs

theorem afterLast_safe {s x} (hs : s.Safe w) : (afterLast s x).Safe w := by
  unfold afterLast
  split <;> [exact tick_safe hs; exact hs]

theorem podWrite_safe {s pa bs} (hs : s.Safe w) : (podWrite s pa bs).Safe w :=
  tick_safe (State.Safe.pokeN (foldl_safe (fun _ _ => preserve_safe) hs) : State.Safe w _)

theorem atomicLane_safe {c n new s l va s' y} (h : atomicLane c n new s l va = (s', y)) (hs : s.Safe w) : s'.Safe w := by
  unfold atomicLane at h
  dsimp only at h
  split at h
  · grind [→ checkAccess_safe]
  next s1 e h1 =>
  replace h1 := checkAccess_safe h1 hs
  split at h
  · split at h
    · grind [→ reach_safe]
    · split at h
      · grind [→ reach_safe, ! => remoteCount_safe, → ucBytes_safe]
      · grind [! => tick_safe, → reach_safe, ! => remoteCount_safe, → ucBytes_safe, ! => addTime_safe, ! => frameWrite_safe, ! => sendAtomic_safe]
  · split at h
    · grind [→ homeLine_safe]
    · split at h
      · grind [→ homeLine_safe, ! => memError_safe]
      · split at h
        · grind [! => afterLast_safe, ! => addTime_safe, → homeLine_safe, ! => State.setL2_safe]
        · grind [! => afterLast_safe, ! => addTime_safe, ! => sendAtomic_safe, → homeLine_safe, → dirtyLine_safe, ! => applyLine_safe]

theorem lineRead_safe {s pa k} (hk : ∀ d, (k d).Safe w) (hs : s.Safe w) : (lineRead s pa k).Safe w := by
  unfold lineRead
  split
  · exact lineReply_safe (memError_safe hs)
  · exact hk _

theorem lineAccess_safe {s q} (hs : s.Safe w) : (lineAccess s q).Safe w := by
  unfold lineAccess
  dsimp only
  split
  · refine lineRead_safe (fun d => lineReply_safe (homeCount_safe (.ite (by exact hs) hs))) hs
  · split <;> [exact lineReply_safe (podWrite_safe hs); exact capHome_safe hs]
  · split
    · refine lineRead_safe (fun d => ?_) (homeCount_safe hs)
      have h := homeCount_safe (pa := q.raddr.toNat) hs
      split
      · exact lineReply_safe (podWrite_safe h)
      · exact h
    · exact capHome_safe hs
  · split
    · exact hs
    next s1 e h1 =>
    replace h1 := reach_safe h1 hs
    split
    · exact hs
    split
    · exact frameWrite_safe h1
    split
    · exact hs
    next s2 x h2 =>
    replace h2 := homeLine_safe h2 h1
    split
    · exact capLine_safe h2
    · exact applyLine_safe (setDirty_safe (State.setL2_safe h2))
  · split <;> [exact State.framePokeN_safe hs; exact hs]

/-! ### Good answers

What each way to end an instruction leaves, and each mould of the instructions. -/

/-- The state that `r` goes on with, if any, is safe. -/
def Good (w : Wants) (r : Res) : Prop := ∀ t, r = .next t → t.Safe w

/-- From a safe context and state, `k` has a good answer. -/
def Continues (w : Wants) (k : Ctx → State → Res) : Prop := ∀ c s, c.Safe w → s.Safe w → Good w (k c s)

section leaves
variable {c : Ctx} {s : State}

theorem next_good (hs : s.Safe w) : Good w (.next s) := fun _ h => by cases h; exact hs

theorem fault_good {e} : Good w (.fault e) := fun _ h => by cases h

theorem ite_good {p : Prop} [Decidable p] {a b : Res} (ha : Good w a) (hb : Good w b) : Good w (if p then a else b) := by
  split <;> assumption

theorem finSub_good {u} (hs : s.Safe w) (hu : u.Safe w) : Good w (finSub c s u) := next_good (hs.setSub hu)
theorem fin_good (hc : c.Safe w) (hs : s.Safe w) : Good w (fin c s) := next_good (hs.setSub hc.2.dropChain.next)
theorem stall_good (hc : c.Safe w) (hs : s.Safe w) : Good w (stall c s) := next_good (hs.setSub hc.2)
theorem begun_good (hc : c.Safe w) (hs : s.Safe w) : Good w (begun c s) := next_good (hs.setSub hc.2)
theorem underWay_good (hc : c.Safe w) (hs : s.Safe w) : Good w (underWay c s) := next_good (hs.setSub hc.2)
theorem hold_good {bs} (hc : c.Safe w) (hs : s.Safe w) : Good w (hold bs c s) := next_good (hs.setSub hc.2)
theorem parkAs_good {x} (hc : c.Safe w) (hs : s.Safe w) : Good w (parkAs c s x) := next_good (hs.setSub hc.2)
theorem finS_good {d x} (hc : c.Safe w) (hs : s.Safe w) : Good w (finS c s d x) := fin_good hc (hs.modGroup (by rfl))

theorem trapAllAt_good {k a pc x} (hc : c.Safe w) (hs : s.Safe w) : Good w (trapAllAt c s k a pc x) :=
  next_good (trapWith_safe hc hs fun _ hu => hu)
theorem trapAll_good {k} (hc : c.Safe w) (hs : s.Safe w) : Good w (trapAll c s k) := trapAllAt_good hc hs
theorem trapAllMem_good {k a} (hc : c.Safe w) (hs : s.Safe w) : Good w (trapAllMem c s k a) := trapAllAt_good hc hs
theorem finTraps_good {items} (hc : c.Safe w) (hs : s.Safe w) : Good w (finTraps c s items) :=
  next_good (trapWith_safe hc hs fun _ hu => hu.dropChain.next)

theorem recordFault_good {k a} (hc : c.Safe w) (hs : s.Safe w) : Good w (recordFault c s k a) :=
  ite_good (stall_good hc hs) (trapAllMem_good hc hs)

theorem Sub.Safe.call {u : Sub} {a : Nat} (hu : u.Safe w) (h : u.calls.length ≠ 32) : (u.call a).Safe w := fun hw =>
  { hu hw with calls := Nat.lt_of_le_of_ne (hu hw).calls h }

theorem callTo_good {a} (hc : c.Safe w) (hs : s.Safe w) : Good w (callTo c s a) := by
  unfold callTo
  split
  · exact trapAll_good hc hs
  · exact finSub_good hs (hc.2.call ‹_›)

theorem setOuts_subs {g : Group} {d n outs} : (g.setOuts d n outs).subs = g.subs := foldl_keeps Group.subs (fun _ _ => by rfl) _ _

theorem finLanes_good {d n r} (hc : c.Safe w) (hr : r.1.Safe w) : Good w (finLanes c d n r) :=
  finTraps_good hc (hr.modGroup_of fun _ hg => hg.of_subs setOuts_subs)

theorem invalidateAll_good {page line pair} (hc : c.Safe w) (hs : s.Safe w) : Good w (invalidateAll c s page line pair) :=
  ite_good (stall_good hc hs) (fin_good hc (invalidate_safe hs))

/-- R145: a loop within the loops there are, at a level that none of them has. -/
theorem startLoop_good {f n} (hf : f.level.toNat < 3) (hc : c.Safe w) (hs : s.Safe w) : Good w (startLoop f n c s) := by
  unfold startLoop
  dsimp only
  split
  · exact trapAll_good hc hs
  next hfree =>
  split
  · exact finSub_good hs hc.2.dropChain.next
  · refine finSub_good (bufferBody_safe hs) fun hw => ?_
    have hu := hc.2 hw
    simp only [List.any_eq_true, Bool.or_eq_true, beq_iff_eq, decide_eq_true_eq, not_exists, not_and, not_or, not_lt] at hfree
    exact
      { calls := hu.calls
        levels := List.forall_mem_cons.2 ⟨hf, hu.levels⟩
        nested := List.pairwise_cons.2 ⟨fun x hx => ⟨fun e => (hfree x hx).1 e.symm, (hfree x hx).2⟩, hu.nested⟩
        counts := (List.length_set ..).trans hu.counts }

end leaves

section moulds
variable {c : Ctx} {s : State} {G : Gate} {g : BitVec 4} {k : Ctx → State → Res}

theorem gated_good (hs : s.Safe w) (hk : ∀ c, c.Safe w → Good w (k c s)) : Good w (gated G s k) := by
  unfold gated
  split
  · exact fault_good
  next c h =>
  have hc := hs.ctx? h
  split
  · exact trapAll_good hc hs
  · split
    · exact ite_good (stall_good hc hs) (hk c hc)
    · exact ite_good (next_good (takeFragTrap_safe hc hs)) (stall_good hc hs)

theorem uniform_good (hs : s.Safe w) (hk : ∀ c, c.Safe w → Good w (k c s)) : Good w (uniform G g s k) :=
  gated_good hs fun c hc => ite_good (ite_good (gated_good hs hk) (hk c hc)) (fin_good hc hs)

theorem withRows_good {rows ex} (hc : c.Safe w) (hs : s.Safe w) (hk : Continues w k) : Good w (withRows c s rows ex k) := by
  unfold withRows
  split
  · have h := gotRows_safe (c := c) (privatise_safe ‹_› hs)
    exact hk _ _ (hc.refresh h) h
  · exact next_good (parkForRows_safe hc hs)

theorem deliver_good {n} (hc : c.Safe w) (hs : s.Safe w) (hk : Continues w k) : Good w (deliver n c s k) := by
  unfold deliver
  extract_lets items mark markD s0 s1 left stopped
  have h0 : s0.Safe w := hs.modGroup (by rfl)
  have h1 : s1.Safe w := trapWith_safe (hc.refresh h0) h0 fun _ hu => hu
  clear_value s1
  split
  · exact hk c s hc hs
  · split
    · exact next_good h1
    · split
      · exact hk _ s1 (h1.ctxOf ‹_›) h1
      · exact next_good h1

theorem stallPoint_good (hc : c.Safe w) (hs : s.Safe w) (hk : Continues w k) : Good w (stallPoint c s k) := by
  unfold stallPoint
  split
  · exact deliver_good hc hs hk
  · exact ite_good (next_good (takeFragTrap_safe hc hs)) (hk c s hc hs)

theorem stall_continues : Continues w stall := fun _ _ => stall_good

theorem hold_continues {bs} : Continues w (hold bs) := fun _ _ => hold_good

theorem withRoom_good {n} (hc : c.Safe w) (hs : s.Safe w) (hk : Continues w k) : Good w (withRoom c s n k) :=
  ite_good (hk c s hc hs) (stallPoint_good hc hs stall_continues)

theorem afterStores_good (hc : c.Safe w) (hs : s.Safe w) (hk : Continues w k) : Good w (afterStores c s k) :=
  ite_good (stall_good hc hs) (deliver_good hc hs hk)

theorem classAx_good {mask rows push upd val post} (hs : s.Safe w) (hu : ∀ c ex g, (upd c ex g).subs = g.subs)
    (hp : ∀ c ex s, s.Safe w → (post c ex s).Safe w) : Good w (classAx G mask rows push s upd val post) :=
  gated_good hs fun _ hc => withRows_good hc (switchPipe_safe hs) fun c s hc hs =>
    next_good (trapWith_safe hc (cellRecords_safe (hp _ _ _ (hs.modGroup (funext fun g => hu _ _ g)))) fun u hu => by
      dsimp only
      split <;> exact Sub.Safe.next (by exact hu))

theorem classA_good {mask rows push upd val} (hs : s.Safe w) (hu : ∀ c ex g, (upd c ex g).subs = g.subs) :
    Good w (classA G mask rows push s upd val) := classAx_good hs hu fun _ _ _ hs => hs

theorem laneOpOf_good {errs} {k : Ctx → Word → State → Res} (hs : s.Safe w) (hk : ∀ c ex s, c.Safe w → s.Safe w → Good w (k c ex s)) :
    Good w (laneOpOf errs G g s k) := by
  refine gated_good hs fun c hc => ?_
  have h := switchPipe_safe (core := c.core) (issue := c.u.issue) (gid := c.gid) (mask := c.u.mask) hs
  dsimp only
  split
  · exact hk _ _ _ hc h
  · exact next_good (trapWith_safe hc (cellRecords_safe h) fun _ hu => hu)

theorem laneOp_good {k : Ctx → Word → State → Res} (hs : s.Safe w) (hk : ∀ c ex s, c.Safe w → s.Safe w → Good w (k c ex s)) :
    Good w (laneOp G g s k) := laneOpOf_good hs hk

end moulds

/-! ### The forms of the lane set -/

theorem setNbs_safe {tid} {pos : Nat → Nat} {g : Nat → Nb → Nb} {l : List Nat} {s : State} (hs : s.Safe w) :
    (l.foldl (fun s i => setNb s tid (pos i) (g i)) s).Safe w := foldl_safe (fun _ _ => setNb_safe) hs

theorem ite_subs {p : Prop} [Decidable p] {g h : Group} (e : h.subs = g.subs) : (if p then g else h).subs = g.subs := by
  split <;> [rfl; exact e]

section forms
variable {s : State} (hs : s.Safe w)
include hs

theorem aluR_good {f b op} : Good w (aluR f b s op) := classA_good hs fun _ _ _ => ite_subs rfl
theorem aluRD_good {f op} : Good w (aluRD f s op) := classA_good hs fun _ _ _ => ite_subs rfl
theorem aluPair_good {f reads latches op} : Good w (aluPair f reads latches s op) := classA_good hs fun _ _ _ => ite_subs rfl
theorem aluI_good {grd x d a usesA op} : Good w (aluI grd x d a usesA s op) := classA_good hs fun _ _ _ => ite_subs rfl
theorem compare_good {f r} : Good w (compare f s r) := classA_good hs fun _ _ _ => rfl
theorem predOp_good {f op} : Good w (predOp f s op) := classA_good hs fun _ _ _ => rfl

theorem fAlu_good {f b d op} : Good w (fAlu f b d s op) := by
  unfold fAlu
  exact classAx_good hs (fun _ _ _ => ite_subs rfl) fun _ _ _ => countRes_safe

theorem fCompare_good {f k} : Good w (fCompare f k s) := by
  unfold fCompare
  exact classAx_good hs (fun _ _ _ => rfl) fun _ _ _ => Ctx.count_safe

theorem laneWrite_good {G grd rows upd} (hu : ∀ c ex g, (upd c ex g).subs = g.subs) : Good w (laneWrite G grd rows s upd) :=
  laneOp_good hs fun _ _ _ hc hs => withRows_good hc hs fun _ _ hc hs => fin_good hc (hs.modGroup (funext fun g => hu _ _ g))

theorem fApprox_good {f k} : Good w (fApprox f k s) :=
  laneOp_good hs fun _ _ _ hc hs => withRows_good hc hs fun _ _ hc hs => fin_good hc (countRes_safe (hs.modGroup (by rfl)))

theorem shuffle_good {f src} : Good w (shuffle f s src) := by
  unfold shuffle
  exact laneOpOf_good hs fun _ _ _ hc hs => withRows_good hc hs fun _ _ hc hs => finTraps_good hc (cellRecords_safe (hs.modGroup (by rfl)))

theorem reduceI_good {f keep r} : Good w (reduceI f keep s r) :=
  laneOpOf_good hs fun _ _ _ hc hs => withRows_good hc hs fun _ _ hc hs => fin_good hc (hs.modGroup (by rfl))

theorem reduceF_good {f add keep} : Good w (reduceF f add s keep) :=
  laneOpOf_good hs fun _ _ _ hc hs => withRows_good hc hs fun _ _ hc hs => fin_good hc (countRes_safe (hs.modGroup (by rfl)))

theorem rmad_good {f n} : Good w (rmad f n s) :=
  laneOp_good hs fun _ _ _ hc hs => ite_good (finTraps_good hc hs) (withRows_good hc hs fun _ _ hc hs => fin_good hc (hs.modGroup (by rfl)))

theorem neighbour_good {f right useB} : Good w (neighbour f right useB s) := by
  unfold neighbour
  refine laneOpOf_good hs fun _ _ _ hc hs => ite_good (stall_good hc hs) (withRows_good hc hs fun _ _ hc hs => ?_)
  exact ite_good (parkAs_good hc (setNbs_safe hs)) (fin_good hc (State.Safe.modGroup (setNbs_safe (setNbs_safe hs)) (by rfl)))

theorem localLoad_good {f size} : Good w (localLoad f size s) :=
  laneOp_good hs fun _ _ _ hc hs => ite_good (stall_good hc hs) (withRows_good hc hs fun _ _ hc hs =>
    finLanes_good hc (laneLoop_safe (fun _ _ _ _ h => by grind [→ localRead_safe]) rfl hs))

theorem localStores_good {f size} : Good w (localStores f size s) :=
  laneOp_good hs fun _ _ _ hc hs => ite_good (stall_good hc hs) (withRoom_good hc hs fun _ _ hc hs =>
    finLanes_good hc (laneLoop_safe (fun _ _ _ _ => localStore_safe) rfl hs))

theorem localAtomic_good {f n compares new} : Good w (localAtomic f n compares s new) :=
  laneOp_good hs fun _ _ _ hc hs => ite_good (stall_good hc hs) (withRows_good hc hs fun _ _ hc hs =>
    finLanes_good hc (laneLoop_safe (fun _ _ _ _ h => by grind [→ localRead_safe, ! => localWrite_safe]) rfl hs))

theorem globalLoad_good {f size acq may} : Good w (globalLoad f size acq may s) := by
  unfold globalLoad
  refine laneOp_good hs fun c ex s hc hs => ite_good (stall_good hc hs) (withRows_good hc hs fun c s hc hs => ?_)
  split
  have h := laneLoop_safe (fun _ _ _ _ => loadLane_safe) ‹_› hs
  exact finLanes_good hc (.ite (addLate_safe h) h)

theorem globalStore_good {f size kind ready floor} : Good w (globalStore f size kind ready floor s) :=
  laneOp_good hs fun _ _ _ hc hs => ite_good (stall_good hc hs) (ite_good (withRoom_good hc hs fun _ _ hc hs =>
    finLanes_good hc (laneLoop_safe (fun _ _ _ _ => storeLane_safe) rfl hs)) (stall_good hc hs))

theorem globalAtomic_good {f n extra ready new} : Good w (globalAtomic f n extra ready s new) := by
  refine laneOp_good hs fun c ex s hc hs => ite_good (stall_good hc hs) ?_
  split
  all_goals rename_i h; replace hs := anyWaits_safe h hs
  · exact underWay_good (hc.refresh hs) hs
  · exact withRows_good hc hs fun _ _ hc hs => finLanes_good hc (laneLoop_safe (fun _ _ _ _ => atomicLane_safe) rfl hs)

theorem atom_good {f op} : Good w (atom f s op) := globalAtomic_good hs
theorem cas_good {f n ready} : Good w (cas f n ready s) := globalAtomic_good hs

theorem expandLanes_good {G f bank idx slot all res} : Good w (expandLanes G f bank idx slot all s res) := by
  refine laneOp_good hs fun c ex s hc hs => ite_good (fin_good hc hs) (ite_good (finTraps_good hc hs) (ite_good (stall_good hc hs) ?_))
  split
  · exact finTraps_good hc hs
  · exact withRows_good hc hs fun _ _ hc hs =>
      finTraps_good hc (countRes_safe (State.Safe.modGroup (foldl_safe (fun _ _ => parityError_safe) hs) (by rfl)))

theorem cbx_good {f mask} : Good w (cbx f mask s) := by
  unfold cbx
  exact expandLanes_good hs

theorem xf_good {f k d op} : Good w (xf f k d s op) := by
  unfold xf
  exact expandLanes_good hs

theorem uniS_good {G grd d op} : Good w (uniS G grd d s op) := uniform_good hs fun _ hc => fin_good hc (hs.modGroup (by rfl))
theorem uniK_good {G grd d op} : Good w (uniK G grd d s op) :=
  uniform_good hs fun _ hc => fin_good hc (hs.modGroup_of fun _ hg => by unfold Group.setK; split <;> exact hg)
theorem uni2_good {f op} : Good w (uni2 f s op) := uniS_good hs
theorem ucmp_good {f r} : Good w (ucmp f s r) := uniK_good hs
theorem kBin_good {f op} : Good w (kBin f s op) := uniK_good hs

theorem stashBack_good {f done} : Good w (stashBack f s done) := by
  refine uniform_good hs fun c hc => ?_
  split
  refine ite_good (trapAll_good hc hs) (ite_good (next_good (trapWith_safe hc ?_ fun _ hu => hu)) (ite_good (next_good (trapWith_safe hc hs fun _ hu => hu)) ?_))
  · cases List.find? _ _ with
    | none => exact hs
    | some q => exact localError_safe hs
  · split
    all_goals rename_i h; replace hs := writeBackAll_safe h hs
    · exact stallPoint_good (hc.refresh hs) hs stall_continues
    · exact ite_good (begun_good (hc.refresh hs) hs) (fin_good (hc.refresh hs) hs.modTeam)

theorem fence_good {f waits floor done} : Good w (fence f s waits floor done) :=
  uniform_good hs fun _ hc => ite_good (stall_good hc hs) (deliver_good hc hs fun _ _ hc hs => fin_good hc
    (State.Safe.modGroup_of hs.modTeam fun _ hg => by split <;> exact hg))

theorem prefetch_good {f fill} (hf : ∀ c l s, s.Safe w → (fill c l s).Safe w) : Good w (prefetch f s fill) :=
  uniform_good hs fun c hc => fin_good hc (foldl_safe (fun s i hs => by grind [→ prefetchable_safe]) hs)

theorem tlbi_good {f page line pair} : Good w (tlbi f s page line pair) := uniform_good hs fun _ hc => invalidateAll_good hc hs

theorem barrierWait_good {f d mask} : Good w (barrierWait f d mask s) :=
  uniform_good hs fun _ hc => deliver_good hc hs fun _ _ hc hs =>
    ite_good (trapAll_good hc hs) (next_good (testBarrier_safe ((arriveAt_safe hs).setSub hc.2)))

end forms

end Sys2Proof.Machine
end

section
/-! SUPPORT. The instructions with an effect of their own have good answers, each by its mould. -/

namespace Sys2Proof.Machine

variable {w : Wants}

/-! ### Shared parts -/

/-- A record read for an instruction, held or fetched. -/
theorem heldRecord_safe {n lane va} {c : Ctx} {s s' r} (h : heldOr c s (fun s => readRecord n s c lane va) = (s', r)) (hs : s.Safe w) : s'.Safe w :=
  heldOr_safe (fun _ _ => readRecord_safe) h hs

theorem heldBlock_safe {loc n lane va} {c : Ctx} {s s' r} (h : heldOr c s (fun s => readBlock loc n s c lane va) = (s', r)) (hs : s.Safe w) :
    s'.Safe w := heldOr_safe (fun _ _ => readBlock_safe) h hs

theorem enqueue_room {s : State} {core : Nat} {o : TileOp} (h : queueRoom s core = true) (hs : s.Safe w) : (enqueue s core o).Safe w :=
  enqueue_safe hs (of_decide_eq_true h)

section parts
variable {c : Ctx} {s : State} (hc : c.Safe w) (hs : s.Safe w)
include hc hs

theorem endActive_good : Good w (endActive c s) :=
  ite_good (deliver_good hc hs fun _ _ _ hs => next_good (endFibres_safe hs)) (stall_good hc hs)

theorem queueOp_good {d bs kind slot size tags} : Good w (queueOp c s d bs kind slot size tags) := by
  unfold queueOp
  split
  · exact finS_good hc (enqueue_room (by assumption) hs.modTeam)
  · exact stallPoint_good hc hs hold_continues
  · exact hold_good hc hs

theorem withImage_good {r level carried} {k : Ctx → State → State} (hk : ∀ c s, c.Safe w → s.Safe w → (k c s).Safe w) :
    Good w (withImage c s r level carried k) := by
  unfold withImage
  dsimp only
  refine ite_good (parkAs_good hc (agentWrite_safe (reportCarried_safe hs))) (ite_good (parkAs_good hc hs) ?_)
  split
  · exact trapAllMem_good hc (by exact hs)
  · exact next_good (hk _ _ hc (by exact hs))

theorem cwaitDone_good {d status} : Good w (cwaitDone c d s status) := deliver_good hc hs fun _ _ => finS_good

theorem frag_good {f add cells ex items bads eb} : Good w (frag f add cells c ex s items bads eb) := by
  unfold frag
  refine ite_good (trapAll_good hc hs) (withRows_good hc hs fun c s hc hs => finTraps_good hc (cellRecords_safe (State.Safe.modGroup ?_ (by rfl))))
  exact foldl_safe (fun _ _ => parityError_safe) (by exact hs)

end parts

section forms
variable {s : State} (hs : s.Safe w)
include hs

theorem mfrag_good {f add} : Good w (mfrag f add s) := by
  unfold mfrag
  exact laneOpOf_good hs fun _ _ _ hc hs => ite_good (frag_good hc hs) (trapAll_good hc hs)

theorem twait_good {f poll} : Good w (twait f poll s) :=
  uniform_good hs fun _ hc => ite_good (finS_good hc hs) (ite_good (finS_good hc hs) (ite_good (ite_good (finS_good hc hs) (stall_good hc hs))
    (deliver_good hc hs fun _ _ hc hs => ite_good (trapAll_good hc hs) (finS_good hc hs))))

theorem tile_good {f loc} : Good w (tile f loc s) := by
  refine uniform_good hs fun c hc => ite_good (trapAll_good hc hs) (ite_good (trapAllMem_good hc hs) (ite_good (stall_good hc hs) ?_))
  split
  all_goals rename_i h; replace hs := heldBlock_safe h hs
  · exact recordFault_good hc hs
  · exact ite_good (trapAll_good hc hs) (queueOp_good hc hs)

theorem tdrain_good {f form} : Good w (tdrain f form s) := by
  refine uniform_good hs fun c hc => ite_good (trapAll_good hc hs) (ite_good (trapAllMem_good hc hs) (ite_good (stall_good hc hs) ?_))
  split
  all_goals rename_i h; replace hs := heldRecord_safe h hs
  · exact recordFault_good hc hs
  · exact ite_good (trapAll_good hc hs) (queueOp_good hc hs)

theorem spawnWith_good {force f} : Good w (spawnWith force f s) := by
  refine uniform_good hs fun c hc => ite_good (trapAll_good hc hs) (ite_good (stall_good hc hs) (finS_good hc ?_))
  have h1 {l : List Nat} {role pc arg src} : (l.foldl (fun s i => spawnOne s ((s.team? c.t.tid).getD c.t) role pc arg i src) s).Safe w :=
    foldl_safe (fun _ _ => spawnOne_safe) hs
  exact .ite (foldl_safe (fun _ _ => closeBin_safe) h1) h1

theorem launchWith_good {try_ f} : Good w (launchWith try_ f s) := by
  refine uniform_good hs fun c hc => ite_good (trapAllMem_good hc hs) (ite_good (stall_good hc hs) ?_)
  split
  all_goals rename_i h; replace hs := heldRecord_safe h hs
  · exact recordFault_good hc hs
  · split
    · exact ite_good (finS_good hc hs) (hold_good hc hs)
    · exact finS_good hc (queueLaunch_safe hs)

theorem lwaitWith_good {poll f} : Good w (lwaitWith poll f s) := by
  refine uniform_good hs fun c hc => deliver_good hc hs fun c s hc hs => ite_good (finS_good hc hs) ?_
  split
  · exact finS_good hc hs
  · exact ite_good (ite_good (finS_good hc hs) (stall_good hc hs)) (finS_good hc hs)

theorem sluiceLock_good {mode f} : Good w (sluiceLock mode f s) := by
  refine uniform_good hs fun c hc => ite_good (finS_good hc hs) (ite_good (finS_good hc hs) (ite_good (finS_good hc hs) (ite_good (stall_good hc hs) ?_)))
  split
  · exact stall_good hc hs
  · exact finS_good hc hs

theorem copyWith_good {kind f} : Good w (copyWith kind f s) := by
  refine uniform_good hs fun c hc => ite_good (trapAllMem_good hc hs) (ite_good (stall_good hc hs) ?_)
  split
  all_goals rename_i h; replace hs := heldRecord_safe h hs
  · exact recordFault_good hc hs
  refine ite_good ?_ ?_
  · split
    · exact hold_good hc hs
    · split
      exact finS_good hc (doneCopy_safe (newCopy_safe ‹_› hs))
  · dsimp only
    split
    · exact trapAllMem_good hc hs
    split
    · exact trapAllMem_good hc hs
    · exact finS_good hc (by exact hs)
    · exact hold_good hc hs

theorem cwaitWith_good {mode f} : Good w (cwaitWith mode f s) := by
  refine uniform_good hs fun c hc => ite_good (finS_good hc hs) (ite_good (finS_good hc hs) (ite_good (cwaitDone_good hc hs)
    (ite_good (finS_good hc hs) (ite_good (stall_good hc hs) ?_))))
  split
  · exact stall_good hc hs
  · exact ite_good (begun_good hc hs) (cwaitDone_good hc (endCopy_safe hs))

theorem bwaitWith_good {poll f} : Good w (bwaitWith poll f s) :=
  uniform_good hs fun _ hc => ite_good (finS_good hc hs) (ite_good (finS_good hc hs) (ite_good (cwaitDone_good hc hs)
    (ite_good (finS_good hc hs) (stall_good hc hs))))

theorem transferWith_good {kind f} : Good w (transferWith kind f s) := by
  refine uniform_good hs fun c hc => ite_good (trapAllMem_good hc hs) (ite_good (stall_good hc hs) ?_)
  split
  all_goals rename_i h; replace hs := heldRecord_safe h hs
  · exact recordFault_good hc hs
  refine ite_good (trapAllMem_good hc hs) ?_
  split
  · exact hold_good hc hs
  · split
    have h := newFab_safe ‹_› hs
    exact ite_good (finS_good hc (doneFab_safe h)) (finS_good hc (addTransfer_safe h))

theorem counterOp_good {f k} (hk : ∀ c n, c.Safe w → Good w (k c s n)) : Good w (counterOp f s k) :=
  uniform_good hs fun _ hc => ite_good (hk _ _ hc) (trapAll_good hc hs)

theorem collWaitWith_good {poll f} : Good w (collWaitWith poll f s) := by
  refine uniform_good hs fun c hc => ?_
  split
  · exact finS_good hc hs
  · exact ite_good (finS_good hc hs) (ite_good (finS_good hc hs) (stall_good hc hs))

theorem sstepWith_good {form f tag count} : Good w (sstepWith form f s tag count) := by
  refine uniform_good hs fun c hc => ?_
  split
  · exact trapAll_good hc hs
  refine ite_good (trapAll_good hc hs) (deliver_good hc hs fun c s hc hs => ?_)
  split
  · exact trapAll_good hc hs
  · have hb := breakStep_safe (seq := c.t.seq) hs
    exact ite_good (trapAll_good (hc.refresh hb) hb) (next_good (State.Safe.setSub (State.Safe.modGroup (by exact hs) (by rfl)) hc.2))

theorem sysOp_good {write f} {k : Ctx → State → Nat → Res} (hk : ∀ c i, c.Safe w → Good w (k c s i)) : Good w (sysOp write f s k) := by
  refine uniform_good hs fun c hc => ?_
  dsimp only
  split
  · exact trapAll_good hc hs
  · exact ite_good (trapAll_good hc hs) (ite_good (trapAll_good hc hs) (hk _ _ hc))

/-! ### Control flow (R142 to R155) -/

theorem execUfirst_good {f} : Good w (execUfirst f s) := by
  refine uniform_good hs fun c hc => ?_
  dsimp only
  split
  · exact finS_good hc hs
  · exact trapAll_good hc (memError_safe hs)

theorem execBra_good {f} : Good w (execBra f s) := uniform_good hs fun _ hc => finSub_good hs hc.2.jump
theorem execCall_good {f} : Good w (execCall f s) := uniform_good hs fun _ hc => callTo_good hc hs

theorem execRet_good {f} : Good w (execRet f s) := by
  refine uniform_good hs fun c hc => ?_
  split
  · exact trapAll_good hc hs
  next r rest h =>
    exact finSub_good hs (hc.2.shrink (h ▸ Nat.le_succ _) (dropOutside_sublist _ _) rfl)

theorem execBrx_good {f} : Good w (execBrx f s) :=
  uniform_good hs fun _ hc => ite_good (finSub_good hs hc.2.jump) (trapAll_good hc hs)
theorem execCallx_good {f} : Good w (execCallx f s) := uniform_good hs fun _ hc => ite_good (callTo_good hc hs) (trapAll_good hc hs)
theorem execEnrol_good {f} : Good w (execEnrol f s) := uniform_good hs fun _ hc => fin_good hc (hs.modGroup (by rfl))
theorem execEnrolMask_good {f} : Good w (execEnrolMask f s) := uniform_good hs fun _ hc => fin_good hc (hs.modGroup (by rfl))

theorem execRejoin_good {f} : Good w (execRejoin f s) :=
  uniform_good hs fun _ hc => deliver_good hc hs fun _ _ hc hs => ite_good (fin_good hc hs) (ite_good (trapAll_good hc hs)
    (next_good (testRendezvous_safe (parkLast_safe hc hs))))

theorem execStrike_good {f} : Good w (execStrike f s) :=
  uniform_good hs fun _ hc => next_good (testMask_safe (State.Safe.setSub (hs.modGroup (by rfl)) hc.2.dropChain.next))

theorem execLoopImm_good {f} (hf : f.level.toNat < 3) : Good w (execLoopImm f s) := uniform_good hs fun _ hc => startLoop_good hf hc hs
theorem execLoopReg_good {f} (hf : f.level.toNat < 3) : Good w (execLoopReg f s) := uniform_good hs fun _ hc => startLoop_good hf hc hs

omit hs in
theorem dropLevel_sublist {n : Nat} {fs : List LoopFrame} : (dropLevel n fs).Sublist fs := by
  induction fs with
  | nil => exact List.Sublist.refl _
  | cons f fs ih =>
    rw [dropLevel]
    split <;> [exact List.sublist_cons_self ..; exact ih.cons _]

theorem execLbrk_good {g level} : Good w (execLbrk g level s) := by
  refine uniform_good hs fun c hc => ?_
  split
  · exact trapAll_good hc hs
  · exact finSub_good hs (hc.2.shrink le_rfl dropLevel_sublist rfl)

theorem execArrive_good {f} : Good w (execArrive f s) :=
  uniform_good hs fun _ hc => ite_good (trapAll_good hc hs)
    (next_good (testBarrier_safe (State.Safe.setSub (State.Safe.modGroup (arriveAt_safe hs) (by rfl)) hc.2.dropChain.next)))

theorem execAwait_good {f} : Good w (execAwait f s) :=
  uniform_good hs fun _ hc => deliver_good hc hs fun _ _ hc hs => ite_good (fin_good hc hs) (parkAs_good hc hs)

theorem execNapUntil_good {f} : Good w (execNapUntil f s) := uniform_good hs fun _ hc => ite_good (fin_good hc hs) (parkAs_good hc hs)

theorem execNapWake_good {f} : Good w (execNapWake f s) :=
  uniform_good hs fun _ hc => ite_good (fin_good hc (hs.modGroup (by rfl))) (ite_good (fin_good hc hs) (parkAs_good hc hs))

theorem execNapCyc_good {f} : Good w (execNapCyc f s) := uniform_good hs fun _ hc => ite_good (fin_good hc hs) (parkAs_good hc hs)

theorem execWake_good {f} : Good w (execWake f s) :=
  uniform_good hs fun _ hc => ite_good (trapAll_good hc hs) (fin_good hc (hs.mapGroups fun g hg => by
    split <;> [exact wakeGroup_safe hg; exact hg]))

/-! ### Templates, ends and curfew -/

theorem execFreeze_good {f} : Good w (execFreeze f s) := by
  refine uniform_good hs fun c hc => ?_
  dsimp only
  split
  · refine ite_good (trapAll_good hc hs) (afterStores_good hc hs fun c s hc hs => withImage_good hc hs fun c s hc hs => ?_)
    exact endFibres_safe hs
  · exact trapAll_good hc hs

theorem execFreezen_good {f} : Good w (execFreezen f s) := by
  refine uniform_good hs fun c hc => ?_
  dsimp only
  split
  · exact trapAll_good hc hs
  · exact ite_good (trapAll_good hc hs) (afterStores_good hc hs fun c s hc hs => ite_good (stall_good hc hs)
      (withImage_good hc hs fun c s hc hs => stamp_safe hs))

theorem execNest_good {f} : Good w (execNest f s) := by
  refine uniform_good hs fun c hc => ite_good (trapAll_good hc hs) (ite_good (trapAll_good hc hs) (ite_good (trapAll_good hc hs) ?_))
  split
  · exact stall_good hc hs
  · exact fin_good hc (State.Safe.modGroup (by exact hs) (by rfl))

theorem execEndU_good {f} : Good w (execEndU f s) := uniform_good hs fun _ hc => endActive_good hc hs

theorem execEndl_good {f} : Good w (execEndl f s) :=
  uniform_good hs fun _ hc => endActive_good hc (hs.modGroup_of fun g hg => SubsSafe.map hg fun u hu => by split <;> exact hu)

theorem execYield_good {f} : Good w (execYield f s) :=
  uniform_good hs fun _ hc => ite_good (stall_good hc hs) (deliver_good hc hs fun _ _ hc hs => ite_good (fin_good hc hs)
    (finSub_good (State.Safe.modTeam (hs.modGroup (by rfl))) (Sub.Safe.of_frames hc.2.dropChain.next rfl rfl rfl)))

theorem execStatid_good {f} : Good w (execStatid f s) := uniform_good hs fun _ hc => fin_good hc (hs.modGroup (by rfl))

/-! ### Tile work and banks -/

theorem execTzero_good {f} : Good w (execTzero f s) := by
  refine uniform_good hs fun c hc => ite_good (trapAll_good hc hs) ?_
  split
  · exact stall_good hc hs
  next h => exact fin_good hc (enqueue_room (by simpa using h) hs)

theorem execModset_good {f} : Good w (execModset f s) := by
  refine uniform_good hs fun c hc => ite_good (trapAllMem_good hc hs) ?_
  split
  all_goals rename_i h; replace hs := heldRecord_safe h hs
  · exact recordFault_good hc hs
  · split
    · exact finS_good hc hs
    · exact ite_good (hold_good hc hs) (finS_good hc (takeModuli_safe hs))

theorem execModsetRead_good {f} : Good w (execModsetRead f s) := uniform_good hs fun _ hc => finS_good hc hs
theorem execModsetDefault_good {f} : Good w (execModsetDefault f s) :=
  uniform_good hs fun _ hc => ite_good (stall_good hc hs) (finS_good hc (takeModuli_safe hs))
theorem execCtnrd_good {f} : Good w (execCtnrd f s) := uniform_good hs fun _ hc => finS_good hc hs

theorem execCtnrdInject_good {f} : Good w (execCtnrdInject f s) := by
  refine uniform_good hs fun c hc => ite_good (trapAll_good hc hs) ?_
  split
  · exact stall_good hc hs
  next h => exact fin_good hc (enqueue_room (by simpa using h) hs)

theorem execCtnrdClr_good {f} : Good w (execCtnrdClr f s) := uniform_good hs fun _ hc => finS_good hc (hs.modCore le_rfl le_rfl)

theorem execCballoc_good {f} : Good w (execCballoc f s) :=
  uniform_good hs fun _ hc => ite_good (finS_good hc hs) (ite_good (finS_good hc hs) (ite_good (finS_good hc hs)
    (finS_good hc (State.setBank_safe hs))))

theorem execCballocFree_good {f} : Good w (execCballocFree f s) :=
  uniform_good hs fun _ hc => ite_good (trapAll_good hc hs) (ite_good (stall_good hc hs) (fin_good hc (State.setBank_safe hs)))

theorem execCbfence_good {f} : Good w (execCbfence f s) := uniform_good hs fun _ hc => ite_good (stall_good hc hs) (fin_good hc hs)

theorem execCbld_good {f k} : Good w (execCbld f k s) := by
  refine uniform_good hs fun c hc => ite_good (trapAll_good hc hs) (ite_good (trapAll_good hc hs) (ite_good (trapAllMem_good hc hs) ?_))
  split
  all_goals rename_i h; replace hs := firstUnreadable_safe h hs
  · exact trapAllMem_good hc hs
  · exact ite_good (stall_good hc hs) (fin_good hc (State.setBank_safe hs))

theorem execCbw_good {g d bank e h} : Good w (execCbw g d bank e h s) :=
  uniform_good hs fun _ hc => ite_good (trapAll_good hc hs) (ite_good (trapAll_good hc hs) (ite_good (stall_good hc hs)
    (fin_good hc (State.setBank_safe hs))))

theorem execCbr_good {g d e h bank} : Good w (execCbr g d e h bank s) :=
  uniform_good hs fun _ hc => ite_good (trapAll_good hc hs) (ite_good (trapAll_good hc hs) (ite_good (stall_good hc hs)
    (ite_good (trapAll_good hc (parityError_safe hs)) (finS_good hc hs))))

/-! ### Local memory, caches and translation -/

theorem execPin_good {f} : Good w (execPin f s) :=
  uniform_good hs fun _ hc => ite_good (finS_good hc hs) (ite_good (finS_good hc hs) (ite_good (finS_good hc hs) (ite_good (finS_good hc hs)
    (finS_good hc (State.Safe.modTeam (foldl_safe (fun _ _ => allotPart_safe) (sweepWays_safe hs)))))))

theorem execUnpin_good {f} : Good w (execUnpin f s) :=
  uniform_good hs fun _ hc => ite_good (trapAll_good hc hs) (ite_good (trapAll_good hc hs) (fin_good hc hs.modTeam))

theorem execStash_good {f} : Good w (execStash f s) := by
  refine uniform_good hs fun c hc => ?_
  split
  refine ite_good (finS_good hc hs) (ite_good (finS_good hc hs) (ite_good (finS_good hc hs) ?_))
  split
  all_goals rename_i h; replace hs := pagesReadable_safe h hs
  · exact finS_good hc hs
  · exact ite_good (finS_good hc hs) (finS_good hc (State.Safe.modTeam (foldl_safe (fun _ _ => clearLocal_safe) hs)))

theorem execStashDiscard_good {f} : Good w (execStashDiscard f s) := by
  refine uniform_good hs fun c hc => ?_
  split
  exact ite_good (trapAll_good hc hs) (fin_good hc hs.modTeam)

theorem execColinfo_good {f} : Good w (execColinfo f s) := uniform_good hs fun _ hc => finS_good hc hs

theorem execEvict1_good {f} : Good w (execEvict1 f s) := by
  refine uniform_good hs fun c hc => ?_
  split
  exact fin_good hc (hs.modCore le_rfl le_rfl)

theorem execWbl2_good {f} : Good w (execWbl2 f s) := by
  refine uniform_good hs fun c hc => ?_
  split
  have h {l : List L2Line} : (l.foldl (fun s x => (flushLine s x).setL2 { x with wtag := false }) s).Safe w :=
    foldl_safe (fun _ _ hs => State.setL2_safe (flushLine_safe hs)) hs
  exact fin_good hc (.ite h (foldl_safe (fun _ _ => addTime_safe) h))

theorem execPlq_good {f} : Good w (execPlq f s) := by
  refine uniform_good hs fun c hc => ?_
  split <;> exact finS_good hc (permission_safe ‹_› hs)

theorem execPlinv_good {f} : Good w (execPlinv f s) := by
  refine uniform_good hs fun c hc => ?_
  have drop {p : Tlb → Bool} : Good w (fin c (s.modCore c.core fun x => { x with plb := x.plb.filter p })) :=
    fin_good hc (hs.modCore le_rfl (List.length_filter_le ..))
  dsimp only
  split
  · exact drop
  · exact drop
  · exact drop
  · exact trapAll_good hc hs

theorem execTlbiVa_good {f} : Good w (execTlbiVa f s) := uniform_good hs fun _ hc => invalidateAll_good hc hs

theorem execSluiceUnlock_good {f} : Good w (execSluiceUnlock f s) := uniform_good hs fun _ hc => fin_good hc (cleanSnaps_safe hs)

/-! ### Engines, the fabric and counters -/

theorem execBrine_good {f} : Good w (execBrine f s) := by
  refine uniform_good hs fun c hc => ite_good (trapAllMem_good hc hs) (ite_good (stall_good hc hs) ?_)
  split
  all_goals rename_i h; replace hs := heldRecord_safe h hs
  · exact recordFault_good hc hs
  next s r =>
  extract_lets found lane now rs
  have hnow {code} : Good w (now s code) := by
    unfold now
    split
    · exact hold_good hc hs
    · split
      exact finS_good hc (doneBrine_safe (newBrine_safe ‹_› hs))
  clear_value now
  refine ite_good hnow (ite_good hnow ?_)
  split
  · exact trapAllMem_good hc hs
  split
  · exact trapAllMem_good hc hs
  · exact finS_good hc (by exact hs)
  · exact hold_good hc hs

theorem execBtbl_good {f} : Good w (execBtbl f s) := by
  refine uniform_good hs fun c hc => ite_good (trapAllMem_good hc hs) ?_
  split
  all_goals rename_i h; replace hs := readTableImage_safe h hs
  · exact recordFault_good hc hs
  · exact ite_good (finS_good hc hs) (ite_good (next_good (hs.setSub hc.2)) (finS_good hc hs))

theorem execTsend_good {f} : Good w (execTsend f s) := by
  refine uniform_good hs fun c hc => ite_good (trapAllMem_good hc hs) (ite_good (stall_good hc hs) ?_)
  split
  all_goals rename_i h; replace hs := readRecord_safe h hs
  · exact recordFault_good hc hs
  · refine ite_good (finS_good hc hs) (ite_good (trapAll_good hc hs) ?_)
    split <;> exact finS_good hc hs

theorem execTsendCancel_good {f} : Good w (execTsendCancel f s) := by
  refine uniform_good hs fun c hc => ?_
  split
  · exact finS_good hc hs
  · exact ite_good (finS_good hc hs) (ite_good (finS_good hc hs) (ite_good (stall_good hc hs) (finS_good hc hs)))

theorem execColl_good {f} : Good w (execColl f s) := by
  refine uniform_good hs fun c hc => ite_good (trapAllMem_good hc hs) (ite_good (stall_good hc hs) ?_)
  split
  all_goals rename_i h; replace hs := heldRecord_safe h hs
  · exact recordFault_good hc hs
  split
  · exact hold_good hc hs
  next e _ =>
  have started {s : State} {k : State → State} (hs : s.Safe w) (hk : ∀ s, s.Safe w → (k s).Safe w) :
      Good w (match newFab s (collKey e) c.t.asid with | (s, h) => finS c (k s) f.d (BitVec.ofNat 64 h)) := by
    split
    exact finS_good hc (hk _ (newFab_safe ‹_› hs))
  refine ite_good (started hs fun _ => doneFab_safe) ?_
  split
  all_goals rename_i h; have hr := engRead_safe h hs
  · exact ite_good (hold_good hc hs) (started hr fun _ => doneFab_safe)
  · exact ite_good (started hr fun _ => doneFab_safe) (finS_good hc (by exact hr))

theorem execCollAbort_good {f} : Good w (execCollAbort f s) := by
  refine uniform_good hs fun c hc => ?_
  split
  · exact finS_good hc hs
  refine ite_good (finS_good hc hs) (ite_good (finS_good hc hs) ?_)
  split
  · exact stall_good hc hs
  · exact ite_good (underWay_good hc hs) (ite_good (stall_good hc hs) (underWay_good hc hs))

theorem execTrapI_good {f} : Good w (execTrapI f s) := uniform_good hs fun _ hc => trapAllAt_good hc hs

theorem execTresume_good {f} : Good w (execTresume f s) := by
  refine uniform_good hs fun c hc => ?_
  dsimp only
  split
  · exact finS_good hc hs
  · exact ite_good (finS_good hc hs) (ite_good (finS_good hc hs)
      (finS_good hc (freeRecord_safe (foldl_safe (fun _ _ => releaseSub_safe) hs))))

theorem execSaveBlk_good {f} : Good w (execSaveBlk f s) := by
  refine uniform_good hs fun c hc => ite_good (ite_good (next_good hs) ?_) ?_
  · dsimp only
    split <;> [exact trapAllMem_good hc (dropFails_safe hs); exact finS_good hc (dropFails_safe hs)]
  · split
    · exact finS_good hc hs
    · split
      all_goals rename_i h; replace hs := checkPages_safe h hs
      · exact recordFault_good hc hs
      · exact parkAs_good hc (agentWrite_safe hs)

theorem execRestoreBlk_good {f} : Good w (execRestoreBlk f s) := by
  refine uniform_good hs fun c hc => ?_
  dsimp only
  split
  · exact finS_good hc hs
  split
  all_goals rename_i h; replace hs := readRecord_safe h hs
  · exact recordFault_good hc hs
  · refine ite_good (finS_good hc hs) ?_
    split
    · exact finS_good hc hs
    · exact finS_good hc (restoreInto_safe (privatise_safe ‹_› hs))

theorem execHostsig_good {f} : Good w (execHostsig f s) :=
  uniform_good hs fun _ hc => ite_good (stall_good hc hs) (fin_good hc (postSignal_safe hs))

theorem execCtrrd_good {f} : Good w (execCtrrd f s) := counterOp_good hs fun _ _ hc => finS_good hc hs
theorem execCtrset_good {f} : Good w (execCtrset f s) :=
  counterOp_good hs fun _ _ hc => ite_good (stall_good hc hs) (fin_good hc (setCounter_safe hs))
theorem execCtrwait_good {f} : Good w (execCtrwait f s) :=
  counterOp_good hs fun _ _ hc => ite_good (finS_good hc hs) (parkAs_good hc hs)
theorem execCtradd_good {f} : Good w (execCtradd f s) :=
  counterOp_good hs fun _ _ hc => ite_good (stall_good hc hs) (finS_good hc (setCounter_safe hs))

/-! ### Forms of the lane set with a rule of their own -/

theorem execBsqe_good {f} : Good w (execBsqe f s) := by
  unfold execBsqe
  exact classAx_good hs (fun _ _ _ => ite_subs rfl) fun _ _ _ => countRes_safe

theorem execMfragx_good {f} : Good w (execMfragx f s) := by
  unfold execMfragx
  refine laneOpOf_good hs fun c ex s hc hs => ite_good (ite_good (stall_good hc hs) ?_) (trapAll_good hc hs)
  split
  · exact trapAll_good hc hs
  · exact frag_good hc hs

theorem execRmod_good {f} : Good w (execRmod f s) := by
  unfold execRmod
  exact laneOp_good hs fun _ _ _ hc hs => withRows_good hc hs fun _ _ hc hs => finTraps_good hc (hs.modGroup (by rfl))

theorem execRrec_good {f} : Good w (execRrec f s) := by
  unfold execRrec
  exact laneOp_good hs fun _ _ _ hc hs => withRows_good hc hs fun _ _ hc hs =>
    finTraps_good hc (State.Safe.modGroup (foldl_safe (fun _ _ => recordRecon_safe) hs) (by rfl))

theorem execRchk_good {f} : Good w (execRchk f s) := by
  unfold execRchk
  exact laneOp_good hs fun _ _ _ hc hs => withRows_good hc hs fun _ _ hc hs => fin_good hc (hs.modGroup (by rfl))

theorem execUnop_good : Good w (execUnop s) := gated_good hs fun _ hc => fin_good hc hs

theorem execBrd_good {f} : Good w (execBrd f s) := by
  refine gated_good hs fun c hc => ite_good (finSub_good hs hc.2.jump) (ite_good (fin_good hc hs) ?_)
  split
  · exact next_good (split_safe hc hs)
  · split
    · exact ite_good (next_good (split_safe hc hs)) (next_good hs)
    · exact parkAs_good hc hs

theorem execUsread_good {f} : Good w (execUsread f s) := sysOp_good hs fun _ _ hc => finS_good hc hs
theorem execUswrite_good {f} : Good w (execUswrite f s) :=
  sysOp_good hs fun _ _ hc => fin_good (hc.refresh (sysStore_safe hs)) (sysStore_safe hs)

theorem execPref2_good {f} : Good w (execPref2 f s) := prefetch_good hs fun _ _ _ => homeLine_safe rfl
theorem execPref1_good {f} : Good w (execPref1 f s) := prefetch_good hs fun _ _ _ => coreLine_safe rfl

theorem execCasl_good {f z} : Good w (execCasl f z s) := by
  unfold execCasl
  split <;> exact localAtomic_good hs

end forms

end Sys2Proof.Machine
end

section
/-! SUPPORT. The device's own steps have good answers: each branch of one is made by functions that keep the invariant. -/

namespace Sys2Proof.Machine

variable {w : Wants}

theorem State.Safe.modSub {s : State} {gid lane : Nat} {f : Sub → Sub} (hs : s.Safe w) (hf : ∀ u, u.Safe w → (f u).Safe w) :
    (s.modSub gid lane f).Safe w := hs.modGroup_of fun g hg => SubsSafe.map hg fun u hu => by split <;> [exact hf u hu; exact hu]

section events
variable {s : State} (hs : s.Safe w)
include hs

/-! ### Sub-groups, traps and host programs -/

theorem execEndlRemoteStop_good {gid lane} : Good w (execEndlRemoteStop gid lane s) := by
  unfold execEndlRemoteStop
  split
  · exact next_good hs
  next c h =>
  have hc := hs.ctxOf h
  refine ite_good (next_good hs) ?_
  split
  · exact next_good (.ite (takeFragTrap_safe hc hs) hs)
  · exact ite_good (next_good (endFibres_safe hs)) (ite_good (next_good (deliverRestored_safe hc hs))
      (deliver_good hc hs fun _ _ _ hs => next_good (endFibres_safe hs)))

theorem execTrapBackoffExpiry_good {gid lane} : Good w (execTrapBackoffExpiry gid lane s) :=
  next_good (hs.modSub fun u hu => by split <;> [(split <;> exact hu); exact hu])

theorem execNapUntilExpiry_good {gid lane} : Good w (execNapUntilExpiry gid lane s) :=
  next_good (hs.modSub fun u hu => by split <;> [(split <;> [exact hu.dropChain.next; exact hu]); exact hu])

theorem execNapCycleExpiry_good {gid lane} : Good w (execNapCycleExpiry gid lane s) :=
  next_good (hs.modSub fun u hu => by split <;> [(split <;> [exact hu.dropChain.next; exact hu]); exact hu])

theorem execBrdSlotTimeout_good {gid lane} : Good w (execBrdSlotTimeout gid lane s) :=
  next_good (hs.modSub fun u hu => by split <;> [(split <;> exact hu); exact hu])

theorem execCoalescerClose_good {seq} : Good w (execCoalescerClose seq s) := next_good (State.modRec_safe hs)

theorem execTrapQueueWrite_good {seq} : Good w (execTrapQueueWrite seq s) := by
  unfold execTrapQueueWrite
  split
  · exact next_good hs
  refine ite_good (next_good hs) ?_
  split
  · exact next_good (.ite hs (toSummary_safe hs))
  refine ite_good (next_good hs) ?_
  split
  all_goals rename_i h; replace hs := targetReady_safe h hs
  · exact next_good hs
  split
  all_goals rename_i h; replace hs := deviceWrite_safe h hs
  · exact next_good (ringFault_safe hs)
  · exact next_good (makeWaiting_safe (wakeService_safe (by exact hs)))

theorem execServiceFaultPost_good : Good w (execServiceFaultPost s) := by
  unfold execServiceFaultPost
  split
  · exact next_good hs
  · exact next_good (.ite hs (postSignal_safe hs))

theorem execHostProgramStart_good {slot v} : Good w (execHostProgramStart slot v s) := next_good (.ite (hpsControl_safe hs) hs)
theorem execHostProgramAbort_good {slot v} : Good w (execHostProgramAbort slot v s) := next_good (.ite (hpsControl_safe hs) hs)
theorem execServiceTeamStart_good {v} : Good w (execServiceTeamStart v s) := next_good (serviceControl_safe hs)

/-! ### Registers and resets -/

theorem execFeatAcceptWrite_good {v} : Good w (execFeatAcceptWrite v s) := next_good (writeFeatAccept_safe hs)
theorem execCurfewWinWrite_good {v} : Good w (execCurfewWinWrite v s) := next_good (writeCurfewWin_safe hs)
theorem execLeaseL1Write_good {v} : Good w (execLeaseL1Write v s) := next_good (writeLeaseL1_safe hs)

theorem execPwrCapWrite_good {v} : Good w (execPwrCapWrite v s) :=
  next_good { hs.kept with limits := fun hw => { hs.limits hw with
    cap := by
      have := clampN_bounds (lo := 600) (hi := 1500) (x := bitsN v.toNat 15 0) (by decide)
      change _ ≤ (BitVec.ofNat 16 _).toNat ∧ (BitVec.ofNat 16 _).toNat ≤ _
      rw [BitVec.toNat_ofNat]
      omega } }

theorem execZoneReqWrite_good {v} : Good w (execZoneReqWrite v s) := next_good (modRegs_safe hs rfl)
theorem execTqBaseWrite_good {v} : Good w (execTqBaseWrite v s) := next_good (modRegs_safe hs rfl : State.Safe w (modRegs s _))
theorem execHsigTailWrite_good {v} : Good w (execHsigTailWrite v s) := next_good (.ite hs (modRegs_safe hs rfl))
theorem execErrSumCtlWrite_good {v} : Good w (execErrSumCtlWrite v s) := next_good (.ite (modRegs_safe hs rfl) hs)
theorem execMerCtlWrite_good {v} : Good w (execMerCtlWrite v s) := next_good (modRegs_safe hs rfl)
theorem execAttCtlStart_good {v} : Good w (execAttCtlStart v s) := next_good (.ite (modRegs_safe hs rfl) hs)
theorem execAttestationComplete_good : Good w (execAttestationComplete s) :=
  next_good (.ite hs (.ite (modRegs_safe hs rfl) (modRegs_safe hs rfl)))
theorem execFwUpdStart_good {v} : Good w (execFwUpdStart v s) := next_good (.ite hs (modRegs_safe hs rfl))
theorem execFwUpdateComplete_good : Good w (execFwUpdateComplete s) :=
  next_good (.ite hs (.ite (modRegs_safe hs rfl) (modRegs_safe hs rfl)))
theorem execWarmReset_good : Good w (execWarmReset s) := next_good (warmReset_safe hs)
theorem execThermalTrip_good : Good w (execThermalTrip s) := next_good (warmReset_safe hs)
theorem execPowerLoss_good : Good w (execPowerLoss s) := next_good (afterReset_safe hs)

theorem execPowerUp_good {b} : Good w (execPowerUp b s) :=
  next_good (.ite (modRegs_safe hs rfl) (.ite (.ite (modRegs_safe hs rfl) (.ite (modRegs_safe hs rfl) (modRegs_safe hs rfl)))
    (.ite (.ite (modRegs_safe hs rfl) (.ite (bootReady_safe hs) hs)) hs)))

theorem execClockThrottle_good {cycles} : Good w (execClockThrottle cycles s) := next_good hs

theorem execMeridianLock_good {ns} : Good w (execMeridianLock ns s) :=
  next_good (.ite hs (.ite (modRegs_safe hs rfl) (modRegs_safe (f := fun r => { r with merLocked := true, merSlow := false }) hs rfl)))

theorem execMeridianLockLoss_good : Good w (execMeridianLockLoss s) := next_good (.ite hs (modRegs_safe hs rfl))

theorem execRegisterWrite_good {off v} : Good w (execRegisterWrite off v s) := by
  refine ite_good (next_good hs) (ite_good (next_good (.ite (deviceStore_safe hs) hs)) (ite_good (next_good (.ite (warmReset_safe hs) hs)) ?_))
  refine ite_good (execZoneReqWrite_good hs) (ite_good (execTqBaseWrite_good hs) (ite_good (next_good (serviceControl_safe hs)) ?_))
  refine ite_good (execHsigTailWrite_good hs) (ite_good (execErrSumCtlWrite_good hs) (ite_good (execPwrCapWrite_good hs) ?_))
  refine ite_good (execAttCtlStart_good hs) (ite_good (execMerCtlWrite_good hs) (ite_good (execFwUpdStart_good hs) ?_))
  refine ite_good (next_good (plainWrite_safe hs)) (ite_good (next_good hs) (ite_good (next_good hs) ?_))
  exact ite_good (next_good (writeRoute_safe hs)) (next_good hs)

theorem execApertureAccess_good {a} : Good w (execApertureAccess a s) := by
  refine ite_good ?_ ?_
  · split
    · exact ite_good (execRegisterWrite_good hs) (next_good hs)
    · exact next_good hs
  · dsimp only
    split
    · exact next_good (foldl_safe (fun _ _ hs => .ite hs.poke hs) hs)
    · exact next_good (foldl_safe (fun _ _ => countRead_safe) hs : State.Safe w (List.foldl _ _ _))

/-! ### The pod and inbound requests -/

theorem execQueuePairSetup_good {pod} : Good w (execQueuePairSetup pod s) := next_good (.ite hs hs)

theorem execInboundFabricRequest_good {q} : Good w (execInboundFabricRequest q s) := by
  refine ite_good (next_good (.ite (inboundDone_safe hs) hs)) (ite_good (next_good hs) (ite_good (next_good (replicasDone_safe hs)) ?_))
  refine ite_good (next_good (.ite (lineAccess_safe hs) hs)) (ite_good (next_good hs) (ite_good (next_good (inboundPut_safe hs)) ?_))
  split
  all_goals rename_i h; replace hs := serve_safe h hs; exact next_good hs

theorem execRedContribution_good {id} : Good w (execRedContribution id s) := by
  unfold execRedContribution
  split
  · exact next_good hs
  refine ite_good (next_good hs) ?_
  split
  · exact next_good (State.setStore_safe hs)
  · exact next_good (.ite (State.setStore_safe hs) (.ite (tell_safe (State.setStore_safe hs)) hs))

theorem execReplicaStore_good {id} : Good w (execReplicaStore id s) := by
  unfold execReplicaStore
  split
  · exact next_good hs
  next st _ =>
  have h {t} : ((if st.uc then applyUc else applyCached) t s st).Safe w := by
    split <;> [exact applyUc_safe hs; exact applyCached_safe hs]
  exact ite_good (next_good hs) (next_good (.ite (by exact h) h))

/-! ### The scheduler, curfew and saves -/

theorem execSchedulerPass_good : Good w (execSchedulerPass s) := next_good (schedulerPass_safe hs)

theorem execCurfewWindowClose_good {tid} : Good w (execCurfewWindowClose tid s) := by
  unfold execCurfewWindowClose
  split
  · exact next_good hs
  split
  · exact next_good hs
  · exact ite_good (next_good hs) (next_good (foldl_safe (fun _ _ => stopOne_safe) hs.modTeam))

theorem execTeamSave_good {tid} : Good w (execTeamSave tid s) := by
  unfold execTeamSave
  split
  · exact next_good hs
  split
  · exact next_good hs
  refine ite_good (next_good hs) (ite_good (next_good (modCurfew_safe hs)) ?_)
  split
  · exact next_good (takeUe_safe hs)
  · exact ite_good (next_good hs) (ite_good (next_good (modCurfew_safe (saveStash_safe hs))) (next_good (writeSave_safe hs)))

theorem execLaunchLate_good {entry} : Good w (execLaunchLate entry s) := by
  unfold execLaunchLate
  split
  · exact next_good hs
  · exact next_good (.ite (markLate_safe hs) hs)

theorem execLaunchCompletion_good {entry} : Good w (execLaunchCompletion entry s) := by
  unfold execLaunchCompletion
  split
  · exact next_good hs
  refine ite_good (next_good hs) (ite_good (next_good ?_) (next_good (completeLaunch_safe ?_)))
  · exact .ite (foldl_safe (fun _ _ => agentStore_safe) (by exact hs)) (by exact hs)
  · split <;> [exact statsFault_safe (by exact hs); exact hs]

theorem execBinTimerExpiry_good {core bin} : Good w (execBinTimerExpiry core bin s) := by
  unfold execBinTimerExpiry
  split
  · exact next_good hs
  · exact next_good (.ite (closeBin_safe hs) hs)

theorem formBinOr_safe {core b} : ((formBin s core b).getD s).Safe w := by
  cases h : formBin s core b with
  | none => exact hs
  | some s' => exact formBin_safe h hs

theorem execBinGroupFormation_good {core bin} : Good w (execBinGroupFormation core bin s) := by
  unfold execBinGroupFormation
  split
  · exact next_good hs
  · exact next_good (.ite (formBinOr_safe hs) hs)

theorem execParkedRowRetry_good {gid lane} : Good w (execParkedRowRetry gid lane s) := by
  unfold execParkedRowRetry
  split
  · exact next_good hs
  next c h => exact ite_good (next_good (hs.setSub (hs.ctxOf h).2)) (next_good hs)

/-! ### Stores and translation -/

theorem execStoreAtL2_good {id} : Good w (execStoreAtL2 id s) := by
  unfold execStoreAtL2
  split
  · exact next_good hs
  refine ite_good (next_good hs) ?_
  dsimp only
  split
  · exact next_good (State.setStore_safe hs)
  split
  all_goals rename_i h; replace hs := reach_safe h hs
  · exact next_good (State.setStore_safe hs)
  refine ite_good (next_good hs) (ite_good (next_good (State.setStore_safe hs)) (ite_good (next_good (State.setStore_safe hs)) ?_))
  split <;> exact next_good (State.setStore_safe (dirtyLine_safe ‹_› hs))

theorem execStoreApplication_good {id} : Good w (execStoreApplication id s) := by
  unfold execStoreApplication
  split
  · exact next_good hs
  · exact ite_good (next_good hs) (ite_good (next_good (applyUc_safe hs)) (next_good (applyCached_safe hs)))

theorem execStoreTimeReturn_good {id} : Good w (execStoreTimeReturn id s) := by
  unfold execStoreTimeReturn
  split
  · exact next_good hs
  split
  · have h := State.dropStore_safe (id := id) hs
    exact ite_good (next_good hs) (next_good (.ite (addTime_safe h) (.ite (launchTime_safe h) h)))
  · exact next_good hs

theorem execStoreFailureReturn_good {id} : Good w (execStoreFailureReturn id s) := by
  unfold execStoreFailureReturn
  split
  · exact next_good hs
  split
  · exact ite_good (next_good (addDefer_safe (State.dropStore_safe hs))) (next_good hs)
  · exact next_good hs

theorem execPageTableWalk_good {core asid va} : Good w (execPageTableWalk core asid va s) :=
  next_good (.ite (permission_safe rfl hs) (translate_safe rfl hs))

theorem execLineFill_good {core asid va} : Good w (execLineFill core asid va s) := by
  unfold execLineFill
  split
  all_goals rename_i h; replace hs := translate_safe h hs
  · exact next_good hs
  · exact next_good (.ite hs (coreLine_safe rfl hs))

theorem execLeaseExpiry_good {core asid va} : Good w (execLeaseExpiry core asid va s) := next_good (hs.modCore le_rfl le_rfl)

theorem execZoneCompression_good : Good w (execZoneCompression s) := by
  have h {l : List ZoneLeaf} : (l.foldl visitLeaf s).Safe w := foldl_safe (fun _ _ => visitLeaf_safe) hs
  refine ite_good (next_good hs) (next_good ?_)
  split <;> [exact compress_safe (by exact h); exact h]

theorem execPeerStorePerform_good {id} : Good w (execPeerStorePerform id s) := by
  unfold execPeerStorePerform
  split
  · exact next_good hs
  split
  · refine ite_good (next_good hs) ?_
    split
    · exact ite_good (next_good (State.setStore_safe (localWrite_safe hs))) (next_good (State.setStore_safe hs))
    · exact next_good (State.setStore_safe hs)
  · exact next_good hs

/-! ### Banks and tile work -/

theorem execCbldComplete_good {core bank} : Good w (execCbldComplete core bank s) := by
  unfold execCbldComplete
  dsimp only
  split
  · exact next_good hs
  refine ite_good (next_good hs) ?_
  split <;> exact next_good (State.setBank_safe (readEntries_safe ‹_› hs))

theorem startedQ_safe {core o} : (s.modCore core fun y => { y with tileQ := startedQ o y.tileQ }).Safe w :=
  hs.modCore (startedQ_length ..).le le_rfl

theorem dropFirst_safe {core p} : (s.modCore core fun y => { y with tileQ := dropFirst p y.tileQ }).Safe w :=
  hs.modCore (dropFirst_length ..) le_rfl

theorem execTileOperationStart_good {core} : Good w (execTileOperationStart core s) := by
  unfold execTileOperationStart
  split
  · exact next_good hs
  split
  · refine ite_good (next_good hs) ?_
    split
    exact next_good (.ite hs (startedQ_safe (runTile_safe ‹_› hs)))
  · exact next_good hs

theorem execTileOperationComplete_good {core} : Good w (execTileOperationComplete core s) := by
  unfold execTileOperationComplete
  split
  · exact next_good hs
  · exact next_good (finishOp_safe hs)

theorem execTzeroRun_good {core} : Good w (execTzeroRun core s) := by
  unfold execTzeroRun
  split
  · exact next_good hs
  split
  · exact next_good (trimLost_safe (State.setOpAcc_safe (dropFirst_safe hs)))
  · exact next_good hs

theorem execCtnInjectionRun_good {core} : Good w (execCtnInjectionRun core s) := by
  unfold execCtnInjectionRun
  split
  · exact next_good hs
  split
  · exact next_good (trimLost_safe (.ite (State.setAcc_safe (dropFirst_safe hs)) (dropFirst_safe hs)))
  · exact next_good hs

theorem execDrainRun_good {core} : Good w (execDrainRun core s) := by
  unfold execDrainRun
  split
  · exact next_good hs
  split
  · refine ite_good (next_good hs) ?_
    split
    exact next_good (.ite hs (startedQ_safe (runDrain_safe ‹_› hs)))
  · exact next_good hs

theorem execDrainComplete_good {core} : Good w (execDrainComplete core s) := by
  unfold execDrainComplete
  split
  · exact next_good hs
  next o _ =>
    have h := dropFails_safe (agent := 3) (id := drainId o) hs
    exact ite_good (next_good hs) (next_good (finishOp_safe (.ite (State.setOpAcc_safe h) h)))

theorem execFragmentComplete_good {gid} : Good w (execFragmentComplete gid s) := by
  unfold execFragmentComplete
  split
  · exact next_good hs
  split
  · exact next_good hs
  have h {core mods} {r : Nat → Recon} : ((List.range 256).foldl (fun s e => recordRecon s core mods (r e) 1 0 0 (e / 16) (e % 16)) s).Safe w :=
    foldl_safe (fun _ _ => recordRecon_safe) hs
  exact ite_good (next_good (h.modGroup (by rfl))) (next_good (h.modGroup_of fun g hg =>
    hg.of_subs (foldl_keeps Group.subs (fun _ _ => by rfl) _ _)))

/-! ### Engines and collectives -/

theorem execCopyOperationStart_good {engine} : Good w (execCopyOperationStart engine s) := by
  unfold execCopyOperationStart
  split
  · exact next_good hs
  refine ite_good (next_good hs) ?_
  split
  have h := runCopy_safe ‹_› hs
  exact next_good (.ite hs (readAll_safe (by exact h)))

theorem execCopyOperationComplete_good {engine} : Good w (execCopyOperationComplete engine s) := by
  unfold execCopyOperationComplete
  split
  · exact next_good hs
  · exact ite_good (next_good hs) (next_good (endCopy_safe hs))

theorem execBrineJobStart_good {lane} : Good w (execBrineJobStart lane s) := by
  unfold execBrineJobStart
  split
  · exact next_good hs
  refine ite_good (next_good hs) ?_
  split
  have h := runJob_safe ‹_› hs
  exact next_good (.ite hs (by exact h))

theorem execBrineJobComplete_good {lane} : Good w (execBrineJobComplete lane s) := by
  unfold execBrineJobComplete
  split
  · exact next_good hs
  next j _ =>
  have h := dropFails_safe (agent := 2) (id := j.order) (dropEngineEntry_safe (order := j.order) hs)
  refine ite_good (next_good hs) (next_good (doneBrine_safe (opEnded_safe ?_)))
  exact State.Safe.ite (raiseCounter_safe h) h

theorem execTransferComplete_good {entry r} : Good w (execTransferComplete entry r s) := by
  unfold execTransferComplete
  split
  · exact next_good hs
  next x _ =>
  refine ite_good (ite_good (next_good hs) (ite_good (next_good (.ite hs hs)) ?_)) (ite_good (next_good hs) ?_)
  · split
    have h := moveTransfer_safe ‹_› hs
    exact next_good (by exact h)
  · split
    have h := dropFails_safe (agent := 1) (id := x.order) hs
    refine next_good (doneFab_safe (opEnded_safe ?_))
    exact State.Safe.ite (raiseCounter_safe (.ite (addCounter_safe h) h)) (.ite (addCounter_safe h) h)

theorem execTriggeredTransferStart_good {slot} : Good w (execTriggeredTransferStart slot s) := by
  unfold execTriggeredTransferStart
  split
  · exact next_good hs
  refine ite_good (next_good hs) ?_
  split
  · exact next_good hs
  · split
    have h := newFab_safe ‹_› hs
    exact next_good (addTransfer_safe (by exact h))

theorem execCollectiveMeet_good {entry resp} : Good w (execCollectiveMeet entry resp s) := by
  unfold execCollectiveMeet
  split
  · exact next_good hs
  have stop {s : State} {f} {o : Nat} (hs : s.Safe w) : Good w (.next (s.modColl o f)) := next_good (State.modColl_safe hs)
  refine ite_good (next_good hs) (ite_good (ite_good (stop hs) (next_good hs)) (ite_good (stop hs) (ite_good (stop hs) (ite_good (stop hs) ?_))))
  refine ite_good (next_good hs) (ite_good (next_good (State.modColl_safe (.ite (tell_safe hs) hs))) ?_)
  split
  all_goals rename_i h; replace hs := engRead_safe h hs
  · exact stop hs
  · exact next_good (State.modColl_safe (tell_safe hs))

theorem execCollectiveChunkReduce_good {entry chunk resp} : Good w (execCollectiveChunkReduce entry chunk resp s) := by
  unfold execCollectiveChunkReduce
  split
  · exact next_good hs
  refine ite_good (next_good hs) (ite_good (next_good (State.modColl_safe hs)) (ite_good (next_good hs) ?_))
  dsimp only
  split
  · exact next_good hs
  exact ite_good (next_good (State.modColl_safe hs)) (next_good (State.modColl_safe (writeChunk_safe rfl hs)))

theorem execCollectiveComplete_good {entry} : Good w (execCollectiveComplete entry s) := by
  unfold execCollectiveComplete
  split
  · exact next_good hs
  next x _ =>
  refine ite_good (next_good hs) ?_
  have h := dropFails_safe (agent := 5) (id := x.order) hs
  split
  · exact next_good (State.modColl_safe h)
  · refine ite_good (next_good hs) (ite_good (next_good (agentWrite_safe (State.modColl_safe hs))) (next_good (doneFab_safe (opEnded_safe ?_))))
    exact State.Safe.ite (raiseCounter_safe h) h

theorem execParticipantUnreachable_good {entry} : Good w (execParticipantUnreachable entry s) := by
  unfold execParticipantUnreachable
  split
  · exact next_good hs
  · exact next_good (.ite hs (State.modColl_safe hs))

theorem execSuperstepComplete_good {entry others first} : Good w (execSuperstepComplete entry others first s) := by
  unfold execSuperstepComplete
  split
  · exact next_good hs
  split
  · exact next_good hs
  next L _ _ _ _ =>
  have h : State.Safe w (if L.ssReported then s else
      { (s.modLaunch L.seq fun L => { L with ssReported := true }) with out := s.out ++ [.superstep L.ssTag L.ssCount] }) := .ite hs hs
  exact ite_good (next_good hs) (ite_good (next_good (endStep_safe hs)) (ite_good (next_good hs) (ite_good (next_good (breakStep_safe hs))
    (next_good (.ite (endStep_safe h) h)))))

theorem execFabricPortDown_good {port} : Good w (execFabricPortDown port s) := next_good (.ite hs hs)
theorem execFabricPortUp_good {port} : Good w (execFabricPortUp port s) := next_good (.ite hs hs)

end events

end Sys2Proof.Machine
end

section
/-! Every step keeps the invariant (O59): a case of `exec` for each instruction, then the moves and the step. -/

namespace Sys2Proof.Machine

variable {w : Wants}

/-- R145: a decoded LOOP names a level that there is. -/
theorem loop_level {i : Instr} {f : UniL} (hl : i = .loopImm f ∨ i = .loopReg f) (h : isEvent i = true ∨ i.wf = true) : f.level.toNat < 3 := by
  have h : f.level ≠ 3 := by
    obtain rfl | rfl := hl
    · simpa [isEvent, encode] using fun e => absurd (h.resolve_left (by simp [isEvent, encode])) (by simp [Instr.wf, e])
    · simpa [isEvent, encode] using fun e => absurd (h.resolve_left (by simp [isEvent, encode])) (by simp [Instr.wf, e])
  bv_omega

/-- An instruction that a word can stand for, and a step of the device's own, has a good answer. -/
theorem exec_good {i : Instr} {s : State} (hi : isEvent i = true ∨ i.wf = true) (hs : s.Safe w) : Good w (exec i s) := by
  unfold exec
  cases i with
  | iadd f | iadds f | isub f | isubs f | imul f | imulh f | imulhu f | imin f | iminu f | imax f | imaxu f | andL f
  | orL f | xorL f | andn f | shl f | shr f | sar f | rotl f | popc f | clz f | brev f | iabs f | bfx f | bfxs f | mov f =>
    exact aluR_good hs
  | iaddd f | isubd f | imulw f | imadw f => exact aluPair_good hs
  | imad f | idot4 f | bfi f => exact aluRD_good hs
  | icmpEq f | icmpNe f | icmpLt f | icmpLe f | icmpuLt f | icmpuLe f | icmpuGt f | icmpuGe f =>
    exact compare_good hs
  | pmovr f | pmovw f | pbit f => exact classA_good hs fun _ _ _ => rfl
  | movs f | selfIx f | laneid f | selp f => exact classA_good hs fun _ _ _ => ite_subs rfl
  | pand f | por f | pxor f | pnand f => exact predOp_good hs
  | iaddi f | movi f | shli f | shri f | sari f | rotli f | andi f => exact aluI_good hs
  | nbl f | nbr f | nblb f | nbrb f => exact neighbour_good hs
  | shflIdx f | shflXor f | shflUp f | shflDn f => exact shuffle_good hs
  | ballot f | anyP f | allP f | elect f => exact laneWrite_good hs fun _ _ _ => rfl
  | lredIadd f | lredImax f | lscanIaddEx f | lscanIaddIn f => exact reduceI_good hs
  | lredFadd f | lredFmax f | lscanFaddEx f | lscanFaddIn f => exact reduceF_good hs
  | fadd f rm | fsub f rm | fmul f rm | ffma f rm | fmin f | fmax f | fminn f | fmaxn f | fabs f | fneg f | frint f
  | fclass f | hadd2 f | hmul2 f | hfma2 f | hmax2 f | f2bf f | bf2f f | f2i f | i2f f | f2iz f | u2f f | f2uz f
  | bscale f | bsq f | bsdq f =>
    exact fAlu_good hs
  | fcmpEq f | fcmpLt f | fcmpLe f | fcmpUn f => exact fCompare_good hs
  | frcp f | frsq f | fex2 f | flg2 f => exact fApprox_good hs
  | cbxB8 f | cbxN4 f => exact cbx_good hs
  | xffma f k | xfmul f k => exact xf_good hs
  | mfrag f | mfraga f => exact mfrag_good hs
  | rmadC03 f c | rmadC45 f c => exact rmad_good hs
  | ldl f sz | ldlv f sz => exact localLoad_good hs
  | stl f sz | stlv f sz => exact localStores_good hs
  | atlAdd f | atlMax f | atlMin f | atlExch f => exact localAtomic_good hs
  | ld f sz | lda f fo => exact globalLoad_good hs
  | st f sz | str f fo => exact globalStore_good hs
  | atomAdd f | atomMax f | atomMin f | atomExch f | atombAnd f | atombOr f | atombXor f | atombAddf f =>
    exact atom_good hs
  | casW f | casD f | casQ f | casQAr f => exact cas_good hs
  | uadd f | usub f | umul f | umulh f | umulhu f | umin f | umax f | uminu f | uand f | uor f | uxor f | uandn f
  | ushl f | ushr f | usar f | urotl f | ulea f n =>
    exact uni2_good hs
  | uaddi f | uli f | ulih f | umov f | uactive f | ucount f => exact uniS_good hs
  | knot f | kany f | kall f | knone f | curf f => exact uniK_good hs
  | ucmpEq f | ucmpNe f | ucmpLt f | ucmpLe f | ucmpLtu f | ucmpLeu f => exact ucmp_good hs
  | kand f | kor f | kxor f => exact kBin_good hs
  | bar f | arrwait f => exact barrierWait_good hs
  | sstep f | sstepPod f => exact sstepWith_good hs
  | spawn f | spawnf f => exact spawnWith_good hs
  | launch f | launchTry f => exact launchWith_good hs
  | lwait f | lwaitPoll f => exact lwaitWith_good hs
  | tile f | tileL f => exact tile_good hs
  | twait f | twaitPoll f => exact twait_good hs
  | tdrainFp32 f | tdrainBf16 f | tdrainAcc f | tdrainI64 f | tdrainPlanes f =>
    exact tdrain_good hs
  | stashWb f | stashUnmap f => exact stashBack_good hs
  | fenceT f | fenceD f | fenceP f | fenceSc f | fenceAcq f | fenceEng f => exact fence_good hs
  | tlbi f | tlbiAll f => exact tlbi_good hs
  | copyPlain f | copySb12 f | copyRp16 f | copyBf16 f | copyGather f | copyDrain f =>
    exact copyWith_good hs
  | cwait f | cwaitPoll f | cwaitCancel f => exact cwaitWith_good hs
  | sluiceExcl f | sluiceWrite f | sluiceSnap f => exact sluiceLock_good hs
  | bwait f | bwaitPoll f => exact bwaitWith_good hs
  | putX f | getX f | putc f | atomr f => exact transferWith_good hs
  | collWait f | collPoll f => exact collWaitWith_good hs
  | bsqe f => exact execBsqe_good hs
  | mfragx f => exact execMfragx_good hs
  | rmod f => exact execRmod_good hs
  | rrec f => exact execRrec_good hs
  | rchk f => exact execRchk_good hs
  | casl f z => exact execCasl_good hs
  | unop => exact execUnop_good hs
  | ufirst f => exact execUfirst_good hs
  | usread f => exact execUsread_good hs
  | uswrite f => exact execUswrite_good hs
  | bra f => exact execBra_good hs
  | brd f => exact execBrd_good hs
  | call f => exact execCall_good hs
  | ret f => exact execRet_good hs
  | brx f => exact execBrx_good hs
  | callx f => exact execCallx_good hs
  | enrol f => exact execEnrol_good hs
  | enrolMask f => exact execEnrolMask_good hs
  | rejoin f => exact execRejoin_good hs
  | strike f => exact execStrike_good hs
  | loopImm f => exact execLoopImm_good hs (loop_level (.inl rfl) hi)
  | loopReg f => exact execLoopReg_good hs (loop_level (.inr rfl) hi)
  | lbrk g level => exact execLbrk_good hs
  | arrive f => exact execArrive_good hs
  | await f => exact execAwait_good hs
  | napUntil f => exact execNapUntil_good hs
  | napWake f => exact execNapWake_good hs
  | napCyc f => exact execNapCyc_good hs
  | wake f => exact execWake_good hs
  | freeze f => exact execFreeze_good hs
  | freezen f => exact execFreezen_good hs
  | nest f => exact execNest_good hs
  | endU f => exact execEndU_good hs
  | endl f => exact execEndl_good hs
  | yield f => exact execYield_good hs
  | statid f => exact execStatid_good hs
  | tzero f => exact execTzero_good hs
  | modset f => exact execModset_good hs
  | modsetRead f => exact execModsetRead_good hs
  | modsetDefault f => exact execModsetDefault_good hs
  | ctnrd f => exact execCtnrd_good hs
  | ctnrdInject f => exact execCtnrdInject_good hs
  | ctnrdClr f => exact execCtnrdClr_good hs
  | cballoc f => exact execCballoc_good hs
  | cballocFree f => exact execCballocFree_good hs
  | cbfence f => exact execCbfence_good hs
  | cbld f k => exact execCbld_good hs
  | cbw g d bank e h => exact execCbw_good hs
  | cbr g d e h bank => exact execCbr_good hs
  | pin f => exact execPin_good hs
  | unpin f => exact execUnpin_good hs
  | stash f => exact execStash_good hs
  | stashDiscard f => exact execStashDiscard_good hs
  | colinfo f => exact execColinfo_good hs
  | pref2 f => exact execPref2_good hs
  | pref1 f => exact execPref1_good hs
  | evict1 f => exact execEvict1_good hs
  | wbl2 f => exact execWbl2_good hs
  | plq f => exact execPlq_good hs
  | plinv f => exact execPlinv_good hs
  | tlbiVa f => exact execTlbiVa_good hs
  | sluiceUnlock f => exact execSluiceUnlock_good hs
  | brine f => exact execBrine_good hs
  | btbl f => exact execBtbl_good hs
  | tsend f => exact execTsend_good hs
  | tsendCancel f => exact execTsendCancel_good hs
  | ctrrd f => exact execCtrrd_good hs
  | ctrset f => exact execCtrset_good hs
  | ctrwait f => exact execCtrwait_good hs
  | ctradd f => exact execCtradd_good hs
  | coll f => exact execColl_good hs
  | collAbort f => exact execCollAbort_good hs
  | trapI f => exact execTrapI_good hs
  | tresume f => exact execTresume_good hs
  | saveBlk f => exact execSaveBlk_good hs
  | restoreBlk f => exact execRestoreBlk_good hs
  | hostsig f => exact execHostsig_good hs
  | endlRemoteStop gid lane => exact execEndlRemoteStop_good hs
  | trapBackoffExpiry gid lane => exact execTrapBackoffExpiry_good hs
  | coalescerClose rec => exact execCoalescerClose_good hs
  | trapQueueWrite rec => exact execTrapQueueWrite_good hs
  | serviceFaultPost => exact execServiceFaultPost_good hs
  | hostProgramStart slot v => exact execHostProgramStart_good hs
  | hostProgramAbort slot v => exact execHostProgramAbort_good hs
  | serviceTeamStart v => exact execServiceTeamStart_good hs
  | registerWrite off v => exact execRegisterWrite_good hs
  | apertureAccess a => exact execApertureAccess_good hs
  | featAcceptWrite v => exact execFeatAcceptWrite_good hs
  | curfewWinWrite v => exact execCurfewWinWrite_good hs
  | leaseL1Write v => exact execLeaseL1Write_good hs
  | pwrCapWrite v => exact execPwrCapWrite_good hs
  | zoneReqWrite v => exact execZoneReqWrite_good hs
  | tqBaseWrite v => exact execTqBaseWrite_good hs
  | hsigTailWrite v => exact execHsigTailWrite_good hs
  | errSumCtlWrite v => exact execErrSumCtlWrite_good hs
  | merCtlWrite v => exact execMerCtlWrite_good hs
  | attCtlStart v => exact execAttCtlStart_good hs
  | attestationComplete => exact execAttestationComplete_good hs
  | fwUpdStart v => exact execFwUpdStart_good hs
  | fwUpdateComplete => exact execFwUpdateComplete_good hs
  | warmReset => exact execWarmReset_good hs
  | powerUp b => exact execPowerUp_good hs
  | powerLoss => exact execPowerLoss_good hs
  | thermalTrip => exact execThermalTrip_good hs
  | clockThrottle cycles => exact execClockThrottle_good hs
  | meridianLock ns => exact execMeridianLock_good hs
  | meridianLockLoss => exact execMeridianLockLoss_good hs
  | queuePairSetup pod => exact execQueuePairSetup_good hs
  | inboundFabricRequest r => exact execInboundFabricRequest_good hs
  | redContribution store => exact execRedContribution_good hs
  | replicaStore store => exact execReplicaStore_good hs
  | schedulerPass => exact execSchedulerPass_good hs
  | curfewWindowClose team => exact execCurfewWindowClose_good hs
  | teamSave team => exact execTeamSave_good hs
  | launchLate entry => exact execLaunchLate_good hs
  | launchCompletion entry => exact execLaunchCompletion_good hs
  | binTimerExpiry core bin => exact execBinTimerExpiry_good hs
  | binGroupFormation core bin => exact execBinGroupFormation_good hs
  | parkedRowRetry gid lane => exact execParkedRowRetry_good hs
  | brdSlotTimeout gid lane => exact execBrdSlotTimeout_good hs
  | napUntilExpiry gid lane => exact execNapUntilExpiry_good hs
  | napCycleExpiry gid lane => exact execNapCycleExpiry_good hs
  | storeAtL2 store => exact execStoreAtL2_good hs
  | storeApplication store => exact execStoreApplication_good hs
  | storeTimeReturn store => exact execStoreTimeReturn_good hs
  | storeFailureReturn store => exact execStoreFailureReturn_good hs
  | pageTableWalk core asid va => exact execPageTableWalk_good hs
  | lineFill core asid va => exact execLineFill_good hs
  | leaseExpiry core asid va => exact execLeaseExpiry_good hs
  | zoneCompression => exact execZoneCompression_good hs
  | cbldComplete core bank => exact execCbldComplete_good hs
  | tileOperationStart core => exact execTileOperationStart_good hs
  | tileOperationComplete core => exact execTileOperationComplete_good hs
  | tzeroRun core => exact execTzeroRun_good hs
  | ctnInjectionRun core => exact execCtnInjectionRun_good hs
  | drainRun core => exact execDrainRun_good hs
  | drainComplete core => exact execDrainComplete_good hs
  | fragmentComplete gid => exact execFragmentComplete_good hs
  | copyOperationStart engine => exact execCopyOperationStart_good hs
  | copyOperationComplete engine => exact execCopyOperationComplete_good hs
  | brineJobStart brineLane => exact execBrineJobStart_good hs
  | brineJobComplete brineLane => exact execBrineJobComplete_good hs
  | transferComplete entry r => exact execTransferComplete_good hs
  | triggeredTransferStart slot => exact execTriggeredTransferStart_good hs
  | collectiveMeet entry r => exact execCollectiveMeet_good hs
  | collectiveChunkReduce entry chunk r => exact execCollectiveChunkReduce_good hs
  | collectiveComplete entry => exact execCollectiveComplete_good hs
  | participantUnreachable entry => exact execParticipantUnreachable_good hs
  | superstepComplete entry others first => exact execSuperstepComplete_good hs
  | fabricPortDown port => exact execFabricPortDown_good hs
  | fabricPortUp port => exact execFabricPortUp_good hs
  | peerStorePerform store => exact execPeerStorePerform_good hs

theorem decodeBytes_wf {bs i rest} (h : decodeBytes bs = .ok (i, rest)) : i.wf = true := by
  unfold decodeBytes at h
  split at h
  · split at h
    · rename_i hd
      cases h
      unfold decode at hd
      split at hd
      · cases hd
      · split at hd
        · cases hd
        · split at hd <;> cases hd
          assumption
    · cases h
  · cases h

theorem issueBytes_good {c : Ctx} {s : State} {bs} (hc : c.Safe w) (hs : s.Safe w) : Good w (issueBytes c s bs) := by
  unfold issueBytes
  split
  · exact trapAll_good hc hs
  · exact exec_good (.inr (decodeBytes_wf ‹_›)) (beforeIssue_safe hc hs)

theorem issueAt_good {gid lane : Nat} {s : State} (hs : s.Safe w) : Good w (issueAt gid lane s) := by
  unfold issueAt
  split
  · exact next_good hs
  next c h =>
  have hc := hs.ctxOf h
  refine ite_good (next_good hs) (ite_good (execEndlRemoteStop_good hs) (ite_good (next_good (settleStop_safe hs)) ?_))
  refine ite_good (next_good (deliverRestored_safe hc hs)) (ite_good (next_good hs) ?_)
  split
  · exact trapAllMem_good hc (fetchWord_safe ‹_› hs)
  · exact ite_good (next_good hs) (issueBytes_good hc (fetchWord_safe ‹_› hs))

theorem issueMove_good {gid lane : Nat} {s : State} (hs : s.Safe w) : Good w (issueMove gid lane s) := by
  unfold issueMove
  split
  · exact next_good hs
  · exact issueAt_good (ageCycle_safe hs)

theorem issueEach_good {cs : List Ctx} {s : State} (hs : s.Safe w) : Good w (issueEach cs s) := by
  induction cs generalizing s with
  | nil => exact next_good hs
  | cons c cs ih =>
    rw [issueEach]
    split
    · exact ih (issueAt_good hs _ ‹_›)
    · exact issueAt_good hs

theorem act_good {a : Act} {s : State} (hs : s.Safe w) : Good w (act a s) := by
  cases a with
  | issue gid lane => exact issueMove_good hs
  | issueLate gid lane =>
    rw [act]
    split
    · have h : State.Safe w _ := issueMove_good (s := { s with issuesLate := true }) hs _ ‹_›
      exact next_good h
    · exact issueMove_good (s := { s with issuesLate := true }) hs
  | loadPerforms gid order => exact next_good (performLate_safe hs)
  | fetchAhead gid lane n => exact next_good (fetchAheadAt_safe hs)
  | cycle => exact issueEach_good (ageCycle_safe hs)
  | event i =>
    rw [act]
    split
    · exact exec_good (.inl ‹_›) hs
    · exact next_good hs

theorem step_good {s : State} (hs : s.Safe w) : Good w (step s) := by
  unfold step
  split
  · exact act_good (tick_safe hs)
  · split
    · exact act_good (tick_safe hs)
    · exact next_good (tick_safe hs)

/-! ### The invariants of the model -/

/-- `Kept` says what the invariants that are asked for say of a state. -/
theorem State.safe_iff {s : State} : s.Safe w ↔
    (w.memory → Memory.wf s.mem = true ∧ s.regs.Legal) ∧ (w.cells → s.Canonical) ∧ (w.subs → s.SubsSound) ∧ (w.queues → s.QueuesBounded) := by
  have hsubs {gs : List Group} : (∀ g ∈ gs, g.Safe w) ↔ (w.subs → ∀ g ∈ gs, ∀ u ∈ g.subs, u.Sound) := by
    simp only [Sub.sound_iff]
    exact ⟨fun h hw g hg u hu => h g hg u hu hw, fun h g hg u hu hw => h hw g hg u hu⟩
  constructor
  · intro hs
    refine ⟨fun hw => ⟨hs.mem hw, Regs.legal_iff.2 (hs.limits hw)⟩, fun hw => ⟨hs.localMem hw, hs.crystMem hw⟩, fun hw g hg => ?_, fun hw n => hs.cores n hw⟩
    obtain hg | hg := List.mem_append.1 hg
    · exact hsubs.1 hs.groups hw g hg
    · obtain ⟨x, hx, hg⟩ := List.mem_flatMap.1 hg
      exact hsubs.1 (hs.saved x hx) hw g hg
  · rintro ⟨hm, hc, hu, hq⟩
    exact
      { mem := fun hw => (hm hw).1
        limits := fun hw => Regs.legal_iff.1 (hm hw).2
        localMem := fun hw => (hc hw).1
        crystMem := fun hw => (hc hw).2
        groups := hsubs.2 fun hw g hg => hu hw g (List.mem_append_left _ hg)
        saved := fun x hx => hsubs.2 fun hw g hg => hu hw g (List.mem_append_right _ (List.mem_flatMap.2 ⟨x, hx, hg⟩))
        cores := fun n hw => hq hw n }

/-- Settles O59: what the state before the step keeps is asked of the state after it. -/
theorem everyStepKeepsTheInvariant : Obligations.EveryStepKeepsTheInvariant := by
  unfold Obligations.EveryStepKeepsTheInvariant
  intro s t h
  let w : Wants := ⟨Memory.wf s.mem = true ∧ s.regs.Legal, s.Canonical, s.SubsSound, s.QueuesBounded⟩
  have hs : s.Safe w := State.safe_iff.2 ⟨id, id, id, id⟩
  obtain ⟨hm, hc, hu, hq⟩ := State.safe_iff.1 (step_good hs t h)
  exact ⟨fun h1 h2 => hm ⟨h1, h2⟩, hc, hu, hq⟩

end Sys2Proof.Machine
end

section
/-! SUPPORT. The registers of the device and the curfew window (O57). -/

namespace Sys2Proof.Machine

/-! ### Clamped registers -/

/-- A clamped field fits the width of the register that keeps it. -/
theorem toNat_ofNat_clampN {w lo hi x : Nat} (hl : lo ≤ hi) (hh : hi < 2 ^ w) : (BitVec.ofNat w (clampN lo hi x)).toNat = max lo (min hi x) := by
  rw [BitVec.toNat_ofNat, Nat.mod_eq_of_lt (lt_of_le_of_lt (clampN_bounds hl).2 hh)]
  rfl

/-- What CURFEW_WIN holds after a write (R122). -/
def curfewWinOf (v : DWord) : BitVec 21 := .ofNat 21 (clampN 1000 2000000 (bitsN v.toNat 20 0))

theorem curfewWinOf_toNat (v : DWord) : (curfewWinOf v).toNat = max 1000 (min 2000000 (v.toNat % 2 ^ 21)) :=
  (toNat_ofNat_clampN (by norm_num) (by norm_num)).trans (by rw [bitsN, pow_zero, Nat.div_one])

/-! ### USREAD and USWRITE of an index that the access allows (R179) -/

theorem sysOp_runs {write : Bool} {f : UniI} {s : State} {c : Ctx} {user priv : Nat} (h : Runs {} f.g s c) (hi : f.i.toNat < 4096)
    (hc : computeOnly f.i.toNat = false) (ha : sysAccess f.i.toNat = some (user, priv)) (hp : (if write then 2 else 1) ≤ priv)
    (hu : c.t.priv = true ∨ (if write then 2 else 1) ≤ user) (k : Ctx → State → Nat → Res) : sysOp write f s k = k c s f.i.toNat := by
  have hu' : ¬((!c.t.priv) = true ∧ user < if write then 2 else 1) := by
    rintro ⟨h1, h2⟩
    rcases hu with e | e
    · rw [e] at h1; cases h1
    · omega
  unfold sysOp
  rw [uniform_runs h]
  simp only [Nat.mod_eq_of_lt hi, hi, hc, ha, decide_true, Bool.false_and, Bool.not_false, Bool.and_self, if_true, Nat.not_lt.2 hp, if_false,
    Bool.and_eq_true, decide_eq_true_eq, hu']

/-- The context of the issuer is what it was where the groups and teams are. -/
theorem Ctx.refresh_self {s t : State} {c : Ctx} (h : s.ctx? = some c) (hg : t.groups = s.groups) (ht : t.teams = s.teams) : c.refresh t = c := by
  have e : t.ctxOf c.gid c.lane = s.ctxOf c.gid c.lane := by simp only [State.ctxOf, State.group?, State.team?, hg, ht]
  rw [Ctx.refresh, e, State.ctx?_ctxOf h]
  rfl

/-- A team that curfew has just been raised on (R122). -/
def State.windowOpen (s : State) (L : Launch) (base n : Nat) (t : Team) : Team :=
  let window := { until_ := s.cycles + s.regs.curfewWin.toNat, forSeq := L.seq, closed := false, blocked := false, granBase := base,
                  granules := n, since := none, stashed := false }
  { t with curfew := some window, yAcc := 0, yLocal := 0 }

theorem curfewOn_team? {s : State} {t x : Team} (L : Launch) (base n : Nat) (h : s.team? t.tid = some x) :
    (((curfewOn s L t base n).team? t.tid).bind Team.curfew).map Curfew.until_ = some (s.cycles + s.regs.curfewWin.toNat) := by
  have e := State.team?_modTeam s t.tid t.tid (s.windowOpen L base n) fun _ => rfl
  rw [if_pos rfl, h] at e
  exact congrArg (fun q : Option Team => (q.bind Team.curfew).map Curfew.until_) e

/-- A window that has not run out stays open. -/
theorem execCurfewWindowClose_early {s : State} {tid : Nat} {t : Team} {k : Curfew} (ht : s.team? tid = some t) (hk : t.curfew = some k)
    (h : s.cycles < k.until_) : execCurfewWindowClose tid s = .next s := by
  simp only [execCurfewWindowClose, ht, hk, h, decide_true, Bool.or_true, if_true]

theorem usread_curfewWin {s : State} {c : Ctx} {f : UniI} (h : Runs {} f.g s c) (hi : f.i = 0x106) :
    execUsread f s = .next (Falls c s fun g => g.setS f.d.toNat (BitVec.ofNat 64 s.regs.curfewWin.toNat)) := by
  have hn : f.i.toNat = 0x106 := by rw [hi]; rfl
  unfold execUsread
  rw [sysOp_runs (user := 1) (priv := 2) h (by omega) (by rw [hn]; rfl) (by rw [hn]; rfl) (by decide) (Or.inr (by decide)), hn]
  rfl

theorem uswrite_curfewWin {s : State} {c : Ctx} {f : UniI} (h : Runs {} f.g s c) (hi : f.i = 0x106) (hp : c.t.priv = true) :
    execUswrite f s = .next (c.setSub (writeCurfewWin s (c.sReg f.d)) c.u.falls) := by
  have hn : f.i.toNat = 0x106 := by rw [hi]; rfl
  have hs : sysStore s c 0x106 (c.sReg f.d) = writeCurfewWin s (c.sReg f.d) := rfl
  unfold execUswrite
  rw [sysOp_runs (user := 1) (priv := 2) h (by omega) (by rw [hn]; rfl) (by rw [hn]; rfl) (by decide) (Or.inl hp), hn]
  simp only [hs]
  rw [Ctx.refresh_self (t := writeCurfewWin s (c.sReg f.d)) h.1.1 rfl rfl, fin_eq]
  rfl

/-- Settles O57: CURFEW_WIN keeps the clamped value, and a window's end is set where it opens. -/
theorem curfewWindow : Obligations.CurfewWindow := by
  unfold Obligations.CurfewWindow
  refine ⟨rfl, fun s c f h hi hg => ⟨usread_curfewWin ⟨h, hg⟩ hi, fun hp => ⟨curfewWinOf (c.sReg f.d), curfewWinOf_toNat _, ?_⟩⟩, ?_, ?_⟩
  · exact uswrite_curfewWin ⟨h, hg⟩ hi hp
  · exact fun s L t x base n h => curfewOn_team? L base n h
  · exact fun s t k ht hk h => execCurfewWindowClose_early ht hk h

end Sys2Proof.Machine
end

section
/-! SUPPORT. Host program slots and trap service teams (O50). -/

namespace Sys2Proof.Machine

variable {s : State} {t : Team}

/-! ### A new group's team keeps all but its neighbour records -/

/-- The team with other neighbour records (R175). -/
def Team.withNb (t : Team) (nb : NMap Nb) : Team := { t with nb := nb }

theorem setNb_append {ts : List Team} {x : Team} (hs : s.teams = ts ++ [x]) (ht : ∀ y ∈ ts, y.tid ≠ x.tid) (f : Nat) (g : Nb → Nb) :
    (setNb s x.tid f g).teams = ts ++ [x.withNb (NMap.set Nb.none f (g (NMap.get Nb.none f x.nb)) x.nb)] := by
  have keep : ts.map (fun y => if y.tid == x.tid then y.withNb (NMap.set Nb.none f (g (NMap.get Nb.none f y.nb)) y.nb) else y) = ts :=
    (List.map_congr_left fun y hy => if_neg (by simpa using ht y hy)).trans (List.map_id' ts)
  show s.teams.map (fun y => if y.tid == x.tid then y.withNb (NMap.set Nb.none f (g (NMap.get Nb.none f y.nb)) y.nb) else y) = _
  rw [hs, List.map_append, keep, List.map_singleton, if_pos (beq_self_eq_true _)]

theorem setNbs_append {ts : List Team} (ht : ∀ y ∈ ts, y.tid ≠ t.tid) (pos : Nat → Nat) (n : Nb) (ls : List Nat) :
    ∀ {s : State} {m : NMap Nb}, s.teams = ts ++ [t.withNb m] →
      ∃ nb, (ls.foldl (fun s l => setNb s t.tid (pos l) fun _ => n) s).teams = ts ++ [t.withNb nb] := by
  induction ls with
  | nil => exact fun {_ m} hs => ⟨m, hs⟩
  | cons l ls ih => exact fun hs => ih (setNb_append (x := t.withNb _) hs ht (pos l) fun _ => n)

variable {gslot role : Nat} {live : Word} {idx : List Index} {st : Start}

theorem formGroup_teams {ts : List Team} (hs : s.teams = ts ++ [t]) (ht : ∀ y ∈ ts, y.tid ≠ t.tid) :
    ∃ nb, (formGroup s t gslot role live idx st).teams = ts ++ [t.withNb nb] :=
  setNbs_append ht _ _ _ (m := t.nb) hs

theorem formGroup_regs : (formGroup s t gslot role live idx st).regs = s.regs := foldl_keeps State.regs (fun _ _ => by rfl) _ _
theorem formGroup_hps : (formGroup s t gslot role live idx st).hps = s.hps := foldl_keeps State.hps (fun _ _ => by rfl) _ _

/-! ### Teams of the service cores (R92) -/

/-- The team that `placeService` makes. -/
def dawnTeam (s : State) (core tslot : Nat) (kind : TeamKind) (asid : BitVec 16) (priv : Bool) : Team :=
  { tid := s.nextTid, core := core, tslot := tslot, asid := asid, priv := priv, kind := kind, launch := 0, seq := 0, teamNo := 0
    level := 0, child := 0, roles := dawnRoles, ways := [], segs := [], cols := [], acc := 0, slotRegs := 1
    bars := [], nb := [], handles := [], tseq := 0, moduli := Moduli.default, stash := [], stashLines := [], cow := [], image := none
    ftz := false, linked := false, superstep := false, curfew := none, yAcc := 0, yLocal := 0, engGen := 0
    halted := false, restored := [] }

/-- The state in which `placeService` forms the team's group. -/
def State.withTeam (s : State) (t : Team) : State := { s with teams := s.teams ++ [t], nextTid := s.nextTid + 1 }

variable {core tslot : Nat} {kind : TeamKind} {asid : BitVec 16} {priv : Bool}

/-- The group that `placeService` makes. -/
def dawnGroup (s : State) (core tslot : Nat) (kind : TeamKind) (asid : BitVec 16) (priv : Bool) (live : Word) (idx : List Index) (st : Start) : Group :=
  formedGroup (s.withTeam (dawnTeam s core tslot kind asid priv)) (dawnTeam s core tslot kind asid priv) 0 0 live idx st

theorem placeService_groups : (placeService s core tslot kind asid priv live idx st).groups =
    s.groups ++ [dawnGroup s core tslot kind asid priv live idx st] := formGroup_groups

theorem placeService_teams (ht : ∀ x ∈ s.teams, x.tid < s.nextTid) :
    ∃ nb, (placeService s core tslot kind asid priv live idx st).teams = s.teams ++ [(dawnTeam s core tslot kind asid priv).withNb nb] :=
  formGroup_teams (s := s.withTeam (dawnTeam s core tslot kind asid priv)) rfl fun x hx => (ht x hx).ne

theorem placeService_regs : (placeService s core tslot kind asid priv live idx st).regs = s.regs := formGroup_regs
theorem placeService_hps : (placeService s core tslot kind asid priv live idx st).hps = s.hps := formGroup_hps
theorem placeService_mem : (placeService s core tslot kind asid priv live idx st).mem = s.mem := formGroup_mem

theorem dawnGroup_lane (hi : st.img = none) (r l : Nat) : (dawnGroup s core tslot kind asid priv live idx st).lane r l = 0 := by
  have hrow : (dawnGroup s core tslot kind asid priv live idx st).row r = List.replicate 32 0 := by
    have h : (dawnGroup s core tslot kind asid priv live idx st).img = none := hi
    simp only [Group.row, h]
    rfl
  rw [Group.lane, hrow, List.getD_eq_getElem?_getD, List.getElem?_getD_replicate_default_eq]

theorem dawnGroup_place : ((dawnGroup s core tslot kind asid priv live idx st).tid, (dawnGroup s core tslot kind asid priv live idx st).gslot,
    (dawnGroup s core tslot kind asid priv live idx st).live, (dawnGroup s core tslot kind asid priv live idx st).win) = (s.nextTid, 0, live, 60) := rfl

theorem dawnGroup_subs :
    (dawnGroup s core tslot kind asid priv live idx st).subs.map (fun u => (u.pc, u.mask, u.wait)) = [(st.pc, live, .ready)] := rfl

theorem dawnGroup_s : (dawnGroup s core tslot kind asid priv live idx st).s = st.s := rfl

/-- s0 and s1 of a team of a service core. -/
theorem sReg_pair {g : Group} {a b : DWord} (h : g.s = NMap.set 0 1 b (NMap.set 0 0 a [])) :
    g.sReg 0 = a ∧ g.sReg 1 = b ∧ ∀ i, 2 ≤ i → g.sReg i = 0 := by
  simp only [Group.sReg, h, NMap.get_set]
  exact ⟨rfl, rfl, fun i hi => by rw [if_neg (by omega), if_neg (by omega)]; rfl⟩

/-- A team of a service core: placed at the end, one group, s0 and s1 given, nothing else set. -/
theorem placeService_starts {a b : DWord} (ht : ∀ x ∈ s.teams, x.tid < s.nextTid) (hs : st.s = NMap.set 0 1 b (NMap.set 0 0 a []))
    (hi : st.img = none) :
    ∃ (x : Team) (g : Group), (placeService s core tslot kind asid priv live idx st).teams = s.teams ++ [x] ∧
      (x.core, x.kind, x.asid, x.priv, x.tslot) = (core, kind, asid, priv, tslot) ∧
      (placeService s core tslot kind asid priv live idx st).groups = s.groups ++ [g] ∧ (g.tid, g.gslot, g.live, g.win) = (x.tid, 0, live, 60) ∧
      g.subs.map (fun u => (u.pc, u.mask, u.wait)) = [(st.pc, live, .ready)] ∧
      g.sReg 0 = a ∧ g.sReg 1 = b ∧ (∀ i, 2 ≤ i → g.sReg i = 0) ∧ (∀ r l, g.lane r l = 0) ∧
      (placeService s core tslot kind asid priv live idx st).mem = s.mem := by
  obtain ⟨nb, hteams⟩ := placeService_teams (core := core) (tslot := tslot) (kind := kind) (asid := asid) (priv := priv) (live := live)
    (idx := idx) (st := st) ht
  obtain ⟨h0, h1, hn⟩ := sReg_pair (g := dawnGroup s core tslot kind asid priv live idx st) hs
  exact ⟨_, _, hteams, rfl, placeService_groups, dawnGroup_place, dawnGroup_subs, h0, h1, hn, dawnGroup_lane hi, placeService_mem⟩

/-! ### HPS_CTL (R93, R94) -/

theorem abortedParked_iff {n : Nat} : abortedParked s n = true ↔ ∃ x ∈ s.teams, x.kind = .command n ∧ x.halted = true ∧
    ∃ g ∈ s.groups, g.tid = x.tid ∧ ∃ u ∈ g.subs, parkedInTrap u = true := by
  simp [abortedParked, and_assoc]

theorem slotOf_setSlot (n : Nat) (h : Hps) : (s.setSlot n h).slotOf n = h := NMap.get_set_same _ _ _ _

/-- The fields of HPS_CTL as a START or an ABORT takes them. -/
def Hps.taking (h : Hps) (v : DWord) : Hps := { h with asid := v.extractLsb' 32 16, priv := v.getLsbD 1 }

theorem or_one_bits (v : DWord) : (v ||| 1).getLsbD 0 = true ∧ (v ||| 1).getLsbD 2 = v.getLsbD 2 ∧ ∀ h : Hps, h.taking (v ||| 1) = h.taking v := by
  have e : (v ||| 1).extractLsb' 32 16 = v.extractLsb' 32 16 := by
    ext i hi
    simp [BitVec.getElem_extractLsb', BitVec.getLsbD_or]
  refine ⟨by simp, by simp, fun h => ?_⟩
  rw [Hps.taking, Hps.taking, e]
  simp

theorem abort_bits (v : DWord) : ((v ||| 4) &&& ~~~1).getLsbD 0 = false ∧ ((v ||| 4) &&& ~~~1).getLsbD 2 = true := by
  constructor <;> simp

theorem hpsControl_start {n : Nat} {v : DWord} (hv : v.getLsbD 0 = true) : hpsControl s n v =
    if (s.slotOf n).st = 1 ∨ v.getLsbD 2 = true ∨ (s.slotOf n).st = 3 ∧ abortedParked s n = true then s.setSlot n { s.slotOf n with refused := true }
    else if s.regs.bootStatus = 4 then startCommand s n ((s.slotOf n).taking v) else s := by
  unfold hpsControl
  simp only [hv, if_true, Bool.or_eq_true, beq_iff_eq, Bool.and_eq_true, or_assoc, bne_iff_ne, ite_not]
  rfl

theorem hpsControl_abort {n : Nat} {v : DWord} (h0 : v.getLsbD 0 = false) (h2 : v.getLsbD 2 = true) : hpsControl s n v =
    if (s.slotOf n).st = 1 then abortCommand s n ((s.slotOf n).taking v) else s := by
  unfold hpsControl
  simp only [h0, h2, Bool.false_eq_true, if_true, if_false, beq_iff_eq]
  rfl

theorem abortCommand_of_team {n : Nat} {h : Hps} {x : Team} (hx : commandTeam s n = some x) :
    ((abortCommand s n h).slotOf n).st = 3 ∧
    (abortCommand s n h).groups = (s.groups.map fun g =>
      if g.tid == x.tid then { g with defer := [], subs := g.subs.map fun u => { u with endPending := true } } else g) ∧
    (abortCommand s n h).mem = s.mem := by
  simp only [abortCommand, hx]
  exact ⟨congrArg Hps.st (slotOf_setSlot n { h with st := 3 }), rfl, rfl⟩

/-- What the program of slot `n` starts with (R93). -/
def Hps.start (h : Hps) (n : Nat) : Start :=
  { pc := bitsN h.entry.toNat 54 2 * 4, pred := 0, s := NMap.set 0 1 (BitVec.ofNat 64 n) (NMap.set 0 0 h.arg []), k := 0, img := none }

theorem startCommand_eq (n : Nat) (h : Hps) : startCommand s n h =
    placeService (s.setSlot n { h with st := 1, refused := false }) (256 + n) 0 (.command n) h.asid h.priv 1
      (List.replicate 32 noIndex) (h.start n) := rfl

theorem startCommand_slotOf (n : Nat) (h : Hps) : (startCommand s n h).slotOf n = { h with st := 1, refused := false } := by
  rw [startCommand_eq, State.slotOf, placeService_hps]
  exact slotOf_setSlot n _

theorem startCommand_starts {n : Nat} (h : Hps) (ht : ∀ x ∈ s.teams, x.tid < s.nextTid) :
    ∃ (x : Team) (g : Group), (startCommand s n h).teams = s.teams ++ [x] ∧
      (x.core, x.kind, x.asid, x.priv, x.tslot) = (256 + n, .command n, h.asid, h.priv, 0) ∧
      (startCommand s n h).groups = s.groups ++ [g] ∧ (g.tid, g.gslot, g.live, g.win) = (x.tid, 0, 1, 60) ∧
      g.subs.map (fun u => (u.pc, u.mask, u.wait)) = [(h.entry.toNat / 4 % 2 ^ 53 * 4, 1, .ready)] ∧
      g.sReg 0 = h.arg ∧ g.sReg 1 = BitVec.ofNat 64 n ∧ (∀ i, 2 ≤ i → g.sReg i = 0) ∧ (∀ r l, g.lane r l = 0) ∧
      (startCommand s n h).mem = s.mem := by
  exact placeService_starts (s := s.setSlot n { h with st := 1, refused := false }) (st := h.start n) ht rfl rfl

/-! ### SVC_CTL (R408, R433) -/

/-- The cluster that a one-hot mask names. -/
theorem getLsbD_of_extract {n k : Nat} {v : DWord} (hk : k < 16) (hv : v.extractLsb' 0 16 = 1#16 <<< n) : v.getLsbD k = decide (k = n) := by
  have e := congrArg (fun x => x.getLsbD k) hv
  simp only [BitVec.getLsbD_extractLsb', BitVec.getLsbD_shiftLeft, BitVec.getLsbD_one, hk, decide_true, Bool.true_and, Nat.zero_add] at e
  rw [e, Bool.eq_iff_iff]
  simp only [Bool.and_eq_true, Bool.not_eq_true', decide_eq_true_eq, decide_eq_false_iff_not]
  omega

theorem filter_oneHot {n : Nat} {v : DWord} (hn : n < 16) (hv : v.extractLsb' 0 16 = 1#16 <<< n) :
    ((List.range 16).filter fun k => v.getLsbD k) = [n] := by
  have e : ((List.range 16).filter fun k => v.getLsbD k) = (List.range 16).filter (· == n) :=
    List.filter_congr fun k hk => getLsbD_of_extract (List.mem_range.1 hk) hv
  rw [e, List.filter_beq, List.count_eq_one_of_mem List.nodup_range (List.mem_range.2 hn)]
  rfl

/-- The state whose SVC_ASID is `a`. -/
def State.withSvcAsid (s : State) (a : BitVec 16) : State := { s with regs := { s.regs with svcAsid := a } }

theorem serviceControl_oneHot {n : Nat} {v : DWord} (hn : n < 16) (hv : v.extractLsb' 0 16 = 1#16 <<< n) :
    serviceControl s v = startService (s.withSvcAsid (v.extractLsb' 32 16)) n := by
  have e := List.foldl_filter (p := fun k => v.getLsbD k) (f := startService) (l := List.range 16) (init := s.withSvcAsid (v.extractLsb' 32 16))
  rw [filter_oneHot hn hv] at e
  exact e.symm

theorem startService_of_runs {n : Nat} (h : serviceRuns s n = true) : startService s n = s := by rw [startService, if_pos h]

/-- What the trap service team of cluster `n` starts with. -/
def State.serviceStart (s : State) (n : Nat) : Start :=
  { pc := s.regs.svcEntry.toNat, pred := 0, s := NMap.set 0 1 (BitVec.ofNat 64 n) (NMap.set 0 0 s.regs.tqBase []), k := 0, img := none }

theorem startService_of_none {n : Nat} (h : serviceTeam s n = none) : startService s n =
    placeService s (256 + n) 1 (.service n) s.regs.svcAsid true (BitVec.allOnes 32) ((List.range 32).map fun l => ⟨l, 0, 0, l, 0, l, 0, 0⟩)
      (s.serviceStart n) := by
  have hr : serviceRuns s n = false := by rw [serviceRuns, h]
  have hd : dropService s n = s := by rw [dropService, h]
  rw [startService, hr, hd]
  rfl

theorem startService_starts {n : Nat} (h : serviceTeam s n = none) (ht : ∀ x ∈ s.teams, x.tid < s.nextTid) :
    ∃ (x : Team) (g : Group), (startService s n).teams = s.teams ++ [x] ∧
      (x.core, x.kind, x.asid, x.priv, x.tslot) = (256 + n, .service n, s.regs.svcAsid, true, 1) ∧
      (startService s n).groups = s.groups ++ [g] ∧ (g.tid, g.gslot, g.live, g.win) = (x.tid, 0, BitVec.allOnes 32, 60) ∧
      g.subs.map (fun u => (u.pc, u.mask, u.wait)) = [(s.regs.svcEntry.toNat, BitVec.allOnes 32, .ready)] ∧
      g.sReg 0 = s.regs.tqBase ∧ g.sReg 1 = BitVec.ofNat 64 n ∧ (∀ i, 2 ≤ i → g.sReg i = 0) ∧ (∀ r l, g.lane r l = 0) ∧
      (startService s n).mem = s.mem := by
  rw [startService_of_none h]
  exact placeService_starts (st := s.serviceStart n) ht rfl rfl

theorem startService_regs {n : Nat} (h : serviceTeam s n = none) : (startService s n).regs = s.regs := by
  rw [startService_of_none h, placeService_regs]

/-! ### The statement -/

theorem execHostProgramStart_eq {slot : Nat} {v : DWord} (hs : slot < 16) : execHostProgramStart slot v s = .next
    (if (s.slotOf slot).st = 1 ∨ v.getLsbD 2 = true ∨ (s.slotOf slot).st = 3 ∧ abortedParked s slot = true then
      s.setSlot slot { s.slotOf slot with refused := true }
    else if s.regs.bootStatus = 4 then startCommand s slot ((s.slotOf slot).taking v) else s) := by
  obtain ⟨h0, h2, ht⟩ := or_one_bits v
  rw [execHostProgramStart, if_pos hs, hpsControl_start h0, h2, ht]

theorem execHostProgramAbort_eq {slot : Nat} {v : DWord} (hs : slot < 16) : execHostProgramAbort slot v s = .next
    (if (s.slotOf slot).st = 1 then abortCommand s slot ((s.slotOf slot).taking ((v ||| 4) &&& ~~~1)) else s) := by
  rw [execHostProgramAbort, if_pos hs, hpsControl_abort (abort_bits v).1 (abort_bits v).2]

/-- Settles O50: START, ABORT and SVC_CTL, each by what its team is made or ordered. -/
theorem hostPrograms : Obligations.HostPrograms := by
  unfold Obligations.HostPrograms
  refine ⟨fun s slot v hs => ?_, fun s n v hn hv => ⟨fun hr => ?_, fun hnone _ ht => ?_⟩⟩
  · have start := execHostProgramStart_eq (s := s) (v := v) hs
    have abort := execHostProgramAbort_eq (s := s) (v := v) hs
    simp only [← abortedParked_iff (s := s) (n := slot)]
    refine ⟨fun hb => ?_, fun hb hboot => ?_, fun hb hboot _ ht => ?_, fun hst => ?_, fun hst x hx => ?_⟩
    · exact ⟨_, start.trans (by rw [if_pos hb]), slotOf_setSlot _ _, rfl, rfl⟩
    · exact start.trans (by rw [if_neg hb, if_neg hboot])
    · obtain ⟨x, g, hx⟩ := startCommand_starts (n := slot) ((s.slotOf slot).taking v) ht
      exact ⟨_, x, g, start.trans (by rw [if_neg hb, if_pos hboot]), startCommand_slotOf _ _, hx⟩
    · exact abort.trans (by rw [if_neg hst])
    · exact ⟨_, abort.trans (by rw [if_pos hst]), abortCommand_of_team hx⟩
  · exact congrArg Host.Outcome.next ((serviceControl_oneHot hn hv).trans (startService_of_runs (by exact hr)))
  · obtain ⟨x, g, hx⟩ := startService_starts (s := s.withSvcAsid (v.extractLsb' 32 16)) hnone ht
    exact ⟨_, x, g, congrArg Host.Outcome.next (serviceControl_oneHot hn hv), startService_regs (s := s.withSvcAsid _) hnone, hx⟩

end Sys2Proof.Machine
end

section
/-! SUPPORT. The device registers in the window, and the aperture (O51). -/

namespace Sys2Proof.Machine

variable {s : State} {v : DWord}

/-! ### Reads of the window -/

/-- A read of a register in the window answers its value. -/
theorem windowRead {off n : Nat} (ho : off < 0x80000) (h8 : off % 8 = 0) (hv : windowValue s off = n) :
    execApertureAccess ⟨off, 8, none⟩ s = .next { s with out := s.out ++ [.readData off (natLe 8 n)] } := by
  simp only [execApertureAccess, ho, if_true, h8, beq_self_eq_true, Bool.and_true, decide_true, hv]

/-! ### Registers that keep bits -/

/-- The registers that keep bits and read them, with the bits they keep (R432, R433). -/
def keptBits : List (Nat × DWord) :=
  [(0x8018, 0x000FFFFFFFF80000), (0x8020, 0x000FFFFFFFF00001), (0x8028, 0x000FFFFFFFFF0000), (0x8030, 0x000FFFFFFFF80000),
   (0x8038, 0x000FFFFFFFF80000), (0x8040, 0x000FFFFFFFFF8000), (0x8060, 0x007FFFFFFFFFFFFC), (0x8070, 0x000FFFFFFFFFF000),
   (0x8198, 0x000FFFFFFFFFF000), (0x81A0, 0x0000FFFFFFFFFFFF), (0x81A8, 0x0000FFFFFFFFFFFF)]

theorem registerWrite_kept : ∀ q ∈ keptBits, execRegisterWrite q.1 v s = .next (plainWrite s q.1 v) := by
  simp only [keptBits, List.forall_mem_cons]
  exact ⟨rfl, rfl, rfl, rfl, rfl, rfl, rfl, rfl, rfl, rfl, rfl, List.forall_mem_nil _⟩

theorem keptBits_window : ∀ q ∈ keptBits, q.1 < 0x80000 ∧ q.1 % 8 = 0 := by decide

theorem plainWrite_kept : ∀ q ∈ keptBits, (plainWrite s q.1 v).mem = s.mem ∧ (plainWrite s q.1 v).groups = s.groups := by
  simp only [keptBits, List.forall_mem_cons]
  exact ⟨⟨rfl, rfl⟩, ⟨rfl, rfl⟩, ⟨rfl, rfl⟩, ⟨rfl, rfl⟩, ⟨rfl, rfl⟩, ⟨rfl, rfl⟩, ⟨rfl, rfl⟩, ⟨rfl, rfl⟩, ⟨rfl, rfl⟩, ⟨rfl, rfl⟩, ⟨rfl, rfl⟩,
    List.forall_mem_nil _⟩

theorem windowValue_kept (hb : s.regs.bootStatus.toNat < 0x81) :
    ∀ q ∈ keptBits, windowValue (plainWrite s q.1 v) q.1 = (v &&& q.2).toNat := by
  have up := not_le.2 hb
  simp only [keptBits, List.forall_mem_cons]
  exact ⟨if_neg up, if_neg up, if_neg up, if_neg up, if_neg up, if_neg up, if_neg up, if_neg up, if_neg up, if_neg up, if_neg up,
    List.forall_mem_nil _⟩

/-- A register that keeps bits reads those of what was written. -/
theorem kept_reads {q : Nat × DWord} (hq : q ∈ keptBits) (hb : s.regs.bootStatus.toNat < 0x81) :
    ∃ t : State, execRegisterWrite q.1 v s = .next t ∧
      execApertureAccess ⟨q.1, 8, none⟩ t = .next { t with out := t.out ++ [.readData q.1 (natLe 8 (v &&& q.2).toNat)] } ∧
      t.mem = s.mem ∧ t.groups = s.groups := by
  obtain ⟨ho, h8⟩ := keptBits_window q hq
  exact ⟨_, registerWrite_kept q hq, windowRead ho h8 (windowValue_kept hb q hq), plainWrite_kept q hq⟩

/-! ### Counts of corrected errors, the device's number and the nonce -/

theorem modRegs_self {f : Regs → Regs} (h : f s.regs = s.regs) : modRegs s f = s := by rw [modRegs, h]

/-- The counts of corrected errors (R432). -/
def countRegs : List Nat := [0x8090, 0x8098, 0x80A0]

theorem plainWrite_count : ∀ off ∈ countRegs, execRegisterWrite off v s = .next (plainWrite s off v) ∧ off < 0x80000 ∧ off % 8 = 0 ∧
    (plainWrite s off v).mem = s.mem ∧ (plainWrite s off v).groups = s.groups := by
  simp only [countRegs, List.forall_mem_cons]
  exact ⟨⟨rfl, by decide, trivial, rfl, rfl⟩, ⟨rfl, by decide, trivial, rfl, rfl⟩, ⟨rfl, by decide, trivial, rfl, rfl⟩, List.forall_mem_nil _⟩

theorem plainWrite_count_other (hv : v ≠ 0) : ∀ off ∈ countRegs, plainWrite s off v = s := by
  simp only [countRegs, List.forall_mem_cons]
  refine ⟨?_, ?_, ?_, List.forall_mem_nil _⟩
  · exact modRegs_self (f := fun r => { r with ceHbm := if v = 0 then 0 else r.ceHbm }) (by rw [if_neg hv])
  · exact modRegs_self (f := fun r => { r with ceL2 := if v = 0 then 0 else r.ceL2 }) (by rw [if_neg hv])
  · exact modRegs_self (f := fun r => { r with ceCryst := if v = 0 then 0 else r.ceCryst }) (by rw [if_neg hv])

theorem windowValue_count (hb : s.regs.bootStatus.toNat < 0x81) : ∀ off ∈ countRegs, windowValue (plainWrite s off 0) off = 0 := by
  have up := not_le.2 hb
  simp only [countRegs, List.forall_mem_cons]
  exact ⟨if_neg up, if_neg up, if_neg up, List.forall_mem_nil _⟩

theorem registerWrite_count {off : Nat} (h : off ∈ countRegs) :
    (v ≠ 0 → execRegisterWrite off v s = .next s) ∧
    (v = 0 → s.regs.bootStatus.toNat < 0x81 → ∃ t : State, execRegisterWrite off v s = .next t ∧
      execApertureAccess ⟨off, 8, none⟩ t = .next { t with out := t.out ++ [.readData off (natLe 8 0)] } ∧ t.mem = s.mem ∧ t.groups = s.groups) := by
  obtain ⟨hw, ho, h8, hframe⟩ := plainWrite_count (s := s) (v := v) off h
  refine ⟨fun hv => ?_, fun hv hb => ?_⟩
  · rw [hw, plainWrite_count_other hv off h]
  · subst hv
    exact ⟨_, hw, windowRead ho h8 (windowValue_count hb off h), hframe⟩

theorem registerWrite_deviceId (hb : s.regs.bootStatus.toNat < 0x81) (hl : s.regs.launched = false) :
    ∃ t : State, execRegisterWrite 0x8008 v s = .next t ∧
      execApertureAccess ⟨0x8008, 8, none⟩ t = .next { t with out := t.out ++ [.readData 0x8008 (natLe 8 (v &&& 0xFFFF03FF).toNat)] } := by
  have hw : execRegisterWrite 0x8008 v s = .next (plainWrite s 0x8008 v) := rfl
  have hv : windowValue (plainWrite s 0x8008 v) 0x8008 = (v &&& 0xFFFF03FF).toNat := by
    rw [plainWrite, if_pos rfl, hl]
    exact if_neg (not_le.2 hb)
  exact ⟨_, hw, windowRead (by decide) (by decide) hv⟩

theorem registerWrite_deviceId_launched (hl : s.regs.launched = true) : execRegisterWrite 0x8008 v s = .next s := by
  have hw : execRegisterWrite 0x8008 v s = .next (plainWrite s 0x8008 v) := rfl
  rw [hw, plainWrite, if_pos rfl, hl, if_pos rfl]

theorem registerWrite_nonce (hb : s.regs.bootStatus.toNat < 0x81) (hn : s.regs.attNonce.length = 4) {i : Nat} (hi : i < 4) :
    ∃ t : State, execRegisterWrite (0x80C8 + 8 * i) v s = .next t ∧
      execApertureAccess ⟨0x80C8 + 8 * i, 8, none⟩ t = .next { t with out := t.out ++ [.readData (0x80C8 + 8 * i) (natLe 8 v.toNat)] } := by
  have hw : execRegisterWrite (0x80C8 + 8 * i) v s = .next (plainWrite s (0x80C8 + 8 * i) v) := by interval_cases i <;> rfl
  have hv : windowValue (plainWrite s (0x80C8 + 8 * i) v) (0x80C8 + 8 * i) = v.toNat := by
    interval_cases i <;> simp [plainWrite, windowValue, deviceRegister, modRegs, hn, not_le.2 hb]
  exact ⟨_, hw, windowRead (by omega) (by omega) hv⟩

/-! ### Tables of the window -/

/-- A counter whose tag and valid bit are written. -/
def Counter.written (c : Counter) (v : DWord) : Counter := { c with tag := v.extractLsb' 0 16, v := v.getLsbD 16 }

/-- A write past the page of the registers goes to the counters, the grants or the routes. -/
theorem registerWrite_tables {off : Nat} (ho : 0x9000 ≤ off) (h8 : off % 8 = 0) : execRegisterWrite off v s =
    if 0x10000 ≤ off ∧ off < 0x18000 then
      .next { s with counters := NMap.set Counter.reset ((off - 0x10000) / 8) ((s.counter ((off - 0x10000) / 8)).written v) s.counters }
    else if 0x18000 ≤ off ∧ off < 0x18200 then .next { s with grants := NMap.set 0 ((off - 0x18000) / 8) (v &&& 0x1FFFF) s.grants }
    else if 0x24000 ≤ off ∧ off < 0x2C000 then .next (writeRoute s ((off - 0x24000) / 8) v)
    else .next s := by
  unfold execRegisterWrite
  iterate 13 rw [if_neg (by omega)]
  simp only [Bool.and_eq_true, decide_eq_true_eq]
  rfl

theorem windowValue_tables {off : Nat} (ho : 0x9000 ≤ off) : windowValue s off =
    if 0x10000 ≤ off ∧ off < 0x18000 then
      (s.counter ((off - 0x10000) / 8)).tag.toNat + if (s.counter ((off - 0x10000) / 8)).v then 2 ^ 16 else 0
    else if 0x18000 ≤ off ∧ off < 0x18200 then (NMap.get 0 ((off - 0x18000) / 8) s.grants).toNat
    else if 0x18200 ≤ off ∧ off < 0x18400 then (s.region ((off - 0x18200) / 8)).writes
    else if 0x20000 ≤ off ∧ off < 0x20140 then fieldN (s.regs.attReport ++ zeros 320) (off - 0x20000) 8
    else if 0x21000 ≤ off ∧ off < 0x21400 then
      if off % 16 = 0 then (s.memMap.getD ((off - 0x21000) / 16) (0, 0)).1 else (s.memMap.getD ((off - 0x21000) / 16) (0, 0)).2
    else if 0x24000 ≤ off ∧ off < 0x2C000 then (NMap.get 0 ((off - 0x24000) / 8) s.routes).toNat
    else if 0x30000 ≤ off ∧ off < 0x34000 then
      leNat ((List.range 8).map fun i => if off - 0x30000 + i < Config.certLen then Config.certByte (off - 0x30000 + i) else 0)
    else 0 := by
  unfold windowValue
  rw [if_neg (by omega), if_neg (by omega)]
  simp only [Bool.and_eq_true, decide_eq_true_eq]

/-- A tag and the bit above it are the value's low 17 bits. -/
theorem tag_and_bit (v : DWord) : (v.extractLsb' 0 16).toNat + (if v.getLsbD 16 then 2 ^ 16 else 0) = v.toNat % 2 ^ 17 := by
  have hbit : v.getLsbD 16 = decide (v.toNat / 2 ^ 16 % 2 = 1) := Nat.testBit_eq_decide_div_mod_eq
  rw [BitVec.extractLsb'_toNat, Nat.shiftRight_zero, hbit]
  simp only [decide_eq_true_eq]
  split <;> omega

theorem registerWrite_counter {i : Nat} (hi : i < 4096) :
    ∃ t : State, execRegisterWrite (0x10000 + 8 * i) v s = .next t ∧
      execApertureAccess ⟨0x10000 + 8 * i, 8, none⟩ t = .next { t with out := t.out ++ [.readData (0x10000 + 8 * i) (natLe 8 (v.toNat % 2 ^ 17))] } := by
  have hin : 0x10000 ≤ 0x10000 + 8 * i ∧ 0x10000 + 8 * i < 0x18000 := by omega
  refine ⟨_, (registerWrite_tables (by omega) (by omega)).trans (if_pos hin), windowRead (by omega) (by omega) ?_⟩
  rw [windowValue_tables (by omega), if_pos hin, State.counter, NMap.get_set_same]
  exact tag_and_bit v

theorem registerWrite_grant {i : Nat} (hi : i < 64) :
    ∃ t : State, execRegisterWrite (0x18000 + 8 * i) v s = .next t ∧
      execApertureAccess ⟨0x18000 + 8 * i, 8, none⟩ t = .next { t with out := t.out ++ [.readData (0x18000 + 8 * i) (natLe 8 (v.toNat % 2 ^ 17))] } := by
  have hin : 0x18000 ≤ 0x18000 + 8 * i ∧ 0x18000 + 8 * i < 0x18200 := by omega
  refine ⟨_, (registerWrite_tables (by omega) (by omega)).trans ((if_neg (by omega)).trans (if_pos hin)), windowRead (by omega) (by omega) ?_⟩
  rw [windowValue_tables (by omega), if_neg (by omega), if_pos hin, NMap.get_set_same, BitVec.toNat_and]
  exact Nat.and_two_pow_sub_one_eq_mod v.toNat 17

/-- The route table with its register `i` written. -/
theorem writeRoute_get (i : Nat) : NMap.get 0 i (writeRoute s i v).routes = v &&& routeMask i := NMap.get_set_same _ _ _ _

theorem writeRoute_qpairs {i : Nat} {p : Nat} (hp : p ∈ (writeRoute s i v).qpairs) :
    p ∈ s.qpairs ∧ p ≠ routePod s (i / 4) ∧ p ≠ routePod (writeRoute s i v) (i / 4) := by
  have e : routePod (writeRoute s i v) (i / 4) = routePod { s with routes := NMap.set 0 i (v &&& routeMask i) s.routes } (i / 4) := rfl
  rw [e]
  unfold writeRoute at hp
  simp only at hp
  split at hp
  · cases hp
  · simpa [not_or] using hp

theorem registerWrite_route {i : Nat} (hi : i < 1024) :
    ∃ t : State, execRegisterWrite (0x24000 + 32 * i) v s = .next t ∧
      execApertureAccess ⟨0x24000 + 32 * i, 8, none⟩ t =
        .next { t with out := t.out ++ [.readData (0x24000 + 32 * i) (natLe 8 (v &&& 0x0000FFFF0301FFFF).toNat)] } ∧
      ∀ p ∈ t.qpairs, p ∈ s.qpairs ∧ p ≠ routePod s i ∧ p ≠ routePod t i := by
  have hin : 0x24000 ≤ 0x24000 + 32 * i ∧ 0x24000 + 32 * i < 0x2C000 := by omega
  have hk : (0x24000 + 32 * i - 0x24000) / 8 = 4 * i := by omega
  have hm : routeMask (4 * i) = 0x0000FFFF0301FFFF := by simp [routeMask]
  have hw : execRegisterWrite (0x24000 + 32 * i) v s = .next (writeRoute s (4 * i) v) := by
    rw [registerWrite_tables (by omega) (by omega), if_neg (by omega), if_neg (by omega), if_pos hin, hk]
  refine ⟨_, hw, windowRead (by omega) (by omega) ?_, fun p hp => ?_⟩
  · rw [windowValue_tables (by omega)]
    iterate 5 rw [if_neg (by omega)]
    rw [if_pos hin, hk, writeRoute_get, hm]
  · have h := writeRoute_qpairs hp
    rwa [Nat.mul_div_cancel_left i (by decide : 0 < 4)] at h

/-! ### The aperture (R431) -/

/-- Bytes poked one after the other, as many as the list has. -/
theorem foldl_poke (bs : List Byte) : ∀ (s : State) (pa : Nat),
    (List.range bs.length).foldl (fun s i => s.poke (pa + i) (bs.getD i 0)) s = s.pokeN pa bs := by
  induction bs with
  | nil => exact fun s pa => rfl
  | cons b bs ih =>
    intro s pa
    rw [List.length_cons, List.range_succ_eq_map, List.foldl_cons, List.foldl_map]
    simp only [List.getD_cons_succ, List.getD_cons_zero, Nat.add_zero, Nat.succ_eq_add_one, ← Nat.add_assoc, Nat.add_right_comm pa _ 1, ih]
    rfl

theorem isHbm_iff {pa : Nat} : isHbm pa = true ↔ pa < 0x5F80000000 := decide_eq_true_iff

/-- The byte of HBM behind an offset of the aperture. -/
def State.aperByte (s : State) (off i : Nat) : Nat := s.regs.aperBase.toNat + (off - 0x80000) + i

/-- Whether a byte of an access is there. -/
def State.aperThere (s : State) (off i : Nat) : Bool :=
  decide (off + i < 0x100000) && isHbm (s.aperByte off i) && decide (s.regs.bootStatus.toNat < 0x81)

theorem apertureAccess_write {off n : Nat} {bs : List Byte} (ho : 0x80000 ≤ off) : execApertureAccess ⟨off, n, some bs⟩ s =
    .next ((List.range bs.length).foldl (fun t i => if s.aperThere off i then t.poke (s.aperByte off i) (bs.getD i 0) else t) s) := by
  unfold execApertureAccess
  rw [if_neg (not_lt.2 ho)]
  rfl

/-- The lines that a read of the aperture touches. -/
def State.aperLines (s : State) (off n : Nat) : List Nat :=
  (((List.range n).filter (s.aperThere off)).map fun i => s.aperByte off i / lineBytes * lineBytes).eraseDups

theorem apertureAccess_read {off n : Nat} (ho : 0x80000 ≤ off) : execApertureAccess ⟨off, n, none⟩ s =
    .next { ((s.aperLines off n).foldl countRead s) with
      out := s.out ++ [.readData off ((List.range n).map fun i => if s.aperThere off i then s.peek (s.aperByte off i) else 0)] } := by
  unfold execApertureAccess
  rw [if_neg (not_lt.2 ho)]
  rfl

section
variable {off n : Nat} (hn : off + n ≤ 0x100000) (ha : s.regs.aperBase.toNat + (off - 0x80000) + n ≤ 0x5F80000000)
  (hb : s.regs.bootStatus.toNat < 0x81)
include hn ha hb

theorem aperThere_of_lt {i : Nat} (hi : i < n) : s.aperThere off i = true := by
  simp only [State.aperThere, State.aperByte, isHbm_iff, Bool.and_eq_true, decide_eq_true_eq]
  omega

theorem apertureWrite {bs : List Byte} (ho : 0x80000 ≤ off) (hl : bs.length = n) :
    execApertureAccess ⟨off, n, some bs⟩ s = .next (s.pokeN (s.regs.aperBase.toNat + (off - 0x80000)) bs) := by
  rw [apertureAccess_write ho, ← foldl_poke]
  refine congrArg Host.Outcome.next (List.foldl_ext _ _ _ fun t i hi => ?_)
  rw [if_pos (aperThere_of_lt hn ha hb (hl ▸ List.mem_range.1 hi))]
  rfl

theorem apertureBytes :
    (List.range n).map (fun i => if s.aperThere off i then s.peek (s.aperByte off i) else 0) = s.peekN (s.regs.aperBase.toNat + (off - 0x80000)) n :=
  List.map_congr_left fun _ hi => if_pos (aperThere_of_lt hn ha hb (List.mem_range.1 hi))

end

/-- What a count of corrected errors of HBM may change. -/
structure CountsHbm (s t : State) : Prop where
  rest : { t with regs := s.regs, softErrs := s.softErrs } = s
  regs : { t.regs with ceHbm := s.regs.ceHbm } = s.regs
  quiet : s.softErrs = [] → t = s

theorem CountsHbm.refl : CountsHbm s s := ⟨rfl, rfl, fun _ => rfl⟩

theorem CountsHbm.trans {t u : State} (h : CountsHbm s t) (k : CountsHbm t u) : CountsHbm s u where
  rest := by
    have e := congrArg (fun x : State => { x with regs := s.regs, softErrs := s.softErrs }) k.rest
    exact e.trans h.rest
  regs := by
    have e := congrArg (fun x : Regs => { x with ceHbm := s.regs.ceHbm }) k.regs
    exact e.trans h.regs
  quiet hs := by
    obtain rfl := h.quiet hs
    exact k.quiet hs

theorem countSoft_hbm (line : Nat) : CountsHbm s (countSoft s 0 line) := by
  unfold countSoft
  split
  · exact CountsHbm.refl
  · next q hq =>
    refine ⟨rfl, rfl, fun hs => ?_⟩
    rw [hs] at hq
    cases hq

theorem countRead_hbm {pa : Nat} (h : isHbm pa = true) : CountsHbm s (countRead s pa) := by
  have hc : isCryst pa = false :=
    Bool.and_eq_false_iff.2 (Or.inl (decide_eq_false (not_le.2 (lt_trans (isHbm_iff.1 h) (by decide)))))
  rw [countRead, hc]
  exact countSoft_hbm _

theorem countReads_hbm {ls : List Nat} : (∀ a ∈ ls, isHbm a = true) → ∀ {s : State}, CountsHbm s (ls.foldl countRead s) := by
  induction ls with
  | nil => exact fun _ {_} => CountsHbm.refl
  | cons a ls ih =>
    intro h s
    exact (countRead_hbm (h a (List.mem_cons_self))).trans (ih fun b hb => h b (List.mem_cons_of_mem _ hb))

theorem aperLines_hbm {off n : Nat} : ∀ a ∈ s.aperLines off n, isHbm a = true := by
  intro a ha
  simp only [State.aperLines, List.mem_eraseDups, List.mem_map, List.mem_filter] at ha
  obtain ⟨i, ⟨_, hi⟩, rfl⟩ := ha
  simp only [State.aperThere, isHbm_iff, Bool.and_eq_true, decide_eq_true_eq] at hi
  exact isHbm_iff.2 (lt_of_le_of_lt (Nat.div_mul_le_self _ _) hi.1.2)

/-! ### The statement -/

theorem curfewWinWrite_clamped :
    ∃ x : BitVec 21, x.toNat = max 1000 (min 2000000 (v.toNat % 2 ^ 21)) ∧
      exec (.curfewWinWrite v) s = .next { s with regs := { s.regs with curfewWin := x } } := ⟨_, curfewWinOf_toNat v, rfl⟩

theorem leaseL1Write_clamped :
    ∃ x : BitVec 13, x.toNat = max 64 (min 4096 (v.toNat % 2 ^ 13)) ∧
      exec (.leaseL1Write v) s = .next { s with regs := { s.regs with leaseL1 := x } } :=
  ⟨.ofNat 13 (clampN 64 4096 (bitsN v.toNat 12 0)), by rw [toNat_ofNat_clampN (by norm_num) (by norm_num), bitsN, pow_zero, Nat.div_one], rfl⟩

theorem pwrCapWrite_clamped :
    ∃ x : BitVec 16, x.toNat = max 600 (min 1500 (v.toNat % 2 ^ 16)) ∧
      exec (.pwrCapWrite v) s = .next { s with regs := { s.regs with pwrCap := x } } :=
  ⟨.ofNat 16 (clampN 600 1500 (bitsN v.toNat 15 0)), by rw [toNat_ofNat_clampN (by norm_num) (by norm_num), bitsN, pow_zero, Nat.div_one], rfl⟩

theorem featAcceptWrite_eq : exec (.featAcceptWrite v) s =
    if s.regs.launched then .next s else .next { s with regs := { s.regs with featAccept := v &&& s.regs.featOffer } } :=
  apply_ite Host.Outcome.next _ _ _

theorem hsigTailWrite_eq : exec (.hsigTailWrite v) s =
    if 256 < (s.regs.hsigHead - v.extractLsb' 0 32).toNat then .next s
    else .next { s with regs := { s.regs with hsigTail := v.extractLsb' 0 32 } } := apply_ite Host.Outcome.next _ _ _

theorem errSumCtlWrite_eq : exec (.errSumCtlWrite v) s =
    if v = 0 then .next { s with regs := { s.regs with errCtl := 0, errRec := [] } } else .next s := apply_ite Host.Outcome.next _ _ _

theorem registerWrite_reset : exec (.registerWrite 0x8010 v) s = if v.getLsbD 0 then exec .warmReset s else .next s := apply_ite Host.Outcome.next _ _ _

/-- What a read of the aperture answers. -/
def State.aperAnswer (s : State) (off n : Nat) : Out := .readData off (s.peekN (s.regs.aperBase.toNat + (off - 0x80000)) n)

/-- The state with what `s` put out, and one answer more. -/
def State.answering (t s : State) (o : Out) : State := { t with out := s.out ++ [o] }

theorem apertureRead {off n : Nat} (ho : 0x80000 ≤ off) (hn : off + n ≤ 0x100000) (ha : s.regs.aperBase.toNat + (off - 0x80000) + n ≤ 0x5F80000000)
    (hb : s.regs.bootStatus.toNat < 0x81) :
    ∃ t : State, exec (.apertureAccess ⟨off, n, none⟩) s = .next t ∧
      { t with regs := s.regs, softErrs := s.softErrs } =
        { s with out := s.out ++ [.readData off (s.peekN (s.regs.aperBase.toNat + (off - 0x80000)) n)] } ∧
      { t.regs with ceHbm := s.regs.ceHbm } = s.regs ∧ (s.softErrs = [] → t.softErrs = [] ∧ t.regs = s.regs) := by
  have counts := countReads_hbm (s := s) (aperLines_hbm (s := s) (off := off) (n := n))
  refine ⟨((s.aperLines off n).foldl countRead s).answering s (s.aperAnswer off n), ?_, ?_, counts.regs, fun hs => ?_⟩
  · exact (apertureAccess_read ho).trans (by rw [apertureBytes hn ha hb]; rfl)
  · exact congrArg (fun x : State => x.answering s (s.aperAnswer off n)) counts.rest
  · have e := counts.quiet hs
    exact ⟨(congrArg State.softErrs e).trans hs, (congrArg State.regs e).trans rfl⟩

/-- Settles O51: each register by its own rule, the tables of the window by their regions, and the aperture byte by byte. -/
theorem deviceRegisters : Obligations.DeviceRegisters := by
  unfold Obligations.DeviceRegisters
  intro s v sets write reads
  refine ⟨featAcceptWrite_eq, curfewWinWrite_clamped, leaseL1Write_clamped, pwrCapWrite_clamped, rfl, ⟨_, rfl, rfl, rfl, rfl⟩,
    ⟨fun h => hsigTailWrite_eq.trans (if_pos h), fun h => hsigTailWrite_eq.trans (if_neg h)⟩,
    fun h => errSumCtlWrite_eq.trans (if_pos h), fun h => errSumCtlWrite_eq.trans (if_neg h), fun off h => registerWrite_count h, rfl,
    rfl, rfl, rfl, rfl, rfl, rfl, rfl, rfl, rfl, rfl, rfl, rfl,
    fun h => registerWrite_reset.trans (if_pos h), fun h => registerWrite_reset.trans (by rw [h]; rfl), fun off h => if_pos h,
    fun q hq hb => kept_reads hq hb,
    fun hb => ⟨registerWrite_deviceId hb, registerWrite_deviceId_launched, fun hn i hi => registerWrite_nonce hb hn hi⟩,
    fun i hi => registerWrite_counter hi, fun i hi => registerWrite_grant hi, fun i hi => registerWrite_route hi,
    fun off n bs ho hn hl ha hb => ⟨apertureWrite hn ha hb ho hl, apertureRead ho hn ha hb⟩⟩

end Sys2Proof.Machine
end

section
/-! SUPPORT. YIELD, and the close of a curfew window (O26). -/

namespace Sys2Proof.Machine

variable {s : State} {c : Ctx}

/-! ### YIELD (R124) -/

theorem State.modGroup_id (s : State) (gid : Nat) : s.modGroup gid id = s := by
  have e : (s.groups.map fun g => if g.gid == gid then id g else g) = s.groups :=
    (List.map_congr_left fun _ _ => ite_self _).trans (List.map_id' _)
  rw [State.modGroup, e]

/-- An operation that only goes on. -/
theorem fin_falls : fin c s = .next (Falls c s id) := by rw [fin_eq, Falls, State.modGroup_id]

/-- The group once its YIELD has declared rows and registers. -/
def Group.yielding (g : Group) (rows : BitVec 60) (regs : DWord) : Group := { g with yRows := g.yRows ||| rows, yS := g.yS ||| regs }

/-- The team once a YIELD has declared accumulators and local memory. -/
def Team.yielding (t : Team) (acc : BitVec 4) (ls : BitVec 62) : Team := { t with yAcc := t.yAcc ||| acc, yLocal := t.yLocal ||| ls }

/-- The state that a YIELD under curfew leaves before it parks. -/
def Ctx.yielding (c : Ctx) (s : State) (f : UniR) : State :=
  (s.modGroup c.gid fun g => g.yielding ((c.sReg f.a).extractLsb' 0 60) (c.sReg f.b)).modTeam c.t.tid fun t =>
    t.yielding ((c.sReg f.a).extractLsb' 60 4) ((c.sReg f.d).extractLsb' 0 62)

theorem execYield_runs {f : UniR} (h : Runs { waitPt := true } f.g s c) (hn : NoRecords c) (hp : pendingStores s c.gid c.active true = false) :
    execYield f s = if c.t.curfew.isNone then fin c s else finSub c (c.yielding s f) { c.u.falls with wait := .yielded } := by
  unfold execYield
  rw [uniform_runs h, hp, if_neg Bool.false_ne_true, deliver_none hn]
  rfl

/-- What the issuing group, its team and its sub-group are after a YIELD under curfew. -/
theorem yielded_ctxOf {f : UniR} {v : Sub} (hc : s.ctxOf c.gid c.lane = some c) (hv : v.mask = c.u.mask) :
    (c.setSub (c.yielding s f) v).ctxOf c.gid c.lane =
      some ⟨c.gid, c.lane, (c.g.yielding ((c.sReg f.a).extractLsb' 0 60) (c.sReg f.b)).setSub c.u.mask v, v,
        c.t.yielding ((c.sReg f.a).extractLsb' 60 4) ((c.sReg f.d).extractLsb' 0 62)⟩ := by
  obtain ⟨-, -, hg, hsub, ht⟩ := State.ctxOf_eq.1 hc
  have hgroup : (c.yielding s f).group? c.gid = some (c.g.yielding ((c.sReg f.a).extractLsb' 0 60) (c.sReg f.b)) := by
    have e := State.group?_modGroup_same s c.gid (fun g => g.yielding ((c.sReg f.a).extractLsb' 0 60) (c.sReg f.b)) fun _ => rfl
    rw [hg] at e
    exact e
  have hteam : (c.yielding s f).team? c.g.tid = some (c.t.yielding ((c.sReg f.a).extractLsb' 60 4) ((c.sReg f.d).extractLsb' 0 62)) := by
    have e := State.team?_modTeam s c.t.tid c.g.tid (fun t => t.yielding ((c.sReg f.a).extractLsb' 60 4) ((c.sReg f.d).extractLsb' 0 62))
      fun _ => rfl
    rw [if_pos (State.team?_tid ht).symm, ht] at e
    exact e
  refine State.ctxOf_eq.2 ⟨rfl, rfl, ?_, Group.subAt?_setSub _ hsub hv, hteam⟩
  rw [Ctx.setSub, State.group?_modGroup_same _ _ (fun g => g.setSub c.u.mask v) fun _ => rfl, hgroup]
  rfl

theorem execYield_curfew {f : UniR} (h : Runs { waitPt := true } f.g s c) (hn : NoRecords c) (hp : pendingStores s c.gid c.active true = false)
    (hw : c.t.curfew.isSome = true) :
    ∃ t : State, execYield f s = .next t ∧ (t.ctxOf c.gid c.lane).map Ctx.u = some { c.u.falls with wait := .yielded } ∧
      (t.group? c.gid).map (fun g => (g.yRows, g.yS)) = some (c.g.yRows ||| (c.sReg f.a).extractLsb' 0 60, c.g.yS ||| c.sReg f.b) ∧
      (t.team? c.t.tid).map (fun x => (x.yAcc, x.yLocal)) =
        some (c.t.yAcc ||| (c.sReg f.a).extractLsb' 60 4, c.t.yLocal ||| (c.sReg f.d).extractLsb' 0 62) ∧ t.mem = s.mem := by
  have hc := State.ctx?_ctxOf h.1.1
  have after := yielded_ctxOf (f := f) (v := { c.u.falls with wait := .yielded }) hc (Sub.falls_mask c.u)
  obtain ⟨-, -, hg, -, ht⟩ := State.ctxOf_eq.1 after
  have htid : c.t.tid = c.g.tid := State.team?_tid (State.ctxOf_eq.1 hc).2.2.2.2
  have hwn : ¬c.t.curfew.isNone = true := by rw [← Option.not_isSome, hw]; decide
  refine ⟨_, (execYield_runs h hn hp).trans (if_neg hwn), ?_, ?_, ?_, rfl⟩
  · rw [after]
    rfl
  · rw [hg]
    rfl
  · rw [htid]
    exact (congrArg (Option.map fun x : Team => (x.yAcc, x.yLocal)) ht).trans rfl

/-! ### Stopping one sub-group (R125) -/

/-- The sub-group as it stands once it is stopped with a wait of its record. -/
def Sub.halted (u : Sub) (k : Nat) : Sub := { u.dropChain with wait := .stopped k, stopPending := false }

section
variable {gid lane : Nat}

/-- What every halt and every withdrawal keeps, `stopOne` keeps. -/
theorem stopOne_keeps {β : Type} (p : State → β) (hset : ∀ (c : Ctx) s u, p (c.setSub s u) = p s) (hwd : ∀ s g u n, p (withdraw s g u n) = p s) :
    p (stopOne s gid lane) = p s := by
  unfold stopOne
  split
  · rfl
  · next d _ =>
    dsimp only
    split
    · rfl
    · split
      case h_1 | h_2 | h_3 => rfl
      case h_4 | h_5 | h_6 => split <;> exact hset _ _ _
      case h_7 => split <;> simp only [hset, hwd]
      case h_8 | h_9 | h_10 | h_11 | h_12 => exact hset _ _ _

variable (h : s.ctxOf gid lane = some c) (he : c.u.endPending = false)
include h he

theorem stopOne_stands (hw : c.u.wait = .ready ∨ c.u.wait = .stall) (ha : atSwitchPoint s c = true) :
    stopOne s gid lane = c.setSub s (c.u.halted (if c.u.wait == .ready then 0 else 5)) := by
  unfold stopOne
  obtain hw | hw := hw <;> simp only [h, he, hw, ha] <;> rfl

theorem stopOne_runs (hw : c.u.wait = .ready ∨ c.u.wait = .stall ∨ c.u.wait = .saving) (ha : atSwitchPoint s c = false) :
    stopOne s gid lane = c.setSub s { c.u with stopPending := true } := by
  unfold stopOne
  obtain hw | hw | hw := hw <;> simp only [h, he, hw, ha] <;> rfl

theorem stopOne_rejoin {j : Nat} (hw : c.u.wait = .rejoin j) : stopOne s gid lane = c.setSub s (c.u.halted 2) := by
  unfold stopOne
  simp only [h, he, hw]
  rfl

/-- One that waits at a barrier stops, its provisional arrival withdrawn (R150). -/
theorem stopOne_bar {n gen : Nat} {arrived : Bool} {d : Option Nat} (hw : c.u.wait = .bar n gen arrived d) :
    stopOne s gid lane = c.setSub (if arrived then withdraw s c.g c.u n else s) (c.u.halted 3) := by
  unfold stopOne
  simp only [h, he, hw]
  rfl

theorem stopOne_nap (hw : (∃ n, c.u.wait = .napUntil n ∨ c.u.wait = .napCyc n) ∨ c.u.wait = .napWake) :
    stopOne s gid lane = c.setSub s (c.u.halted 4) := by
  unfold stopOne
  obtain ⟨n, hw | hw⟩ | hw := hw <;> simp only [h, he, hw] <;> rfl

theorem stopOne_waits (hw : c.u.wait = .rows ∨ ∃ n, c.u.wait = .sstep n ∨ c.u.wait = .brdSlot n) : stopOne s gid lane = c.setSub s (c.u.halted 5) := by
  unfold stopOne
  obtain hw | ⟨n, hw | hw⟩ := hw <;> simp only [h, he, hw] <;> rfl

end

/-! ### The close of the window -/

theorem getLsbD_lowestLane {m : Word} (hm : m ≠ 0) : m.getLsbD (lowestLane m) = true := by
  have hne : lanesOf m ≠ [] := by
    intro hl
    refine hm (BitVec.eq_of_getLsbD_eq fun i hi => ?_)
    have hi' : ¬m.getLsbD i = true := (List.filter_eq_nil_iff.1 hl) i (List.mem_range.2 hi)
    simpa using hi'
  obtain ⟨l, ls, hl⟩ := List.exists_cons_of_ne_nil hne
  have hmem : l ∈ lanesOf m := hl ▸ List.mem_cons_self
  rw [lowestLane, hl]
  exact (List.mem_filter.1 hmem).2

/-- A window as its close leaves it. -/
def Curfew.shut (w : Curfew) (blocked : Bool) : Curfew := { w with closed := true, blocked := blocked }

/-- The state in which a close of the window stops the sub-groups. -/
def State.windowShut (s : State) (tid : Nat) (w : Curfew) : State :=
  s.modTeam tid fun t => { t with curfew := some (w.shut (teamParked s tid)) }

theorem execCurfewWindowClose_due {t : Team} {w : Curfew} {tid : Nat} (ht : s.team? tid = some t) (hw : t.curfew = some w)
    (hc : w.closed = false) (hd : w.until_ ≤ s.cycles) : execCurfewWindowClose tid s =
    .next ((teamSubs (s.windowShut tid w) tid).foldl (fun s q => stopOne s q.1 q.2) (s.windowShut tid w)) := by
  simp only [execCurfewWindowClose, ht, hw, hc, not_lt.2 hd, decide_false, Bool.or_self, Bool.false_eq_true, if_false]
  rfl

/-- The raised curfew of a team, if there is the team. -/
def State.curfewOf (s : State) (tid : Nat) : Option (Option Curfew) := (s.team? tid).map Team.curfew

theorem curfewOf_modTeam {n tid : Nat} {f : Team → Team} (ht : ∀ t, (f t).tid = t.tid) (hw : ∀ t, (f t).curfew = t.curfew) :
    (s.modTeam n f).curfewOf tid = s.curfewOf tid := by
  unfold State.curfewOf
  rw [State.team?_modTeam _ _ _ _ ht]
  split
  · rw [Option.map_map]
    exact congrArg (fun h => Option.map h (s.team? tid)) (funext hw)
  · rfl

theorem withdraw_curfewOf (g : Group) (u : Sub) (n tid : Nat) : (withdraw s g u n).curfewOf tid = s.curfewOf tid := by
  unfold withdraw
  refine (curfewOf_modTeam ?_ ?_).trans rfl
  · exact fun _ => rfl
  · exact fun _ => rfl

theorem stops_curfewOf (tid : Nat) (l : List (Nat × Nat)) : (l.foldl (fun s q => stopOne s q.1 q.2) s).curfewOf tid = s.curfewOf tid :=
  foldl_keeps (fun s => s.curfewOf tid) (fun _ _ => stopOne_keeps (fun s => s.curfewOf tid)
    (fun _ _ _ => rfl) fun _ _ _ _ => withdraw_curfewOf _ _ _ _) l s

theorem stops_mem (l : List (Nat × Nat)) : (l.foldl (fun s q => stopOne s q.1 q.2) s).mem = s.mem :=
  foldl_keeps State.mem (fun _ _ => stopOne_keeps State.mem (fun _ _ _ => rfl) fun _ _ _ _ => rfl) l s

theorem windowShut_curfewOf {t : Team} {w : Curfew} {tid : Nat} (ht : s.team? tid = some t) :
    (s.windowShut tid w).curfewOf tid = some (some (w.shut (teamParked s tid))) := by
  unfold State.windowShut State.curfewOf
  rw [State.team?_modTeam, if_pos rfl, ht]
  · rfl
  · exact fun _ => rfl

/-! ### A team of one group of one sub-group -/

theorem setSub_subs {d : Ctx} {g : Group} {v : Sub} (hg : s.group? d.gid = some g) (hs : g.subs = [d.u]) :
    ((d.setSub s v).group? d.gid).map Group.subs = some [v] := by
  have e := State.group?_modGroup_same s d.gid (fun g => g.setSub d.u.mask v) fun _ => rfl
  rw [hg] at e
  rw [Ctx.setSub, e, Option.map_some, Option.map_some, Group.setSub, hs, List.map_singleton, if_pos (beq_self_eq_true _)]

/-- The program counter and wait of a group's one sub-group once it is stopped. -/
theorem halted_wait {d : Ctx} {g : Group} {k : Nat} (hg : s.group? d.gid = some g) (hs : g.subs = [d.u]) :
    ((d.setSub s (d.u.halted k)).group? d.gid).map (fun g => g.subs.map fun v => (v.pc, v.wait)) = some [(d.u.pc, .stopped k)] := by
  have e := congrArg (Option.map (List.map fun v : Sub => (v.pc, v.wait))) (setSub_subs (v := d.u.halted k) hg hs)
  rwa [Option.map_map] at e

theorem withdraw_group? {d : Ctx} {g : Group} {n : Nat} (hg : s.group? d.gid = some g) :
    ∃ h, (withdraw s d.g d.u n).group? d.gid = some h ∧ h.subs = g.subs := by
  have e := State.group?_modGroup s d.g.gid d.gid (fun g => { g with arrive := NMap.set 0 n (NMap.get 0 n d.g.arrive &&& ~~~d.u.mask) g.arrive })
    fun _ => rfl
  rw [hg] at e
  split at e
  · exact ⟨_, e, rfl⟩
  · exact ⟨_, e, rfl⟩

/-- Each wait of a group's one sub-group, and how the sub-group stands once `stopOne` has met it. -/
theorem stopOne_single {d : Ctx} (h : s.ctxOf d.gid d.lane = some d) (hs : d.g.subs = [d.u]) (he : d.u.endPending = false) :
    let r := stopOne s d.gid d.lane
    let stops := fun (k : Nat) => (r.group? d.gid).map (fun g => g.subs.map fun v => (v.pc, v.wait)) = some [(d.u.pc, .stopped k)]
    (d.u.wait = .ready → atSwitchPoint s d = true → stops 0) ∧ (d.u.wait = .stall → atSwitchPoint s d = true → stops 5) ∧
    (d.u.wait = .ready ∨ d.u.wait = .stall ∨ d.u.wait = .saving → atSwitchPoint s d = false →
      (r.group? d.gid).map Group.subs = some [{ d.u with stopPending := true }]) ∧
    (∀ j, d.u.wait = .rejoin j → stops 2) ∧ (∀ m n a e, d.u.wait = .bar m n a e → stops 3) ∧
    ((∃ n, d.u.wait = .napUntil n ∨ d.u.wait = .napCyc n) ∨ d.u.wait = .napWake → stops 4) ∧
    (d.u.wait = .rows ∨ (∃ n, d.u.wait = .sstep n ∨ d.u.wait = .brdSlot n) → stops 5) := by
  obtain ⟨-, -, hg, -, -⟩ := State.ctxOf_eq.1 h
  intro r stops
  have halt {k : Nat} (e : r = d.setSub s (d.u.halted k)) : stops k := by
    show (r.group? d.gid).map _ = _
    rw [e]
    exact halted_wait hg hs
  refine ⟨fun hw ha => ?_, fun hw ha => ?_, fun hw ha => ?_, fun j hw => ?_, fun m n a e hw => ?_, fun hw => ?_, fun hw => ?_⟩
  · exact halt ((stopOne_stands h he (Or.inl hw) ha).trans (by rw [hw]; rfl))
  · exact halt ((stopOne_stands h he (Or.inr hw) ha).trans (by rw [hw]; rfl))
  · exact (congrArg (fun x : State => (x.group? d.gid).map Group.subs) (stopOne_runs h he hw ha)).trans (setSub_subs hg hs)
  · exact halt (stopOne_rejoin h he hw)
  · obtain ⟨g, hg', hgs⟩ : ∃ g, (if a then withdraw s d.g d.u m else s).group? d.gid = some g ∧ g.subs = d.g.subs := by
      cases a
      · exact ⟨_, hg, rfl⟩
      · exact withdraw_group? hg
    exact (congrArg (fun x : State => (x.group? d.gid).map fun g => g.subs.map fun v => (v.pc, v.wait)) (stopOne_bar h he hw)).trans
      (halted_wait hg' (hgs.trans hs))
  · exact halt (stopOne_nap h he hw)
  · exact halt (stopOne_waits h he hw)

section
variable {t : Team} {u : Sub} {w : Curfew} (hc : s.ctxOf c.gid c.lane = some c) (ht : c.g.tid = t.tid) (hu : c.g.subs = [u])
include hc ht hu

theorem teamSubs_single (hs : s.groups = [c.g]) : teamSubs (s.windowShut t.tid w) t.tid = [(c.gid, lowestLane u.mask)] := by
  have hgid : c.g.gid = c.gid := State.group?_gid (State.ctxOf_eq.1 hc).2.2.1
  have hg : (s.windowShut t.tid w).groups = [c.g] := hs
  have hf : [c.g].filter (fun g => g.tid == t.tid) = [c.g] := List.filter_eq_self.2 (by simpa using ht)
  rw [teamSubs, hg, hf, List.flatMap_singleton, hu, List.map_singleton, hgid]

/-- The context in which the close stops the team's one sub-group. -/
theorem windowShut_ctxOf (hm : u.mask ≠ 0) (hx : s.team? t.tid = some t) :
    (s.windowShut t.tid w).ctxOf c.gid (lowestLane u.mask) =
      some ⟨c.gid, lowestLane u.mask, c.g, u, { t with curfew := some (w.shut (teamParked s t.tid)) }⟩ := by
  obtain ⟨-, -, hg, -, -⟩ := State.ctxOf_eq.1 hc
  have hsub : c.g.subAt? (lowestLane u.mask) = some u := by
    rw [Group.subAt?, hu, List.find?_cons_of_pos]
    exact getLsbD_lowestLane hm
  have hteam := State.team?_modTeam s t.tid t.tid (fun x => { x with curfew := some (w.shut (teamParked s t.tid)) }) fun _ => rfl
  rw [if_pos rfl, hx] at hteam
  exact State.ctxOf_eq.2 ⟨rfl, rfl, hg, hsub, (congrArg (s.windowShut t.tid w).team? ht).trans hteam⟩

end

/-- Settles O26: YIELD by its two cases, the close by what each wait's stop leaves. -/
theorem curfewAndYield : Obligations.CurfewAndYield := by
  unfold Obligations.CurfewAndYield
  refine ⟨fun s c f => ⟨fun h => ⟨fun hd => ?_, ?_⟩, fun h hn hp => ⟨fun hw => ?_, fun hw => ?_⟩⟩, fun s t w ht hw hcl => ⟨fun hd => ?_, fun hd => ?_⟩⟩
  · exact uniK_runs h f.d _
  · exact uniform_runs h _
  · refine (execYield_runs h hn hp).trans ((if_pos (by rw [hw]; rfl)).trans ?_)
    exact fin_falls
  · exact execYield_curfew h hn hp hw
  · exact execCurfewWindowClose_early ht hw hd
  · refine ⟨_, execCurfewWindowClose_due ht hw hcl hd, (stops_curfewOf _ _).trans (windowShut_curfewOf ht), stops_mem _, ?_⟩
    intro c u hc hct hs hu hm he
    have hd := windowShut_ctxOf (w := w) hc hct hu hm ht
    have one : (teamSubs (s.windowShut t.tid w) t.tid).foldl (fun s q => stopOne s q.1 q.2) (s.windowShut t.tid w) =
        stopOne (s.windowShut t.tid w) c.gid (lowestLane u.mask) := by
      rw [teamSubs_single hc hct hu hs]
      rfl
    obtain ⟨ready, stall, runs, rejoin, bar, nap, rest⟩ :=
      stopOne_single (d := ⟨c.gid, lowestLane u.mask, c.g, u, { t with curfew := some (w.shut (teamParked s t.tid)) }⟩) hd hu he
    rw [one]
    exact ⟨fun hw ha => ready hw (ha _ hd), fun hw ha => stall hw (ha _ hd), fun hw ha => runs hw (ha _ hd), rejoin, bar, nap, rest⟩

end Sys2Proof.Machine
end

section
/-! SUPPORT. The launch queue: packets, entries, statuses (O25). -/

namespace Sys2Proof.Machine

variable {s : State} {c : Ctx} {L : Launch}

/-! ### Packets (R96 to R101) -/

theorem bitN_iff_recBits {p : List Byte} {off n i : Nat} : bitN (fieldN p off n) i = true ↔ recBits p off n i i = 1 := by
  rw [bitN, recBits, decide_eq_true_iff, Nat.add_sub_cancel_left, pow_one]

theorem bitN_false_iff_recBits {p : List Byte} {off n i : Nat} : bitN (fieldN p off n) i = false ↔ recBits p off n i i = 0 := by
  rw [bitN, recBits, decide_eq_false_iff_not, Nat.add_sub_cancel_left, pow_one]
  omega

theorem roleOk_iff {t : Bool} {f : Nat} : roleOk t f = true ↔
    bitsN f 23 21 = 0 ∧ (bitsN f 5 0 = 0 → bitsN f 9 6 = 0 ∧ bitsN f 20 10 = 0) ∧
    (bitsN f 5 0 ≠ 0 → bitsN f 5 0 ≤ 32 ∧ bitsN f 9 6 ≠ 0 ∧ bitsN f 20 10 ≤ bitsN f 5 0 * (4 * bitsN f 9 6)) ∧ (t = false → bitsN f 20 10 = 0) := by
  unfold roleOk roleGroups roleWin roleReserve
  by_cases h : bitsN f 5 0 = 0
  · simp only [h, if_true, Bool.and_eq_true, beq_iff_eq, not_true, false_implies, true_implies, true_and, ne_eq]
    constructor
    · rintro ⟨h0, hw, hr⟩
      exact ⟨h0, ⟨by omega, hr⟩, fun _ => hr⟩
    · rintro ⟨h0, ⟨hw, hr⟩, _⟩
      exact ⟨h0, by omega, hr⟩
  · simp only [h, if_false, Bool.and_eq_true, Bool.or_eq_true, beq_iff_eq, decide_eq_true_eq, not_false_eq_true, false_implies, true_implies, true_and,
      ne_eq, and_assoc, Nat.mul_eq_zero, OfNat.ofNat_ne_zero, false_or]
    cases t <;> simp

/-- The groups of a team are those of its four role fields, a role of none being absent (R98). -/
theorem rolesGroups_pRoles (p : List Byte) : rolesGroups (pRoles p) =
    roleGroups (pRole p 0) + roleGroups (pRole p 1) + roleGroups (pRole p 2) + roleGroups (pRole p 3) := by
  have key (l : List Nat) : ((l.filter fun r => roleGroups (pRole p r) != 0).map fun r => roleGroups (pRole p r)).sum =
      (l.map fun r => roleGroups (pRole p r)).sum := by
    induction l with
    | nil => rfl
    | cons r l ih =>
      by_cases h : roleGroups (pRole p r) = 0
      · rw [List.filter_cons_of_neg (by simpa using h), ih, List.map_cons, List.sum_cons, h, Nat.zero_add]
      · rw [List.filter_cons_of_pos (by simpa using h), List.map_cons, List.sum_cons, ih, List.map_cons, List.sum_cons]
  rw [rolesGroups, pRoles, List.map_map]
  refine (key (List.range 4)).trans ?_
  simp [List.range_succ, Nat.add_assoc]

theorem pTeams_le {p : List Byte} {n : Nat} (h : 0 < rolesGroups (pRoles p)) :
    pTeams p ≤ n ↔ pItems p ≤ n * (32 * rolesGroups (pRoles p)) := by
  rw [pTeams, ceilDiv, teamFibres, ← Nat.ceilDiv_eq_add_pred_div, ceilDiv_le_iff_le_mul (by omega), Nat.mul_comm]

/-- The checks of LAUNCH, one after the other. -/
theorem packetOk_iff {feat : DWord} {p : List Byte} : packetOk feat p = true ↔
    (bitsN (pEntry p) 63 55 = 0 ∧ bitsN (pEntry p) 1 0 = 0) ∧ (1 ≤ pX p ∧ 1 ≤ pY p ∧ 1 ≤ pZ p ∧ pItems p < 2 ^ 32) ∧
    (bitsN (pTmpl p) 63 55 = 0 ∧ (pT p = true → bitsN (pTmpl p) 18 2 ≠ 0 ∧ feat.getLsbD 0 = true) ∧ (pT p = false → pTmpl p = 0)) ∧
    (∀ r < 4, roleOk (pT p) (pRole p r) = true) ∧ (roleGroups (pRole p 0) ≠ 0 ∧
      (∀ r < 3, roleGroups (pRole p (r + 1)) ≠ 0 → roleGroups (pRole p r) ≠ 0) ∧ rolesGroups (pRoles p) ≤ 32 ∧
      (pLinked p = true → pSuper p = false ∧ pTeams p ≤ 16)) ∧
    (pColb p ≤ 32 ∧ pTbuf p ≤ 16 ∧ pWays p ≤ 14 ∧ (pCb p ≠ 0 → feat.getLsbD 1 = true)) ∧
    (bitsN (pStats p) 63 55 = 0 ∧ bitsN (pModuli p) 63 55 = 0 ∧ bitsN (pModuli p) 5 0 = 0) := by
  have hroles : (∀ r < 3, roleGroups (pRole p (r + 1)) = 0 ∨ ¬roleGroups (pRole p r) = 0) ↔
      ∀ r < 3, ¬roleGroups (pRole p (r + 1)) = 0 → ¬roleGroups (pRole p r) = 0 :=
    forall₂_congr fun r _ => or_iff_not_imp_left
  have hlink : ((pLinked p = false ∨ decide (16 < pTeams p) = false) ∧ (pLinked p = false ∨ pSuper p = false)) ↔
      (pLinked p = true → pSuper p = false ∧ pTeams p ≤ 16) := by
    cases pLinked p <;> simp [and_comm]
  have htmpl : ((if pT p = true then pTSize p != 0 else pTmpl p == 0) = true ∧ (pT p = false ∨ feat.getLsbD 0 = true)) ↔
      (pT p = true → bitsN (pTmpl p) 18 2 ≠ 0 ∧ feat.getLsbD 0 = true) ∧ (pT p = false → pTmpl p = 0) := by
    cases pT p <;> simp [pTSize]
  have hcb : (pCb p = 0 ∨ feat.getLsbD 1 = true) ↔ (pCb p ≠ 0 → feat.getLsbD 1 = true) := or_iff_not_imp_left
  have hitems : pItems p ≤ 2 ^ 32 - 1 ↔ pItems p < 2 ^ 32 := by omega
  rw [← hcb, ← hlink, ← htmpl]
  simp only [← hroles, ← hitems, packetOk, Bool.and_eq_true, beq_iff_eq, decide_eq_true_eq, List.all_eq_true, List.mem_range, List.mem_map, bne_iff_ne,
    Bool.or_eq_true, Bool.not_eq_true', Bool.and_eq_false_iff, forall_exists_index, and_imp, forall_apply_eq_imp_iff₂, ne_eq, and_assoc]
  constructor
  · rintro ⟨e1, e2, x, y, z, items, t1, t2, role, r0, rs, groups, colb, tbuf, ways, stats, m1, m2, k1, k2, feat0, cb⟩
    exact ⟨e1, e2, x, y, z, items, t1, t2, feat0, role, r0, rs, groups, k1, k2, colb, tbuf, ways, cb, stats, m1, m2⟩
  · rintro ⟨e1, e2, x, y, z, items, t1, t2, feat0, role, r0, rs, groups, k1, k2, colb, tbuf, ways, cb, stats, m1, m2⟩
    exact ⟨e1, e2, x, y, z, items, t1, t2, role, r0, rs, groups, colb, tbuf, ways, stats, m1, m2, k1, k2, feat0, cb⟩

theorem packetOk_iff_good {feat : DWord} {p : List Byte} : packetOk feat p = true ↔ PacketGood feat p := by
  rw [packetOk_iff]
  have hT : pT p = true ↔ recBits p 0x18 8 0 0 = 1 := bitN_iff_recBits
  have hF : pT p = false ↔ recBits p 0x18 8 0 0 = 0 := bitN_false_iff_recBits
  have hL : pLinked p = true ↔ recBits p 0x2C 4 30 30 = 1 := bitN_iff_recBits
  have hS : pSuper p = false ↔ recBits p 0x2C 4 29 29 = 0 := bitN_false_iff_recBits
  have hG := rolesGroups_pRoles p
  rw [hT, hF, hL, hS]
  simp only [roleOk_iff, hF]
  constructor
  · rintro ⟨entry, grid, template, role, ⟨r0, rs, groups, linked⟩, parts, tail⟩
    exact
      { entry := entry, grid := grid, template := template, role := role, parts := parts, tail := tail
        roles := ⟨r0, rs, hG ▸ groups, fun h => ⟨(linked h).1, hG ▸ (pTeams_le (by omega)).1 (linked h).2⟩⟩ }
  · rintro ⟨entry, grid, template, role, ⟨r0, rs, groups, linked⟩, parts, tail⟩
    have hpos : 0 < rolesGroups (pRoles p) := by
      rw [hG]
      exact Nat.add_pos_left (Nat.add_pos_left (Nat.add_pos_left (Nat.pos_of_ne_zero r0) _) _) _
    exact ⟨entry, grid, template, role, ⟨r0, rs, hG ▸ groups, fun h => ⟨(linked h).1, (pTeams_le hpos).2 (hG ▸ (linked h).2)⟩⟩, parts, tail⟩

/-! ### Entries (R106) -/

/-- Of what completed earliest so far and another, what completed earlier. -/
def earlier : Option Launch → Launch → Launch
  | none, L => L
  | some x, L => if L.doneAt < x.doneAt then L else x

theorem earliest_some (l : List Launch) : ∀ x : Launch, ∃ y, l.foldl (fun b L => some (earlier b L)) (some x) = some y ∧
    y ∈ x :: l ∧ ∀ z ∈ x :: l, y.doneAt ≤ z.doneAt := by
  induction l with
  | nil => exact fun x => ⟨x, rfl, List.mem_cons_self, by simp⟩
  | cons a l ih =>
    intro x
    obtain ⟨y, hy, hmem, hle⟩ := ih (earlier (some x) a)
    have hfirst := hle _ List.mem_cons_self
    have hrest := fun z hz => hle z (List.mem_cons_of_mem _ hz)
    by_cases h : a.doneAt < x.doneAt
    · have e : earlier (some x) a = a := if_pos h
      rw [e] at hmem hfirst
      refine ⟨y, hy, List.mem_cons_of_mem _ hmem, List.forall_mem_cons.2 ⟨by omega, List.forall_mem_cons.2 ⟨hfirst, hrest⟩⟩⟩
    · have e : earlier (some x) a = x := if_neg h
      rw [e] at hmem hfirst
      refine ⟨y, hy, ?_, List.forall_mem_cons.2 ⟨hfirst, List.forall_mem_cons.2 ⟨by omega, hrest⟩⟩⟩
      obtain hyx | hm := List.mem_cons.1 hmem
      · exact List.mem_cons.2 (Or.inl hyx)
      · exact List.mem_cons_of_mem _ (List.mem_cons_of_mem _ hm)

/-- The launches that are complete and still have their entries. -/
def State.doneLaunches (s : State) : List Launch := s.launches.filter fun L => !L.active

/-- The search for an entry never used. -/
def State.freshEntry (s : State) : Option Nat := firstFrom (fun e => !s.launches.any fun L => L.entry == e) 0 Config.launchEntries

theorem takeEntry_fresh {e : Nat} (h : s.freshEntry = some e) : takeEntry s = some e := by
  unfold State.freshEntry at h
  simp only [takeEntry, h]

theorem takeEntry_used (h : s.freshEntry = none) :
    takeEntry s = (s.doneLaunches.foldl (fun b L => some (earlier b L)) none).map Launch.entry := by
  unfold State.freshEntry at h
  simp only [takeEntry, h]
  refine congrArg (Option.map Launch.entry) (List.foldl_ext _ _ _ fun b L _ => ?_)
  cases b with
  | none => rfl
  | some x => exact (apply_ite some _ _ _).symm

theorem freshEntry_some {e : Nat} (h : s.freshEntry = some e) :
    e < 256 ∧ (∀ L ∈ s.launches, L.entry ≠ e) ∧ ∀ k < e, ∃ L ∈ s.launches, L.entry = k := by
  obtain ⟨-, hlt, hp, hbefore⟩ := firstFrom_some h
  refine ⟨by simpa [Config.launchEntries] using hlt, by simpa using hp, fun k hk => ?_⟩
  simpa using hbefore k (Nat.zero_le k) hk

theorem freshEntry_none (h : s.freshEntry = none) : ∀ k < 256, ∃ L ∈ s.launches, L.entry = k := by
  intro k hk
  simpa using firstFrom_none.1 h k (Nat.zero_le k) (by simpa [Config.launchEntries] using hk)

theorem mem_doneLaunches : L ∈ s.doneLaunches ↔ L ∈ s.launches ∧ L.active = false := by simp [State.doneLaunches]

theorem takeEntry_some {e : Nat} (h : takeEntry s = some e) :
    (e < 256 ∧ (∀ L ∈ s.launches, L.entry ≠ e) ∧ ∀ k < e, ∃ L ∈ s.launches, L.entry = k) ∨
    (∀ k < 256, ∃ L ∈ s.launches, L.entry = k) ∧
      ∃ L ∈ s.launches, L.entry = e ∧ L.active = false ∧ ∀ x ∈ s.launches, x.active = false → L.doneAt ≤ x.doneAt := by
  cases hf : s.freshEntry with
  | some k =>
    rw [takeEntry_fresh hf, Option.some_inj] at h
    exact Or.inl (h ▸ freshEntry_some hf)
  | none =>
    refine Or.inr ⟨freshEntry_none hf, ?_⟩
    rw [takeEntry_used hf] at h
    cases hl : s.doneLaunches with
    | nil => rw [hl] at h; cases h
    | cons x l =>
      obtain ⟨y, hy, hmem, hle⟩ := earliest_some l x
      rw [hl, List.foldl_cons, earlier, hy, Option.map_some, Option.some_inj] at h
      rw [← hl] at hmem hle
      obtain ⟨hin, hidle⟩ := mem_doneLaunches.1 hmem
      exact ⟨y, hin, h, hidle, fun z hz ha => hle z (mem_doneLaunches.2 ⟨hz, ha⟩)⟩

theorem takeEntry_none_iff : takeEntry s = none ↔ (∀ e < 256, ∃ L ∈ s.launches, L.entry = e) ∧ ∀ L ∈ s.launches, L.active = true := by
  constructor
  · intro h
    cases hf : s.freshEntry with
    | some k => rw [takeEntry_fresh hf] at h; cases h
    | none =>
      refine ⟨freshEntry_none hf, fun L hL => ?_⟩
      rw [takeEntry_used hf] at h
      cases hl : s.doneLaunches with
      | nil =>
        by_contra ha
        have hmem := mem_doneLaunches.2 ⟨hL, Bool.eq_false_iff.2 ha⟩
        rw [hl] at hmem
        cases hmem
      | cons x l =>
        obtain ⟨y, hy, -⟩ := earliest_some l x
        rw [hl, List.foldl_cons, earlier, hy] at h
        cases h
  · rintro ⟨hall, hact⟩
    have hf : s.freshEntry = none := by
      cases hf : s.freshEntry with
      | none => rfl
      | some k =>
        obtain ⟨hk, hno, -⟩ := freshEntry_some hf
        obtain ⟨L, hL, e⟩ := hall k hk
        exact absurd e (hno L hL)
    have hl : s.doneLaunches = [] := by
      refine List.eq_nil_iff_forall_not_mem.2 fun L hL => ?_
      obtain ⟨hin, hidle⟩ := mem_doneLaunches.1 hL
      rw [hact L hin] at hidle
      cases hidle
    rw [takeEntry_used hf, hl]
    rfl

/-! ### A launch found by its sequence number -/

theorem State.launch?_modLaunch (s : State) (seq i : Nat) (f : Launch → Launch) (h : ∀ L, (f L).seq = L.seq) :
    (s.modLaunch seq f).launch? i = if i = seq then (s.launch? i).map f else s.launch? i := by
  have hp : ((fun L : Launch => L.seq == i) ∘ fun L => if L.seq == seq then f L else L) = fun L => L.seq == i := by
    funext L
    rw [Function.comp]
    split
    · rw [h]
    · rfl
  simp only [State.launch?, State.modLaunch, List.find?_map, hp]
  cases hf : s.launches.find? fun L => L.seq == i with
  | none => simp
  | some L =>
    have hL : L.seq = i := by simpa using List.find?_some hf
    by_cases e : i = seq <;> simp [hL, e]

theorem State.launch?_modLaunch_same {seq : Nat} {f : Launch → Launch} (h : ∀ L, (f L).seq = L.seq) :
    (s.modLaunch seq f).launch? seq = (s.launch? seq).map f := by rw [State.launch?_modLaunch s seq seq f h, if_pos rfl]

theorem raiseCounter_launches {asid : BitVec 16} {n : Nat} : (raiseCounter s asid n).launches = s.launches := by
  unfold raiseCounter
  split
  · rfl
  · rfl

/-- A launch as its completion with a code leaves it (R113). -/
def Launch.completed (L : Launch) (code doneAt : Nat) : Launch :=
  { L with active := false, status := code + (if L.late then 256 else 0), doneAt := doneAt }

theorem completeLaunch_launch? {seq code : Nat} (h : s.launch? seq = some L) :
    (completeLaunch s seq code).launch? seq = some (L.completed code s.doneClock) := by
  have e := State.launch?_modLaunch_same (s := s) (seq := seq) (f := fun L => L.completed code s.doneClock) fun _ => rfl
  rw [h] at e
  have hl : (completeLaunch s seq code).launches = (s.modLaunch seq fun L => L.completed code s.doneClock).launches := by
    simp only [completeLaunch, h]
    split
    · exact raiseCounter_launches
    · rfl
  exact (congrArg (List.find? fun x : Launch => x.seq == seq) hl).trans e

/-- What the status of a complete launch tells. -/
theorem completeLaunch_status {seq code : Nat} (h : s.launch? seq = some L) :
    ((completeLaunch s seq code).launch? seq).map (fun x => (x.active, x.status)) = some (false, code + if L.late then 256 else 0) := by
  rw [completeLaunch_launch? h]
  rfl

/-! ### LWAIT (R108, R109) -/

/-- What LWAIT or its poll does once it issues. -/
def lwaitAnswer (poll : Bool) (f : UniR) (s : State) (c : Ctx) : Res :=
  if (c.sReg f.a).toNat = 0 ∨ 2 ^ 56 ≤ (c.sReg f.a).toNat then finS c s f.d 9
  else
    (s.launches.find? fun L => L.entry == (c.sReg f.a).toNat % 256 && L.seq == (c.sReg f.a).toNat / 256).elim (finS c s f.d 8) fun L =>
      if L.active then (if poll then finS c s f.d 1 else stall c s) else finS c s f.d (BitVec.ofNat 64 L.status)

theorem lwaitWith_runs {poll : Bool} {f : UniR} (h : Runs { waitPt := true } f.g s c) (hn : NoRecords c) :
    lwaitWith poll f s = lwaitAnswer poll f s c := by
  have hlt := (c.sReg f.a).isLt
  have hhigh : bitsN (c.sReg f.a).toNat 63 56 ≠ 0 ↔ 2 ^ 56 ≤ (c.sReg f.a).toNat := by
    rw [bitsN]
    omega
  unfold lwaitWith lwaitAnswer
  rw [uniform_runs h, deliver_none hn]
  simp only [Bool.or_eq_true, decide_eq_true_eq, hhigh]
  split
  · rfl
  · next hh =>
    have hmid : bitsN (c.sReg f.a).toNat 55 8 = (c.sReg f.a).toNat / 256 := by
      rw [bitsN]
      omega
    rw [hmid]
    cases s.launches.find? fun L => L.entry == (c.sReg f.a).toNat % 256 && L.seq == (c.sReg f.a).toNat / 256 with
    | none => rfl
    | some L => rfl

section
variable {poll : Bool} {f : UniR}

theorem lwaitAnswer_bad (h : (c.sReg f.a).toNat = 0 ∨ 2 ^ 56 ≤ (c.sReg f.a).toNat) : lwaitAnswer poll f s c = finS c s f.d 9 := if_pos h

variable (h0 : (c.sReg f.a).toNat ≠ 0) (h56 : (c.sReg f.a).toNat < 2 ^ 56)
include h0 h56

theorem lwaitAnswer_unknown (h : ∀ L ∈ s.launches, L.entry = (c.sReg f.a).toNat % 256 → L.seq ≠ (c.sReg f.a).toNat / 256) :
    lwaitAnswer poll f s c = finS c s f.d 8 := by
  have hf : (s.launches.find? fun L => L.entry == (c.sReg f.a).toNat % 256 && L.seq == (c.sReg f.a).toNat / 256) = none :=
    List.find?_eq_none.2 fun L hL => by simpa using h L hL
  rw [lwaitAnswer, if_neg (by omega), hf, Option.elim_none]

theorem lwaitAnswer_known
    (h : s.launches.find? (fun L => L.entry == (c.sReg f.a).toNat % 256 && L.seq == (c.sReg f.a).toNat / 256) = some L) :
    lwaitAnswer poll f s c =
      if L.active then (if poll then finS c s f.d 1 else stall c s) else finS c s f.d (BitVec.ofNat 64 L.status) := by
  rw [lwaitAnswer, if_neg (by omega), h, Option.elim_some]

end

/-! ### LAUNCH (R103 to R106) -/

/-- The queue with the packet's launch in entry `e`. -/
def State.queued (s : State) (e : Nat) (asid : BitVec 16) (pkt : List Byte) (va : Nat) : State :=
  { s with
    launches := s.launches.filter (fun x => x.entry != e) ++ [newLaunch s.nextSeq e asid pkt va]
    nextSeq := s.nextSeq + 1
    regs := { s.regs with launched := true } }

section
variable {e va : Nat} {asid : BitVec 16} {pkt : List Byte}

theorem queueLaunch_eq : queueLaunch s e asid pkt va =
    if packetOk s.regs.featAccept pkt = false then completeLaunch (s.queued e asid pkt va) s.nextSeq 3
    else if unplaceable (s.queued e asid pkt va) (newLaunch s.nextSeq e asid pkt va) = true then completeLaunch (s.queued e asid pkt va) s.nextSeq 4
    else if (newLaunch s.nextSeq e asid pkt va).overdue s.meridian = true then markLate (s.queued e asid pkt va) s.nextSeq
    else s.queued e asid pkt va := by
  unfold queueLaunch
  simp only [Bool.not_eq_true']
  rfl

theorem queueLaunch_good (hp : packetOk s.regs.featAccept pkt = true)
    (hu : unplaceable (s.queued e asid pkt va) (newLaunch s.nextSeq e asid pkt va) = false)
    (ho : (newLaunch s.nextSeq e asid pkt va).overdue s.meridian = false) : queueLaunch s e asid pkt va = s.queued e asid pkt va := by
  rw [queueLaunch_eq, hp, hu, ho, if_neg (by decide), if_neg (by decide), if_neg (by decide)]

theorem queueLaunch_bad (hp : packetOk s.regs.featAccept pkt = false) :
    queueLaunch s e asid pkt va = completeLaunch (s.queued e asid pkt va) s.nextSeq 3 := queueLaunch_eq.trans (if_pos hp)

theorem queued_launch? (h : ∀ x ∈ s.launches, x.seq ≠ s.nextSeq) :
    (s.queued e asid pkt va).launch? s.nextSeq = some (newLaunch s.nextSeq e asid pkt va) := by
  have hnone : (s.launches.filter fun x => x.entry != e).find? (fun x => x.seq == s.nextSeq) = none :=
    List.find?_eq_none.2 fun x hx => by simpa using h x (List.mem_filter.1 hx).1
  rw [State.launch?, State.queued, List.find?_append, hnone]
  simp [newLaunch]

theorem queueLaunch_bad_status (hp : packetOk s.regs.featAccept pkt = false) (h : ∀ x ∈ s.launches, x.seq ≠ s.nextSeq) :
    ((queueLaunch s e asid pkt va).launch? s.nextSeq).map (fun x => (x.active, x.status)) = some (false, 3) := by
  rw [queueLaunch_bad hp]
  exact completeLaunch_status (queued_launch? h)

end

theorem launchWith_misaligned {try_ : Bool} {f : UniR} (h : Runs {} f.g s c) (hm : (c.sReg f.a).toNat % 64 ≠ 0) :
    launchWith try_ f s = trapAllMem c s 4 (c.sReg f.a).toNat := by
  unfold launchWith
  rw [uniform_runs h]
  exact if_pos hm

/-- The packet as it was held, or as it is read now. -/
theorem heldOr_ok {t : State} {pkt : List Byte} {rd : State → State × Except (Nat × Nat) (List Byte)}
    (h : (∀ bs, c.u.wait ≠ .queued bs) ∧ rd s = (t, .ok pkt) ∨ c.u.wait = .queued pkt ∧ t = s) : heldOr c s rd = (t, .ok pkt) := by
  unfold heldOr
  obtain ⟨hw, hr⟩ | ⟨hw, rfl⟩ := h
  · split
    · next bs hq => exact absurd hq (hw bs)
    · exact hr
  · rw [hw]

section
variable {try_ : Bool} {f : UniR} {t : State} {pkt : List Byte} (h : Runs {} f.g s c) (hm : (c.sReg f.a).toNat % 64 = 0)
  (hp : pendingStores s c.gid c.active true = false)
  (hr : heldOr c s (fun s => readRecord 8 s c (lowestLane c.active) (c.sReg f.a).toNat) = (t, .ok pkt))
include h hm hp hr

theorem launchWith_queues {e : Nat} (hb : t.regs.bootStatus = 4) (he : takeEntry t = some e) :
    launchWith try_ f s =
      finS c (queueLaunch t e c.t.asid pkt (c.sReg f.a).toNat) f.d (BitVec.ofNat 64 (t.nextSeq * 256 + e)) := by
  unfold launchWith
  rw [uniform_runs h]
  simp only [hm, hp, hr, hb, he, if_true, if_false, ne_eq, not_true, Bool.false_eq_true]

theorem launchWith_holds (hb : t.regs.bootStatus ≠ 4 ∨ takeEntry t = none) :
    launchWith try_ f s = if try_ then finS c t f.d 0 else hold pkt c t := by
  have he : (if t.regs.bootStatus = 4 then takeEntry t else none) = none := by
    obtain hb | hb := hb
    · exact if_neg hb
    · rw [hb, ite_self]
  unfold launchWith
  rw [uniform_runs h]
  simp only [hm, hp, hr, he, if_false, ne_eq, not_true, Bool.false_eq_true]

end

/-! ### Late launches and completion (R111 to R113) -/

theorem execLaunchLate_found {e : Nat} (h : s.launches.find? (fun x => x.entry == e && x.active) = some L) :
    execLaunchLate e s = .next (if L.overdue s.meridian then markLate s L.seq else s) := by
  simp only [execLaunchLate, h]

/-- The state in which a launch is late and counted. -/
def State.lateMarked (s : State) (seq : Nat) : State :=
  { s.modLaunch seq (fun L => { L with late := true }) with regs := { s.regs with missCount := addSat32 s.regs.missCount 1 } }

theorem markLate_eq (h : s.launch? L.seq = some L) (hl : L.late = false) : markLate s L.seq =
    if pDropLate L.pkt = true ∧ L.placedAny = false then completeLaunch (s.lateMarked L.seq) L.seq 2 else s.lateMarked L.seq := by
  simp only [markLate, h, hl, Bool.and_eq_true, Bool.not_eq_true', Bool.false_eq_true, if_false]
  rfl

theorem lateMarked_launch? (h : s.launch? L.seq = some L) : (s.lateMarked L.seq).launch? L.seq = some { L with late := true } := by
  have e := State.launch?_modLaunch_same (s := s) (seq := L.seq) (f := fun L => { L with late := true }) fun _ => rfl
  rw [h] at e
  exact e

theorem addSat32_toNat (x : BitVec 32) (n : Nat) : (addSat32 x n).toNat = min (x.toNat + n) (2 ^ 32 - 1) := by
  rw [addSat32, BitVec.toNat_ofNat]
  exact Nat.mod_eq_of_lt (by omega)

theorem execLaunchCompletion_found {e : Nat} (h : s.launches.find? (fun x => x.entry == e && x.active) = some L) (ho : launchOver s L = true) :
    execLaunchCompletion e s =
      if L.finishing = false then
        .next (if L.placedAny = true ∧ pArea L.pkt ≠ 0 then
            (List.range 64).foldl (fun s i => agentStore s 6 L.seq 512 L.asid.toNat (pArea L.pkt + 16 * i) (statBytes L i))
              (dropFails (s.modLaunch L.seq fun L => { L with finishing := true }) 6 L.seq)
          else dropFails (s.modLaunch L.seq fun L => { L with finishing := true }) 6 L.seq)
      else
        .next (completeLaunch (((statFails s L).min?.map (statsFault (dropFails s 6 L.seq) L)).getD (dropFails s 6 L.seq)) L.seq (L.code.getD 0)) := by
  simp only [execLaunchCompletion, h, ho, Bool.not_true, Bool.false_eq_true, if_false, Bool.not_eq_true', Bool.and_eq_true, decide_eq_true_eq]
  split
  · rfl
  · cases (statFails s L).min? <;> rfl

theorem finishing_launch? (h : s.launch? L.seq = some L) :
    (dropFails (s.modLaunch L.seq fun L => { L with finishing := true }) 6 L.seq).launch? L.seq = some { L with finishing := true } := by
  have e := State.launch?_modLaunch_same (s := s) (seq := L.seq) (f := fun L => { L with finishing := true }) fun _ => rfl
  rw [h] at e
  exact e

/-- Settles O25: LAUNCH and LWAIT by what they find of the packet, the entries and the launch. -/
theorem launchQueue : Obligations.LaunchQueue := by
  unfold Obligations.LaunchQueue
  refine ⟨fun s c f => ⟨fun h hn => ⟨fun hb => ?_, fun h0 h56 hu => ?_, fun L h0 h56 hL => ⟨fun ha => ?_, fun ha => ?_⟩⟩,
      fun h hm hp t pkt hr => ?_, fun h hm => ?_⟩,
    fun feat p => packetOk_iff_good, fun s => ⟨takeEntry_none_iff, fun e he => takeEntry_some he⟩, fun s L hf hL => ?_⟩
  · exact ⟨(lwaitWith_runs h hn).trans (lwaitAnswer_bad hb), (lwaitWith_runs h hn).trans (lwaitAnswer_bad hb)⟩
  · exact ⟨(lwaitWith_runs h hn).trans (lwaitAnswer_unknown h0 h56 hu), (lwaitWith_runs h hn).trans (lwaitAnswer_unknown h0 h56 hu)⟩
  · have known {poll} := (lwaitWith_runs (poll := poll) h hn).trans (lwaitAnswer_known h0 h56 hL)
    rw [ha] at known
    exact ⟨known, known⟩
  · have known {poll} := (lwaitWith_runs (poll := poll) h hn).trans (lwaitAnswer_known h0 h56 hL)
    rw [ha] at known
    exact ⟨known, known⟩
  · have hheld := heldOr_ok (rd := fun s => readRecord 8 s c (lowestLane c.active) (c.sReg f.a).toNat) hr
    refine ⟨fun e hb he => ⟨⟨launchWith_queues h hm hp hheld hb he, launchWith_queues h hm hp hheld hb he⟩, fun hg hu ho => queueLaunch_good hg hu ho,
      fun hbad hx => queueLaunch_bad_status hbad hx⟩, fun hb => ⟨launchWith_holds h hm hp hheld hb, launchWith_holds h hm hp hheld hb⟩⟩
  · exact ⟨launchWith_misaligned h hm, launchWith_misaligned h hm⟩
  · have late := execLaunchLate_found (s := s) hf
    refine ⟨fun ho hl hk => ?_, fun ho hl hd hpl => ?_, fun ho => ?_, fun hov hfin hst => ?_, fun hov hfin hst => ?_⟩
    · rw [if_pos ho, markLate_eq hL hl, if_neg (by rintro ⟨h1, h2⟩; rw [h1, h2] at hk; simp at hk)] at late
      exact ⟨_, late, lateMarked_launch? hL, addSat32_toNat _ _, rfl⟩
    · rw [if_pos ho, markLate_eq hL hl, if_pos ⟨hd, hpl⟩] at late
      exact ⟨_, late, completeLaunch_status (lateMarked_launch? hL)⟩
    · rw [if_neg ho] at late
      exact late
    · have none : ¬(L.placedAny = true ∧ pArea L.pkt ≠ 0) := by
        rintro ⟨h1, h2⟩
        obtain h | h := hst
        · rw [h] at h1
          cases h1
        · exact h2 h
      have e := execLaunchCompletion_found hf hov
      rw [if_pos hfin, if_neg none] at e
      exact ⟨_, e, finishing_launch? hL, rfl⟩
    · have e := execLaunchCompletion_found hf hov
      rw [hfin, hst] at e
      exact ⟨_, e, completeLaunch_status hL⟩

end Sys2Proof.Machine
end

section
/-! SUPPORT. The banks, the parts and the groups of a team that is placed (O28). -/

namespace Sys2Proof.Machine

variable {s : State} {core : Nat}

/-! ### Banks of a new team (R73, R214) -/

/-- A bank that holds nothing. -/
def blankBank (owner : Nat) : Bank := ⟨some owner, 0, 256, [], [], none⟩

/-- Bank `b` as the image with the header and the bytes of the bank carries it. -/
def carriedBank (owner : Nat) (hdr bs : List Byte) (b : Nat) : Bank :=
  { blankBank owner with
    kind := BitVec.ofNat 2 (fieldN hdr (0x10 + b) 1)
    valid := fieldN hdr (0x18 + 2 * b) 2
    ents := NMap.tab 0 256 fun e => BitVec.ofNat 128 (fieldN bs (16 * e) 16) }

/-- Bank `b` of a new team whose banks come from `src`, if from anywhere. -/
def newBank (owner : Nat) (src : Option (ImageRef × List Byte)) (bs : Nat → List Byte) (b : Nat) : Bank :=
  src.elim (blankBank owner) fun q => if (fieldN q.2 9 1).testBit b then carriedBank owner q.2 (bs b) b else blankBank owner

theorem entry_carriedBank {owner b e : Nat} {hdr bs : List Byte} (he : e < 256) :
    (carriedBank owner hdr bs b).entry e = BitVec.ofNat 128 (fieldN bs (16 * e) 16) := (NMap.get_tab _ _ _ _).trans (if_pos he)

theorem newBank_carries (owner : Nat) (src : Option (ImageRef × List Byte)) (bs : Nat → List Byte) (b : Nat) :
    BankCarries src bs owner b (newBank owner src bs b) := by
  cases src with
  | none => exact ⟨rfl, rfl, rfl, fun _ => ⟨rfl, rfl, fun _ => rfl⟩, nofun⟩
  | some q =>
    by_cases h : (fieldN q.2 9 1).testBit b = true
    · have e : newBank owner (some q) bs b = carriedBank owner q.2 (bs b) b := if_pos h
      rw [e]
      refine ⟨rfl, rfl, rfl, fun hn => absurd h (by rw [hn q rfl]; decide), fun p hp _ => ?_⟩
      obtain rfl := Option.some_inj.1 hp
      exact ⟨rfl, rfl, fun e he => entry_carriedBank he⟩
    · have e : newBank owner (some q) bs b = blankBank owner := if_neg h
      rw [e]
      refine ⟨rfl, rfl, rfl, fun _ => ⟨rfl, rfl, fun _ => rfl⟩, fun p hp hb => ?_⟩
      obtain rfl := Option.some_inj.1 hp
      exact absurd hb h

/-- The core with the banks of `l` as a new team has them. -/
def layBanks (owner : Nat) (src : Option (ImageRef × List Byte)) (bs : Nat → List Byte) (core : Nat) (l : List Nat) (s : State) : State :=
  l.foldl (fun s b => s.setBank core b (newBank owner src bs b)) s

/-- A bank that the image carries is read from it. -/
theorem loadBanks_cons_carried {owner b : Nat} {r : ImageRef} {hdr bs : List Byte} {l : List Nat} {s1 : State}
    (hb : (fieldN hdr 9 1).testBit b = true) (hr : readImage s r (0x1000 + 0x1000 * b) 4096 = (s1, some bs)) :
    loadBanks owner (some r) hdr core (b :: l) s = loadBanks owner (some r) hdr core l (s1.setBank core b (carriedBank owner hdr bs b)) := by
  rw [loadBanks]
  simp only [bitN_eq_testBit, hb, if_true, hr]
  rfl

theorem loadBanks_cons_blank {owner b : Nat} {r : ImageRef} {hdr : List Byte} {l : List Nat} (hb : ¬(fieldN hdr 9 1).testBit b = true) :
    loadBanks owner (some r) hdr core (b :: l) s = loadBanks owner (some r) hdr core l (s.setBank core b (blankBank owner)) := by
  rw [loadBanks]
  simp only [bitN_eq_testBit, hb]
  rfl

theorem loadBanks_none {owner : Nat} {hdr : List Byte} {bs : Nat → List Byte} (l : List Nat) : ∀ s : State,
    loadBanks owner none hdr core l s = (layBanks owner none bs core l s, true) := by
  induction l with
  | nil => exact fun s => rfl
  | cons b l ih => exact fun s => ih (s.setBank core b (blankBank owner))

/-- Banks from an image whose bytes a home gives, whatever the cores hold. -/
theorem loadBanks_some {owner : Nat} {q : ImageRef × List Byte} {bs : Nat → List Byte} (l : List Nat)
    (hr : ∀ b ∈ l, (fieldN q.2 9 1).testBit b = true → ∀ cores,
      readImage { s with cores := cores } q.1 (4096 + 4096 * b) 4096 = ({ s with cores := cores }, some (bs b))) : ∀ cores,
    loadBanks owner (some q.1) q.2 core l { s with cores := cores } = (layBanks owner (some q) bs core l { s with cores := cores }, true) := by
  induction l with
  | nil => exact fun cores => rfl
  | cons b l ih =>
    intro cores
    have ih := ih fun i hi => hr i (List.mem_cons_of_mem _ hi)
    by_cases hb : (fieldN q.2 9 1).testBit b = true
    · have e : newBank owner (some q) bs b = carriedBank owner q.2 (bs b) b := if_pos hb
      rw [loadBanks_cons_carried hb (hr b List.mem_cons_self hb cores), layBanks, List.foldl_cons, e]
      exact ih _
    · have e : newBank owner (some q) bs b = blankBank owner := if_neg hb
      rw [loadBanks_cons_blank hb, layBanks, List.foldl_cons, e]
      exact ih _

theorem loadBanks_laid {owner : Nat} {src : Option (ImageRef × List Byte)} {hdr : List Byte} {bs : Nat → List Byte} (l : List Nat)
    (hr : ∀ q b, src = some q → b ∈ l → (fieldN q.2 9 1).testBit b = true → ∀ cores,
      readImage { s with cores := cores } q.1 (4096 + 4096 * b) 4096 = ({ s with cores := cores }, some (bs b))) :
    loadBanks owner (src.map Prod.fst) ((src.map Prod.snd).getD hdr) core l s = (layBanks owner src bs core l s, true) := by
  cases src with
  | none => exact loadBanks_none l s
  | some q => exact loadBanks_some l (fun b hb => hr q b rfl hb) s.cores

theorem bank_layBanks {owner : Nat} {src : Option (ImageRef × List Byte)} {bs : Nat → List Byte} (l : List Nat) (i : Nat) : ∀ s : State,
    (layBanks owner src bs core l s).bank core i = if i ∈ l then newBank owner src bs i else s.bank core i := by
  induction l with
  | nil => exact fun s => (if_neg List.not_mem_nil).symm
  | cons b l ih =>
    intro s
    refine (ih _).trans ?_
    rw [bank_setBank]
    by_cases hi : i ∈ l
    · rw [if_pos hi, if_pos (List.mem_cons_of_mem _ hi)]
    · by_cases hb : i = b
      · rw [if_neg hi, if_pos hb, if_pos (List.mem_cons.2 (Or.inl hb)), hb]
      · rw [if_neg hi, if_neg hb, if_neg (by simp [hi, hb])]

theorem mem_banksOf {mask b : Nat} : b ∈ banksOf mask ↔ b < 8 ∧ mask.testBit b = true := by
  rw [banksOf, List.mem_filter, List.mem_range, bitN_eq_testBit]

/-! ### What placing a team keeps (R269, R270) -/

/-- Teams, groups, launches, memory, and the banks and images of a core. -/
def State.site (s : State) (core : Nat) :
    (List Team × List Group × Nat) × (List Launch × List SavedTeam × List Host.Cell) × NMap Bank × List ImageSlot :=
  ((s.teams, s.groups, s.nextTid), (s.launches, s.saved, s.mem), (s.core core).banks, (s.core core).images)

theorem site_modCore {f : CoreSt → CoreSt} (hb : ∀ x, (f x).banks = x.banks) (hi : ∀ x, (f x).images = x.images) :
    (s.modCore core f).site core = s.site core := by
  simp only [State.site, State.core_modCore_same, hb, hi]
  rfl

theorem allotPart_site (kind i : Nat) : (allotPart s core kind i).site core = s.site core := by
  have h := site_modCore (s := s) (core := core)
    (f := fun x => { x with epochs := NMap.set 0 (partKey kind i) ((NMap.get 0 (partKey kind i) x.epochs + 1) % 65536) x.epochs })
    (fun _ => rfl) fun _ => rfl
  exact h

theorem allotParts_site (kind : Nat) (l : List Nat) : (allotParts s core kind l).site core = s.site core :=
  foldl_keeps (fun s => s.site core) (fun _ i => allotPart_site kind i) l s

theorem sweptWays_site (w : List Nat) : (sweptWays s core w).site core = s.site core := by
  unfold sweptWays sweepWays
  split
  · rfl
  · exact site_modCore (fun _ => rfl) fun _ => rfl

theorem takeParts_site (seq ways segs cols : Nat) : (takeParts s core seq ways segs cols).1.site core = s.site core := by
  rw [takeParts_eq]
  exact (allotParts_site _ _).trans ((allotParts_site _ _).trans ((allotParts_site _ _).trans (sweptWays_site _)))

/-- The team's accumulators, emptied. -/
def clearAccs (core : Nat) (t : Team) (s : State) : State :=
  (List.range 4).foldl (fun s i => if ownsSlot t i then s.setAcc core i Acc.empty else s) s

theorem clearAccs_site (t : Team) : (clearAccs core t s).site core = s.site core := by
  refine foldl_keeps (fun s => s.site core) (fun s i => ?_) _ s
  split
  · exact site_modCore (f := fun x => { x with accs := NMap.set Acc.empty i Acc.empty x.accs }) (fun _ => rfl) fun _ => rfl
  · rfl

/-- Banks that are laid change nothing else. -/
theorem layBanks_rest {owner : Nat} {src : Option (ImageRef × List Byte)} {bs : Nat → List Byte} (l : List Nat) : ∀ s : State,
    ∃ banks, (layBanks owner src bs core l s).site core =
      ((s.teams, s.groups, s.nextTid), (s.launches, s.saved, s.mem), banks, (s.core core).images) := by
  induction l with
  | nil => exact fun s => ⟨_, rfl⟩
  | cons b l ih =>
    intro s
    obtain ⟨banks, h⟩ := ih (s.setBank core b (newBank owner src bs b))
    refine ⟨banks, h.trans ?_⟩
    rw [State.setBank, State.core_modCore_same]
    rfl

/-! ### The groups of a team (R58, R61, R74) -/

variable {t : Team} {st : Start}

/-- The lanes of group `g` of a team with `count` work items. -/
def itemMask (count g : Nat) : Word := maskOf fun l => decide (32 * g + l < count)

/-- Group `g` of the first team of a plan, as it is formed in a state. -/
def itemGroup (s : State) (t : Team) (p : List Byte) (child : Bool) (count : Nat) (st : Start) (g : Nat) : Group :=
  formedGroup s t g (slotOfRole t.roles g) (itemMask count g)
    ((List.range 32).map fun l => if 32 * g + l < count then itemIndex p t.roles child t.level (32 * g + l) else noIndex) st

variable {p : List Byte} {child : Bool} {count : Nat}

theorem formItems_cons (h : t.teamNo = 0) (g : Nat) (gs : List Nat) : formItems t p child count st (g :: gs) s =
    if count ≤ 32 * g then formItems t p child count st gs s
    else formItems t p child count st gs (formGroup s t g (slotOfRole t.roles g) (itemMask count g)
      ((List.range 32).map fun l => if 32 * g + l < count then itemIndex p t.roles child t.level (32 * g + l) else noIndex) st) := by
  rw [formItems, h]
  simp only [Nat.zero_mul, Nat.zero_add]
  rfl

/-- The groups of the first team of a plan: one for each slot that has a work item. -/
theorem formItems_groups (h : t.teamNo = 0) (gs : List Nat) : ∀ s : State, ∃ new,
    (formItems t p child count st gs s).groups = s.groups ++ new ∧ new.map (fun g => g.gslot) = gs.filter (fun i => decide (32 * i < count)) ∧
    ∀ g ∈ new, g.gslot ∈ gs ∧ ∃ u, g = itemGroup u t p child count st g.gslot := by
  induction gs with
  | nil => exact fun s => ⟨[], by rw [List.append_nil]; rfl, rfl, nofun⟩
  | cons i gs ih =>
    intro s
    rw [formItems_cons h]
    by_cases hc : count ≤ 32 * i
    · obtain ⟨new, hg, hmap, hall⟩ := ih s
      rw [if_pos hc, List.filter_cons_of_neg (by simpa using hc)]
      exact ⟨new, hg, hmap, fun g hg => ⟨List.mem_cons_of_mem _ (hall g hg).1, (hall g hg).2⟩⟩
    · obtain ⟨new, hg, hmap, hall⟩ := ih (formGroup s t i (slotOfRole t.roles i) (itemMask count i)
        ((List.range 32).map fun l => if 32 * i + l < count then itemIndex p t.roles child t.level (32 * i + l) else noIndex) st)
      rw [if_neg hc, List.filter_cons_of_pos (by simpa using hc)]
      refine ⟨itemGroup s t p child count st i :: new, ?_, congrArg (i :: ·) hmap, fun g hg => ?_⟩
      · rw [hg, formGroup_groups, List.append_assoc]
        rfl
      · obtain rfl | hg := List.mem_cons.1 hg
        · exact ⟨List.mem_cons_self, s, rfl⟩
        · exact ⟨List.mem_cons_of_mem _ (hall g hg).1, (hall g hg).2⟩

/-- What groups that are formed keep. -/
theorem formItems_keeps {β : Type} (q : State → β) (hq : ∀ s t g role live idx st, q (formGroup s t g role live idx st) = q s) (gs : List Nat) :
    ∀ s : State, q (formItems t p child count st gs s) = q s := by
  induction gs with
  | nil => exact fun s => rfl
  | cons i gs ih =>
    intro s
    rw [formItems]
    dsimp only
    split
    · exact ih s
    · rw [ih, hq]

theorem formGroup_withNb {ts : List Team} {m : NMap Nb} {gslot role : Nat} {live : Word} {idx : List Index} (ht : ∀ y ∈ ts, y.tid ≠ t.tid)
    (hs : s.teams = ts ++ [t.withNb m]) : ∃ nb, (formGroup s t gslot role live idx st).teams = ts ++ [t.withNb nb] :=
  setNbs_append ht _ _ _ (m := m) hs

theorem formItems_teams {ts : List Team} (ht : ∀ y ∈ ts, y.tid ≠ t.tid) (gs : List Nat) : ∀ {s : State} {m : NMap Nb}, s.teams = ts ++ [t.withNb m] →
    ∃ nb, (formItems t p child count st gs s).teams = ts ++ [t.withNb nb] := by
  induction gs with
  | nil => exact fun {_ m} hs => ⟨m, hs⟩
  | cons i gs ih =>
    intro s m hs
    rw [formItems]
    dsimp only
    split
    · exact ih hs
    · obtain ⟨nb, h⟩ := formGroup_withNb ht hs
      exact ih h

end Sys2Proof.Machine
end

section
/-! SUPPORT. A team's groups, one by one, and the placing of a team (O28). -/

namespace Sys2Proof.Machine

variable {s u : State} {core : Nat} {t : Team} {st : Start} {p : List Byte} {child : Bool} {count g : Nat}

/-! ### Roles that keep their groups -/

section
variable {f : Role → Role} (hf : ∀ r, (f r).groups = r.groups)
include hf

theorem rolesGroups_map (rs : List Role) : rolesGroups (rs.map f) = rolesGroups rs := by
  rw [rolesGroups, rolesGroups, List.map_map]
  exact congrArg List.sum (List.map_congr_left fun r _ => hf r)

theorem slotOfRole_map (rs : List Role) (g : Nat) : slotOfRole (rs.map f) g = slotOfRole rs g := by
  unfold slotOfRole
  simp only [List.length_map, ← List.map_take, rolesGroups_map hf]

theorem itemIndex_map (rs : List Role) (level l : Nat) : itemIndex p (rs.map f) child level l = itemIndex p rs child level l := by
  unfold itemIndex teamFibres
  simp only [rolesGroups_map hf, slotOfRole_map hf]

end

/-! ### What a group of a new team starts with -/

theorem itemGroup_live : (itemGroup s t p child count st g).live = itemMask count g := rfl

theorem itemGroup_j : ∀ w ∈ (itemGroup s t p child count st g).j, w = 0 := fun _ hw => List.eq_of_mem_replicate (n := 8) hw

theorem itemGroup_lane_plain (hi : st.img = none) (r l : Nat) : (itemGroup s t p child count st g).lane r l = 0 := by
  have hrow : (itemGroup s t p child count st g).row r = List.replicate 32 0 := by
    have h : (itemGroup s t p child count st g).img = none := hi
    simp only [Group.row, h]
    rfl
  rw [Group.lane, hrow, List.getD_eq_getElem?_getD, List.getElem?_getD_replicate_default_eq]

theorem itemGroup_lane_stamped {v : List Word} (hi : st.img = some v) {r l : Nat} (hl : l < 32) :
    (itemGroup s t p child count st g).lane r l = v.getD r 0 := by
  have hrow : (itemGroup s t p child count st g).row r = List.replicate 32 (v.getD r 0) := by
    have h : (itemGroup s t p child count st g).img = some v := hi
    have hp : (itemGroup s t p child count st g).priv.getLsbD r = false := BitVec.getLsbD_zero
    simp only [Group.row, h, hp, Bool.false_eq_true, if_false]
  rw [Group.lane, hrow, List.getD_eq_getElem _ _ (by simpa using hl), List.getElem_replicate]

theorem getLsbD_itemMask {l : Nat} (hl : l < 32) : (itemMask count g).getLsbD l = decide (32 * g + l < count) := getLsbD_maskOf _ hl

/-- An entry of a table of the 32 lanes. -/
theorem getD_lanes {α : Type} (f : Nat → α) (d : α) {l : Nat} (hl : l < 32) : ((List.range 32).map f).getD l d = f l := by
  rw [List.getD_eq_getElem _ _ (by simpa using hl), List.getElem_map, List.getElem_range]

section
variable {l : Nat} (hl : (itemGroup s t p child count st g).live.getLsbD l = true)
include hl

theorem itemGroup_lane_lt : l < 32 ∧ 32 * g + l < count := by
  have h32 : l < 32 := BitVec.lt_of_getLsbD hl
  rw [itemGroup_live, getLsbD_itemMask h32, decide_eq_true_iff] at hl
  exact ⟨h32, hl⟩

theorem itemGroup_index : (itemGroup s t p child count st g).index l = itemIndex p t.roles child t.level (32 * g + l) :=
  (getD_lanes (fun l => if 32 * g + l < count then itemIndex p t.roles child t.level (32 * g + l) else noIndex) _ (itemGroup_lane_lt hl).1).trans
    (if_pos (itemGroup_lane_lt hl).2)

theorem itemGroup_predOf : (itemGroup s t p child count st g).predOf l = st.pred :=
  (getD_lanes (fun l => if (itemMask count g).getLsbD l then st.pred else 0) _ (itemGroup_lane_lt hl).1).trans (if_pos hl)

end

/-- Where the work item stands that a lane of a first team holds. -/
theorem itemIndex_first {rs : List Role} {level n : Nat} (hn : n < teamFibres rs) :
    (itemIndex p rs child level n).lin = n ∧ (itemIndex p rs child level n).fib = n ∧ (itemIndex p rs child level n).team = 0 ∧
    (itemIndex p rs child level n).level = level := by
  have hmod := Nat.mod_eq_of_lt hn
  have hdiv := Nat.div_eq_of_lt hn
  unfold itemIndex
  cases child
  · exact ⟨rfl, hmod, hdiv, rfl⟩
  · exact ⟨rfl, hmod, hdiv, rfl⟩

/-! ### Placing one team -/

/-- The team that a plan makes of the lowest free parts of a core. -/
def newTeam (s : State) (L : Launch) (p : Plan) (no core : Nat) : Team :=
  mkTeam (takeParts s core L.seq (pWays L.pkt) (pTbuf L.pkt) (pColb L.pkt)).1 L p no core
    (takeParts s core L.seq (pWays L.pkt) (pTbuf L.pkt) (pColb L.pkt)).2.1 (takeParts s core L.seq (pWays L.pkt) (pTbuf L.pkt) (pColb L.pkt)).2.2.1
    (takeParts s core L.seq (pWays L.pkt) (pTbuf L.pkt) (pColb L.pkt)).2.2.2

/-- The state with a team and one more team number given. -/
def State.joined (s : State) (t : Team) (tid : Nat) : State := { s with teams := s.teams ++ [t], nextTid := tid + 1 }

/-- The state in which the new team's groups are formed. -/
def settled (s : State) (tid : Nat) (L : Launch) (p : Plan) (no core : Nat) : State :=
  clearAccs core (newTeam s L p no core)
    ((takeParts s core L.seq (pWays L.pkt) (pTbuf L.pkt) (pColb L.pkt)).1.joined (newTeam s L p no core) tid)

/-- A new team's banks are laid. -/
def laid (s : State) (src : Option (ImageRef × List Byte)) (bs : Nat → List Byte) (core : Nat) (L : Launch) : State :=
  layBanks s.nextTid src bs core (banksOf (pCb L.pkt)) s

/-- What a grid without a template starts with. -/
def plainEntry (L : Launch) : Start :=
  { pc := pEntry L.pkt, pred := 0, s := NMap.set 0 0 (BitVec.ofNat 64 L.pktVa) [], k := 0, img := none }

theorem placeTeam_plain {L : Launch} {no : Nat} (hi : L.image = none) : placeTeam s L .grid no core =
    some (formItems (newTeam (laid s none (fun _ => []) core L) L .grid no core) L.pkt false (pItems L.pkt) (plainEntry L)
      (List.range (rolesGroups (pRoles L.pkt))) (settled (laid s none (fun _ => []) core L) s.nextTid L .grid no core)) := by
  have hb := loadBanks_none (owner := s.nextTid) (hdr := []) (core := core) (bs := fun _ => []) (banksOf (pCb L.pkt)) s
  unfold placeTeam
  simp only [Plan.image, hi, hb]
  rfl

/-- The image slot of a core that held none (R80). -/
def stampSlot (r : ImageRef) (hdr : List Byte) : ImageSlot := ⟨r, imageV hdr, BitVec.ofNat 7 (fieldN hdr 0x0A 1)⟩

def State.withSlot (s : State) (core : Nat) (x : ImageSlot) : State := s.modCore core fun y => { y with images := y.images ++ [x] }

theorem imageSlot_new {r : ImageRef} {hdr : List Byte} (h : (s.core core).images = []) :
    imageSlot s core r hdr = (s.withSlot core (stampSlot r hdr), stampSlot r hdr) := by
  unfold imageSlot
  simp only [h, List.find?_nil]
  rfl

def Plan.isChild : Plan → Bool
  | .child _ => true
  | _ => false

theorem settled_site {tid : Nat} {L : Launch} {q : Plan} {no : Nat} : (settled s tid L q no core).site core =
    ((s.teams ++ [newTeam s L q no core], s.groups, tid + 1), (s.launches, s.saved, s.mem), (s.core core).banks, (s.core core).images) := by
  have h := takeParts_site (s := s) (core := core) L.seq (pWays L.pkt) (pTbuf L.pkt) (pColb L.pkt)
  simp only [State.site, Prod.mk.injEq] at h
  obtain ⟨⟨hteams, hgroups, -⟩, ⟨hlaunch, hsaved, hmem⟩, hbanks, himages⟩ := h
  refine (clearAccs_site _).trans ?_
  show ((_ ++ [_], _, _), (_, _, _), _, _) = _
  rw [← hteams, ← hgroups, ← hlaunch, ← hsaved, ← hmem, ← hbanks, ← himages]
  rfl

theorem laid_site {src : Option (ImageRef × List Byte)} {bs : Nat → List Byte} {L : Launch} : ∃ banks, (laid s src bs core L).site core =
    ((s.teams, s.groups, s.nextTid), (s.launches, s.saved, s.mem), banks, (s.core core).images) := layBanks_rest _ s

/-- A team whose image and banks a home gives is placed and stamped. -/
theorem placeTeam_stamped {L : Launch} {q : Plan} {no : Nat} {r : ImageRef} {hdr : List Byte} {src : Option (ImageRef × List Byte)}
    {bs : Nat → List Byte} (hd : q ≠ .dawn) (hi : q.image L = some r) (hread : readImage s r 0 0x400 = (s, some hdr))
    (hsrc : src.map Prod.fst = L.image) (hq : ∀ x, src = some x → readImage s x.1 0 0x400 = (s, some x.2)) (hgrid : q = .grid → src = some (r, hdr))
    (hbs : ∀ x b, src = some x → b ∈ banksOf (pCb L.pkt) → (fieldN x.2 9 1).testBit b = true → ∀ cores,
      readImage { s with cores := cores } x.1 (4096 + 4096 * b) 4096 = ({ s with cores := cores }, some (bs b)))
    (himg : (s.core core).images = []) : placeTeam s L q no core =
    some (formItems (newTeam (laid s src bs core L) L q no core) L.pkt q.isChild (q.items L) (imageStart hdr (stampSlot r hdr))
      (List.range (rolesGroups (q.roles L)))
      ((settled (laid s src bs core L) s.nextTid L q no core).withSlot core (stampSlot r hdr))) := by
  have hb := loadBanks_laid (owner := s.nextTid) (hdr := hdr) (core := core) (banksOf (pCb L.pkt)) hbs
  have hslot : imageSlot (settled (laid s src bs core L) s.nextTid L q no core) core r hdr =
      ((settled (laid s src bs core L) s.nextTid L q no core).withSlot core (stampSlot r hdr), stampSlot r hdr) := by
    obtain ⟨banks, hl⟩ := laid_site (s := s) (core := core) (src := src) (bs := bs) (L := L)
    have hs := settled_site (s := laid s src bs core L) (core := core) (tid := s.nextTid) (L := L) (q := q) (no := no)
    simp only [State.site, Prod.mk.injEq] at hl hs
    exact imageSlot_new (hs.2.2.2.trans (hl.2.2.2.trans himg))
  have formed := congrArg (fun z : State × ImageSlot => some (formItems (newTeam (laid s src bs core L) L q no core) L.pkt q.isChild (q.items L)
    (imageStart hdr z.2) (List.range (rolesGroups (q.roles L))) z.1)) hslot
  rw [hsrc] at hb
  refine Eq.trans ?_ formed
  unfold placeTeam
  cases q with
  | dawn => exact absurd rfl hd
  | grid =>
    rw [hgrid rfl] at hb ⊢
    simp only [Option.map_some, Option.getD_some] at hb
    simp only [hi, hread, hb]
    rfl
  | child k =>
    cases src with
    | none =>
      have hL : L.image = none := hsrc.symm
      rw [hL] at hb
      simp only [Option.map_none, Option.getD_none] at hb
      simp only [hi, hread, hL, hb]
      rfl
    | some x =>
      have hL : L.image = some x.1 := hsrc.symm
      rw [hL] at hb
      simp only [Option.map_some, Option.getD_some] at hb
      simp only [hi, hread, hL, hq x rfl, hb]
      rfl

/-! ### The launch notes its team -/

/-- A launch that has begun, with its moduli. -/
def Launch.begun (L : Launch) (m : Moduli) : Launch := { L with placedAny := true, moduli := some m }

/-- A launch once the next team of a plan is placed. -/
def Launch.noted (L : Launch) (m : Moduli) : Plan → Launch
  | .dawn => { L.begun m with dawnPlaced := true }
  | .grid => { L.begun m with next := L.next + 1, live := L.live + 1 }
  | .child k =>
    { L.begun m with children := L.children.map fun x => if x.id == k.id then { x with next := x.next + 1, live := x.live + 1 } else x }

/-- The state in which nothing is held for a launch, which has begun. -/
def State.begun (s : State) (seq : Nat) (m : Moduli) : State :=
  ({ s with held := s.held.filter fun h => h.seq != seq }).modLaunch seq fun L => L.begun m

theorem notePlaced_launch? {L : Launch} {m : Moduli} (h : s.launch? L.seq = some L) (q : Plan) :
    (notePlaced s L q m).launch? L.seq = some (L.noted m q) := by
  have base : (s.begun L.seq m).launch? L.seq = some (L.begun m) := by
    have h0 : ({ s with held := s.held.filter fun h => h.seq != L.seq } : State).launch? L.seq = some L := h
    refine (State.launch?_modLaunch_same ?_).trans (by rw [h0]; rfl)
    exact fun _ => rfl
  have twice (f : Launch → Launch) (hf : ∀ L, (f L).seq = L.seq) : ((s.begun L.seq m).modLaunch L.seq f).launch? L.seq = some (f (L.begun m)) := by
    rw [State.launch?_modLaunch_same hf, base]
    rfl
  cases q with
  | dawn => exact twice _ fun _ => rfl
  | grid => exact twice _ fun _ => rfl
  | child k => exact twice _ fun _ => rfl

theorem notePlaced_rest {L : Launch} {m : Moduli} (q : Plan) : (notePlaced s L q m).teams = s.teams ∧ (notePlaced s L q m).groups = s.groups ∧
    (notePlaced s L q m).saved = s.saved ∧ (notePlaced s L q m).cores = s.cores ∧ (notePlaced s L q m).mem = s.mem := by
  cases q <;> exact ⟨rfl, rfl, rfl, rfl, rfl⟩

/-! ### The pass (R114, R115) -/

section
variable {L : Launch} {q : Plan} {m : Moduli} {w : State} (hd : q ≠ .dawn) (hc : chooseCore s L.seq (planNeed L q (q.next L)) = some core)
  (hm : launchModuli s L = (s, some (some m))) (hw : placeTeam s { L with moduli := some m } q (q.next L) core = some w)
include hd hc hm hw

theorem placeOne_placed : placeOne s L q = some (notePlaced w L q m) := by
  have hn : (q == .dawn) = false := by simpa using hd
  unfold placeOne
  simp only [hc, hn, Bool.false_eq_true, if_false, Bool.false_and, hm, hw, Option.map_some]

theorem placeNext_placed (hp : nextPlan L = some q) (hg : pLinked L.pkt = false ∧ pSuper L.pkt = false) :
    placeNext s L = some (notePlaced w L q m) := by
  have one := placeOne_placed hd hc hm hw
  unfold placeNext
  cases q with
  | dawn => exact absurd rfl hd
  | grid => simp only [hp, hg.1, hg.2, Bool.or_self, Bool.false_eq_true, if_false, one]
  | child k => simp only [hp, one]

/-- A launch whose one team is placed has nothing more to place. -/
theorem schedulerPass_places (ht : s.teams = []) (hsv : s.saved = []) (hedf : edf s = [L]) (hL : s.launch? L.seq = some L) (ha : L.active = true)
    (hp : nextPlan L = some q) (hg : pLinked L.pkt = false ∧ pSuper L.pkt = false) (hwl : w.launches = s.launches) (hws : w.saved = [])
    (hdone : nextPlan (L.noted m q) = none) : schedulerPass s = notePlaced w L q m := by
  have hstep : placeStep s L = some (notePlaced w L q m) := by
    unfold placeStep
    simp only [nextSaved_none hsv]
    exact placeNext_placed hd hc hm hw hp hg
  have hL' : (notePlaced w L q m).launch? L.seq = some (L.noted m q) :=
    notePlaced_launch? (by rw [State.launch?, hwl]; exact hL) q
  have hsv' : (notePlaced w L q m).saved = [] := (notePlaced_rest q).2.2.1.trans hws
  have ha' : (L.noted m q).active = true := by cases q <;> exact ha
  have hend : placeStep (notePlaced w L q m) (L.noted m q) = none := by
    unfold placeStep placeNext
    simp only [nextSaved_none hsv', hdone]
  have hwait : waitForRoom (notePlaced w L q m) (L.noted m q) = notePlaced w L q m := by
    unfold waitForRoom waitNeed
    simp only [nextSaved_none hsv', hdone, Option.map_none]
  rw [schedulerPass_one ht hedf, placeLoop, hL]
  simp only [ha, hstep, Bool.not_true, Bool.false_eq_true, if_false]
  rw [placeLoop, hL']
  simp only [ha', hend, hwait, Bool.not_true, Bool.false_eq_true, if_false]

end

/-- A pass in which every team lives on and no launch waits changes nothing. -/
theorem schedulerPass_idle (he : edf s = []) (ht : ∀ t ∈ s.teams, ∃ g ∈ s.groups, g.tid = t.tid) : schedulerPass s = s := by
  have live : (s.teams.map (·.tid)).foldl endIfEmpty s = s := by
    have keep : ∀ l : List Nat, (∀ i ∈ l, ∃ g ∈ s.groups, g.tid = i) → l.foldl endIfEmpty s = s := by
      intro l
      induction l with
      | nil => exact fun _ => rfl
      | cons i l ih =>
        intro h
        rw [List.foldl_cons, endIfEmpty_of_group (h i List.mem_cons_self)]
        exact ih fun j hj => h j (List.mem_cons_of_mem _ hj)
    exact keep _ fun i hi => by
      obtain ⟨t, hmem, rfl⟩ := List.mem_map.1 hi
      exact ht t hmem
  unfold schedulerPass
  rw [live]
  dsimp only
  rw [he]
  rfl

end Sys2Proof.Machine
end

section
/-! SUPPORT. The pass that places one team, from the launch it serves to what the team holds (O28). -/

namespace Sys2Proof.Machine

variable {s : State} {core : Nat} {L : Launch} {m : Moduli}

/-! ### What comes next (R87, R115) -/

/-- Whether a child grid has teams left to place. -/
def waits (L : Launch) (k : ChildGrid) : Bool := decide (k.next < childTeams L k)

theorem nextPlan_childless (h : L.children.filter (waits L) = []) (hd : (pT L.pkt && !L.dawnPlaced) = false) :
    nextPlan L = if L.frozen = true ∧ L.next < pTeams L.pkt then some .grid else none := by
  unfold waits at h
  unfold nextPlan
  simp only [h, List.foldl_nil, hd, Bool.false_eq_true, if_false, Bool.and_eq_true, decide_eq_true_eq]

theorem nextPlan_child {k : ChildGrid} (h : L.children.filter (waits L) = [k]) : nextPlan L = some (.child k) := by
  unfold waits at h
  unfold nextPlan
  simp only [h, List.foldl_cons, List.foldl_nil]

/-! ### The team and its groups -/

section
variable {t : Team} {st : Start} {p : List Byte} {child : Bool} {count n : Nat} {b : State}

theorem placed_teams (hb : b.teams = [t]) :
    ∃ nb, (formItems t p child count st (List.range n) b).teams = [t.withNb nb] :=
  formItems_teams (ts := []) (fun _ h => absurd h List.not_mem_nil) _ (m := t.nb) hb

theorem placed_groups (ht : t.teamNo = 0) (hb : b.groups = []) :
    (formItems t p child count st (List.range n) b).groups.map (fun g : Group => g.gslot) = (List.range n).filter (fun i => decide (32 * i < count)) ∧
    ∀ g ∈ (formItems t p child count st (List.range n) b).groups, g.gslot < n ∧ ∃ u, g = itemGroup u t p child count st g.gslot := by
  obtain ⟨new, hg, hmap, hall⟩ := formItems_groups (p := p) (child := child) (count := count) (st := st) ht (List.range n) b
  rw [hb, List.nil_append] at hg
  rw [hg]
  exact ⟨hmap, fun g hg => ⟨List.mem_range.1 (hall g hg).1, (hall g hg).2⟩⟩

theorem placed_rest : (formItems t p child count st (List.range n) b).launches = b.launches ∧
    (formItems t p child count st (List.range n) b).saved = b.saved ∧ (formItems t p child count st (List.range n) b).cores = b.cores ∧
    (formItems t p child count st (List.range n) b).mem = b.mem :=
  ⟨formItems_keeps State.launches (fun _ _ _ _ _ _ _ => foldl_keeps State.launches (fun _ _ => by rfl) _ _) _ _,
    formItems_keeps State.saved (fun _ _ _ _ _ _ _ => foldl_keeps State.saved (fun _ _ => by rfl) _ _) _ _,
    formItems_keeps State.cores (fun _ _ _ _ _ _ _ => formGroup_cores) _ _, formItems_keeps State.mem (fun _ _ _ _ _ _ _ => formGroup_mem) _ _⟩

end

/-! ### The state in which the groups are formed -/

section
variable {src : Option (ImageRef × List Byte)} {bs : Nat → List Byte} {q : Plan}

/-- The state in which the first team of a plan forms its groups, without an image slot. -/
def State.seat (s : State) (src : Option (ImageRef × List Byte)) (bs : Nat → List Byte) (L : Launch) (q : Plan) (no core : Nat) : State :=
  settled (laid s src bs core L) s.nextTid L q no core

theorem seat_site (no : Nat) : (s.seat src bs L q no core).site core =
    ((s.teams ++ [newTeam (laid s src bs core L) L q no core], s.groups, s.nextTid + 1), (s.launches, s.saved, s.mem),
      ((laid s src bs core L).core core).banks, (s.core core).images) := by
  obtain ⟨banks, hl⟩ := laid_site (s := s) (core := core) (src := src) (bs := bs) (L := L)
  simp only [State.site, Prod.mk.injEq] at hl
  obtain ⟨⟨hteams, hgroups, -⟩, ⟨hlaunch, hsaved, hmem⟩, -, himages⟩ := hl
  refine settled_site.trans ?_
  rw [hteams, hgroups, hlaunch, hsaved, hmem, himages]

theorem newTeam_tid (no : Nat) : (newTeam (laid s src bs core L) L q no core).tid = s.nextTid := by
  have ht := takeParts_site (s := laid s src bs core L) (core := core) L.seq (pWays L.pkt) (pTbuf L.pkt) (pColb L.pkt)
  obtain ⟨banks, hl⟩ := laid_site (s := s) (core := core) (src := src) (bs := bs) (L := L)
  simp only [State.site, Prod.mk.injEq] at ht hl
  exact ht.1.2.2.trans hl.1.2.2

theorem bank_of_banks {u v : State} (h : (u.core core).banks = (v.core core).banks) (b : Nat) : u.bank core b = v.bank core b := by
  rw [State.bank, State.bank, h]

/-- The banks of a state whose banks are those laid for a new team. -/
theorem laid_banks {t : State} (h : (t.core core).banks = ((laid s src bs core L).core core).banks) :
    (∀ b, b < 8 → (pCb L.pkt).testBit b = true → BankCarries src bs s.nextTid b (t.bank core b)) ∧
    ∀ b, (pCb L.pkt).testBit b = false → t.bank core b = s.bank core b := by
  have hb := fun b => (bank_of_banks h b).trans (bank_layBanks (owner := s.nextTid) (src := src) (bs := bs) (banksOf (pCb L.pkt)) b s)
  refine ⟨fun b h8 hbit => ?_, fun b hbit => ?_⟩
  · rw [hb, if_pos (mem_banksOf.2 ⟨h8, hbit⟩)]
    exact newBank_carries _ _ _ _
  · rw [hb, if_neg fun hmem => by rw [(mem_banksOf.1 hmem).2] at hbit; cases hbit]

end

/-! ### The pass that places one team -/

/-- A launch with its moduli. -/
def Launch.given (L : Launch) (m : Moduli) : Launch := { L with moduli := some m }

/-- The first team of a plan, its banks laid. -/
def State.firstTeam (s : State) (L : Launch) (m : Moduli) (q : Plan) (src : Option (ImageRef × List Byte)) (bs : Nat → List Byte) (core : Nat) : Team :=
  newTeam (laid s src bs core (L.given m)) (L.given m) q 0 core

/-- What the pass leaves of a first team whose groups are formed in `b`. -/
structure Placed (s : State) (L : Launch) (m : Moduli) (q : Plan) (src : Option (ImageRef × List Byte)) (bs : Nat → List Byte) (core n : Nat)
    (st : Start) (images : List ImageSlot) (t : State) : Prop where
  runs : exec .schedulerPass s = .next t
  team : ∃ nb, t.teams = [(s.firstTeam L m q src bs core).withNb nb]
  launch : t.launch? L.seq = some (L.noted m q)
  slots : t.groups.map (fun g : Group => g.gslot) = (List.range n).filter fun i => decide (32 * i < q.items L)
  groups : ∀ g ∈ t.groups, g.gslot < n ∧
    ∃ u, g = itemGroup u (s.firstTeam L m q src bs core) L.pkt q.isChild (q.items L) st g.gslot
  banks : (∀ b, b < 8 → (pCb L.pkt).testBit b = true → BankCarries src bs s.nextTid b (t.bank core b)) ∧
    ∀ b, (pCb L.pkt).testBit b = false → t.bank core b = s.bank core b
  images : (t.core core).images = images
  mem : t.mem = s.mem

section
variable {q : Plan} {src : Option (ImageRef × List Byte)} {bs : Nat → List Byte} {n : Nat} {st : Start} {b : State} {images : List ImageSlot}

theorem placed_of_pass (ht : s.teams = []) (hg : s.groups = []) (hsv : s.saved = []) (hedf : edf s = [L]) (hL : s.launch? L.seq = some L)
    (ha : L.active = true) (hgang : pLinked L.pkt = false ∧ pSuper L.pkt = false) (hd : q ≠ .dawn) (hn : q.next L = 0)
    (hc : chooseCore s L.seq (planNeed L q 0) = some core) (hm : launchModuli s L = (s, some (some m)))
    (hp : nextPlan L = some q) (hdone : nextPlan (L.noted m q) = none)
    (hw : placeTeam s (L.given m) q 0 core =
      some (formItems (s.firstTeam L m q src bs core) L.pkt q.isChild (q.items L) st (List.range n) b))
    (hb : b.site core = ((s.teams ++ [s.firstTeam L m q src bs core], s.groups, s.nextTid + 1),
      (s.launches, s.saved, s.mem), ((laid s src bs core (L.given m)).core core).banks, images)) :
    ∃ t, Placed s L m q src bs core n st images t := by
  simp only [State.site, Prod.mk.injEq, ht, hg, hsv, List.nil_append] at hb
  obtain ⟨⟨hteams, hgroups, -⟩, ⟨hlaunch, hsaved, hmem⟩, hbanks, himages⟩ := hb
  generalize hf : formItems (s.firstTeam L m q src bs core) L.pkt q.isChild (q.items L) st (List.range n) b = w at hw
  have rest := placed_rest (t := s.firstTeam L m q src bs core) (st := st) (p := L.pkt) (child := q.isChild) (count := q.items L) (n := n) (b := b)
  have grouped := placed_groups (t := s.firstTeam L m q src bs core) (st := st) (p := L.pkt) (child := q.isChild) (count := q.items L) (n := n) rfl
    hgroups
  have teamed := placed_teams (t := s.firstTeam L m q src bs core) (st := st) (p := L.pkt) (child := q.isChild) (count := q.items L) (n := n) hteams
  rw [hf] at rest grouped teamed
  obtain ⟨wl, ws, wc, wm⟩ := rest
  obtain ⟨nb, hteam⟩ := teamed
  obtain ⟨nt, ng, -, nc, nm⟩ := notePlaced_rest (s := w) (L := L) (m := m) q
  have hcore : (notePlaced w L q m).core core = b.core core := congrArg (NMap.get CoreSt.reset core) (nc.trans wc)
  have hlq : w.launch? L.seq = some L := by rw [State.launch?, wl, hlaunch]; exact hL
  have pass := schedulerPass_places hd (by rw [hn]; exact hc) hm (by rw [hn]; exact hw) ht hsv hedf hL ha hp hgang (wl.trans hlaunch)
    (ws.trans hsaved) hdone
  exact ⟨_, congrArg Host.Outcome.next pass, ⟨nb, nt.trans hteam⟩, notePlaced_launch? hlq q, by rw [ng]; exact grouped.1,
    by rw [ng]; exact grouped.2, laid_banks (L := L.given m) (by rw [hcore]; exact hbanks), by rw [hcore]; exact himages, nm.trans (wm.trans hmem)⟩

end

/-- A grid of one team without a template (R58, R61, R114). -/
theorem placed_plain (ht : s.teams = []) (hg : s.groups = []) (hsv : s.saved = []) (hedf : edf s = [L]) (hL : s.launch? L.seq = some L)
    (ha : L.active = true) (hch : L.children = []) (hnext : L.next = 0) (hfr : L.frozen = true) (hi : L.image = none) (hmod : L.moduli = none)
    (hT : pT L.pkt = false) (hlink : pLinked L.pkt = false) (hsup : pSuper L.pkt = false) (hone : pTeams L.pkt = 1) (hpm : pModuli L.pkt = 0)
    (hc : chooseCore s L.seq (planNeed L .grid 0) = some core) :
    ∃ t, Placed s L Moduli.default .grid none (fun _ => []) core (rolesGroups (pRoles L.pkt)) (plainEntry L) (s.core core).images t := by
  have hm : launchModuli s L = (s, some (some Moduli.default)) := by
    unfold launchModuli readModuli
    simp only [hmod, hpm, if_true]
  have hd : (pT L.pkt && !L.dawnPlaced) = false := by rw [hT]; rfl
  have hp : nextPlan L = some .grid := by
    rw [nextPlan_childless (by rw [hch]; rfl) hd, if_pos ⟨hfr, by omega⟩]
  have hdone : nextPlan (L.noted Moduli.default .grid) = none := by
    refine (nextPlan_childless (L := L.noted Moduli.default .grid) ?_ hd).trans (if_neg ?_)
    · exact (congrArg (List.filter (waits (L.noted Moduli.default .grid))) hch).trans rfl
    · show ¬(L.frozen = true ∧ L.next + 1 < pTeams L.pkt)
      omega
  exact placed_of_pass ht hg hsv hedf hL ha ⟨hlink, hsup⟩ nofun hnext hc hm hp hdone (placeTeam_plain (L := L.given Moduli.default) hi)
    (seat_site (L := L.given Moduli.default) 0)

theorem withSlot_site {u : State} {A : List Team × List Group × Nat} {B : List Launch × List SavedTeam × List Host.Cell} {C : NMap Bank} {x : ImageSlot}
    (h : u.site core = (A, B, C, [])) : (u.withSlot core x).site core = (A, B, C, [x]) := by
  simp only [State.site, Prod.mk.injEq] at h
  obtain ⟨hA, hB, hC, hi⟩ := h
  simp only [State.site, State.withSlot, State.core_modCore_same, hi, List.nil_append, Prod.mk.injEq]
  exact ⟨hA, hB, hC, trivial⟩

/-- The first team of a templated grid, or of a child grid, is stamped from its image (R73, R74, R76, R80, R86). -/
theorem placed_stamped {q : Plan} {r : ImageRef} {hdr : List Byte} {src : Option (ImageRef × List Byte)} {bs : Nat → List Byte} (ht : s.teams = [])
    (hg : s.groups = []) (hsv : s.saved = []) (hedf : edf s = [L]) (hL : s.launch? L.seq = some L) (ha : L.active = true) (hmod : L.moduli = some m)
    (hgang : pLinked L.pkt = false ∧ pSuper L.pkt = false) (hd : q ≠ .dawn) (hn : q.next L = 0) (hi : q.image L = some r)
    (hp : nextPlan L = some q) (hdone : nextPlan (L.noted m q) = none) (hc : chooseCore s L.seq (planNeed L q 0) = some core)
    (himg : (s.core core).images = []) (hread : readImage s r 0 0x400 = (s, some hdr)) (hsrc : src.map Prod.fst = L.image)
    (hq : ∀ x, src = some x → readImage s x.1 0 0x400 = (s, some x.2)) (hgrid : q = .grid → src = some (r, hdr))
    (hbs : ∀ x b, src = some x → b < 8 → (pCb L.pkt).testBit b = true → (fieldN x.2 9 1).testBit b = true → ∀ cores,
      readImage { s with cores := cores } x.1 (4096 + 4096 * b) 4096 = ({ s with cores := cores }, some (bs b))) :
    ∃ t, Placed s L m q src bs core (rolesGroups (q.roles L)) (imageStart hdr (stampSlot r hdr)) [stampSlot r hdr] t := by
  have hm : launchModuli s L = (s, some (some m)) := by simp only [launchModuli, hmod]
  have hgiven : ∀ p : Plan, p.image (L.given m) = p.image L ∧ p.items (L.given m) = p.items L ∧ p.roles (L.given m) = p.roles L := by
    intro p
    cases p <;> exact ⟨rfl, rfl, rfl⟩
  obtain ⟨gi, gc, gr⟩ := hgiven q
  have hw := placeTeam_stamped (s := s) (core := core) (L := L.given m) (q := q) (no := 0) (bs := bs) hd (gi.trans hi) hread hsrc hq hgrid
    (fun x b hx hb => hbs x b hx (mem_banksOf.1 hb).1 (mem_banksOf.1 hb).2) himg
  rw [gc, gr] at hw
  refine placed_of_pass ht hg hsv hedf hL ha hgang hd hn hc hm hp hdone hw ?_
  have hs := seat_site (s := s) (core := core) (src := src) (bs := bs) (L := L.given m) (q := q) 0
  rw [himg] at hs
  exact withSlot_site hs

/-! ### The team's groups, one by one -/

/-- The roles of a new team: a templated one's reserves are not yet in use (R76). -/
theorem firstTeam_roles {q : Plan} {src : Option (ImageRef × List Byte)} {bs : Nat → List Byte} :
    (s.firstTeam L m q src bs core).roles = (q.roles (L.given m)).map fun r =>
      { r with reserve := if (q.image (L.given m)).isSome then r.reserve else 0, left := if (q.image (L.given m)).isSome then r.reserve else 0 } := rfl

theorem firstTeam_index {q : Plan} {src : Option (ImageRef × List Byte)} {bs : Nat → List Byte} {child : Bool} {level n : Nat} :
    itemIndex L.pkt (s.firstTeam L m q src bs core).roles child level n = itemIndex L.pkt (q.roles (L.given m)) child level n := by
  rw [firstTeam_roles]
  refine itemIndex_map ?_ _ _ _
  exact fun _ => rfl

theorem plain_group {u : State} {T : Team} {i : Nat} :
    let g := itemGroup u T L.pkt false (pItems L.pkt) (plainEntry L) i
    g.tid = T.tid ∧ g.live = itemMask (pItems L.pkt) i ∧ g.subs.map (fun u => (u.pc, u.mask, u.wait)) = [(pEntry L.pkt, g.live, .ready)] ∧
    g.sReg 0 = BitVec.ofNat 64 L.pktVa ∧ (∀ i, 0 < i → g.sReg i = 0) ∧ (∀ r l, g.lane r l = 0) ∧ g.k = 0 ∧
    ∀ l, g.live.getLsbD l = true → g.index l = itemIndex L.pkt T.roles false T.level (32 * i + l) := by
  refine ⟨rfl, rfl, rfl, NMap.get_set_same _ _ _ _, fun i hi => ?_, itemGroup_lane_plain rfl, rfl, fun l hl => itemGroup_index hl⟩
  exact (NMap.get_set_other _ (by omega) _ _).trans rfl

theorem stamped_group {u : State} {T : Team} {child : Bool} {count i : Nat} {r : ImageRef} {hdr : List Byte} :
    let g := itemGroup u T L.pkt child count (imageStart hdr (stampSlot r hdr)) i
    let field := fieldN hdr
    g.tid = T.tid ∧ g.live = itemMask count i ∧
    g.subs.map (fun u => (u.pc, u.mask, u.wait, u.calls, u.loops, u.lc)) = [(field 0 8, g.live, .ready, [], [], [0, 0, 0])] ∧
    g.priv = 0 ∧ (∀ w ∈ g.j, w = 0) ∧ g.k = BitVec.ofNat 7 (field 10 1) ∧
    (∀ i, i < 64 → g.sReg i = BitVec.ofNat 64 (field (512 + 8 * i) 8)) ∧
    (∀ i l, i < 60 → l < 32 → g.lane i l = BitVec.ofNat 32 (field (256 + 4 * i) 4)) ∧
    (∀ l, g.live.getLsbD l = true → g.predOf l = BitVec.ofNat 32 (field 12 4)) ∧
    ∀ l, g.live.getLsbD l = true → g.index l = itemIndex L.pkt T.roles child T.level (32 * i + l) := by
  refine ⟨rfl, rfl, rfl, rfl, itemGroup_j, rfl, fun i hi => ?_, fun r l hr hl => ?_, fun l hl => itemGroup_predOf hl, fun l hl => itemGroup_index hl⟩
  · exact (NMap.get_tab _ _ _ _).trans (if_pos hi)
  · refine (itemGroup_lane_stamped rfl hl).trans ?_
    show (imageV hdr).getD r 0 = _
    rw [imageV, List.getD_eq_getElem _ _ (by simpa using hr), List.getElem_map, List.getElem_range]

/-! ### The statement -/

/-- What is placed for a launch: its grid, or a child grid. -/
def planOf : Option ChildGrid → Plan
  | some k => .child k
  | none => .grid

/-- A first team's level. -/
def levelOf : Option ChildGrid → Nat
  | some k => k.level
  | none => 0

/-- Which team of the launch waits: the first of its one child grid, or the one of its grid. -/
def FirstTeam (L : Launch) (r : ImageRef) (hdr : List Byte) (src : Option (ImageRef × List Byte)) : Option ChildGrid → Prop
  | some k => L.children = [k] ∧ k.next = 0 ∧ childTeams L k = 1 ∧ k.image = r ∧ L.next = pTeams L.pkt
  | none => L.children = [] ∧ L.next = 0 ∧ pTeams L.pkt = 1 ∧ src = some (r, hdr)

section
variable {kid : Option ChildGrid} {r : ImageRef} {hdr : List Byte} {src : Option (ImageRef × List Byte)}

theorem planOf_facts (hk : FirstTeam L r hdr src kid) (hsrc : src.map Prod.fst = L.image) (hdp : L.dawnPlaced = true)
    (hfr : L.frozen = true) : planOf kid ≠ .dawn ∧ (planOf kid).next L = 0 ∧ (planOf kid).image L = some r ∧
      (planOf kid = .grid → src = some (r, hdr)) ∧ nextPlan L = some (planOf kid) ∧ nextPlan (L.noted m (planOf kid)) = none := by
  have hd : (pT L.pkt && !L.dawnPlaced) = false := by rw [hdp, Bool.not_true, Bool.and_false]
  cases kid with
  | none =>
    obtain ⟨hch, hnext, hone, rfl⟩ := hk
    refine ⟨nofun, hnext, hsrc.symm, fun _ => rfl, ?_, ?_⟩
    · rw [nextPlan_childless (by rw [hch]; rfl) hd, if_pos ⟨hfr, by omega⟩]
      rfl
    · refine (nextPlan_childless (L := L.noted m .grid) ?_ hd).trans (if_neg ?_)
      · exact (congrArg (List.filter (waits (L.noted m .grid))) hch).trans rfl
      · show ¬(L.frozen = true ∧ L.next + 1 < pTeams L.pkt)
        omega
  | some k =>
    obtain ⟨hch, hnext, hone, rfl, hdone⟩ := hk
    refine ⟨nofun, hnext, rfl, nofun, nextPlan_child ?_, ?_⟩
    · rw [hch]
      exact List.filter_cons_of_pos (decide_eq_true (by omega))
    · refine (nextPlan_childless (L := L.noted m (.child k)) ?_ hd).trans (if_neg ?_)
      · have hkids : (L.noted m (.child k)).children = [{ k with next := k.next + 1, live := k.live + 1 }] := by
          show L.children.map _ = _
          rw [hch, List.map_singleton, if_pos (beq_self_eq_true _)]
        rw [hkids]
        refine List.filter_cons_of_neg ?_
        show ¬decide (k.next + 1 < childTeams L k) = true
        rw [decide_eq_true_iff]
        omega
      · show ¬(L.frozen = true ∧ L.next < pTeams L.pkt)
        omega

theorem planOf_roles : (planOf kid).roles L = pRoles L.pkt := by cases kid <;> rfl
theorem planOf_isChild : (planOf kid).isChild = kid.isSome := by cases kid <;> rfl

/-- The fields of a first team that the plan and the launch give. -/
theorem firstTeam_fields {bs : Nat → List Byte} : (s.firstTeam L m (planOf kid) src bs core).tid = s.nextTid ∧
    (s.firstTeam L m (planOf kid) src bs core).kind = .grid ∧ (s.firstTeam L m (planOf kid) src bs core).level = levelOf kid ∧
    (s.firstTeam L m (planOf kid) src bs core).child = (kid.map ChildGrid.id).getD 0 ∧
    (s.firstTeam L m (planOf kid) src bs core).image = (planOf kid).image L := by
  refine ⟨newTeam_tid 0, ?_⟩
  cases kid <;> exact ⟨rfl, rfl, rfl, rfl⟩

theorem firstTeam_stampedRoles {bs : Nat → List Byte} (hi : (planOf kid).image L = some r) :
    (s.firstTeam L m (planOf kid) src bs core).roles = (pRoles L.pkt).map fun x => { x with left := x.reserve } := by
  have hi' : (planOf kid).image (L.given m) = some r := by cases kid <;> exact hi
  rw [firstTeam_roles, hi', planOf_roles]
  rfl

/-- Where the work items stand of a lane of a first team. -/
theorem firstTeam_place {bs : Nat → List Byte} {child : Bool} {level i l : Nat} (hi : i < rolesGroups ((planOf kid).roles L)) (hl : l < 32) :
    let x := itemIndex L.pkt (s.firstTeam L m (planOf kid) src bs core).roles child level (32 * i + l)
    x.lin = 32 * i + l ∧ x.fib = 32 * i + l ∧ x.team = 0 ∧ x.level = level := by
  have hroles : (planOf kid).roles (L.given m) = pRoles L.pkt := planOf_roles
  rw [planOf_roles] at hi
  rw [firstTeam_index, hroles]
  refine itemIndex_first ?_
  rw [teamFibres]
  omega

end

/-- The group that a first team has in a slot, by the slot. -/
theorem Placed.group {q : Plan} {src : Option (ImageRef × List Byte)} {bs : Nat → List Byte} {n : Nat} {st : Start} {images : List ImageSlot} {t : State}
    (P : Placed s L m q src bs core n st images t) {g : Group} (hg : g ∈ t.groups) :
    ∃ i u, i < n ∧ g = itemGroup u (s.firstTeam L m q src bs core) L.pkt q.isChild (q.items L) st i := by
  obtain ⟨hi, u, e⟩ := P.groups g hg
  exact ⟨_, u, hi, e⟩

/-- Settles O28: the idle pass, the plain grid and the stamped team by what `Placed` says of the one team's groups, and one bank by itself. -/
theorem placement : Obligations.Placement := by
  unfold Obligations.Placement
  refine ⟨fun s he ht => congrArg Host.Outcome.next (schedulerPass_idle he ht), ?_, ?_, ?_⟩
  · intro s L core ht hg hsv hedf hL ha hch hnext hlive hfr hi hmod hT hlink hsup hone hpm hc
    obtain ⟨t, P⟩ := placed_plain ht hg hsv hedf hL ha hch hnext hfr hi hmod hT hlink hsup hone hpm hc
    obtain ⟨nb, hteam⟩ := P.team
    have htid : (s.firstTeam L Moduli.default .grid none (fun _ => []) core).tid = s.nextTid := newTeam_tid 0
    refine ⟨t, P.runs, ?_, ?_, P.slots, fun g hg => ?_, P.banks.1, P.banks.2, P.mem⟩
    · rw [hteam, List.map_singleton, ← htid]
      rfl
    · rw [P.launch]
      show some (L.active, L.next + 1, L.live + 1, true) = _
      rw [ha, hnext, hlive]
    · obtain ⟨i, u, -, rfl⟩ := P.group hg
      obtain ⟨gt, live, subs, s0, sn, lane, k, index⟩ := plain_group (L := L) (u := u)
        (T := s.firstTeam L Moduli.default .grid none (fun _ => []) core) (i := i)
      exact ⟨gt.trans htid, live, subs, s0, sn, lane, k, fun l hl => (index l hl).trans firstTeam_index⟩
  · intro s L core kid r hdr m src bs ht hg hsv hedf hL ha hT hdp hfr hmod hlink hsup plan count lvl hk hc himg hread hsrc hq hbs field
    have hplan : plan = planOf kid := by cases kid <;> rfl
    have hlvl : lvl = levelOf kid := by cases kid <;> rfl
    have hk : FirstTeam L r hdr src kid := by cases kid <;> exact hk
    clear_value plan lvl
    subst hplan hlvl
    obtain ⟨hd, hn, hi, hgrid, hp, hdone⟩ := planOf_facts (m := m) hk hsrc hdp hfr
    obtain ⟨t, P⟩ := placed_stamped ht hg hsv hedf hL ha hmod ⟨hlink, hsup⟩ hd hn hi hp hdone hc himg hread hsrc hq hgrid
      fun x b hx h8 hb hf => hbs x b hx h8 hb hf
    rw [planOf_roles] at P
    obtain ⟨nb, hteam⟩ := P.team
    obtain ⟨htid, hkind, hlevel, hchild, himage⟩ := firstTeam_fields (s := s) (L := L) (m := m) (kid := kid) (src := src) (bs := bs) (core := core)
    refine ⟨t, P.runs, ?_, ?_, P.images, P.slots, fun g hg => ?_, P.banks.1, P.banks.2, P.mem⟩
    · rw [hteam, List.map_singleton, ← htid, ← hkind, ← hlevel, ← hchild, ← hi, ← himage]
      rfl
    · rw [hteam, List.map_singleton]
      exact congrArg (fun x => [x]) (firstTeam_stampedRoles (s := s) (m := m) (src := src) (bs := bs) (core := core) hi)
    · obtain ⟨i, u, hin, rfl⟩ := P.group hg
      obtain ⟨gt, live, subs, priv, j, k, regs, lanes, pred, index⟩ := stamped_group (L := L) (u := u) (r := r) (hdr := hdr)
        (T := s.firstTeam L m (planOf kid) src bs core) (child := (planOf kid).isChild) (count := (planOf kid).items L) (i := i)
      refine ⟨gt.trans htid, live, subs, priv, j, k, regs, lanes, pred, fun l hl => ?_⟩
      have hx := index l hl
      have hplace := firstTeam_place (s := s) (L := L) (m := m) (kid := kid) (src := src) (bs := bs) (core := core) (child := (planOf kid).isChild)
        (level := levelOf kid) (by rw [planOf_roles]; exact hin) (itemGroup_lane_lt hl).1
      rw [hlevel] at hx
      rw [← hx] at hplace
      obtain ⟨lin, fib, team, level⟩ := hplace
      refine ⟨lin, fib, team, level, fun hkid => ?_⟩
      have hc : (planOf kid).isChild = true := planOf_isChild.trans hkid
      rw [hc] at hx ⊢
      exact ⟨congrArg Index.x hx, congrArg Index.y hx, congrArg Index.z hx⟩
  · intro s s1 owner core b r hdr bs hread hbit
    have e : loadBanks owner (some r) hdr core [b] s = (s1.setBank core b (carriedBank owner hdr bs b), true) := loadBanks_cons_carried hbit hread
    have hb : ((loadBanks owner (some r) hdr core [b] s).1).bank core b = carriedBank owner hdr bs b := by
      rw [e, bank_setBank, if_pos rfl]
    exact ⟨by rw [e], by rw [hb]; rfl, by rw [hb]; rfl, by rw [hb]; rfl, fun i hi => by rw [hb]; exact entry_carriedBank hi⟩

end Sys2Proof.Machine
end
